-- ==== Sys2Proof/Word.lean ====
section
/-! DEFINITION. The plain word types of the model and the places of the module (R4, R5, R22, R27). -/

namespace Sys2Proof

/-- One byte. -/
abbrev Byte := BitVec 8

/-- A run of bytes, lowest offset first. -/
abbrev Bytes := List Byte

/-- A 32-bit word: a scalar register, a vector lane, a register of the control network. -/
abbrev Word := BitVec 32

/-- A field, F0 to F47 (R4). -/
abbrev Field := Fin 48

/-- A host port, J-HOST0 to J-HOST3 (R35). -/
abbrev HostPort := Fin 4

/-- A cascade port in the numbering of CK_ID.PORT: 0 N, 1 E, 2 S, 3 W (R435). -/
abbrev CascPort := Fin 4

/-- A quad of a cascade port (R420). -/
abbrev Quad := Fin 8

/-- A compute site: its field and its chain index (R22). -/
structure SiteAddr where
  field : Field
  site  : Fin 74
deriving DecidableEq, Repr

/-- A physical cell: field, chain index of its site, physical index y * 6 + x (R27, CE_ID). -/
structure CellAddr where
  field : Field
  site  : Fin 74
  phys  : Fin 18
deriving DecidableEq, Repr

/-- A router: its field and the home index of its logical cluster (R21, R22). -/
structure RouterAddr where
  field : Field
  home  : Fin 72
deriving DecidableEq, Repr

/-- A logical cell inside a field: cluster index CLY * 9 + CLX and cell index CY * 4 + CX (R5, R290). -/
structure LogCell where
  cl   : Fin 72
  cell : Fin 16
deriving DecidableEq, Repr

end Sys2Proof
end

