-- ==== Sys2Proof/Syntax.lean ====
section
/-! DEFINITION. The commands of the block, one constructor for each row of spec/opcode_table.json, and the data
their operands carry. The table gives the rows no operands and no bits; the operands are those the rows' rules
speak of: the place of the event, what the environment measures or sends, and the body of a message. Log entry 8. -/

namespace Sys2Proof

/-- What the inner code of an array finds in a word it reads (R207, R226): one bit, or an uncorrectable word. -/
inductive CodeError where
  | single
  | uncorrectable
deriving DecidableEq, Repr

/-- A check of the arithmetic stages that fails (R123, R124, R171). -/
inductive StageCheck where
  | residue
  | fp
deriving DecidableEq, Repr

/-- One failed check of a bundle's arithmetic (R123, R124, R171): the slot (0 M, 1 V, 2 X, 3 N), the kind of check, and what
it touches: a lane of the V slot, an element of the tile (column * 64 + row) of the M and N slots. -/
structure CheckFail where
  slot  : Fin 4
  kind  : StageCheck
  place : Nat
deriving DecidableEq, Repr

/-- A bit of a root or level word that has flipped (R124): tile, column, row, the word (0 to 7 a level, 8 the root) and the
bit (0 to 39 the word's, 40 and 41 its parity bits). -/
structure TileUpset where
  tile : Nat
  col  : Nat
  row  : Nat
  word : Fin 9
  bit  : Fin 42
deriving DecidableEq, Repr

/-- What one bundle issue meets in the arrays it reads and in its arithmetic. -/
structure IssueEnv where
  /-- error of the instruction-store word (R81). -/
  fetch : Option CodeError := none
  /-- errors of scratchpad words read by this issue: word address (byte address / 4) and kind (R207). -/
  words : List (Nat × CodeError) := []
  /-- the checks of R123, R124 and R171 that fail for this bundle's arithmetic. -/
  checks : List CheckFail := []
  /-- bits of the accumulator tiles that have flipped by this issue (R124). -/
  upsets : List TileUpset := []
deriving DecidableEq, Repr

/-- What the codes of the cistern find in one line: words the inner code corrected, symbols wrong without a flag, and
words reported uncorrectable, each word four erasures (R226, R227). -/
structure LineError where
  line    : Nat
  inner   : Nat := 0
  errors  : Nat := 0
  erasedWords : Nat := 0
deriving DecidableEq, Repr

/-- The commands that a wafer-manager core sends to a field controller to change state (R512). -/
inductive FcCmd where
  | publish (chan : Fin 16) (value : BitVec 4)
  | writeRegister (addr : BitVec 64) (value : BitVec 128)
  | goDark
  | markHole
deriving DecidableEq, Repr

/-- The sensor readings of one field in one on-wafer round, in 0.125 °C (R466): 74 site diodes, 74 ring
oscillators, 6 positions on DRAM layer 1 and 6 on layer 3. -/
structure FieldSensors where
  field : Field
  diode : List Nat
  ring  : List Nat
  dram1 : List Nat
  dram3 : List Nat
deriving DecidableEq, Repr

/-- One tray round over I3C (R466, R518); a channel with no valid reading is `none` (R468). -/
structure TrayReading where
  inlet   : Option Nat
  outlet  : Option Nat
  flow    : Option Nat
  hostCmd : Byte
deriving DecidableEq, Repr

/-- What one ageing monitor of a field reports (R482): the oscillator slowdown in 0.1 %, the retention margin in %,
and the end-of-life figure of the monitor in months. -/
inductive AgeMonitor where
  | ring | duty | bond | dram
deriving DecidableEq, Repr

/-- What the start-up finds in the memories it reads and the parts it brings up (R519, R521). -/
structure StartupEnv where
  /-- a boot set passes the checks of R531, and the bank it lies in (R532). -/
  bootSet     : Option Bool
  /-- tray EEPROM read and CRC right (R521). -/
  trayOk      : Bool
  trayPosition : BitVec 2
  /-- POS1 POS0 as sampled in step 2 (R551). -/
  straps      : BitVec 2
  refclkFlag  : Bool
  refclk      : Bool
  minFlow     : Nat
  maxInlet    : Nat
  /-- the last three tray rounds (R519). -/
  rounds      : List TrayReading
  /-- cold-plate serial equals the one in OTP. -/
  plateOk     : Bool
  /-- converters of unknown model or not working: field and converter (R521). -/
  badConverters : List (Field × Fin 2)
  badAux      : List (Fin 4)
  /-- channels that failed training: site and channel, true = B (R234). -/
  badChannels : List (SiteAddr × Bool)
  /-- floors F measured at start-up for both clocks (R450). -/
  floorBase   : Nat
  floorBoost  : Nat
  /-- locked PTP time in ticks at the aligned beat that sets board time (R42). -/
  ptpTicks    : Option Nat
  /-- in compatibility mode: defective cells and sites the neighbour test finds (R504). -/
  testCells   : List CellAddr
  testSites   : List SiteAddr
deriving DecidableEq, Repr

/-- One task record of the cell map, IBASE relative to its zone (R84, R273, R288). -/
structure TaskRec where
  valid  : Bool
  ibase  : Nat
  ibound : Nat
  sbase  : Nat
  sbound : Nat
  cbase  : Nat
  cbound : Nat
deriving DecidableEq, Repr

/-- One logical cell of a cell-map section (R273 type 2). -/
structure CellMapRec where
  place    : LogCell
  /-- kind the program was compiled for: true = P-cell (R21). -/
  pKind    : Bool
  block    : Nat
  tasks    : List TaskRec
  startSeg : Nat
  run      : Bool
  tallyEn  : Bool
  segMask  : BitVec 16
  /-- cache area in 64 KiB steps and its partitions: task and steps (R198). -/
  cacheZ   : Nat
  parts    : List (Nat × Nat)
  idle     : Nat
  /-- resident units, physical, as the loader derives them (R493). -/
  resident : List Nat
deriving DecidableEq, Repr

/-- How the cistern map gives the place of an access (R221). -/
inductive AccessPlace where
  | derived
  | declared (chanB : Bool) (bankGroup : Fin 8) (bank : Fin 4)
  | wild
deriving DecidableEq, Repr

/-- One access of the cistern map (R216 to R219): the segment entry it belongs to, the bundle and issue cycle that
make it, the burst of the request, its channel and activation slot, and the landing cycles of its lines. -/
structure AccessRec where
  entry   : Nat
  issue   : Nat
  burst   : Nat
  chanB   : Bool
  slot    : Nat
  write   : Bool
  place   : AccessPlace
  landing : List Nat
deriving DecidableEq, Repr

/-- The segment-table section of one logical cell (R273 type 3). -/
structure SegRec where
  place   : LogCell
  entries : List (Nat × BitVec 128)
  map     : List AccessRec
  /-- scalar register values at entry (R192): entry, register, value. -/
  regs    : List (Nat × Nat × Word)
  /-- restore-kind masks: task-relative bundle address and mask (R165). -/
  restore : List (Nat × BitVec 64)
deriving DecidableEq, Repr

/-- The route table of one logical cell (R273 type 4, R243). -/
structure RouteRec where
  place   : LogCell
  entries : List (Nat × BitVec 64)
deriving DecidableEq, Repr

/-- The reduction tables of one logical cluster (R273 type 5): contributor masks by tree and node entries (R252, R253). -/
structure RedRec where
  cl     : Fin 72
  masks  : List (Nat × BitVec 16)
  nodes  : List (Nat × BitVec 64)
deriving DecidableEq, Repr

/-- The weirs of one router and the barrier masks of its cluster (R273 type 6): output, plane and 64 tenant codes
(R247); barrier tree and member mask (R264). -/
structure WeirRec where
  cl       : Fin 72
  weirs    : List (Fin 4 × Fin 4 × List (BitVec 2))
  barriers : List (Nat × BitVec 16)
deriving DecidableEq, Repr

/-- A section of a variant for one field: its key (R274) and its content. -/
structure Keyed (α : Type) where
  key     : BitVec 16
  field   : Nat
  content : α
deriving DecidableEq, Repr

/-- A region record (R289). -/
structure RegionRec where
  symbol : Nat
  kind   : Nat
  place  : Nat
  length : Nat
  base   : Nat
  fields : BitVec 48
  tag    : Word
deriving DecidableEq, Repr

/-- A relocation record (R290). -/
structure RelocRec where
  type   : Nat
  symbol : Nat
  task   : Nat
  target : Word
  addr   : Nat
  addend : Int
deriving DecidableEq, Repr

/-- What a schedule runs (R313). -/
inductive SchedKind where
  | chunk (bucket : Fin 5)
  | plain
  | spec
deriving DecidableEq, Repr

/-- One schedule of the serving tables (R313), with FIRST and LAST of R382 by layer. -/
structure Schedule where
  number : Nat
  kind   : SchedKind
  length : Nat
  first  : List Nat
  last   : List Nat
deriving DecidableEq, Repr

/-- A mailbox or outbox area (R310): field, logical cell, task and base unit. -/
structure IoArea where
  field : Field
  place : LogCell
  task  : Nat
  base  : Nat
deriving DecidableEq, Repr

/-- One page of a page set (R330). -/
structure PageRec where
  field : Field
  cl    : Fin 72
  layer : Nat
  head  : Nat
  lane  : Nat
deriving DecidableEq, Repr

/-- A page pool (R330): region symbol, FMT (true = 4-bit), stride in lines, slots per lane, lanes, pages of a set. -/
structure PagePool where
  symbol : Nat
  fmt4   : Bool
  stride : Nat
  slots  : Nat
  lanes  : Nat
  pages  : List PageRec
deriving DecidableEq, Repr

/-- Where the token history of one request-table index begins (R340). -/
structure HistoryRec where
  index : Nat
  field : Field
  cl    : Fin 72
  line  : Nat
deriving DecidableEq, Repr

/-- The serving tables (R273 type 9, R313). -/
structure ServingTables where
  vocab     : Nat
  schedules : List Schedule
  intake    : List IoArea
  output    : List IoArea
  /-- a continuation set for speculation is present (R307, R323). -/
  contSet   : Bool
  /-- token columns a step of proportional regions serves (R316). -/
  columns   : Nat
  pools     : List PagePool
  history   : List HistoryRec
deriving DecidableEq, Repr

/-- The entries one form of a layer writes into one cell's segment table (R277). -/
structure FormEntry where
  field : Field
  place : LogCell
  entry : Nat
  value : BitVec 128
deriving DecidableEq, Repr

/-- The shadow of a layer for one cell (R277, R358): the wide shadow region it lies in, by its symbol, and the line of its
first block with the stride of the blocks. -/
structure ShadowRec where
  field  : Field
  place  : LogCell
  symbol : Nat
  line   : Nat
  stride : Nat
deriving DecidableEq, Repr

/-- One record of the precision table (R277, R365 "Recipes"). -/
structure LayerRec where
  layer   : Nat
  wideFmt : BitVec 3
  t       : Word
  n       : Word
  narrow  : List FormEntry
  wide    : List FormEntry
  shadow  : List ShadowRec
  extra   : List Nat
deriving DecidableEq, Repr

/-- The power map of a variant (R273 type 8, R204, R448): the field domains it uses, the segment masks of cells, and the
fields that an activation of the variant wakes. -/
structure PowerMap where
  on    : BitVec 48
  masks : List (Field × LogCell × BitVec 16) := []
  wakes : BitVec 48 := 0
deriving DecidableEq, Repr

/-- The sections of one board position as the loader decodes them (R273). The manual says what these sections hold and lays
out their entries, but not how a section numbers and delimits them, so what the loader decodes is an operand of the check; the
sections that are laid out to the byte, the header, the directory, the region table and the relocation records, are read from
the file itself, and so are the keys, positions and fields under which the directory lists each section (log entry 6). -/
structure PlanSections where
  /-- the code blocks, each the 16-byte images of its bundles one after the other (R127). -/
  blocks    : List (Keyed (List Bytes)) := []
  cells     : List (Keyed (List CellMapRec)) := []
  segs      : List (Keyed (List SegRec)) := []
  routes    : List (Keyed (List RouteRec)) := []
  reds      : List (Keyed (List RedRec)) := []
  weirs     : List (Keyed (List WeirRec)) := []
  power     : List (Keyed PowerMap) := []
  serving   : List (Keyed ServingTables) := []
  precision : List (Keyed (List LayerRec)) := []
  /-- cascade tables: port, rid and entry (R425). -/
  cascade   : List (Keyed (List (CascPort × Nat × BitVec 64))) := []
  /-- the fixed regions do not match the weight layout, of which the file holds only the digest (R289, log entry 16). -/
  layoutWrong : Bool := false
deriving DecidableEq, Repr

/-- The content of a plan file for one board position: its sections with the region table and the relocation records, which
the loader reads from the bytes of the file (R273, R289, R290). -/
structure PlanBody extends PlanSections where
  regions   : List RegionRec := []
  relocs    : List (Keyed (List RelocRec)) := []
deriving DecidableEq, Repr

/-- A kernel of a test pack (R508). -/
structure Kernel where
  number  : Nat
  pKind   : Bool
  bundles : List (BitVec 128)
  input   : Bytes
  digest  : BitVec 256
deriving DecidableEq, Repr

/-- A test pack as decoded (R508): the table from code and cause to kernel numbers, and the kernels. -/
structure TestPack where
  version : Word
  table   : List (Nat × Nat × Nat)
  kernels : List Kernel
deriving DecidableEq, Repr

/-- What a received Ethernet frame carries, as the port sorts it (R390, R394 to R396, R412). -/
structure Frame where
  pcp          : BitVec 3
  /-- codewords that FEC corrected, and those that it could not correct (R390). -/
  corrected    : Nat
  uncorrectable : Nat
  length       : Nat
  /-- RoCE v2 packet (discarded by an isolated port, R415) and its destination QP. -/
  roce         : Option Nat
  /-- ECN field reads CE (R396). -/
  ce           : Bool
  /-- a request that the transport does not support: an atomic, immediate data, a memory window, an invalidation (R391). -/
  unsupported  : Bool := false
deriving DecidableEq, Repr

/-- How the plaintext of a shard reaches its slices: whether every follower has its bytes (R378, R379), and the 4,096-byte segments,
counted from the shard's first, whose bytes no longer match the check value stored beside them (R408, R409). -/
structure ShardDelivery where
  followersDone : Bool := true
  damaged       : List Nat := []
deriving DecidableEq, Repr

/-- The unit that a proof run tests: a cell, or the assay unit of a cluster (R509). -/
inductive ProofTarget where
  | cell (c : CellAddr)
  | assay (s : SiteAddr)
deriving DecidableEq, Repr

/-- The scope of a dump (R536). -/
inductive DumpScope where
  | module
  | field (f : Field)
  | site (s : SiteAddr)
  | cells (cs : List CellAddr)
deriving DecidableEq, Repr

/-- Codewords of a flit that FEC corrected, and those that it could not correct (R424, R435). -/
structure FecCount where
  corrected     : Nat := 0
  uncorrectable : Nat := 0
deriving DecidableEq, Repr

/-- A step result read from an outbox and not yet reported: the board's stroke in which it was read and the position of the module that
read it (R312, R429, R491). -/
structure OutResult where
  index  : Nat
  tokens : List Word
  position : Nat
  error  : Option Word
  /-- a poisoned word of the parcel, or a header or index that is poisoned: then every request of the step is meant. -/
  poison : Bool
  all    : Bool := false
  pkind  : Bool
  stroke : Nat := 0
  src    : Nat := 0
deriving DecidableEq, Repr

/-- What a VC1 or VC2 message carries (R423, R429, R45, R61). -/
inductive VcContent where
  | trim (epoch : BitVec 48) (t : Int)
  /-- a follower's demand in ticks, whether its headroom allows boost, and whether its fields are awake for the activation due
  (R61, R62, R448). -/
  | demand (ticks : Nat) (headroom awake : Bool)
  /-- the master names the period of an epoch, the step of boost (0 none, 1 entering, 2 in boost, 3 leaving) and whether the
  cells begin anew (R61). -/
  | period (ticks boost : Nat) (anew : Bool) (epoch : BitVec 48)
  /-- an event or activation by its code, its data and its epoch; code 0 is the admission of a follower. -/
  | epochName (kind : Nat) (data : List Nat) (epoch : BitVec 48)
  /-- an event or activation named before no longer stands for its epoch (R54, R57, R298). -/
  | cancelName (kind : Nat) (data : List Nat) (epoch : BitVec 48)
  /-- a follower asks its master to name an activation of the wafer manager's own (R557). -/
  | ownDue (kind : Nat) (data : List Nat)
  /-- a field of a position is lost, and a module has staged the hole variant for it (R297). -/
  | fieldLost (w : BitVec 2) (f : Field)
  | variantStaged
  /-- the master lost the reference: its followers prime again (R41). -/
  | primeAgain
  /-- the master names what its followers publish on channel 14 or 15, and in which stroke (R429). -/
  | dispatch (chan : Fin 16) (value : BitVec 4) (stroke : Nat)
  /-- a mailbox parcel of the master for a follower, by its number, and the follower's word that it is written (R311, R334, R429). -/
  | parcel (number type index : Nat) (payload : Bytes)
  | parcelTaken (number : Nat)
  /-- what a follower read from an outbox, and an acceptance count that its replica published (R324, R429). -/
  | outbox (o : OutResult)
  | accepted (v : Nat)
  /-- the manifest of a load, the bytes of a shard for a follower by their image offsets, and the end of a load without a set
  (R378, R379). -/
  | manifest (bytes : Bytes)
  | shard (index : Nat) (pieces : List (Nat × Bytes))
  | loadGone (status : Nat)
  /-- a replica of multiply mode has stopped, or runs again (R430). -/
  | replica (runs : Bool)
  | faultReport (severity : Nat) (stroke : BitVec 60)
  /-- a follower's fatal-request record ends the work that was in progress in a stroke on the D-fields, the P-fields or both (R494). -/
  | endWork (onP onD : Bool) (stroke : BitVec 60)
  /-- a firmware activation fails: it is cancelled before its epoch, or reverted after it, on every module (R534). -/
  | firmwareOff
  /-- the master has entered Poised (0), Held (2), Banked (3) or Dry (4), or leaves the state in which it stands (1): its board follows
  (R458, R460). -/
  | ladder (target : Nat)
  | commitReport (txn : BitVec 16) (ok : Bool)
  | partner (serial : BitVec 128) (stepping : Word)
deriving DecidableEq, Repr

/-- A message on a cascade quad's VC1 or VC2: sender, destination and content (R423). -/
structure VcMessage where
  src     : BitVec 2
  dst     : BitVec 2
  content : VcContent
deriving DecidableEq, Repr

/-- Returned far-tier data (R350): the bytes of the header, of the history, and of each page with its trailer. -/
structure FarTierData where
  header  : Bytes
  history : Bytes
  pages   : List Bytes
deriving DecidableEq, Repr

/-- A source read of a `route.get` at its far side: which waiting request is served, and the words of the cell's scratchpad that
the codes find in error there (R209). -/
structure SourceRead where
  get   : Nat
  found : List (Nat × CodeError) := []
deriving DecidableEq, Repr

/-- The commands of the block: the rows of spec/opcode_table.json, in the table's order. -/
inductive Instr where
  | refclkTick
  | syncBeatEdge
  | missedBeat
  | referenceLoss
  | referenceReturn
  | tickRealign
  | strokeStart
  | curbStroke
  | callTick
  | bundleIssue (c : CellAddr) (env : IssueEnv)
  | issueDeadline (c : CellAddr)
  | resultDelivery (c : CellAddr) (cycle : Fin 512)
  | cacheFill (c : CellAddr)
  | slackBackground (c : CellAddr) (cycles : Fin 65) (found : List (Nat × CodeError))
  | mailboxWrite (c : CellAddr) (slack : Nat)
  | outboxRead (c : CellAddr)
  | cisternAccessStart (s : SiteAddr) (chanB : Bool) (found : List LineError)
  | lineLanding (s : SiteAddr) (index : Nat)
  | refreshCommand (s : SiteAddr) (slot : Nat)
  | cisternScrub (s : SiteAddr) (chanB : Bool) (found : List LineError)
  | backgroundTransfer (s : SiteAddr) (found : List LineError)
  | flitArrival (index : Nat) (wire : BitVec 600)
  | routeUnitArrival (index : Nat)
  | routeGetSourceRead (index : SourceRead)
  | reductionNodeCombine (r : RouterAddr) (entry : Fin 256) (unit : Fin 64) (check : Option StageCheck)
  | selectorPostArrival (index : Nat)
  | selectorPublication (chan : Fin 16) (field : Field) (crcOk : Bool)
  | fcCommand (f : Field) (cmd : FcCmd) (crcOk : Bool)
  | controlRegisterAccess (addr : BitVec 64) (write : Option (BitVec 128))
  | fuseOpen (f : Field)
  | fieldHoleMark (f : Field)
  | holeVariantStaged
  | converterFailure (f : Field) (i : Fin 2)
  | auxConverterFailure (i : Fin 4)
  | phaseFailure (s : SiteAddr) (array : Bool) (i : Fin 4)
  | phaseShareTest (s : SiteAddr) (logic : List Nat) (array : List Nat)
  | droopStretch (s : SiteAddr)
  | inputVoltageExcursion (centivolts : BitVec 16) (ticks : Nat)
  | powerSample (main : List (Nat × Nat)) (aux : List Nat) (amps : List Nat)
  | wakeStep (f : Field)
  | cappingLatch
  | ptpServo
  | ptpSyncExchange (seconds nanoseconds : Nat) (offsetNs : Int)
  | ptpSyncTimeout
  | onWaferRound (readings : List FieldSensors) (missedPolls : List Field)
  | trayRound (r : TrayReading)
  | forcedPoise
  | graceEnd
  | analogTrip (f : Field) (dram : Bool)
  | ageingMeasurement (f : Field) (m : AgeMonitor) (value : Nat) (months : Nat)
  | thClearShutdown
  | pwrEnLow
  | modResetAssert
  | modResetRelease (env : StartupEnv)
  | channelTraining (s : SiteAddr) (aOk bOk : Bool)
  | poisedExit
  | ladderLeave (tag : Option (BitVec 16)) (epoch : BitVec 48)
  | ladderHeld (tag : Option (BitVec 16)) (epoch : BitVec 48)
  | ladderBanked (tag : Option (BitVec 16)) (epoch : BitVec 48)
  | ladderDry (tag : Option (BitVec 16)) (epoch : BitVec 48)
  | heldExit
  | bankedExit
  | dryExit
  | draw
  | indexReadComplete (data : Option Bytes)
  | descriptorReadComplete (data : Option (List Bytes))
  | promptReadComplete (index : Nat) (tokens : List Word)
  | promptReadFailure (index : Nat)
  | completionRecordWrite (egressFails : Nat)
  | ttlExpiry (conv : BitVec 64)
  | farTierCopy (poisonedPages : Bool) (egressFails : Nat)
  | farTierWriteComplete (ok : Bool) (headerDone : Bool)
  | farTierReadComplete (index : Nat) (data : Option FarTierData)
  | wideRecompute (s : SiteAddr)
  | sampleAbandon (s : SiteAddr)
  | planCheckComplete (files : List PlanSections) (corrupt : Option HostPort)
  | planStagingComplete
  | rotationDue
  | rotationIdleCheck
  | rotationRetry
  | shardArrival (index : Nat) (ciphertext : Bytes) (delivery : ShardDelivery)
  | shardTimeout (index : Nat)
  | installComplete
  | swapLate
  | swapEnd
  | ethernetFrameReceive (p : HostPort) (frame : Frame)
  | pfcPauseReceive (p : HostPort) (pcp : BitVec 3) (pause : Bool)
  | cnpReceive (p : HostPort) (qp : Fin 512)
  | rateRecovery (p : HostPort) (qp : Fin 512)
  | connectionRequest (p : HostPort) (gid : BitVec 128) (mtu : Nat)
  | rdmaWritePacket (p : HostPort) (qp : Fin 512) (rkey : Word) (offset : Nat) (data : Bytes) (first last : Bool)
  | rdmaReadWindow (p : HostPort) (qp : Fin 512) (rkey : Word) (offset length : Nat)
  | windowCloseTimeout (w : Fin 4)
  | linkDown (p : HostPort)
  | linkUp (p : HostPort) (assembly : Bool) (copper : Bool)
  | readRegisters (tag : BitVec 16) (addr : BitVec 64) (count : Nat)
  | stageWrite (tag : BitVec 16) (txn : BitVec 16) (addr : BitVec 64) (value : BitVec 64)
  | openTransaction (tag : BitVec 16)
  | commitTransaction (tag : BitVec 16) (txn : BitVec 16) (epoch : BitVec 48) (board : Bool)
  | abortTransaction (tag : BitVec 16) (txn : BitVec 16)
  | commitDeadline (allMatch : Bool)
  | boardCommitDecision (go : Bool)
  | schedulePlanActivation (tag : BitVec 16) (epoch : BitVec 48) (recipe : Option (List Nat))
  | scheduleRecipe (tag : BitVec 16) (epoch : BitVec 48) (recipe : List Nat)
  | scheduleSwap (tag : BitVec 16) (epoch : BitVec 48)
  | scheduleInstall (tag : BitVec 16) (epoch : BitVec 48)
  | scheduleFirmware (tag : BitVec 16) (epoch : BitVec 48)
  | scheduleProofWindow (tag : BitVec 16) (epoch : BitVec 48)
  | cancelEvent (tag : BitVec 16) (number : Nat)
  | openWindow (tag : BitVec 16) (w : BitVec 8)
  | closeWindow (tag : BitVec 16) (w : BitVec 8) (pack : Option TestPack) (corrupt : Option HostPort)
  | readLog (tag : BitVec 16) (first : Word) (count : Nat)
  | readLedger (tag : BitVec 16) (first last : Nat) (clear : BitVec 2)
  | attest (tag : BitVec 16) (nonce : BitVec 256)
  | identity (tag : BitVec 16)
  | dump (tag : BitVec 16) (scope : DumpScope)
  | dumpReady
  | acknowledgeDump (tag : BitVec 16)
  | burnSettings (tag : BitVec 16) (record : Bytes)
  | discardPlan (tag : BitVec 16)
  | discardSet (tag : BitVec 16)
  | alertMessage
  | registerWrite (addr : BitVec 64) (value : BitVec 64)
  | firmwareRevert
  | otpCounterAdvance
  | watchdogExpiry (core : Fin 4)
  | recordHandling
  | classificationWindow
  | proofRun (c : ProofTarget) (kernel : Nat) (output : BitVec 256)
  | rePlacement
  | refillComplete (s : SiteAddr) (line : Nat) (data : Option Bytes)
  | digestPassStart
  | digestPassComplete (diverged : List (SiteAddr × Nat))
  | yelziaFlitReceive (p : CascPort) (q : Quad) (flit : Bytes) (fec : FecCount)
  | laneLockLoss (p : CascPort) (q : Quad)
  | quadTrainingComplete (p : CascPort) (q : Quad) (latency : Nat)
  | cascadeUnitInject (p : CascPort) (rid : Fin 1024) (unit : Fin 64)
  | exchangeAddCombine (p : CascPort) (rid : Fin 1024) (unit : Fin 64)
  | cascadeVcMessage (p : CascPort) (m : VcMessage)
  | haltReceive (stroke : BitVec 60)
  | compactSend
  | compactReceive (p : CascPort) (compact : Bytes)
  | alwaysOnOscillatorTick
  | managementClear
  | unassignedOp (tag : BitVec 16) (op : BitVec 16)
  | pwrEnHigh
  | busRise
deriving DecidableEq, Repr

end Sys2Proof
end

