-- ==== Sys2Proof/Config.lean ====
section
/-! DEFINITION. What the spec leaves open or names by another standard only, and what the factory writes into one device:
constants with no body, so that no proof can see a value of one (log entries 5 and 7). -/

namespace Sys2Proof

/-- A value the spec leaves open, by a counter that State advances with each use (log entry 5). -/
opaque Config.freeValue : Nat → BitVec 64

/-- The bits of a word that is delivered poisoned, by its word address: the spec gives a poisoned word no value
(R85, R209, R222, log entry 5). -/
opaque Config.poisonWord : Nat → Word

/-- The root of an accumulator element that FIRST has emptied, as a read at a budget time finds it, by element (R113,
R116, log entry 116). -/
opaque Config.emptiedRoot : Nat → Nat → BitVec 40

/-- AES-256-XTS decryption of a data unit of 4,096 bytes under a 512-bit key, by data-unit number (R374). -/
opaque Config.xtsDecrypt : BitVec 512 → Nat → Bytes → Bytes

/-- The shared secret of an ML-KEM-768 ciphertext under the module's key (R375). -/
opaque Config.decapsulate : Bytes → BitVec 256

/-- RFC 3394 unwrap under a key-encryption key (R375): `none` where its integrity check fails. -/
opaque Config.keyUnwrap : BitVec 256 → Bytes → Option (BitVec 512)

/-- ML-DSA-44 verification: public key, message, signature (R531). -/
opaque Config.signatureOk : Bytes → Bytes → Bytes → Bool

/-- The module's own ML-DSA-44 signature (R527, R528). -/
opaque Config.sign : Bytes → Bytes

/-- AES-256-CTR under the firmware key, from an initial counter block (R530). -/
opaque Config.firmwareDecrypt : Bytes → Bytes → Bytes

/-- Vendor key slots of the factory identity: SHA3-256 and revoke bit (R522). -/
opaque Config.vendorSlots : List (BitVec 256 × Bool)

/-- Identity public key, ML-KEM-768 encapsulation key and factory certificate of the module (R527, R529). -/
opaque Config.identityKey : Bytes
opaque Config.kemKey : Bytes
opaque Config.certificate : Bytes

/-- Serial number of the module (R522). -/
opaque Config.serial : BitVec 128

end Sys2Proof
end

