-- ==== Sys2Proof/Machine/Bits.lean ====
section
/-! DEFINITION. Bit fields, little-endian byte order, saturating counters, the CRCs the spec names (R93, R241, R408,
R421) and SHA3-256 (R271). -/

namespace Sys2Proof.Machine

/-- Bits [hi:lo] of a number (R8). -/
def bf (x hi lo : Nat) : Nat := (x >>> lo) % 2 ^ (hi + 1 - lo)

/-- Bit i of a number. -/
def tb (x i : Nat) : Bool := x.testBit i

/-- Put a value into bits [hi:lo] of a number. -/
def setBf (x hi lo v : Nat) : Nat :=
  x - (bf x hi lo) <<< lo + (v % 2 ^ (hi + 1 - lo)) <<< lo

/-- Sign-extend an n-bit value. -/
def sext (n v : Nat) : Int := if v % 2 ^ n < 2 ^ (n - 1) then (v % 2 ^ n : Nat) else ((v % 2 ^ n : Nat) : Int) - 2 ^ n

/-- A Boolean as a bit. -/
def b2n (b : Bool) : Nat := if b then 1 else 0

/-- Add to a counter that saturates at all ones. -/
def satAdd {n : Nat} (c : BitVec n) (k : Nat) : BitVec n :=
  BitVec.ofNat n (min (c.toNat + k) (2 ^ n - 1))

/-- A little-endian number from bytes. -/
def leNat : Bytes → Nat
  | [] => 0
  | b :: bs => b.toNat + 256 * leNat bs

/-- The n little-endian bytes of a number. -/
def leBytes : Nat → Nat → Bytes
  | 0, _ => []
  | n + 1, x => BitVec.ofNat 8 x :: leBytes n (x / 256)

/-- Bytes o to o + n - 1 of a run; missing bytes read 0. -/
def bytesAt (bs : Bytes) (o n : Nat) : Bytes :=
  let s := (bs.drop o).take n
  s ++ List.replicate (n - s.length) 0

/-- The little-endian field of n bytes at offset o (R270, R304, R325, R372). -/
def fieldAt (bs : Bytes) (o n : Nat) : Nat := leNat (bytesAt bs o n)

/-- One step of a CRC-16 with polynomial 0x1021, most significant bit first. -/
def crc16Bit (c : Nat) (b : Bool) : Nat :=
  let t := xor (tb c 15) b
  let s := (c <<< 1) % 65536
  if t then s ^^^ 0x1021 else s

/-- CRC-16 over the low n bits of x, most significant bit first, from a start value (R93, R241). -/
def crc16 : Nat → Nat → Nat → Nat
  | 0, _, c => c
  | n + 1, x, c => crc16 n x (crc16Bit c (tb x n))

/-- Eight steps of a reflected CRC-32. -/
def crcByte (poly : Nat) : Nat → Nat → Nat
  | 0, c => c
  | n + 1, c => crcByte poly n (if c % 2 = 1 then (c / 2) ^^^ poly else c / 2)

/-- A reflected CRC-32 before its final XOR. -/
def crc32Run (poly : Nat) : Bytes → Nat → Nat
  | [], c => c
  | b :: bs, c => crc32Run poly bs (crcByte poly 8 (c ^^^ b.toNat))

/-- CRC-32C, Castagnoli, reflected, initial value and final XOR 0xFFFF_FFFF (R408). -/
def crc32c (bs : Bytes) : Nat := crc32Run 0x82F63B78 bs 0xFFFFFFFF ^^^ 0xFFFFFFFF

/-- The CRC-32 of a Yelzia flit, polynomial 0x04C1_1DB7 reflected (R421). -/
def crc32Yelzia (bs : Bytes) : Nat := crc32Run 0xEDB88320 bs 0xFFFFFFFF ^^^ 0xFFFFFFFF

/-- Put an item behind those it does not come before. -/
def insertBy {α : Type} (le : α → α → Bool) (x : α) : List α → List α
  | [] => [x]
  | y :: t => if le y x then y :: insertBy le x t else x :: y :: t

/-- Sort by an order, keeping the order of equals. -/
def sortBy {α : Type} (le : α → α → Bool) (l : List α) : List α := l.foldl (fun acc x => insertBy le x acc) []

/-- Rotate a 64-bit lane left; the amount is taken modulo 64. -/
def laneRotl (v n : Nat) : Nat :=
  let k := n % 64
  (v <<< k) % 2 ^ 64 + v >>> (64 - k)

/-- The lane in column x of plane y; both wrap at 5. -/
def laneAt (st : List Nat) (x y : Nat) : Nat := st.getD (y % 5 * 5 + x % 5) 0

/-- A state from the value of each of its lanes. -/
def laneTable (f : Nat → Nat → Nat) : List Nat :=
  (List.range 5).flatMap fun y => (List.range 5).map fun x => f x y

/-- Column parities are spread into the two neighbours of each column (theta). -/
def sha3Spread (st : List Nat) : List Nat :=
  let parity (x : Nat) : Nat := (List.range 5).foldl (fun p y => p ^^^ laneAt st x y) 0
  laneTable fun x y => laneAt st x y ^^^ parity (x + 4) ^^^ laneRotl (parity (x + 1)) 1

/-- The walk through the 24 lanes beside (0, 0): step t turns a lane by the t-th triangular number and puts it where the
walk goes next (rho and pi). -/
def sha3Walk (st : List Nat) : Nat → Nat → Nat → List Nat → List Nat
  | 0, _, _, out => out
  | left + 1, x, y, out =>
    let t := 25 - left - 1
    let y' := (2 * x + 3 * y) % 5
    sha3Walk st left y y' (out.set (y' * 5 + y) (laneRotl (laneAt st x y) (t * (t + 1) / 2)))

/-- Each lane meets the two to its right (chi). -/
def sha3Mix (st : List Nat) : List Nat :=
  laneTable fun x y => laneAt st x y ^^^ (laneAt st (x + 2) y - (laneAt st (x + 2) y &&& laneAt st (x + 1) y))

/-- The 8-bit register that gives the round constants, after one step: x^8 + x^6 + x^5 + x^4 + 1. -/
def sha3Shift (r : Nat) : Nat := if 128 ≤ r then (2 * r) ^^^ 0x171 else 2 * r

/-- A round constant, its seven bits taken from the register, and the register after them (iota). -/
def sha3Constant : Nat → Nat → Nat → Nat × Nat
  | 0, r, acc => (acc, r)
  | n + 1, r, acc => sha3Constant n (sha3Shift r) (if r % 2 = 1 then acc + 2 ^ (2 ^ (6 - n) - 1) else acc)

/-- The rounds of the permutation that SHA3-256 uses, each with its constant. -/
def sha3Rounds : Nat → Nat → List Nat → List Nat
  | 0, _, st => st
  | n + 1, r, st =>
    let st := sha3Spread st
    let st := sha3Mix (sha3Walk st 24 1 0 st)
    let k := sha3Constant 7 r 0
    sha3Rounds n k.2 (st.set 0 (laneAt st 0 0 ^^^ k.1))

/-- Absorb blocks of 136 bytes. -/
def sha3Absorb : Nat → Bytes → List Nat → List Nat
  | 0, _, st => st
  | n + 1, bs, st =>
    let st := laneTable fun x y =>
      let i := 5 * y + x
      if i < 17 then laneAt st x y ^^^ fieldAt bs (8 * i) 8 else laneAt st x y
    sha3Absorb n (bs.drop 136) (sha3Rounds 24 1 st)

/-- SHA3-256 as a little-endian number of 32 bytes (FIPS 202, named by R271). -/
def sha3_256 (bs : Bytes) : BitVec 256 :=
  let padLen := 136 - bs.length % 136
  let pad : Bytes := if padLen = 1 then [0x86] else [0x06] ++ List.replicate (padLen - 2) 0 ++ [0x80]
  let msg := bs ++ pad
  let st := sha3Absorb (msg.length / 136) msg (List.replicate 25 0)
  BitVec.ofNat 256 ((List.range 4).foldl (fun acc i => acc + st.getD i 0 * 2 ^ (64 * i)) 0)

end Sys2Proof.Machine
end

