-- ==== Sys2Proof/Machine/Float.lean ====
section
/-! DEFINITION. Number formats (R100 to R105, R156), exact values and their one rounding, FP32 arithmetic (R169),
the correctly rounded functions of R170, A40 (R111, R117) and the random numbers of R175. -/

namespace Sys2Proof.Machine

/-- An exact value: not a number, an infinity, a signed zero, or m * 2^e with m not 0. -/
inductive FVal where
  | nan
  | inf (neg : Bool)
  | zero (neg : Bool)
  | fin (m : Int) (e : Int)
deriving DecidableEq, Repr

/-- Length of a number in bits. -/
def bitLen (n : Nat) : Nat := if n = 0 then 0 else Nat.log2 n + 1

/-- m * 2^e, with a sign for zero. -/
def fmk (m e : Int) (neg : Bool) : FVal := if m = 0 then .zero neg else .fin m e

/-- Exact negation. -/
def fneg : FVal → FVal
  | .nan => .nan
  | .inf n => .inf !n
  | .zero n => .zero !n
  | .fin m e => .fin (-m) e

/-- Is the sign negative. -/
def fsign : FVal → Bool
  | .nan => false
  | .inf n => n
  | .zero n => n
  | .fin m _ => decide (m < 0)

/-- Exact sum: an exact zero is +0 unless both addends are −0 (R118, R169). For normal mode R117 gives only +0 plus −0; the model
takes x plus −x and −0 plus −0 there as R118 has them (DESIGN CHOICE, log entry 126). -/
def fadd : FVal → FVal → FVal
  | .nan, _ => .nan
  | _, .nan => .nan
  | .inf a, .inf b => if a = b then .inf a else .nan
  | .inf a, _ => .inf a
  | _, .inf b => .inf b
  | .zero a, .zero b => .zero (a && b)
  | .zero _, .fin m e => .fin m e
  | .fin m e, .zero _ => .fin m e
  | .fin m e, .fin n g =>
    let k := min e g
    fmk (m * 2 ^ (e - k).toNat + n * 2 ^ (g - k).toNat) k false

/-- Exact product; an infinity times a zero is not a number (R110). -/
def fmul : FVal → FVal → FVal
  | .nan, _ => .nan
  | _, .nan => .nan
  | .inf _, .zero _ => .nan
  | .zero _, .inf _ => .nan
  | .inf a, b => .inf (xor a (fsign b))
  | a, .inf b => .inf (xor (fsign a) b)
  | .zero a, b => .zero (xor a (fsign b))
  | a, .zero b => .zero (xor (fsign a) b)
  | .fin m e, .fin n g => .fin (m * n) (e + g)

/-- Multiply by 2^k exactly. -/
def fscale (k : Int) : FVal → FVal
  | .fin m e => .fin m (e + k)
  | v => v

/-- m * 2^e in units of 2^q, rounded to nearest even; `sticky` says that the exact value lies just above. -/
def rneQuant (m : Nat) (e q : Int) (sticky : Bool) : Nat :=
  if q ≤ e then m * 2 ^ (e - q).toNat
  else
    let k := (q - e).toNat
    if bitLen m + 1 < k then 0
    else
      let d := m / 2 ^ k
      let r := m % 2 ^ k
      let h := 2 ^ (k - 1)
      if h < r ∨ (r = h ∧ (sticky ∨ d % 2 = 1)) then d + 1 else d

/-- Magnitude m * 2^e as an FP32 pattern without sign, rounded to nearest even, subnormals honoured, above the range
infinity (R116, R169). -/
def f32Mag (m : Nat) (e : Int) (sticky : Bool) : Nat :=
  if m = 0 then 0
  else
    let top : Int := bitLen m - 1 + e
    let q := max (top - 23) (-149)
    if 300 < top then 0x7F800000
    else min 0x7F800000 ((q + 149).toNat * 2 ^ 23 + rneQuant m e q sticky)

/-- The canonical quiet NaN of FP32 (R110). -/
def f32Nan : Nat := 0x7FC00000

/-- An exact value rounded to FP32. -/
def f32Enc : FVal → Nat
  | .nan => f32Nan
  | .inf n => b2n n * 2 ^ 31 + 0x7F800000
  | .zero n => b2n n * 2 ^ 31
  | .fin m e => b2n (decide (m < 0)) * 2 ^ 31 + f32Mag m.natAbs e false

/-- The value of an FP32 pattern. -/
def f32Dec (b : Nat) : FVal :=
  let s := tb b 31
  let x := bf b 30 23
  let f := bf b 22 0
  if x = 255 then (if f = 0 then .inf s else .nan)
  else if x = 0 then fmk ((if s then -1 else 1) * (f : Int)) (-149) s
  else .fin ((if s then -1 else 1) * ((f + 2 ^ 23 : Nat) : Int)) ((x : Int) - 150)

/-- binary32 add, rounded to nearest even (R118, R169). -/
def f32Add (a b : Nat) : Nat := f32Enc (fadd (f32Dec a) (f32Dec b))

/-- binary32 subtract. -/
def f32Sub (a b : Nat) : Nat := f32Enc (fadd (f32Dec a) (fneg (f32Dec b)))

/-- binary32 multiply. -/
def f32Mul (a b : Nat) : Nat := f32Enc (fmul (f32Dec a) (f32Dec b))

/-- a × b + c with one rounding. -/
def f32Fma (a b c : Nat) : Nat := f32Enc (fadd (fmul (f32Dec a) (f32Dec b)) (f32Dec c))

/-- The pattern is a NaN. -/
def f32IsNan (b : Nat) : Bool := decide (0x7F800000 < bf b 30 0)

/-- Order key of a 32-bit pattern (R153). -/
def orderKey (b : Nat) : Int := if tb b 31 then -1 - (bf b 30 0 : Int) else (bf b 30 0 : Int)

/-- Maximum; NaN if either input is, −0 below +0 (R169). -/
def f32Max (a b : Nat) : Nat :=
  if f32IsNan a || f32IsNan b then f32Nan else if orderKey a ≤ orderKey b then b else a

/-- Minimum; NaN if either input is, −0 below +0 (R169). -/
def f32Min (a b : Nat) : Nat :=
  if f32IsNan a || f32IsNan b then f32Nan else if orderKey a ≤ orderKey b then a else b

/-- a ≥ b as FP32 numbers: the zeros are equal, and false if either is NaN (R168 vcmpge). -/
def f32Ge (a b : Nat) : Bool :=
  !f32IsNan a && !f32IsNan b && (decide (orderKey b ≤ orderKey a) || (bf a 30 0 == 0 && bf b 30 0 == 0))

/-- Signed value of a 32-bit pattern. -/
def i32 (b : Nat) : Int := sext 32 b

/-- The 32-bit pattern of an integer, wrapping. -/
def ofI32 (x : Int) : Nat := (x % 2 ^ 32).toNat

/-- Clamp to the INT32 range (R121, R183). -/
def clampI32 (x : Int) : Int := max (-2147483648) (min 2147483647 x)

/-- An exact value rounded to the nearest even integer. -/
def rneInt : FVal → Int
  | .fin m e => (if m < 0 then -1 else 1) * (rneQuant m.natAbs e 0 false : Int)
  | _ => 0

/-- vcvt.f32.i32: INT32 to FP32 (R168). -/
def cvtF32I32 (a : Nat) : Nat := f32Enc (fmk (i32 a) 0 false)

/-- vcvt.i32.f32: FP32 to INT32, clamped; NaN gives 0 (R168). -/
def cvtI32F32 (a : Nat) : Nat :=
  match f32Dec a with
  | .inf n => ofI32 (if n then -2147483648 else 2147483647)
  | v => ofI32 (clampI32 (rneInt v))

/-- ln 2 in units of 2^-256. -/
def ln2Fix : Nat := 80260960185991308862233904206310070533990667611589946606122867505419956976171

/-- exp(t) in units of 2^-256 for t in the same units, by its series. -/
def expFix (t : Nat) : Nat :=
  ((List.range 64).foldl (fun (acc : Nat × Nat) k =>
    let term := acc.2 * t / 2 ^ 256 / (k + 1)
    (acc.1 + term, term)) (2 ^ 256, 2 ^ 256)).1

/-- Square root of a number below 2^400, rounded down, bit by bit. -/
def isqrt (n : Nat) : Nat :=
  (List.range 200).foldl (fun r i =>
    let t := r + 2 ^ (199 - i)
    if t * t ≤ n then t else r) 0

/-- 2^a correctly rounded (R170, log entry 11). -/
def f32Exp2 (a : Nat) : Nat :=
  match f32Dec a with
  | .nan => f32Nan
  | .inf n => if n then 0 else 0x7F800000
  | .zero _ => 0x3F800000
  | .fin m e =>
    -- a in units of 2^-256; every finite input has e ≥ −149
    if 2 ^ 8 ≤ m.natAbs * 2 ^ e.toNat / 2 ^ (-e).toNat then (if m < 0 then 0 else 0x7F800000)
    else
      let x : Int := m * 2 ^ (e + 256).toNat
      let n := x / 2 ^ 256
      let f := (x % 2 ^ 256).toNat
      if f = 0 then f32Mag 1 n false
      else f32Mag (expFix (f * ln2Fix / 2 ^ 256)) (n - 256) true

/-- The n binary digits of log2 x after the point, x in [1, 2) in units of 2^-320, by repeated squaring. -/
def log2Digits : Nat → Nat → Nat → Nat
  | 0, _, acc => acc
  | n + 1, x, acc =>
    let y := x * x / 2 ^ 320
    if 2 ^ 321 ≤ y then log2Digits n (y / 2) (2 * acc + 1) else log2Digits n y (2 * acc)

/-- log2 a correctly rounded (R170, log entry 11). -/
def f32Log2 (a : Nat) : Nat :=
  match f32Dec a with
  | .nan => f32Nan
  | .inf n => if n then f32Nan else 0x7F800000
  | .zero _ => 0xFF800000
  | .fin m e =>
    if m < 0 then f32Nan
    else
      let l := bitLen m.natAbs - 1
      let top : Int := l + e
      if m.natAbs = 2 ^ l then f32Enc (fmk top 0 false)
      else
        let t : Int := top * 2 ^ 128 + (log2Digits 128 (m.natAbs * 2 ^ (320 - l)) 0 : Nat)
        if t < 0 then 2 ^ 31 + f32Mag (t.natAbs - 1) (-128) true else f32Mag t.natAbs (-128) true

/-- 1 / a correctly rounded (R170). -/
def f32Rcp (a : Nat) : Nat :=
  match f32Dec a with
  | .nan => f32Nan
  | .inf n => b2n n * 2 ^ 31
  | .zero n => b2n n * 2 ^ 31 + 0x7F800000
  | .fin m e =>
    b2n (decide (m < 0)) * 2 ^ 31 + f32Mag (2 ^ 200 / m.natAbs) (-200 - e) (decide (2 ^ 200 % m.natAbs ≠ 0))

/-- 1 / √a correctly rounded (R170). -/
def f32Rsqrt (a : Nat) : Nat :=
  match f32Dec a with
  | .nan => f32Nan
  | .inf n => if n then f32Nan else 0
  | .zero n => b2n n * 2 ^ 31 + 0x7F800000
  | .fin m e =>
    if m < 0 then f32Nan
    else
      let v := m.natAbs * 2 ^ (e % 2).toNat
      let r := isqrt (2 ^ 300 / v)
      f32Mag r (-150 - e / 2) (decide (r * r * v ≠ 2 ^ 300))

/-- Pairs of neighbours combined. -/
def pairUp {α : Type} (f : α → α → α) : List α → List α
  | a :: b :: t => f a b :: pairUp f t
  | l => l

/-- Balanced pairwise combination of 2^n values (R109, R154, R169). -/
def pairTree {α : Type} (f : α → α → α) : Nat → List α → List α
  | 0, l => l
  | n + 1, l => pairTree f n (pairUp f l)

/-- Balanced pairwise FP32 sum of a list padded with +0 to the next power of two (R154, R169). -/
def f32Sum (l : List Nat) : Nat :=
  let n := bitLen (l.length - 1)
  (pairTree f32Add n (l ++ List.replicate (2 ^ n - l.length) 0)).headD 0

/-- One step of vscan (R169). -/
def scanStep (t : Nat) (l : List Nat) : List Nat :=
  (List.range l.length).map fun j =>
    if 2 ^ t ≤ j then f32Add (l.getD (j - 2 ^ t) 0) (l.getD j 0) else l.getD j 0

/-- Inclusive prefix sum over 32 lanes in five steps (R169). -/
def f32Scan (l : List Nat) : List Nat := (List.range 5).foldl (fun acc t => scanStep t acc) l

/-- One round of the mixing of R175. -/
def rngMix (x : Nat) : Nat :=
  let y := ((x ^^^ (x >>> 30)) * 0xBF58476D1CE4E5B9) % 2 ^ 64
  y ^^^ (y >>> 27)

/-- Lane j of vrng (R175). -/
def rngLane (k0 k1 pos draw j : Nat) : Nat :=
  let key := k1 * 2 ^ 32 + k0
  let ctr := pos * 2 ^ 9 + draw * 2 ^ 5 + j
  let x := (key + ctr * 0x9E3779B97F4A7C15) % 2 ^ 64
  let w := rngMix (rngMix (rngMix (rngMix x))) >>> 32
  f32Enc (fmk ((w >>> 8 : Nat) : Int) (-24) false)

/-- The format codes of R156: 4-bit elements. -/
def fmt4 (f : Nat) : Bool := decide (f < 4)

/-- Integer elements (block INT4, I4T, MXINT8). -/
def fmtInt (f : Nat) : Bool := f == 1 || f == 3 || f == 6

/-- Tempered formats, with grain bytes. -/
def fmtTempered (f : Nat) : Bool := f == 2 || f == 3

/-- BF16. -/
def fmtBf16 (f : Nat) : Bool := f == 7

/-- Width of an element in bytes-times-two (nibbles): 1 for 4-bit, 2 for 8-bit, 4 for BF16. -/
def fmtNibbles (f : Nat) : Nat := if f < 4 then 1 else if f < 7 then 2 else 4

/-- Value of a small float with x exponent bits, m mantissa bits and a bias, without its special codes. -/
def miniDec (x m : Nat) (bias : Int) (c : Nat) : FVal :=
  let s := tb c (x + m)
  let ex := bf c (x + m - 1) m
  let fr := c % 2 ^ m
  let sg : Int := if s then -1 else 1
  if ex = 0 then fmk (sg * fr) (1 - bias - m) s
  else .fin (sg * ((fr + 2 ^ m : Nat) : Int)) ((ex : Int) - bias - m)

/-- The value of an element code, before scale and grain shift (R101 to R103, BF16). -/
def elemVal (f c : Nat) : FVal :=
  match f with
  | 0 | 2 => miniDec 2 1 1 (c % 16)
  | 1 | 3 => fmk (sext 4 c) 0 false
  | 4 => if c % 128 = 127 then .nan else miniDec 4 3 7 (c % 256)
  | 5 => if bf c 6 2 = 31 then (if c % 4 = 0 then .inf (tb c 7) else .nan) else miniDec 5 2 15 (c % 256)
  | 6 => fmk (sext 8 c) (-6) false
  | _ => f32Dec (c % 65536 * 65536)

/-- The integer q of an integer element (R102). -/
def elemInt (f c : Nat) : Int := if f = 6 then sext 8 c else sext 4 c

/-- Element i of a run of element bytes of a format (R105). -/
def elemCode (f : Nat) (bs : Bytes) (i : Nat) : Nat :=
  match fmtNibbles f with
  | 1 => bf ((bs.getD (i / 2) 0).toNat) (if i % 2 = 0 then 3 else 7) (if i % 2 = 0 then 0 else 4)
  | 2 => (bs.getD i 0).toNat
  | _ => (bs.getD (2 * i) 0).toNat + 256 * (bs.getD (2 * i + 1) 0).toNat

/-- One MX block of 32 elements: element codes, scale byte and grain byte. -/
structure MxBlock where
  codes : List Nat
  scale : Nat
  grain : Nat

/-- Grain shift of element i (R104, R105). -/
def grainShift (f : Nat) (b : MxBlock) (i : Nat) : Nat :=
  if fmtTempered f then (b.grain / 4 ^ (i / 8)) % 4 else 0

/-- The full value of element i under its scale and grain shift (R103, R104). -/
def blockVal (f : Nat) (b : MxBlock) (i : Nat) : FVal :=
  let v := elemVal f (b.codes.getD i 0)
  if fmtBf16 f then v
  else if b.scale = 255 then .nan
  else fscale ((b.scale : Int) - 127 - grainShift f b i) v

/-- Block k of one run of the row layout of R106: row r of `rows`, blocks per row `kb`, in a weight block or, with one
row, a token column. -/
def rowBlock (f kb rows : Nat) (bs : Bytes) (r k : Nat) : MxBlock :=
  let eb := 16 * fmtNibbles f
  let n := r * kb + k
  let total := rows * kb
  { codes := (List.range 32).map fun i => elemCode f (bs.drop (n * eb)) i
    scale := if fmtBf16 f then 127 else (bs.getD (total * eb + n) 0).toNat
    grain := if fmtTempered f then (bs.getD (total * eb + total + n) 0).toNat else 0 }

/-- Bytes of a run of `rows` rows of `kb` blocks (R106). -/
def rowBytes (f kb rows : Nat) : Nat :=
  rows * kb * (16 * fmtNibbles f + (if fmtBf16 f then 0 else 1) + (if fmtTempered f then 1 else 0))

/-- The node formats of R118: a value rounded to A40, the range tests after the rounding (R111, R117). -/
def a40Enc : FVal → Nat
  | .nan => 0x3FF * 2 ^ 29 + 2 ^ 28
  | .inf n => b2n n * 2 ^ 39 + 0x3FF * 2 ^ 29
  | .zero n => b2n n * 2 ^ 39
  | .fin m e =>
    let sg := b2n (decide (m < 0)) * 2 ^ 39
    let top : Int := bitLen m.natAbs - 1 + e
    let r := rneQuant m.natAbs e (top - 29) false
    let (r, top) := if r = 2 ^ 30 then (2 ^ 29, top + 1) else (r, top)
    if 512 ≤ top then sg + 0x3FF * 2 ^ 29
    else if top < -510 then sg
    else sg + (top + 511).toNat * 2 ^ 29 + (r - 2 ^ 29)

/-- The value of an A40 word (R111). -/
def a40Dec (b : Nat) : FVal :=
  let s := tb b 39
  let x := bf b 38 29
  let f := bf b 28 0
  let sg : Int := if s then -1 else 1
  if x = 0x3FF then (if f = 0 then .inf s else .nan)
  else if x = 0 then .zero s
  else .fin (sg * ((f + 2 ^ 29 : Nat) : Int)) ((x : Int) - 511 - 29)

/-- An exact value as it enters the levels: rounded once to the node format of the mode (R114, R118). -/
def nodeEnc (ref : Bool) (v : FVal) : Nat :=
  if ref then a40Enc (f32Dec (f32Enc v)) else a40Enc v

/-- A node's add on A40 words (R117, R118, R119): in reference order both addends are taken as FP32 values. -/
def nodeAdd (ref : Bool) (a b : Nat) : Nat :=
  if ref then
    let r (v : FVal) := f32Dec (f32Enc v)
    nodeEnc true (fadd (r (a40Dec a)) (r (a40Dec b)))
  else a40Enc (fadd (a40Dec a) (a40Dec b))

/-- Limit of integer accumulation (R120). -/
def int40Max : Int := 2 ^ 39 - 1

/-- Exact 40-bit integer add; a sum beyond ±(2^39 − 1) clamps, `true` (R120). -/
def intAdd (a b : Nat) : Nat × Bool :=
  let x := sext 40 a + sext 40 b
  let y := max (-int40Max) (min int40Max x)
  ((y % 2 ^ 40).toNat, decide (x ≠ y))

/-- The leaf of one weight block against one token block (R107 to R110), exact, before it enters the levels; with a
BF16 operand the five pairwise levels use the adds of the mode. -/
def leafVal (ref : Bool) (fw fa : Nat) (w a : MxBlock) : FVal :=
  let ps := (List.range 32).map fun i => fmul (blockVal fw w i) (blockVal fa a i)
  let scaleNan := (!fmtBf16 fw && w.scale == 255) || (!fmtBf16 fa && a.scale == 255)
  if scaleNan || ps.contains .nan then .nan
  else if ps.contains (.inf false) && ps.contains (.inf true) then .nan
  else if ps.contains (.inf false) then .inf false
  else if ps.contains (.inf true) then .inf true
  else if fmtBf16 fw || fmtBf16 fa then
    let add (x y : FVal) : FVal :=
      if ref then f32Dec (f32Enc (fadd x y)) else a40Dec (a40Enc (fadd x y))
    (pairTree add 5 ps).headD (.zero false)
  else ps.foldl fadd (.zero false)

/-- The leaf of integer accumulation: Σ q_w × q_a (R120). -/
def leafInt (fw fa : Nat) (w a : MxBlock) : Int :=
  (List.range 32).foldl (fun acc i => acc + elemInt fw (w.codes.getD i 0) * elemInt fa (a.codes.getD i 0)) 0

/-- A leaf as it enters an element, in the bits of the tile's kind. -/
def leafBits (int ref : Bool) (fw fa : Nat) (w a : MxBlock) : Nat :=
  if int then (leafInt fw fa w a % 2 ^ 40).toNat else nodeEnc ref (leafVal ref fw fa w a)

/-- Magnitude code of a small float for a magnitude, saturating (R172). -/
def miniMag (m : Nat) (bias : Int) (maxCode : Nat) (n : Nat) (e : Int) : Nat :=
  if n = 0 then 0
  else
    let top : Int := bitLen n - 1 + e
    let q := max (top - m) (1 - bias - m)
    min maxCode ((q - (1 - bias - m)).toNat * 2 ^ m + rneQuant n e q false)

/-- Code of a lane value y in a quantization target (R172, item 5); a zero result is +0. -/
def quantCode (f : Nat) (y : FVal) : Nat :=
  let sgn (w c : Nat) : Nat := if c ≠ 0 ∧ fsign y then c + 2 ^ (w - 1) else c
  let mag (m : Nat) (bias : Int) (mx : Nat) : Nat :=
    match y with
    | .fin n e => miniMag m bias mx n.natAbs e
    | _ => 0
  match f with
  | 0 | 2 => sgn 4 (mag 1 1 7)
  | 1 | 3 => ((max (-8) (min 7 (rneInt y))) % 16).toNat
  | 4 => sgn 8 (mag 3 7 0x7E)
  | 5 => sgn 8 (mag 2 15 0x7B)
  | _ => ((max (-128) (min 127 (rneInt (fscale 6 y)))) % 256).toNat

/-- emax of a quantization target (R172). -/
def quantEmax (f : Nat) : Int := if f < 4 then 2 else if f = 4 then 8 else if f = 5 then 15 else 0

/-- floor(log2 v) of the largest magnitude of a list of FP32 patterns; `none` when it is 0. -/
def topExp (l : List Nat) : Option Int :=
  let m := l.foldl (fun acc b => max acc (bf b 30 0)) 0
  match f32Dec m with
  | .fin n e => some (bitLen n.natAbs - 1 + e)
  | _ => none

/-- Scale, grain shifts and codes of vquant (R172), FMT 0 to 6. -/
def quantBlock (f : Nat) (l : List Nat) : MxBlock :=
  if l.any fun b => decide (0x7F800000 ≤ bf b 30 0) then { codes := List.replicate 32 0, scale := 255, grain := 0 }
  else
    match topExp l with
    | none => { codes := List.replicate 32 0, scale := 127, grain := 0 }
    | some e =>
      let x := max 0 (min 254 (e - quantEmax f + 127))
      let g (i : Nat) : Nat :=
        if fmtTempered f then
          match topExp ((l.drop (8 * i)).take 8) with
          | none => 3
          | some ei => (max 0 (min 3 (e - ei))).toNat
        else 0
      { codes := (List.range 32).map fun i =>
          quantCode f (fscale (127 - x + (g (i / 8) : Int)) (f32Dec (l.getD i 0)))
        scale := x.toNat
        grain := g 0 + 4 * g 1 + 16 * g 2 + 64 * g 3 }

/-- FP32 pattern rounded to BF16, RNE; a NaN gives 0x7FC0 (R172, item 6). -/
def bf16Of (b : Nat) : Nat :=
  if f32IsNan b then 0x7FC0 else ((b + 0x7FFF + (b >>> 16) % 2) >>> 16) % 65536

/-- Element bytes of 32 codes (R105). -/
def codeBytes (f : Nat) (codes : List Nat) : Bytes :=
  match fmtNibbles f with
  | 1 => (List.range 16).map fun i => BitVec.ofNat 8 (codes.getD (2 * i) 0 + 16 * codes.getD (2 * i + 1) 0)
  | 2 => codes.map (BitVec.ofNat 8)
  | _ => codes.flatMap fun c => [BitVec.ofNat 8 c, BitVec.ofNat 8 (c / 256)]

/-- Byte offsets of elements, scale and grain in a vector register (R173): P-cell or not, and H. -/
def quantPlace (f : Nat) (p h : Bool) : Nat × Nat × Nat :=
  let k := b2n (p && h)
  match fmtNibbles f with
  | 1 => (16 * k, (if p then 32 else 16) + k, (if p then 34 else 17) + k)
  | 2 => (32 * k, (if p then 64 else 32) + k, 0)
  | _ => (64 * k, 0, 0)

/-- Put bytes at an offset of a run of 128 bytes. -/
def putBytes (base : Bytes) (o : Nat) (bs : Bytes) : Bytes :=
  base.take o ++ bs ++ base.drop (o + bs.length)

/-- vquant: 128 bytes from 32 lanes (R172, R173). -/
def quantBytes (f : Nat) (p h : Bool) (l : List Nat) : Bytes :=
  let zero : Bytes := List.replicate 128 0
  let (oe, os, og) := quantPlace f p h
  if fmtBf16 f then putBytes zero oe (codeBytes f (l.map bf16Of))
  else
    let b := quantBlock f l
    let r := putBytes (putBytes zero oe (codeBytes f b.codes)) os [BitVec.ofNat 8 b.scale]
    if fmtTempered f then putBytes r og [BitVec.ofNat 8 b.grain] else r

/-- vdeq: 32 lanes from 128 bytes (R174). -/
def deqLanes (f : Nat) (p h : Bool) (bs : Bytes) : List Nat :=
  let (oe, os, og) := quantPlace f p h
  let b : MxBlock :=
    { codes := (List.range 32).map fun i => elemCode f (bs.drop oe) i
      scale := if fmtBf16 f then 127 else (bs.getD os 0).toNat
      grain := if fmtTempered f then (bs.getD og 0).toNat else 0 }
  (List.range 32).map fun i => f32Enc (blockVal f b i)

end Sys2Proof.Machine
end

