-- ==== Sys2Proof/Machine/Operands.lean ====
section
/-! DEFINITION. The bundle and the operand forms of its four slots (R126 to R185): what each slot of a 128-bit bundle
says, with every reserved encoding named as such. -/

namespace Sys2Proof.Machine

/-- The M slot (R157 to R165). -/
inductive MOp where
  | nop
  | reserved
  | wld (ws fmt sB : Nat) (h : Bool) (off : Nat)
  | accLd (int : Bool) (t c0 n sB : Nat)
  | accSt (t c0 n sB : Nat)
  | accSave (t sB off : Nat)
  | accRestore (t sB off : Nat)
  | mma (ws t c0 n sA fmt : Nat) (first ref int : Bool)
deriving DecidableEq, Repr

/-- The V slot: scalar, control and vector instructions (R139 to R145, R167 to R175). -/
inductive VOp where
  | nop
  | reserved
  /-- format R: opcode 0x01 to 0x0E, sources A, B, C. -/
  | alu (op sd a b c : Nat)
  | getv (sd v lane : Nat)
  /-- format I: opcode 0x10 to 0x15. -/
  | imm (op sd a imm : Nat)
  /-- format U: s.lui (`true`) and s.li. -/
  | upper (lui : Bool) (sd imm : Nat)
  | loop (lc count len : Nat)
  | post (chan a : Nat)
  /-- format V3. -/
  | v3 (op vd va vb vc : Nat)
  /-- format VS: vadds, vmuls, vbcast. -/
  | vs (op vd va sB : Nat)
  | vquant (vd va fmt : Nat) (h : Bool)
  | vdeq (vd va fmt : Nat) (h : Bool)
  | vrng (vd k0 k1 pos draw : Nat)
deriving DecidableEq, Repr

/-- The X slot (R146 to R154). -/
inductive XOp where
  | nop
  | reserved
  | spLdr (vd sB off : Nat)
  | spStr (vs sB off : Nat)
  | spLdc (vd sB off col : Nat)
  | spStc (vs sB off col : Nat)
  | cchLd (vd sC off : Nat)
  | cisGet (sS sC soff n : Nat)
  | cisPut (sS sC soff n : Nat)
  | kvAppend (sS sP sQ : Nat) (v fmt4 : Bool)
  | cmpcnt (sd sB sT len fmt : Nat) (sum : Bool)
deriving DecidableEq, Repr

/-- The N slot (R176 to R185). -/
inductive NOp where
  | nop
  | reserved
  | drain (t : Nat)
  | routePut (sS rid n : Nat)
  | routeGet (sD sR rid n : Nat)
  | redAdd (sS tid n op : Nat)
  | bar (sd bid : Nat)
deriving DecidableEq, Repr

/-- Header bits [127:124] (R126). -/
def bHeader (b : Nat) : Nat := bf b 127 124

/-- LEVEL (R126, R134). -/
def bLevel (b : Nat) : Nat := bf b 127 126

/-- END, the stroke-end bit (R48, R126). -/
def bEnd (b : Nat) : Bool := tb b 125

/-- The slot opcodes. -/
def bOpM (b : Nat) : Nat := bf b 123 117
def bOpV (b : Nat) : Nat := bf b 95 89
def bOpX (b : Nat) : Nat := bf b 63 57
def bOpN (b : Nat) : Nat := bf b 31 25

/-- Lanes of the matrix engine: rows and K elements, 32 in a D-cell, 64 in a P-cell (R71). -/
def cellRows (p : Bool) : Nat := if p then 64 else 32

/-- Token columns of a tile (R71, R75). -/
def cellCols (p : Bool) : Nat := if p then 64 else 8

/-- MX blocks of a row (R106). -/
def cellKb (p : Bool) : Nat := if p then 2 else 1

/-- Accumulator tiles (R71, R157). -/
def cellTiles (p : Bool) : Nat := if p then 2 else 8

/-- Units of 64 bytes in the scratchpad (R186). -/
def cellUnits (p : Bool) : Nat := if p then 4096 else 16384

/-- Integer formats that INT accumulation takes (R120, R160). -/
def fmtIntOk (f : Nat) : Bool := fmtInt f

/-- The M slot of a bundle in a cell of a kind (R157, R160, R190). -/
def mDecode (p : Bool) (b : Nat) : MOp :=
  let t := bf b 115 113
  let c0 := bf b 112 107
  let n := bf b 106 101 + 1
  let tOk := decide (t < cellTiles p)
  let colsOk := decide (c0 + n ≤ cellCols p)
  let lo := bf b 100 96
  match bOpM b with
  | 0x00 => if bf b 116 96 = 0 then .nop else .reserved
  | 0x01 =>
    let h := tb b 107
    if p && h then .reserved else .wld (bf b 116 116) t (bf b 112 108) h (bf b 106 96)
  | 0x02 => if tOk && colsOk then .accLd (tb b 116) t c0 n lo else .reserved
  | 0x03 => if tOk && colsOk && !tb b 116 then .accSt t c0 n lo else .reserved
  | 0x04 => if tOk && !tb b 116 then .accSave t (bf b 112 108) (bf b 107 96) else .reserved
  | 0x05 => if tOk && !tb b 116 then .accRestore t (bf b 112 108) (bf b 107 96) else .reserved
  | op =>
    if op < 0x40 then .reserved
    else
      let fmt := bf op 5 3
      let ref := tb op 1
      let int := tb op 0
      if !tOk || !colsOk || (int && (ref || !fmtIntOk fmt)) then .reserved
      else .mma (bf b 116 116) t c0 n lo fmt (tb op 2) ref int

/-- A source code that is assigned (R136). -/
def srcOk (n : Nat) : Bool := decide (n < 36)

/-- The V slot of a bundle (R139 to R145, R155, R167, R168, R173). -/
def vDecode (p : Bool) (b : Nat) : VOp :=
  let op := bOpV b
  let sd := bf b 88 84
  let a := bf b 83 78
  let b' := bf b 77 72
  let c := bf b 71 66
  let vd := bf b 88 83
  let va := bf b 82 77
  let vb := bf b 76 71
  let vc := bf b 70 65
  if op = 0 then (if bf b 88 64 = 0 then .nop else .reserved)
  else if op ≤ 0x0E then
    if srcOk a && srcOk b' && srcOk c && bf b 65 64 == 0 && (op == 0x0E || c == 0) then .alu op sd a b' c
    else .reserved
  else if op = 0x0F then
    if bf b 72 64 = 0 then .getv sd a (bf b 77 73) else .reserved
  else if op ≤ 0x15 then
    let imm := bf b 77 64
    if srcOk a && (op < 0x13 || imm < 32) then .imm op sd a imm else .reserved
  else if op = 0x16 then .upper true sd (bf b 83 64)
  else if op = 0x17 then .upper false sd (bf b 83 64)
  else if op = 0x18 then
    if bf b 69 64 = 0 ∧ bf b 86 78 ≠ 0 ∧ bf b 77 70 ≠ 0 then .loop (bf b 88 87) (bf b 86 78) (bf b 77 70)
    else .reserved
  else if op = 0x19 then
    if srcOk (bf b 84 79) && bf b 78 64 == 0 then .post (bf b 88 85) (bf b 84 79) else .reserved
  else if op = 0x28 ∨ op = 0x29 ∨ op = 0x2A then
    if bf b 71 64 = 0 ∧ (op ≠ 0x2A ∨ va = 0) then .vs op vd va (bf b 76 72) else .reserved
  else if op = 0x50 ∨ op = 0x51 then
    let h := tb b 73
    if bf b 72 64 = 0 ∧ (p ∨ h = false) then
      (if op = 0x50 then .vquant vd va (bf b 76 74) h else .vdeq vd va (bf b 76 74) h)
    else .reserved
  else if op = 0x60 then .vrng vd (bf b 82 78) (bf b 77 73) (bf b 72 68) (bf b 67 64)
  else
    let three := op == 0x23 || op == 0x3E
    let two := [0x20, 0x21, 0x22, 0x24, 0x25, 0x30, 0x31, 0x32, 0x33, 0x34, 0x35, 0x36, 0x37, 0x38, 0x39, 0x3A,
      0x3C, 0x3D].contains op
    let one := [0x26, 0x27, 0x40, 0x41, 0x42, 0x43, 0x48, 0x49, 0x58, 0x59, 0x5A, 0x5B].contains op
    let zero := op == 0x5C
    if tb b 64 then .reserved
    else if three || (two && vc == 0) || (one && vb == 0 && vc == 0) || (zero && va == 0 && vb == 0 && vc == 0) then
      .v3 op vd va vb vc
    else .reserved

/-- The X slot of a bundle (R146, R152, R154). -/
def xDecode (p : Bool) (b : Nat) : XOp :=
  let v := bf b 56 51
  let s := bf b 50 46
  let s1 := bf b 56 52
  let s2 := bf b 51 47
  let s3 := bf b 46 42
  match bOpX b with
  | 0x00 => if bf b 56 32 = 0 then .nop else .reserved
  | 0x01 => .spLdr v s (bf b 45 32)
  | 0x02 => .spStr v s (bf b 45 32)
  | 0x03 => .spLdc v s (bf b 45 35) (bf b 34 32)
  | 0x04 => .spStc v s (bf b 45 35) (bf b 34 32)
  | 0x05 => if p then .reserved else .cchLd v s (bf b 45 32)
  | 0x08 => .cisGet s1 s2 (bf b 40 32) (bf b 46 41 + 1)
  | 0x09 => .cisPut s1 s2 (bf b 40 32) (bf b 46 41 + 1)
  | 0x0A => if bf b 39 32 = 0 then .kvAppend s1 s2 s3 (tb b 41) (tb b 40) else .reserved
  | 0x0B =>
    let fmt := bf b 35 34
    let sum := tb b 33
    if fmt = 3 ∨ (fmt = 2 ∧ sum = true) ∨ tb b 32 = true then .reserved
    else .cmpcnt s1 s2 s3 (bf b 41 36 + 1) fmt sum
  | _ => .reserved

/-- The N slot of a bundle (R176, R177). -/
def nDecode (p : Bool) (b : Nat) : NOp :=
  match bOpN b with
  | 0x00 => if bf b 24 0 = 0 then .nop else .reserved
  | 0x01 => if bf b 24 22 < cellTiles p ∧ bf b 21 0 = 0 then .drain (bf b 24 22) else .reserved
  | 0x02 => if bf b 3 0 = 0 then .routePut (bf b 24 20) (bf b 19 10) (bf b 9 4 + 1) else .reserved
  | 0x03 => .routeGet (bf b 24 20) (bf b 19 15) (bf b 14 5) (bf b 4 0 + 1)
  | 0x04 => if bf b 1 0 = 0 then .redAdd (bf b 24 20) (bf b 19 10) (bf b 9 4 + 1) (bf b 3 2) else .reserved
  | 0x05 => if bf b 13 0 = 0 then .bar (bf b 24 20) (bf b 19 14) else .reserved
  | _ => .reserved

/-- Every slot of a bundle is assigned, and its reserved header bit is 0 (R133). -/
def bundleOk (p : Bool) (b : Nat) : Bool :=
  !tb b 124 && mDecode p b != .reserved && vDecode p b != .reserved && xDecode p b != .reserved &&
    nDecode p b != .reserved

/-- The 48-bit tally word of a bundle at a task-relative address (R93). -/
def tallyWord (a b : Nat) : Nat :=
  (a % 4096) * 2 ^ 32 + bHeader b * 2 ^ 28 + bOpM b * 2 ^ 21 + bOpV b * 2 ^ 14 + bOpX b * 2 ^ 7 + bOpN b

/-- Result of a scalar instruction of format R on 32-bit values (R140). -/
def aluR (op a b c : Nat) : Nat :=
  let w (x : Nat) := x % 2 ^ 32
  match op with
  | 0x01 => w (a + b)
  | 0x02 => w (a + (2 ^ 32 - b))
  | 0x03 => a &&& b
  | 0x04 => a ||| b
  | 0x05 => a ^^^ b
  | 0x06 => w (a <<< (b % 32))
  | 0x07 => a >>> (b % 32)
  | 0x08 => ofI32 (i32 a / 2 ^ (b % 32))
  | 0x09 => w (a * b)
  | 0x0A => if i32 a ≤ i32 b then a else b
  | 0x0B => if i32 a ≤ i32 b then b else a
  | 0x0C => b2n (decide (i32 a < i32 b))
  | 0x0D => b2n (decide (a < b))
  | _ => if a ≠ 0 then b else c

/-- Result of a scalar instruction of format I (R140). -/
def aluI (op a imm : Nat) : Nat :=
  match op with
  | 0x10 => ofI32 (i32 a + sext 14 imm)
  | 0x11 => a ||| imm
  | 0x12 => a &&& imm
  | 0x13 => (a <<< (imm % 32)) % 2 ^ 32
  | 0x14 => a >>> (imm % 32)
  | _ => ofI32 (i32 a / 2 ^ (imm % 32))

/-- Result of s.lui and s.li (R140). -/
def aluU (lui : Bool) (imm : Nat) : Nat := if lui then imm * 2 ^ 12 else ofI32 (sext 20 imm)

/-- One lane of a vector instruction of format V3 that works lane by lane (R168, R169, R170). -/
def laneV3 (op j a b c : Nat) : Nat :=
  match op with
  | 0x20 => f32Add a b
  | 0x21 => f32Sub a b
  | 0x22 => f32Mul a b
  | 0x23 => f32Fma a b c
  | 0x24 => f32Max a b
  | 0x25 => f32Min a b
  | 0x26 => bf a 30 0
  | 0x27 => a ^^^ 0x80000000
  | 0x30 => aluR 0x01 a b 0
  | 0x31 => aluR 0x02 a b 0
  | 0x32 => aluR 0x09 a b 0
  | 0x33 => aluR 0x0B a b 0
  | 0x34 => aluR 0x0A a b 0
  | 0x35 => a &&& b
  | 0x36 => a ||| b
  | 0x37 => a ^^^ b
  | 0x38 => aluR 0x06 a b 0
  | 0x39 => aluR 0x07 a b 0
  | 0x3A => aluR 0x08 a b 0
  | 0x3C => b2n (f32Ge a b)
  | 0x3D => b2n (decide (i32 b ≤ i32 a))
  | 0x3E => if a ≠ 0 then b else c
  | 0x40 => f32Exp2 a
  | 0x41 => f32Log2 a
  | 0x42 => f32Rcp a
  | 0x43 => f32Rsqrt a
  | 0x48 => cvtF32I32 a
  | 0x49 => cvtI32F32 a
  | _ => j

/-- A V3 instruction whose lanes depend on all lanes of a: vrsum, vrmax, vscan, vfirst (R168, R169). -/
def crossV3 (op : Nat) (a : List Nat) : Option (List Nat) :=
  match op with
  | 0x58 => some (List.replicate 32 (f32Sum a))
  | 0x59 => some (List.replicate 32 (a.tail.foldl f32Max (a.headD 0)))
  | 0x5A => some (f32Scan a)
  | 0x5B => some (List.replicate 32 ((a.findIdx? (· ≠ 0)).getD 32))
  | _ => none

/-- Latency of a vector instruction (R168): 14 for the transcendental ones and vrng. -/
def latV3 (op : Nat) : Nat := if 0x40 ≤ op ∧ op ≤ 0x43 then 14 else 6

/-- Cycles a wld holds the matrix port (R74). -/
def wldCycles (p : Bool) (f : Nat) : Nat := fmtNibbles f * (if p then 4 else 1)

/-- Cycles a matrix instruction holds the engine (R76, R118). -/
def mmaCycles (fw fa n : Nat) (ref : Bool) : Nat :=
  let w := max (fmtNibbles fw) (fmtNibbles fa)
  let m := if w = 1 then 1 else if w = 2 then 4 else 16
  n * m * (if ref then 2 else 1)

/-- Cycles an accumulator move of b bytes holds the matrix port (R163). -/
def accCycles (b : Nat) : Nat := (b + 511) / 512

end Sys2Proof.Machine
end

