-- ==== Sys2Proof/Machine/Tbl.lean ====
section
/-! DEFINITION. Sparse tables in one canonical form: keys strictly rising, no entry equal to what an unlisted key reads
as. Memories, register files and the per-element records of the wafer are tables. -/

namespace Sys2Proof.Machine

/-- A sparse table from Nat keys, lowest key first. -/
abbrev Tbl (α : Type) := List (Nat × α)

/-- The value at a key; `d` where the key is not listed. -/
def tget {α : Type} (d : α) : Tbl α → Nat → α
  | [], _ => d
  | (k, v) :: m, i => if k = i then v else tget d m i

/-- Remove a key. -/
def tdel {α : Type} : Tbl α → Nat → Tbl α
  | [], _ => []
  | (k, v) :: m, i => if k = i then m else (k, v) :: tdel m i

/-- Put a value at a key, keeping the keys rising; the value is assumed not to be the default. -/
def tput {α : Type} : Tbl α → Nat → α → Tbl α
  | [], i, v => [(i, v)]
  | (k, w) :: m, i, v =>
    if i < k then (i, v) :: (k, w) :: m
    else if k = i then (k, v) :: m
    else (k, w) :: tput m i v

/-- Write a value at a key; writing the default removes the entry. -/
def tset {α : Type} [DecidableEq α] (d : α) (m : Tbl α) (i : Nat) (v : α) : Tbl α :=
  if v = d then tdel m i else tput m i v

/-- Change the value at a key by a function. -/
def tmod {α : Type} [DecidableEq α] (d : α) (m : Tbl α) (i : Nat) (f : α → α) : Tbl α :=
  tset d m i (f (tget d m i))

/-- Write consecutive keys. -/
def tsetMany {α : Type} [DecidableEq α] (d : α) (m : Tbl α) : Nat → List α → Tbl α
  | _, [] => m
  | i, v :: vs => tsetMany d (tset d m i v) (i + 1) vs

/-- Read consecutive keys. -/
def tgetMany {α : Type} (d : α) (m : Tbl α) (i n : Nat) : List α :=
  (List.range n).map fun j => tget d m (i + j)

/-- Change every listed entry by a function of key and value, dropping those that become the default. -/
def tmapAll {α : Type} [DecidableEq α] (d : α) (f : Nat → α → α) : Tbl α → Tbl α
  | [] => []
  | (k, v) :: m => if f k v = d then tmapAll d f m else (k, f k v) :: tmapAll d f m

/-- The canonical form: keys strictly rising, no entry equal to the default. -/
def tblWf {α : Type} [DecidableEq α] (d : α) : Tbl α → Bool
  | [] => true
  | [(_, v)] => v ≠ d
  | (k, v) :: (k', v') :: m => decide (v ≠ d) && decide (k < k') && tblWf d ((k', v') :: m)

end Sys2Proof.Machine
end

