-- ==== Sys2Proof/Machine/CellState.lean ====
section
/-! DEFINITION. State of the wafer's repeated parts: cells, compute sites, routers, flits in flight and fields. -/

namespace Sys2Proof.Machine

/-- A 32-bit value with its poison flag (R131, R209). -/
structure PWord where
  val    : Word := 0
  poison : Bool := false
deriving DecidableEq, Repr

/-- A 40-bit accumulator word with its poison flag (R111, R125). -/
structure PA40 where
  val    : BitVec 40 := 0
  poison : Bool := false
deriving DecidableEq, Repr

/-- A root or level word as an accumulator element stores it (R124): the 40 bits and their two parity bits, bit 1 over
[39:20] and bit 0 over [19:0]. -/
structure AccWord where
  val : BitVec 40 := 0
  par : BitVec 2 := 0
deriving DecidableEq, Repr

/-- One element of an accumulator tile (R112): the root, levels L0 to L7 (`none` = not used), poison and saturation. -/
structure AccElem where
  root   : Option AccWord := none
  levels : List (Option AccWord) := [none, none, none, none, none, none, none, none]
  poison : Bool := false
  sat    : Bool := false
  /-- FIRST has emptied it and nothing has written its root since (R113). -/
  emptied : Bool := false
deriving DecidableEq, Repr

/-- What a tile column carries (R119): integer accumulation, and reference-order mode of the open tree. -/
structure ColKind where
  int : Bool := false
  ref : Bool := false
deriving DecidableEq, Repr

/-- A weight slot (R75, R158): its format code, its block bytes, and the poison of each 32-bit word of them. -/
structure WSlot where
  fmt    : BitVec 3 := 0
  bytes  : Bytes := []
  poison : List Bool := []
  /-- number of the wld that loaded it, counted within the layer (R358). -/
  wld    : Nat := 0
deriving DecidableEq, Repr

/-- A scratchpad (R186): bytes by physical byte address, an unlisted byte reads 0 (R206); poison marks by word
address, byte address div 4 (R207). -/
structure Scratch where
  bytes  : List Host.Cell := []
  poison : Tbl Bool := []
deriving DecidableEq, Repr

/-- One line of a cis.get on its way (R149, R218, R220): its snapshot, whether its access has started, whether it has
landed, and the budget time of its landing cycle. -/
structure LineMove where
  line    : Nat
  data    : List PWord
  started : Bool := false
  landed  : Bool := false
  /-- it was not in the landing buffer at its landing cycle: LATE (R220). -/
  missed  : Bool := false
  landAt  : Nat := 0
  /-- the slot from which it is in the landing buffer, once its access has started (R217). -/
  readyAt : Nat := 0
deriving DecidableEq, Repr

/-- The content of a result not yet delivered. -/
inductive Delivery where
  | scalar (sd : Nat) (v : PWord)
  | vector (vd : Nat) (lanes : List PWord)
  | slot (ws : Nat) (w : WSlot)
  /-- the two lines of a cch.ld (R152), poisoned at c + 180 where their access was turned away. -/
  | cache (vd : Nat) (lanes : List PWord)
  /-- leaves of a matrix instruction, already rounded by enter(x): column, row, leaves in K order (R114). -/
  | leaves (t c0 : Nat) (first ref int : Bool) (cols : List (List (List PA40)))
  /-- a drain, with the elements, column * 64 + row, that a failed check of its adds touched (R125). -/
  | drain (t : Nat) (failed : List Nat)
  | accLoad (t c0 : Nat) (int : Bool) (cols : List (List PA40))
  | accRestore (t : Nat) (mask : BitVec 64) (cols : List (List PA40))
  /-- words into the scratchpad at a physical word address (R148, R163). -/
  | spWrite (word : Nat) (data : List PWord)
  /-- lines of a cis.get into scratchpad units from a physical unit; units out of bound are left out (R149). -/
  | cisGet (unit : Nat) (inBound : List Bool) (lines : List LineMove)
deriving DecidableEq, Repr

/-- A result not yet delivered (R52): the budget time it is due, the slot it issued from (0 M, 1 V, 2 X, 3 N; 4 a unit
from the network), what it is, and the task and bundle that issued it, which a fault of its delivery captures (R97). -/
structure Pending where
  due  : Nat
  slot : Nat
  what : Delivery
  task : Nat := 0
  bundle : Nat := 0
deriving DecidableEq, Repr

/-- A counted loop in progress (R141): counter, first and last body address, iterations still to run after this one. -/
structure LoopFrame where
  lc    : Nat
  first : Nat
  last  : Nat
  left  : Nat
deriving DecidableEq, Repr

/-- The three base-and-bound pairs of a task and its VALID bit (R84, R98). -/
structure TaskRegs where
  ibase  : Nat := 0
  ibound : Nat := 0
  sbase  : Nat := 0
  sbound : Nat := 0
  cbase  : Nat := 0
  cbound : Nat := 0
  valid  : Bool := false
deriving DecidableEq, Repr

/-- What the loader puts into a cell for one plan image: the registers it writes (CE_LOGICAL, CE_CTRL, the task
registers), the segment table, the route table, and the cell's records of R165, R198, R204, R219 and R273. A cell has
a staged and an active image (R86, R251). -/
structure CellImage where
  logical : Word := 0
  ctrl    : Word := 2
  tasks   : Tbl TaskRegs := []
  segtab  : Tbl (BitVec 128) := []
  routes  : Tbl (BitVec 64) := []
  idle    : Nat := 0
  segMask : BitVec 16 := 0
  cacheZ  : Nat := 0
  parts   : List (Nat × Nat) := []
  restore : List (Nat × BitVec 64) := []
  map     : List AccessRec := []
  /-- resident units of the plan, physical (R493). -/
  resident : List Nat := []
  /-- bundles of the code block in the cell's zone (R288). -/
  blockLen : Nat := 0
deriving DecidableEq, Repr

/-- The fault registers of a cell (R96, R97). -/
structure CellFaults where
  status : BitVec 11 := 0
  task   : BitVec 3 := 0
  bundle : BitVec 12 := 0
  stroke : BitVec 60 := 0
  extra  : BitVec 16 := 0
  addr   : BitVec 25 := 0
  /-- the capture is of an arriving unit or a remote read (SCOPE 5, R97). -/
  remote : Bool := false
  /-- the budget time of the capture: causes raised in the same cycle share it (R97). -/
  taken  : Nat := 0
  /-- the stroke in which the bits still to be reported were raised (R302). -/
  newBits : BitVec 11 := 0
deriving DecidableEq, Repr

/-- How a cell stands in the current working stroke (R88, R556). -/
inductive IssueState where
  | idle
  | running
  | ended
deriving DecidableEq, Repr

/-- A tag of the cache (R199): its way, the even cistern line the way holds or is being filled with, and whether the fill
has been written (R200). The tags of a set are kept most recently used first; a way without a tag is invalid. -/
structure CacheWay where
  way    : Nat
  line   : Nat
  filled : Bool := true
deriving DecidableEq, Repr

/-- A cch.ld miss on its way (R200): when its fill is due, the partition's task, the set and way, the even line, the
fetched words, the scratchpad word where the way begins, and whether the fill is dropped (R200, R201). -/
structure CacheFillRec where
  due   : Nat
  task  : Nat
  set   : Nat
  way   : Nat
  line  : Nat
  data  : List PWord
  word  : Nat
  stale : Bool := false
  /-- the slot from which its line is in the landing buffer, once its access has started (R217). -/
  readyAt : Option Nat := none
deriving DecidableEq, Repr

/-- One matrix instruction's part in a sampled tree (R357): the weight block with its format and its wld number, the
token column with its format, REF and INT, and how many drains of the tile came before it. -/
structure SampleLeaf where
  w    : Bytes
  fw   : BitVec 3
  wld  : Nat
  a    : Bytes
  fa   : BitVec 3
  ref  : Bool
  int  : Bool
  poison : Bool
deriving DecidableEq, Repr

/-- A tree that the assay unit samples in a cell, as captured so far (R355 to R357): layer, tile, column, whether the
layer's form in force is wide, the leaves in order, and the drained values once delivered. -/
structure SampleRec where
  layer   : Nat
  wide    : Bool
  task    : Nat
  tile    : Nat
  column  : Nat
  leaves  : List SampleLeaf := []
  closed  : Bool := false
  drained : Option (List PA40) := none
  stroke  : BitVec 60 := 0
  work    : Nat := 0
  /-- its shadow blocks have been asked for; the lines read so far, with their bytes and whether they came poisoned (R359). -/
  asked   : Bool := false
  read    : List (Nat × Bytes × Bool) := []
deriving DecidableEq, Repr

/-- One physical cell (R71). -/
structure CellState where
  sreg     : Tbl PWord := []
  vreg     : Tbl PWord := []
  lc       : Tbl (BitVec 32) := []
  ws0      : WSlot := {}
  ws1      : WSlot := {}
  /-- tile elements by t * 4096 + column * 64 + row. -/
  acc      : Tbl AccElem := []
  /-- column kinds by t * 64 + column. -/
  kinds    : Tbl ColKind := []
  istore   : Tbl (BitVec 128) := []
  active   : CellImage := {}
  staged   : Option CellImage := none
  sp       : Scratch := {}
  faults   : CellFaults := {}
  storeCorr : Word := 0
  storeRej  : Word := 0
  /-- CE_TALLY_LAST (R94). -/
  tallyExpected : BitVec 16 := 0
  tallyComputed : BitVec 16 := 0
  /-- CE_STATUS (R98). -/
  seg      : Nat := 0
  task     : Nat := 0
  ranLast  : Bool := false
  /-- the entry that runs next; `none` = START_SEG (R88). -/
  nextSeg  : Option Nat := none
  issue    : IssueState := .idle
  pc       : Nat := 0
  cycle    : Nat := 0
  loops    : List LoopFrame := []
  crc      : BitVec 16 := 0xFFFF
  pend     : List Pending := []
  /-- barrier trees the cell arrived on in this stroke, with the register that takes each result (R185). -/
  bars     : List (Nat × Nat) := []
  /-- cache tags by task * 65536 + set (R199). -/
  cache    : Tbl (List CacheWay) := []
  fills    : List CacheFillRec := []
  /-- background work (R205, R210). -/
  scrubUnit : Nat := 0
  /-- tiles of waking segments still to be written with zeros (R205, R210). -/
  waking   : List Nat := []
  /-- stroke of the last slack work and its slack cycles used in that stroke (R210). -/
  slackAt  : Nat := 0
  slackUsed : Nat := 0
  /-- digest of the resident units recorded at the end of the prologue (R506). -/
  residentRef : Option (BitVec 256) := none
  /-- board time of the last scrub pass that matched it (R507). -/
  matchAt  : Nat := 0
  /-- scratchpad events of the stroke awaiting report, counts by class * 16384 + unit; class 0 inner correction,
  1 outer correction, 2 poison (R211). -/
  spEvents : Tbl Nat := []
  /-- the layer sample being captured (R355 to R357). -/
  sample   : Option SampleRec := none
  /-- idle entry being run this stroke (R494). -/
  ranIdle  : Bool := false
  /-- classification holds the cell as RUN = 0 (R499). -/
  held     : Bool := false
  /-- board time of the last passing proof run (R509). -/
  proofAt  : Option Nat := none
  /-- layer of the entry being run and the number of wlds issued within the layer (R358). -/
  layer    : Option Nat := none
  wlds     : Nat := 0
  /-- working strokes of the last mailbox write and outbox read (R311, R312). -/
  mailAt   : Nat := 0
  outAt    : Nat := 0
deriving DecidableEq, Repr

/-- What the loader puts into a compute site for one plan image (R230, R251, R252, R264). -/
structure SiteImage where
  masks    : Tbl (BitVec 16) := []
  barriers : Tbl (BitVec 16) := []
  regionBase : Tbl (BitVec 32) := []
  regionCtrl : Tbl (BitVec 32) := []
deriving DecidableEq, Repr

/-- What a listed access does (R149, R152, R200). -/
inductive AccessKind where
  | get | put | cache
deriving DecidableEq, Repr

/-- Why the controller turns an access away or poisons it (R221, R222, R230). -/
inductive Denied where
  | bank | region | order
deriving DecidableEq, Repr

/-- A listed access waiting on a channel (R218): the cell that issued it and its logical index, its listed activation slot counted
from where board time's slots begin, the lines of its burst, the budget times of issue and of delivery, and what a fault of it
captures (R97). -/
structure AccessReq where
  cell   : Nat
  logical : Nat
  slot   : Nat
  kind   : AccessKind
  lines  : List Nat
  issued : Nat
  due    : Nat
  denied : Option Denied
  task   : Nat
  bundle : Nat
  rel    : Nat
deriving DecidableEq, Repr

/-- A write in the line guard (R222): line, bytes at an offset of it, poison of the data, the budget times of its issue
and delivery and the logical cell; one the controller turns away has `live` false. -/
structure GuardEntry where
  line   : Nat
  offset : Nat
  data   : Bytes
  poison : Bool
  issued : Nat
  due    : Nat
  cell   : Nat
  live   : Bool
  /-- its delivery has invalidated the cache lines that hold the line (R201). -/
  seen   : Bool := false
deriving DecidableEq, Repr

/-- An access that has started on a channel (R216): its activation slot, its bank group and bank, and whether it writes. -/
structure ChanStart where
  slot  : Nat
  group : Nat
  bank  : Nat
  write : Bool
deriving DecidableEq, Repr

/-- A background transfer of a controller (R232), in the order of that rule. -/
inductive Transfer where
  | refill (line : Nat) (data : Bytes)
  | stage (line : Nat) (data : Bytes)
  | sweep (src dst lines : Nat)
  | farTier (line : Nat) (data : Bytes)
  | farRead (line lines : Nat)
  | shadow (line lines : Nat)
  | digest (line lines : Nat)
deriving DecidableEq, Repr

/-- State of a cistern channel pair (CS_STATUS.STATE, R233 to R235). -/
inductive CisState where
  | off | training | initialising | ready | selfRefresh
deriving DecidableEq, Repr

/-- One contribution to a reduction tree held in a crossbar or a router (R252, R254): tree, unit, the port it came by
(at a crossbar the contributing logical cell; at a router 0 N, 1 E, 2 S, 3 W, 4 crossbar, 5 the preceding entry), the
OP, the data, the budget time at which it would enter its next link, and whether it has been combined. -/
structure RedInput where
  tid    : Nat
  unit   : Nat
  port   : Nat
  op     : Nat
  data   : List PWord
  due    : Nat
  done   : Bool := false
deriving DecidableEq, Repr

/-- One compute site: cluster logic, assay unit, cistern controller and slice (R21, R99, R235). -/
structure SiteState where
  /-- the slice: bytes by line * 64 + offset, an unlisted byte reads 0 (R234); poison marks by line (R228). -/
  mem       : List Host.Cell := []
  linePoison : Tbl Bool := []
  active    : SiteImage := {}
  staged    : Option SiteImage := none
  /-- provisional regions (R373). -/
  provisional : Bool := false
  cisState  : CisState := .off
  chaOk     : Bool := false
  chbOk     : Bool := false
  csCtrl    : Word := 0x403
  errStatus : BitVec 7 := 0
  errLine   : BitVec 24 := 0
  errStroke : BitVec 60 := 0
  innerCorr : Word := 0
  outerCorr : Word := 0
  poisonCount : Word := 0
  lateCount : Word := 0
  refreshCount : Word := 0
  scrubPos  : BitVec 22 := 0
  scrubPasses : Word := 0
  /-- stroke of the last scrubbing and the bursts scrubbed in it on channels A and B (R229). -/
  scrubAt   : Nat := 0
  scrubA    : Nat := 0
  scrubB    : Nat := 0
  queueA    : List AccessReq := []
  queueB    : List AccessReq := []
  /-- the accesses last started on channels A and B that may still hold others back (R216). -/
  startsA   : List ChanStart := []
  startsB   : List ChanStart := []
  /-- stroke in which burst positions were last used, and how many on channels A and B (R215, R229). -/
  usedAt    : Nat := 0
  usedA     : Nat := 0
  usedB     : Nat := 0
  /-- the last refresh command: epoch * 256 + slot (R223). -/
  refreshLast : Option Nat := none
  guard     : List GuardEntry := []
  transfers : List Transfer := []
  /-- staging lines that do not match the check value stored beside their segment, with the segment's number in the image (R408,
  R409). -/
  stageBad  : List (Nat × Nat) := []
  /-- a landing missed or a result outstanding makes the cluster not done (R220, R263). -/
  late      : Bool := false
  /-- CL_ registers (R99). -/
  faultCount : Word := 0
  selValue  : BitVec 64 := 0
  selValid  : BitVec 16 := 0
  assayCtrl : Word := 0x1C
  assayCount : Word := 0
  assayExceed : Word := 0
  /-- eligible trees counted, and the cell whose sample is unfinished (R356). -/
  eligible  : Nat := 0
  sampling  : Option (Fin 18) := none
  /-- compared sample waiting to be reported (R363): layer, deviation, exceeded, fault, cell, drain stroke. -/
  report    : Option (Nat × Word × Bool × Bool × Fin 18 × BitVec 60) := none
  /-- poisoned lines of kinds 0 and 4 to report (R492). -/
  weightPoison : List Nat := []
  /-- cistern events of the stroke awaiting report: lines corrected and lines poisoned (R229), with the first line. -/
  evCorr    : Nat := 0
  evPoison  : Nat := 0
  evLine    : Nat := 0
  /-- contributions waiting at the crossbar (R252). -/
  held      : List RedInput := []
  /-- regulator phases (R443). -/
  vlogicBad : List Nat := []
  varrayBad : List Nat := []
  dark      : Bool := false
  /-- VLOGIC and VARRAY are up (R446). -/
  up        : Bool := false
  shareBad  : Bool := false
  /-- sensor pair of the site (R467): rounds in disagreement, in agreement, suspect. -/
  disagree  : Nat := 0
  agree     : Nat := 0
  suspect   : Bool := false
  /-- restore images present (R461). -/
  imageStaged : Bool := false
  imageActive : Bool := false
deriving DecidableEq, Repr

/-- What the loader puts into a router (R247, R253): weir slots by ((output * 4 + plane) * 64 + slot), and nodes. -/
structure RouterImage where
  weirs : Tbl (BitVec 2) := []
  nodes : Tbl (BitVec 64) := []
deriving DecidableEq, Repr

/-- One router (R240, R250, R253). -/
structure RouterState where
  active : RouterImage := {}
  staged : Option RouterImage := none
  held   : List RedInput := []
  /-- events of the stroke awaiting report: CRC, weir, dark target, link down, node check, clamps (R246 to R267). -/
  evCrc  : Nat := 0
  evWeir : Nat := 0
  evDark : Nat := 0
  evDown : Nat := 0
  evNode : Nat := 0
  evClamp : Nat := 0
deriving DecidableEq, Repr

/-- A flit in a router of the mesh (R241): its 600 bits, the router that holds it (X, Y), the leg it travels, its
plane, and for a reduction the output it leaves by. `enter` is the budget time in which it enters its next link (R244),
`due` its arrival at the far cell, or, for a flit that leaves through a cascade port, the budget time c + u of its issue
(R426). `via` is the node entry of a local delivery (R253). `beyond` is what the number of its unit has above the header's 14 bits
(log entry 13), `lost` that its destination address was poisoned: the unit is discarded (R131). -/
structure Flit where
  bits  : BitVec 600
  x     : Nat
  y     : Nat
  leg   : Nat
  plane : Nat
  out   : Nat
  enter : Nat
  due   : Nat
  home  : Bool
  via   : BitVec 64 := 0
  beyond : Nat := 0
  lost   : Bool := false
deriving DecidableEq, Repr

/-- A get request that has reached its far cell (R180, R245): requester X, Y, logical cell and task, far router, cell
and task, source unit, destination unit, count, the budget time c + L and L, the route head of the request and its
plane and tenant, whether the request arrived poisoned, and whether its destination address was poisoned. -/
structure GetReq where
  srcX   : Nat
  srcY   : Nat
  srcCell : Nat
  srcTask : Nat
  x      : Nat
  y      : Nat
  cell   : Nat
  task   : Nat
  srcUnit : Nat
  dstUnit : Nat
  n      : Nat
  time   : Nat
  lat    : Nat
  head   : Nat
  plane  : Nat
  tenant : Nat
  poison : Bool
  lost   : Bool := false
deriving DecidableEq, Repr

/-- Domain of a field (PW_FLDf_STATUS.DOMAIN, R266, R267, R464). -/
inductive Domain where
  | running | dark | hole | off
deriving DecidableEq, Repr

/-- A selector post on its way (R145, R258): cell, channel, value and the working stroke of the post. -/
structure Post where
  cell  : CellAddr
  chan  : Fin 16
  value : BitVec 4
  work  : Nat
  /-- 0 = to the field controller, 1 = at the field controller, 2 = at the wafer manager. -/
  stage : Fin 3
deriving DecidableEq, Repr

/-- What has been published on a channel for the next latch (R89, R91). -/
structure Publication where
  value : BitVec 4 := 0
  count : Nat := 0
  /-- the field controller refused the command (R512). -/
  refused : Bool := false
deriving DecidableEq, Repr

/-- An error record (R488) before its 32-byte form: the location is word 1 of R300. -/
structure ErrRec where
  severity : Nat
  combined : Bool := false
  stroke   : BitVec 60
  location : BitVec 64
  count    : Word := 1
  detail   : Word := 0
  handle   : BitVec 64 := 0
  /-- the event's work stroke and cell kind, for R494; `none` = router, repeater, port or module. -/
  inCell   : Option CellAddr := none
  idleCell : Bool := false
  /-- board times of the last matching and of the failing digest pass, for code 0x8E (R507). -/
  times    : Option (Nat × Nat) := none
  /-- the cause beside the code by which a test pack assigns a kernel: the cell's fault bit, 0 for any other event (R499, R508). -/
  cause    : Nat := 0
deriving DecidableEq, Repr

/-- What a message on the control network asks of a field (R256, R257): a register access, or a field controller's command. -/
inductive CtrlBody where
  | access (addr : BitVec 64) (write : Option (BitVec 128))
  | command (cmd : FcCmd)
deriving DecidableEq, Repr

/-- A message that waits for the control link into a field: its class, its words still to be sent, its content (R257). -/
structure CtrlMsg where
  cls   : Nat
  words : Nat
  body  : CtrlBody
deriving DecidableEq, Repr

/-- One field (R20, R464, R483, R538). -/
structure FieldState where
  domain   : Domain := .off
  northSpine : Bool := false
  masked   : Bool := false
  convBad  : List Nat := []
  fuseOpen : Bool := false
  v1       : Nat := 720
  v1Steps  : Nat := 0
  v1Call   : Bool := false
  wake     : Bool := false
  wakeStep : Nat := 0
  /-- local tick at which the ramp in progress began (R446). -/
  wakeAt   : Nat := 0
  spreads  : BitVec 16 := 0
  phaseFails : BitVec 16 := 0
  amps     : BitVec 12 := 0
  powerSum : Nat := 0
  ampSum   : Nat := 0
  lastBranch : Nat := 0
  /-- the stroke and epoch in which supply or clock was lost (R268). -/
  lostStroke : Option (BitVec 60) := none
  /-- selector publications for the next latch, by channel (R89). -/
  pubs     : Tbl Publication := []
  /-- FC_ registers (R538). -/
  fcCtrl   : Word := 0x40
  fcErr    : BitVec 4 := 0
  spInner  : Word := 0
  spOuter  : Word := 0
  spPoison : Word := 0
  linkCrc  : Word := 0
  weir     : Word := 0
  darkTgt  : Word := 0
  linkDown : Word := 0
  nodeCheck : Word := 0
  clamp    : Word := 0
  cmdRej   : Word := 0
  queue    : List ErrRec := []
  /-- coalesced events by class (R489). -/
  coalesced : Tbl Nat := []
  /-- board times of records of severity deferred or higher within 100,000 ticks (R489). -/
  storm    : List Nat := []
  stormed  : Bool := false
  /-- corrected events by board time within 3,600 s (FC_CTRL.CORR_ALERT). -/
  corrTimes : List Nat := []
  missed   : Nat := 0
  restarting : Bool := false
  epochSeen : Nat := 0
  /-- the number of the next epoch as EPOCH has carried it, and how many of its bits have come (R265). -/
  epochBits : BitVec 48 := 0
  epochGot : Nat := 0
  /-- messages that wait for the control link into the field, the word time at which it is free, and the words that it has given to
  other classes since class 3 had one (R257). -/
  ctrlQueue : List CtrlMsg := []
  ctrlFree : Nat := 0
  ctrlRun  : Nat := 0
  /-- TH_FLDf (R483): temperatures, governing site and position, over, trips, off for heat. -/
  tL       : Nat := 0
  tLSite   : Nat := 0
  tD       : Nat := 0
  tDPos    : Nat := 0
  hot      : Bool := false
  tripLogic : Bool := false
  tripDram : Bool := false
  offHeat  : Bool := false
  /-- dark by an analog trip until it returns (R471). -/
  tripped  : Bool := false
  /-- which comparators tripped it: the bits set again while it has not cooled down (R483). -/
  tripWasLogic : Bool := false
  tripWasDram : Bool := false
  coolRounds : Nat := 0
  hotEpochs : Nat := 0
  history  : List Nat := []
  dramDisagree : Tbl Nat := []
  dramAgree : Tbl Nat := []
  dramSuspect : Tbl Bool := []
  implausible : Nat := 0
  means    : List Nat := []
  eol      : Nat := 1023
  slow     : Nat := 0
  margin   : Nat := 0
  eols     : Tbl Nat := []
deriving DecidableEq, Repr

end Sys2Proof.Machine
end

