-- ==== Sys2Proof/Machine/ModuleState.lean ====
section
/-! DEFINITION. State of the module as a whole: time, scheduled events, plans, serving, KV pages, weights, ports,
cascade, power, heat, faults and management. -/

namespace Sys2Proof.Machine

/-- The arithmetic clock (R58, R63). -/
inductive Clock where
  | base
  | boost
deriving DecidableEq, Repr

/-- Where boost entry or exit stands (R63). -/
inductive BoostStep where
  | none
  /-- VLOGIC has risen; the clock follows at the next curb stroke. -/
  | entering
  | inBoost
  /-- the clock has fallen; VLOGIC returns at the next curb stroke. -/
  | leaving
deriving DecidableEq, Repr

/-- Board time, strokes and epochs (R37 to R66). -/
structure TimeState where
  localTicks : BitVec 64 := 0
  /-- signed trim offset in ticks (R37). -/
  trim       : Int := 0
  established : Bool := false
  /-- ticks of a negative trim still to hold (R44). -/
  hold       : Nat := 0
  refLost    : Bool := false
  refReturned : Bool := false
  lostTicks  : Nat := 0
  missRun    : Nat := 0
  missCount  : Nat := 0
  beatErrors : Nat := 0
  /-- a time fault stops the data path at the next stroke start; the count is re-aligned at the next beat (R39). -/
  timeFault  : Bool := false
  realign    : Bool := false
  epoch      : Nat := 0
  epochStart : Nat := 0
  period     : Nat := 32
  stroke     : Nat := 0
  clock      : Clock := .base
  boost      : BoostStep := .none
  boostVolts : Bool := false
  /-- working strokes the data path has entered: the base of budget time (R52). -/
  work       : Nat := 0
  /-- local tick at which the data path's last working stroke began, and that of the last curb stroke's start (R215, R223). -/
  workTick   : Nat := 0
  curbTick   : Nat := 0
  /-- working-stroke count of the plan (R558). -/
  w          : Nat := 0
  /-- an activation has taken effect: the next working stroke has w = 0. -/
  wStart     : Bool := true
  /-- step and duration of the last reference loss (R41). -/
  lossStep   : Nat := 0
  lossTicks  : Nat := 0
  /-- strokes run: start-up has set board time (R42). -/
  running    : Bool := false
  /-- the data path runs (R51). -/
  dataPath   : Bool := false
  /-- the current stroke was entered with go. -/
  inStroke   : Bool := false
  called     : Bool := false
  overrun    : Bool := false
  overrunField : Option Field := none
  /-- the cluster of the field that reported first in which a line was late (R220). -/
  overrunCistern : Option Nat := none
  supplyLoss : Bool := false
  droop      : Nat := 0
  /-- cells resume idle entries at a working stroke at or after this one, of even w (R558). -/
  resumeAt   : Option Nat := none
  /-- trims named: epoch and ticks (R45). -/
  trims      : List (Nat × Int) := []
  /-- barrier results returned with the last START: bit b = tree b complete (R264). -/
  barResult  : BitVec 64 := 0
  barPartial : BitVec 64 := 0
deriving DecidableEq, Repr

/-- Kinds of scheduled event (R54); the payload is the recipe of an activation or recipe event, the target of a ladder
event, or the transaction of a commit. -/
inductive EventKind where
  | commit (txn : BitVec 16)
  | firmware
  | testPack
  | activation (recipe : Option (List Nat))
  | recipe (layers : List Nat)
  | swap
  | install
  | proof
  | ladder (target : Nat)
deriving DecidableEq, Repr

/-- A pending event (R57). -/
structure Event where
  number : Nat
  epoch  : Nat
  kind   : EventKind
deriving DecidableEq, Repr

/-- What holds the input barrier closed (R309). -/
inductive BarrierHold where
  | activation | rotation | fieldLoss | heat | recipe | install | swap | reactivation | rePlacement | banked | prologue
deriving DecidableEq, Repr

/-- An activation the wafer manager names itself (R557). -/
inductive OwnKind where
  | reactivate | holeVariant (w : BitVec 2) (f : Field) | heatOff (w : BitVec 2) (f : Field) | heatReturn (w : BitVec 2) (f : Field)
  | rePlace | rotation
deriving DecidableEq, Repr

structure OwnEvent where
  kind  : OwnKind
  epoch : Nat
deriving DecidableEq, Repr

/-- The header of a plan file (R270). -/
structure PlanHeader where
  isaLevel : Nat
  latClass : Nat
  budget   : Nat
  periodFloor : Nat
  boost    : Bool
  regions  : Bool
  wafers   : Nat
  cascade  : Nat
  rotations : Nat
  holeMask : List (BitVec 48)
  holeVariants : List (BitVec 48)
  weightLayout : BitVec 256
  digest   : BitVec 256
  drain    : Nat
  prologue : Nat
  kvLayout : Word
  sections : Nat
  length   : Nat
deriving DecidableEq, Repr

/-- An amendment or withdrawal of the defect map (R503). -/
structure Amendment where
  kind  : Nat
  field : Field
  index : Nat
  phys  : Nat
  time  : Nat
  code  : Nat
deriving DecidableEq, Repr

/-- A plan as the module keeps it: header, content, region bases by symbol, the key it runs or is staged with, and the defects
that its mapping was made under when it entered staging (R286). -/
structure Plan where
  header : PlanHeader
  body   : PlanBody
  bases  : List (Nat × Nat)
  key    : BitVec 16
  mapped : List Amendment := []
  /-- the regions of every board position of the file, in the order of positions (R289, R373). -/
  regionsAt : List (List RegionRec) := []
deriving DecidableEq, Repr

/-- States of a pending plan (R293). -/
inductive PlanStage where
  | receiving | checking | checked | staged
deriving DecidableEq, Repr

/-- Plans on the module (R293 to R302). -/
structure PlanState where
  active  : Option Plan := none
  pending : Option Plan := none
  stage   : Option PlanStage := none
  /-- recipe in force and staged: layers that are wide (R365 to R369). -/
  recipe  : List Nat := []
  recipeStaged : Option (List Nat) := none
  /-- load status, a code of R516 (R299). -/
  loadStatus : Nat := 0
  findings : List (BitVec 64 × BitVec 64 × BitVec 64 × BitVec 64) := []
  findingCount : Nat := 0
  checkEpoch : Nat := 0
  /-- board position and field whose hole variant runs (R276, R297). -/
  holeVariant : Option (BitVec 2 × Field) := none
  /-- hole or dark field whose variant is being staged (R297), and the key held before (R298). -/
  staging : Option OwnKind := none
  prevKey : BitVec 16 := 0
  rotationDue : Bool := false
  rotationAt : Option Nat := none
  rotationRetry : Bool := false
  /-- epoch at whose curb stroke the prologue ends and the barrier reopens (R295). -/
  prologueEnd : Option Nat := none
  holds   : List BarrierHold := []
  /-- stroke number at which the rotation interval began (R296). -/
  rotationFrom : Nat := 0
  /-- board time from which an abandoned activation for heat may be named again (R298). -/
  heatRetryAt : Nat := 0
deriving DecidableEq, Repr

/-- State of a request (R303). -/
inductive ReqState where
  | intake | waiting | prefill | decoding | ended
deriving DecidableEq, Repr

/-- What the request's next chunk is (R336). -/
inductive ChunkKind where
  | fresh | resume | recompute
deriving DecidableEq, Repr

/-- An entry of the request table (R318) with the descriptor fields it serves by. -/
structure Request where
  handle   : BitVec 64
  priority : Nat
  flags    : BitVec 8
  drafts   : Nat
  promptLen : Nat
  maxNew   : Nat
  seed     : BitVec 64
  invTemp  : Word
  topK     : Word
  topP     : Word
  ttft     : Nat
  tbt      : Nat
  stop     : List Word
  promptAddr : BitVec 64
  promptKey : Word
  conv     : BitVec 64
  state    : ReqState := .intake
  bucket   : Nat := 0
  position : Nat := 0
  emitted  : Nat := 0
  tAdmit   : Nat
  tFirst   : Option Nat := none
  tLast    : Nat := 0
  tbtMax   : Nat := 0
  tbtSum   : Nat := 0
  firstN   : Nat := 0
  missTtft : Bool := false
  missTbt  : Bool := false
  version  : Word := 0
  /-- commit length and tail (R336). -/
  commit   : Nat := 0
  tail     : Nat := 0
  chunk    : ChunkKind := .fresh
  c0       : Nat := 0
  delivered : Nat := 0
  tokens   : List Word := []
  readFails : Nat := 0
  badToken : Bool := false
  readyAt  : Nat := 0
  cancel   : Bool := false
  /-- pages of the request are returning from the far tier (R351). -/
  returning : Bool := false
  /-- the pages asked for have arrived and are being written (R352); the history is in the mailboxes (R351). -/
  arrived  : Bool := false
  history  : Bool := true
  /-- position of the replica it stays on (R428). -/
  replica  : Nat := 0
  /-- board time at which its last chunk or step ended (R507). -/
  workedAt : Option Nat := none
deriving DecidableEq, Repr

/-- A chunk or step in progress (R314 to R316). -/
structure Job where
  schedule : Nat
  /-- working stroke (count of `work`) of its first and one past its last stroke. -/
  first    : Nat
  last     : Nat
  reqs     : List Nat
  chunk    : Bool
  version  : Word
  accepted : Option Nat := none
  spec     : Bool := false
  /-- stroke number of its latch; board time and stroke number of its end. -/
  stroke   : Nat := 0
  endAt    : Option Nat := none
  lastNo   : Option Nat := none
  /-- position of the replica it runs on; the stroke that the followers were told for its latch (R428, R429). -/
  replica  : Nat := 0
  told     : Option Nat := none
deriving DecidableEq, Repr

/-- Chunk and step of one replica: those in progress, and those decided for a latch to come (R314, R428). -/
structure ReplicaWork where
  jobP  : Option Job := none
  jobD  : Option Job := none
  planP : Option Job := none
  planD : Option Job := none
deriving DecidableEq, Repr

/-- A completion record as it waits for the ring (R325, R403). -/
structure Completion where
  bytes : Bytes
deriving DecidableEq, Repr

/-- A parcel waiting for the mailboxes (R312, R334). -/
structure Parcel where
  type    : Nat
  payload : Bytes
  index   : Nat
  /-- intake cells still to receive it. -/
  left    : List Nat
  /-- its number, the modules that have still to write it, and whether it is the master's (R429). -/
  number  : Nat := 0
  others  : List Nat := []
  board   : Bool := false
deriving DecidableEq, Repr

/-- The draw in progress (R399, R400). -/
inductive DrawStep where
  | idle
  | index
  | descriptors (count : Nat)
deriving DecidableEq, Repr

/-- Serving (R303 to R327, R398 to R403). -/
structure ServeState where
  table    : Tbl (Option Request) := []
  reqTaken : BitVec 64 := 0
  cqMade   : BitVec 64 := 0
  cqSeen   : BitVec 64 := 0
  draw     : DrawStep := .idle
  drawTime : Nat := 0
  /-- stroke number of the last draw (R305). -/
  drawAt   : Option Nat := none
  drawFails : Nat := 0
  useAlt   : Bool := false
  buffer   : List Completion := []
  cqLost   : Word := 0
  drawSkip : Word := 0
  jobP     : Option Job := none
  jobD     : Option Job := none
  /-- chunk and step decided for the next latch (R314). -/
  planP    : Option Job := none
  planD    : Option Job := none
  /-- the work of the replicas at positions 1 to 3 (R428); work that has ended and is not yet reported (R491). -/
  away     : List ReplicaWork := List.replicate 3 {}
  ending   : List Job := []
  parcels  : List Parcel := []
  /-- parcels sent to other modules so far. -/
  parcelNo : Nat := 0
  results  : List OutResult := []
deriving DecidableEq, Repr

/-- State of a page set (R333). -/
inductive SetState where
  | live | outgoing | returning
deriving DecidableEq, Repr

/-- A record of the page directory (R333). -/
structure PageSet where
  pool    : Nat
  owner   : Nat
  j       : Nat
  lane    : Nat
  slot    : Nat
  version : Word
  state   : SetState
  /-- the conversation of an outgoing or returning set (R349, R351). -/
  conv    : BitVec 64 := 0
deriving DecidableEq, Repr

/-- A stored conversation (R346 to R351). -/
structure StoredConv where
  conv     : BitVec 64
  block    : Nat
  blocks   : Nat
  kvLayout : Word
  version  : Word
  c        : Nat
  pages    : Bool
  /-- board time at which it expires; `none` while held by an admitted request (R351). -/
  expires  : Option Nat
  sets     : Nat
  /-- the copy lacks the page sets that a RESUME took back before they were read (R353). -/
  part     : Bool := false
deriving DecidableEq, Repr

/-- A page of a conversation: its set j, its index in the set, its site, its first line, its format and its rows. -/
structure PagePlace where
  j    : Nat
  idx  : Nat
  site : Nat
  line : Nat
  fmt4 : Bool
  rows : Nat
deriving DecidableEq, Repr

/-- A far-tier copy waiting or in progress (R349). -/
structure FarMove where
  conv    : BitVec 64
  owner   : Nat
  c       : Nat
  rank    : Nat × Nat
  started : Bool := false
  pages   : Bool := true
  block   : Nat := 0
  version : Word := 0
  /-- KV_LAYOUT under which the pages were bound (R330, R350). -/
  layout  : Word := 0
  /-- the token history and the pages that the copy takes, with the tables' pages per set and format (R349, R350). -/
  history : Bytes := []
  places  : List PagePlace := []
  perSet  : Nat := 0
  fmt4    : Bool := false
  /-- payload checks that failed (R410). -/
  fails   : Nat := 0
  /-- the copy has been written, in this many blocks. -/
  written : Bool := false
  blocks  : Nat := 0
  /-- a RESUME took back the sets not yet read (R353). -/
  part    : Bool := false
deriving DecidableEq, Repr

/-- KV pages and the far tier (R328 to R353). -/
structure KvState where
  sets    : List PageSet := []
  stored  : List StoredConv := []
  moves   : List FarMove := []
deriving DecidableEq, Repr

/-- A ledger record (R364). -/
structure LedgerRec where
  layer    : Nat
  wide     : Bool := false
  flag     : BitVec 2 := 0
  samples  : Word := 0
  exceeds  : Word := 0
  abandoned : Word := 0
  dmax     : Word := 0
  stroke   : BitVec 60 := 0
  loc      : Word := 0
deriving DecidableEq, Repr

/-- A layer record of a manifest (R372). -/
structure ManLayer where
  layer  : Nat
  shadow : Bool
  wideFmt : BitVec 3
  first  : Nat
  count  : Nat
deriving DecidableEq, Repr

/-- An extent record of a manifest (R372). -/
structure ManExtent where
  kind      : Nat
  positions : BitVec 8
  fields    : BitVec 48
  master    : Nat
  staging   : Nat
  lines     : Nat
deriving DecidableEq, Repr

/-- A shard record of a manifest (R372). -/
structure ManShard where
  addr : BitVec 64
  rkey : Word
  length : Nat
  crc  : Word
deriving DecidableEq, Repr

/-- A manifest as checked (R372, R373). -/
structure WeightSet where
  setId   : BitVec 64
  version : Word
  layout  : BitVec 256
  positions : BitVec 8
  layers  : List ManLayer
  extents : List ManExtent
  shards  : List ManShard
  key     : BitVec 512
deriving DecidableEq, Repr

/-- State of a load (R377). -/
inductive LoadState where
  | checking | fetching | staged | installing | swapping
deriving DecidableEq, Repr

/-- Sweep of a swap (R383, R384): working strokes since the swap's curb stroke, the layer being rewritten with its lines
copied per slice, G of the layers complete, the release of each layer by the old work, and the count of `work` at the
swap's curb stroke. -/
structure Sweep where
  w       : Nat := 0
  layer   : Nat := 0
  copied  : Nat := 0
  g       : List Nat := []
  release : List Nat := []
  /-- what a count of working strokes is ahead of `w`. -/
  work0   : Int := 0
deriving DecidableEq, Repr

/-- Weight sets (R371 to R388, R505 to R507). -/
structure WeightState where
  resident : Option WeightSet := none
  loading  : Option WeightSet := none
  state    : Option LoadState := none
  /-- shards arrived, and outstanding with the board time of the request, with consecutive CRC failures and retries
  (R378, R379). -/
  arrived  : List Nat := []
  requested : List (Nat × Nat) := []
  crcFails : Tbl Nat := []
  retries  : Tbl Nat := []
  lastStatus : Nat := 0
  sweep    : Option Sweep := none
  installEpochs : Nat := 0
  /-- digests (R505): references by (site key, extent), pass running, board time of the last matching pass. -/
  refs     : List (Nat × Nat × BitVec 256) := []
  pass     : Option Nat := none
  passStart : Nat := 0
  lastMatch : Nat := 0
  passLate : Bool := false
  /-- poisoned lines to refill: site key and line (R492). -/
  refills  : List (Nat × Nat) := []
  /-- slice extents that diverged and are digested again once refilled: site key and extent (R507). -/
  recheck  : List (Nat × Nat) := []
deriving DecidableEq, Repr

/-- State of a window (R405). -/
inductive WinState where
  | closed | open_ | held
deriving DecidableEq, Repr

/-- What a close of a window hands on when it takes effect: the request's TAG, a test pack as decoded, and the port that
received a segment whose check value does not match (R407, R409). -/
structure CloseReq where
  tag     : BitVec 16
  pack    : Option TestPack
  corrupt : Option HostPort
deriving DecidableEq, Repr

/-- A device window (R404 to R407): state, generation, bytes written since the open, messages partly received by (port,
QP), a close that waits with its board time, and the TAG to be answered when the operation that took the content ends. -/
structure Window where
  state   : WinState := .closed
  gen     : BitVec 16 := 0
  bytes   : List Host.Cell := []
  /-- one past the highest byte written since the open. -/
  top     : Nat := 0
  partials : List (Nat × Nat) := []
  closing : Option CloseReq := none
  closeAt : Nat := 0
  answer  : Option (BitVec 16) := none
deriving DecidableEq, Repr

/-- A connected queue pair (R391, R392, R396); a rate (n, k) is n / (64 * 4^k) of the line rate. -/
structure Qp where
  gid   : BitVec 128
  mtu   : Nat
  error : Bool := false
  rate  : Nat × Nat := (64, 0)
  /-- board time of the last rate cut and of the last CNP received and sent. -/
  lastCut : Option Nat := none
  lastCnp : Option Nat := none
  sentCnp : Option Nat := none
deriving DecidableEq, Repr

/-- How a packet leaves: its port and QP, the PCP and DSCP of its class and the mark ECT(0) (R394, R396). -/
structure Via where
  port : Nat
  qp   : Nat
  pcp  : BitVec 3
  dscp : BitVec 6
  ect  : Bool
deriving DecidableEq, Repr

/-- What the device sends on a QP (R393, R396). -/
inductive HostMsg where
  /-- an RDMA READ that the device requests of host memory: address, key, length. -/
  | read (addr : BitVec 64) (key : Word) (length : Nat)
  /-- an RDMA WRITE into host memory. -/
  | write (addr : BitVec 64) (key : Word) (data : Bytes)
  /-- the answer to a read of the dump window. -/
  | reply (data : Bytes)
  /-- a NAK: invalid request, or else remote access. -/
  | nak (invalid : Bool)
  | cnp
deriving DecidableEq, Repr

/-- A host port (R389 to R416). -/
structure PortState where
  ctrl     : Word := 0xF1
  prio     : Word := 0x30CD3145
  ptpCtrl  : Word := 0
  errStatus : BitVec 9 := 0
  ptpOffset : Word := 0
  fecCorr  : Word := 0
  fecUncorr : Word := 0
  sump     : Word := 0
  crcFail  : Word := 0
  cnpRx    : Word := 0
  qps      : Tbl (Option Qp) := []
  link     : Bool := false
  speed    : BitVec 2 := 0
  fecLock  : Bool := false
  copper   : Bool := false
  /-- the link came up by auto-negotiation and link training (R389). -/
  autoNeg  : Bool := false
  isolated : Bool := false
  ptpLock  : Bool := false
  inLock   : Nat := 0
  outLock  : Nat := 0
  /-- ingress buffer of service and bulk in bytes, XOFF sent, priorities paused by the partner (R395). -/
  fillSvc  : Nat := 0
  fillBulk : Nat := 0
  xoffSvc  : Bool := false
  xoffBulk : Bool := false
  paused   : BitVec 8 := 0
  dropped  : Nat := 0
  /-- packets of paused priorities that wait (R395). -/
  held     : List (Via × HostMsg) := []
deriving DecidableEq, Repr

/-- The module-wide EP registers (R416, offsets 0x100 to 0x1FF). -/
structure EpShared where
  idxAddr : BitVec 64 := 0
  rqAddr  : BitVec 64 := 0
  cqAddr  : BitVec 64 := 0
  svcKey  : Word := 0
  ringSize : Word := 0
  svcQp   : Word := 0
  ftAddr  : BitVec 64 := 0
  ftLen   : BitVec 64 := 0
  ftKey   : Word := 0
  ftTtl   : Word := 0x258
  drawInt : Word := 0x10
deriving DecidableEq, Repr

/-- PTP exchanges of the epoch (R413, R414): sum and count of (board time − PTP time) in ticks. -/
structure PtpState where
  sum   : Int := 0
  count : Nat := 0
  /-- local tick of the last Sync (R413). -/
  last  : Option Nat := none
deriving DecidableEq, Repr

/-- Priming state of a port (CK_STATUS.PRIME, R435). -/
inductive Prime where
  | untrained | priming | fenced | reloading | admitted | notAdmitted
deriving DecidableEq, Repr

/-- A plan unit sent or received over a port (R425 to R427). -/
structure CascUnit where
  rid  : Nat
  unit : Nat
  quad : Nat
  dcyc : Nat
  /-- working stroke in which it is to be delivered. -/
  work : Nat
  data : List PWord
  /-- an exchange-add has combined it; unit 0 is kept for the merge of the later ones (R183). -/
  used : Bool := false
deriving DecidableEq, Repr

/-- A quad (R420, R421, R424): up, measured latency, next sequence expected, replays of the flit awaited. -/
structure QuadState where
  up       : Bool := false
  latency  : Nat := 0
  expect   : BitVec 12 := 0
  replays  : Nat := 0
deriving DecidableEq, Repr

/-- A cascade port (R425 to R435). -/
structure CascState where
  ctrl     : Word := 0xFF01
  quads    : Tbl QuadState := []
  partner  : BitVec 2 := 0
  prime    : Prime := .untrained
  errStatus : BitVec 6 := 0
  fecCorr  : Word := 0
  fecUncorr : Word := 0
  replay   : Word := 0
  late     : Word := 0
  partnerStep : Word := 0
  partnerSerial : BitVec 128 := 0
  table    : Tbl (BitVec 64) := []
  tableStaged : Tbl (BitVec 64) := []
  /-- units received and waiting for injection; units sent on exchange-add entries and kept (R427). -/
  received : List CascUnit := []
  kept     : List CascUnit := []
  primeFails : Nat := 0
  compactSent : Bool := false
  /-- a compact received whose outcome the next curb stroke applies, with the difference of the two board times at its beat
  (R432). -/
  verdict  : Option (Bytes × Int) := none
deriving DecidableEq, Repr

/-- The period and the step of boost of an epoch (R58, R61 to R63): whether its cells begin anew with a change of boost. -/
structure PeriodName where
  epoch  : Nat
  period : Nat
  boost  : BoostStep
  anew   : Bool := false
deriving DecidableEq, Repr

/-- The board (R417 to R434). -/
structure BoardState where
  position : BitVec 2 := 0
  reason   : Nat := 0
  admittedMask : BitVec 8 := 1
  admitted : Bool := false
  admitEpoch : Option Nat := none
  halted   : Option (BitVec 60) := none
  /-- what the followers told for the coming epoch (R61): the largest demand, one without headroom for boost, one with fields
  still to wake. -/
  demandIn : Nat := 0
  noBoost  : Bool := false
  asleep   : Bool := false
  /-- the largest demand of a follower that is in force (R60). -/
  demandOld : Nat := 0
  /-- the period and the step of boost that the master has named, and for which epoch (R61). -/
  named    : Option PeriodName := none
  /-- modules that have staged the hole variant of a lost field (R297). -/
  staged   : BitVec 8 := 0
  /-- what the master has named for channels 14 and 15: stroke, channel and value (R429). -/
  dispatch : List (Nat × Nat × Nat) := []
  /-- replicas that have stopped (R430). -/
  stopped  : BitVec 4 := 0
  alignAdd : Int := 0
deriving DecidableEq, Repr

/-- State of the power ladder (R458). -/
inductive Ladder where
  | running | poised | held | banked | dry
deriving DecidableEq, Repr

/-- Power (R436 to R464). -/
structure PowerState where
  /-- thousand of local ticks in which the last sample was taken (R450). -/
  sampleAt : Option Nat := none
  busCv   : BitVec 16 := 5200
  pwrEn   : Bool := true
  resetN  : Bool := false
  busWait : Bool := false
  ctrl    : Word := 0x20080E
  cap     : Word := 0x7530
  ramp    : Word := 0xFA0
  margin  : Word := 0xFA0
  err     : BitVec 7 := 0
  auxBad  : List Nat := []
  ladder  : Ladder := .banked
  bankedReady : Bool := false
  outcome : Nat := 0
  /-- a capping demand above 64 has stopped draws, until measured power falls below the cap (R60). -/
  noDraw  : Bool := false
  floorBase : Nat := 0
  floorBoost : Nat := 0
  /-- sum and count of samples of this epoch, mean of the last (R450). -/
  sum     : Nat := 0
  count   : Nat := 0
  lastM   : Nat := 0
  lastSample : Nat := 0
  /-- epoch means with the board time they were latched at (R454, R456). -/
  means   : List (Nat × Nat) := []
  demand  : Nat := 0
  demandInForce : Nat := 0
  fieldDemand : Bool := false
  floorLoad : Nat := 0
  idleEpochs : Nat := 0
  workInEpoch : Bool := false
  poisedAt : Option Nat := none
  /-- the exit from the state of the ladder has been triggered (R458, R460). -/
  leaving  : Bool := false
deriving DecidableEq, Repr

/-- Heat protection (R465 to R483). -/
structure ThermalState where
  /-- the 8 ms and the 100 ms of local time in which the last rounds were (R466). -/
  round    : Option Nat := none
  trayRound : Option Nat := none
  req     : Bool := false
  enforce : Bool := false
  flowWarn : Bool := false
  flowStop : Bool := false
  shutdown : Bool := false
  tripPin : Bool := false
  ctrl    : Word := 0x60001
  err     : BitVec 6 := 0
  inlet   : Nat := 0
  outlet  : Nat := 0
  flow    : Nat := 0
  demand  : Nat := 0
  demandInForce : Nat := 0
  firstEnforce : Bool := false
  graceEnd : Nat := 0
  inletMiss : Nat := 0
  outletMiss : Nat := 0
  flowMiss : Nat := 0
  flowGood : Nat := 0
  hotInlet : Nat := 0
  clearGood : Nat := 0
  forceDue : Bool := false
  /-- Poised was forced by a flow stop: the module leaves it under R478. -/
  forced   : Bool := false
  cmdStatus : Byte := 0
  minFlow : Nat := 144
  maxInlet : Nat := 320
deriving DecidableEq, Repr

/-- State of a configuration transaction (WM_COMMIT.STATE, R525). -/
inductive TxnState where
  | none | opened | requested | staging | staged | committed | aborted
deriving DecidableEq, Repr

/-- A configuration transaction (R525). -/
structure Txn where
  id     : BitVec 16 := 0
  state  : TxnState := .none
  status : Nat := 0
  writes : List (BitVec 64 × BitVec 64) := []
  epoch  : Nat := 0
  board  : Bool := false
  decided : Option Bool := Option.none
deriving DecidableEq, Repr

/-- A firmware image in a bank (R530, R531). -/
structure FwImage where
  version : Word := 0
  counter : Nat := 0
  compat  : List (Word × Word) := []
  digest  : BitVec 256 := 0
deriving DecidableEq, Repr

/-- Firmware (R530 to R534). -/
structure FwState where
  inForce  : List FwImage := [{}, {}, {}, {}]
  /-- the image each class has ready, if any (WM_FW_STATUS.READY). -/
  ready    : Tbl (Option FwImage) := []
  status   : Nat := 0
  pending  : BitVec 4 := 0
  bankB    : Bool := false
  previous : Option (List FwImage) := none
  activated : Option Nat := none
  pauseEpoch : Option Nat := none
  revert   : Bool := false
deriving DecidableEq, Repr

/-- A settings record in OTP (R523). -/
structure Settings where
  gen    : Nat
  compat : Bool
  allow  : List (BitVec 128)
  digest : BitVec 256 := 0
deriving DecidableEq, Repr

/-- OTP (R502, R503, R522, R523): site words of the factory map by field * 74 + site, whether its CRC holds, the
amendments, the shutdown log, the anti-rollback counters of classes 0 to 4, and the settings records. -/
structure OtpState where
  siteWords : Tbl (BitVec 24) := []
  mapOk     : Bool := true
  amendments : List Amendment := []
  shutdowns : List Bytes := []
  counters  : List Nat := [0, 0, 0, 0, 0]
  settings  : List Settings := [{ gen := 1, compat := false, allow := [] }]
deriving DecidableEq, Repr

/-- Errors, records, classification and restart (R484 to R510, R535). -/
structure FaultState where
  ring     : List ErrRec := []
  /-- the log: SEQ, TYPE and record words (R535). -/
  log      : List (Word × Nat × List (BitVec 64)) := []
  nextSeq  : Word := 0
  /-- the record being handled: its classification is still to end (R489, R499). -/
  handling : Option ErrRec := none
  /-- epoch since which the classification window is open (R499). -/
  window   : Option Nat := none
  /-- transient events: element key and board time (R500). -/
  transients : List (Nat × Nat) := []
  restart  : Bool := false
  waitClear : Bool := false
  fatalTimes : List Nat := []
  rePlace  : Bool := false
  withdrawals : List Amendment := []
  /-- amendments and withdrawals applied at the last relocation (R30, R503). -/
  applied  : List Amendment := []
  /-- test pack in force and accepted (R508). -/
  pack     : Option TestPack := none
  packDigest : BitVec 256 := 0
  packNext : Option (TestPack × BitVec 256) := none
  /-- proof window: since which epoch, cells still to pass (R509). -/
  proofFrom : Option Nat := none
  proofStart : Nat := 0
  /-- core stops by board time (R486, code 0x97). -/
  coreEvents : List Nat := []
deriving DecidableEq, Repr

/-- Management (R511 to R538). -/
structure MgmtState where
  hold     : Nat := 0
  step     : Nat := 0
  compat   : Bool := false
  ready    : Bool := false
  wmCtrl   : Word := 0x180801
  alert    : BitVec 11 := 0
  restarts : BitVec 16 := 0
  cmdRej   : BitVec 16 := 0
  seb      : Bool := false
  alertSent : Option Nat := none
  alertDue : Bool := false
  dumpScope : Option (BitVec 16 × DumpScope) := none
  dumpHeld : Bool := false
  nextEvent : Nat := 0
  gen      : Nat := 1
  startup  : Option StartupEnv := none
  pgOut    : Bool := false
deriving DecidableEq, Repr

/-- What leaves the device (R393, R514, R517, R423): the model's own record of it. -/
inductive Sent where
  /-- a management response: OP OR 0x8000, TAG, STATUS and the body as 64-bit values. -/
  | response (op : BitVec 16) (tag : BitVec 16) (status : Nat) (body : List (BitVec 64))
  | alert (value : BitVec 32)
  /-- a packet to the host (R393, R394). -/
  | host (via : Via) (m : HostMsg)
  | pfc (port : Nat) (pcp : BitVec 3) (xoff : Bool)
  | connection (port : Nat) (accepted : Bool) (qp : Nat)
  /-- a connection request rejected with reason "no resources" (R392). -/
  | noResources (port : Nat)
  | compact (port : Nat) (data : Bytes)
  /-- a message on VC1 or VC2, toward the next position or the previous one (R423). -/
  | vc (m : VcMessage) (toNext : Bool)
  | haltBoard (stroke : BitVec 60)
  | replayRequest (port quad : Nat) (seq : BitVec 12)
  | cascadeUnit (port : Nat) (u : CascUnit)
  | register (addr : BitVec 64) (dark : Bool) (value : BitVec 128)
deriving DecidableEq, Repr

end Sys2Proof.Machine
end

