-- ==== Sys2Proof/Machine/State.lean ====
section
/-! DEFINITION. The state of the block and its value after reset, the reasons a step can stop. -/

namespace Sys2Proof.Machine

/-- Why a step stops with a fault. No command of this block raises one: every error the spec describes is state, a
record or a status (R484, R488, R516), and every place an operand can name exists by its type. -/
inductive Fault where
  /-- raised by no command; a stop would be safe. -/
  | unraised
deriving DecidableEq, Repr

/-- Why a command is refused. -/
inductive Refusal where
  /-- raised by a command that has no meaning yet, with its mnemonic; safe, since nothing is claimed of it. -/
  | notModelled (mnemonic : String)
deriving DecidableEq, Repr

/-- The state of one module: everything the spec gives it, the queue of commands that wait, and the model's own
record of what left the device. Cells are keyed by field * 1332 + site * 18 + physical index, sites by
field * 74 + site, routers by field * 72 + home index, fields and ports by their number. -/
structure State where
  pending : List Instr := []
  time    : TimeState := {}
  cells   : Tbl CellState := []
  sites   : Tbl SiteState := []
  routers : Tbl RouterState := []
  fields  : Tbl FieldState := []
  flits   : List Flit := []
  gets    : List GetReq := []
  posts   : List Post := []
  /-- publications of the wafer-wide channels for the next latch (R89). -/
  wafer   : Tbl Publication := []
  events  : List Event := []
  own     : List OwnEvent := []
  plan    : PlanState := {}
  serve   : ServeState := {}
  kv      : KvState := {}
  ledger  : List LedgerRec := []
  weights : WeightState := {}
  windows : Tbl Window := []
  ports   : Tbl PortState := []
  ep      : EpShared := {}
  ptp     : PtpState := {}
  casc    : Tbl CascState := []
  board   : BoardState := {}
  power   : PowerState := {}
  heat    : ThermalState := {}
  txn     : Txn := {}
  fw      : FwState := {}
  otp     : OtpState := {}
  faults  : FaultState := {}
  mgmt    : MgmtState := {}
  sent    : List Sent := []
  freeCount : Nat := 0
deriving DecidableEq, Repr

/-- The machine right after VAON power-up, MOD_RESET_N still low (R13, R98, R464, R537, log entries 2 and 3): every
register at its reset value, nothing started, no command waiting. -/
def State.reset : State := {}

end Sys2Proof.Machine
end

