-- ==== Sys2Proof/Machine/Flags.lean ====
section
/-! DEFINITION. Fault bits and their capture (R96, R97), the tally (R93), and the saturation and poison flags of an
accumulator element (R113 to R121, R125). -/

namespace Sys2Proof.Machine

/-- Bits of CE_FAULT_STATUS (R96). -/
def fbFetch : Nat := 0
def fbScratch : Nat := 1
def fbCistern : Nat := 2
def fbTally : Nat := 3
def fbSelLate : Nat := 4
def fbSelConflict : Nat := 5
def fbSelRange : Nat := 6
def fbStore : Nat := 7
def fbResidue : Nat := 8
def fbFp : Nat := 9
def fbNoEnd : Nat := 10

/-- A set of bits as a number. -/
def bitMask (bits : List Nat) : Nat := bits.foldl (fun m b => m ||| 2 ^ b) 0

/-- Causes raised together at a budget time, each with its access address: the first capture since the last clear keeps
task, bundle address, stroke and access address; causes of the same cycle set their bits and share it, later faults set
their bits and count (R97). Model's choices (log entry 115): where several bound failures share a capture the address kept
is that of the first in the order they are raised, the slots M, V, X, N and in a slot the lowest unit or line; every cause
raised later counts one in CE_FAULT_EXTRA, also where one bundle raises several. -/
def captureFault (f : CellFaults) (causes : List (Nat × Nat)) (task bundle : Nat) (stroke : Nat) (remote : Bool)
    (now : Nat) : CellFaults :=
  if causes.isEmpty then f
  else
    let mask := BitVec.ofNat 11 (bitMask (causes.map (·.1)))
    if f.status = 0 then
      let addr := match causes.find? fun c => c.1 ≤ 2 with
        | some c => c.2
        | none => 0
      { f with
        status := mask, task := BitVec.ofNat 3 task, bundle := BitVec.ofNat 12 bundle
        stroke := BitVec.ofNat 60 stroke, addr := BitVec.ofNat 25 addr, remote := remote, taken := now
        newBits := f.newBits ||| mask }
    else
      { f with
        status := f.status ||| mask, extra := if f.taken = now then f.extra else satAdd f.extra causes.length
        newBits := f.newBits ||| mask }

/-- A write of ones to CE_FAULT_STATUS: clearing the last set bit clears CE_FAULT_EXTRA and rearms the capture. -/
def clearFault (f : CellFaults) (ones : Nat) : CellFaults :=
  let st := f.status &&& ~~~ BitVec.ofNat 11 ones
  if st = 0 then { f with status := 0, extra := 0 } else { f with status := st }

/-- The tally after one more bundle (R93). -/
def foldTally (crc : BitVec 16) (a b : Nat) : BitVec 16 :=
  BitVec.ofNat 16 (crc16 48 (tallyWord a b) crc.toNat)

/-- An element that FIRST has emptied: neither root nor levels used, its flags clear (R113). -/
def emptyElem : AccElem := { emptied := true }

/-- The parity of an n-bit number. -/
def parityBit : Nat → Nat → Bool
  | 0, _ => false
  | n + 1, v => xor (v % 2 == 1) (parityBit n (v / 2))

/-- The two parity bits of a word, over [39:20] and over [19:0] (R124). -/
def parityOf (v : Nat) : BitVec 2 := BitVec.ofNat 2 (2 * b2n (parityBit 20 (bf v 39 20)) + b2n (parityBit 20 (bf v 19 0)))

/-- A word as a write stores it, with its parity. -/
def accWord (v : Nat) : AccWord := { val := BitVec.ofNat 40 v, par := parityOf (v % 2 ^ 40) }

/-- The parity check of a word that is read fails (R124). -/
def AccWord.bad (w : AccWord) : Bool := w.par != parityOf w.val.toNat

/-- A flipped bit of a stored word (R124). -/
def AccWord.flip (w : AccWord) (i : Nat) : AccWord :=
  if i < 40 then { w with val := w.val ^^^ BitVec.ofNat 40 (2 ^ i) } else { w with par := w.par ^^^ BitVec.ofNat 2 (2 ^ (i - 40)) }

/-- What the adds of an element have met: a clamp, and a word whose parity check failed. -/
structure AddFlags where
  clamp : Bool := false
  fail  : Bool := false
deriving DecidableEq, Repr

/-- Both of two sets of flags. -/
def AddFlags.or (a b : AddFlags) : AddFlags := { clamp := a.clamp || b.clamp, fail := a.fail || b.fail }

/-- Insert a leaf's word into the levels, the adds giving word and clamp flag (R114); each level word that an add reads is
checked (R124). -/
def insertLevels (add : Nat → Nat → Nat × Bool) : List (Option AccWord) → Nat → List (Option AccWord) × AddFlags
  | [], v => ([some (accWord v)], {})
  | [some l], v =>
    let r := add l.val.toNat v
    ([some (accWord r.1)], { clamp := r.2, fail := l.bad })
  | none :: rest, v => (some (accWord v) :: rest, {})
  | some l :: rest, v =>
    let r := add l.val.toNat v
    let q := insertLevels add rest r.1
    (none :: q.1, q.2.or { clamp := r.2, fail := l.bad })

/-- The adds of a column: integer with clamp, or a node's add of the mode (R117 to R120). -/
def colAdd (int ref : Bool) (a b : Nat) : Nat × Bool :=
  if int then intAdd a b else (nodeAdd ref a b, false)

/-- The flags of an element after adds: a clamp saturates it (R120), a failed check poisons it (R125). -/
def AccElem.flagged (e : AccElem) (f : AddFlags) : AccElem := { e with sat := e.sat || f.clamp, poison := e.poison || f.fail }

/-- A leaf enters an element (R114, R125); whether a parity check failed. -/
def insertLeaf (int ref : Bool) (e : AccElem) (x : PA40) : AccElem × Bool :=
  let q := insertLevels (colAdd int ref) e.levels x.val.toNat
  ({ e with levels := q.1, poison := e.poison || x.poison }.flagged q.2, q.2.fail)

/-- The levels of an element summed from L0 up (R115): the value so far and what the adds met. Every used level is read and
checked (R124). -/
def sumLevels (add : Nat → Nat → Nat × Bool) : List (Option AccWord) → Option Nat → AddFlags → Option Nat × AddFlags
  | [], v, c => (v, c)
  | none :: rest, v, c => sumLevels add rest v c
  | some l :: rest, none, c => sumLevels add rest (some l.val.toNat) (c.or { fail := l.bad })
  | some l :: rest, some v, c =>
    let r := add l.val.toNat v
    sumLevels add rest (some r.1) (c.or { clamp := r.2, fail := l.bad })

/-- A drain collapses an element into its root (R115); whether a parity check failed. -/
def collapseElem (int ref : Bool) (e : AccElem) : AccElem × Bool :=
  let q := sumLevels (colAdd int ref) e.levels none {}
  let r : AccWord × AddFlags := match q.1, e.root with
    | none, some r => (r, { fail := r.bad })
    | none, none => (accWord 0, {})
    | some v, none => (accWord v, {})
    | some v, some r =>
      let a := colAdd int ref r.val.toNat v
      (accWord a.1, { clamp := a.2, fail := r.bad })
  let f := q.2.or r.2
  ({ e with root := some r.1, levels := List.replicate 8 none }.flagged f, f.fail)

/-- The word of the root as a read at a budget time finds it. A root that is not used reads 0 where the tile was set to 0
(R80); the spec states no value for one that FIRST emptied and no drain has written, so that word is free (log entry 116). -/
def AccElem.rootWord (e : AccElem) (now key : Nat) : Nat :=
  match e.root with
  | some r => r.val.toNat
  | none => if e.emptied then (Config.emptiedRoot now key).toNat else 0

/-- The parity check of the root fails on a read (R124). -/
def AccElem.rootBad (e : AccElem) : Bool :=
  match e.root with
  | some r => r.bad
  | none => false

/-- A root word as acc.st writes it (R116, R121): FP32 pattern, or INT32 with its clamp. -/
def storeRoot (int : Bool) (r : Nat) : Nat × Bool :=
  if int then
    let x := sext 40 r
    (ofI32 (clampI32 x), decide (clampI32 x ≠ x))
  else (f32Enc (a40Dec r), false)

/-- The bits of an element that have flipped (R124). -/
def AccElem.upset (e : AccElem) (word bit : Nat) : AccElem :=
  if word = 8 then { e with root := e.root.map (·.flip bit) }
  else { e with levels := e.levels.modify word fun l => l.map (·.flip bit) }

/-- A 40-bit word as acc.restore takes it: exponent 0 with a nonzero fraction reads as zero of its sign (R111). -/
def restoreWord (int : Bool) (w : Nat) : Nat :=
  if !int && bf w 38 29 == 0 then b2n (tb w 39) * 2 ^ 39 else w

end Sys2Proof.Machine
end

