-- ==== Sys2Proof/Machine/NetOps.lean ====
section
/-! DEFINITION. Flits, routes and their timing (R178, R239 to R245). -/

namespace Sys2Proof.Machine

/-- Field of a router coordinate (R19, R239). -/
def fieldAtXY (x y : Nat) : Nat := y / 8 * 8 + x / 9

/-- Home index of the logical cluster of a router coordinate within its field (R22, R239). -/
def homeAt (x y : Nat) : Nat :=
  let cx := x % 9
  let cy := y % 8
  if cy % 2 = 0 then cy * 9 + cx else cy * 9 + (8 - cx)

/-- Key of the router at a coordinate. -/
def routerKeyXY (x y : Nat) : Nat := fieldAtXY x y * 72 + homeAt x y

/-- Coordinate of a logical cluster of a field (R239). -/
def clusterXY (f clx cly : Nat) : Nat × Nat := (9 * (f % 8) + clx, 8 * (f / 8) + cly)

/-- Distance of two coordinates. -/
def dist (a b : Nat) : Nat := (a - b) + (b - a)

/-- Links of a leg (R242). -/
def legLinks (x y tx ty : Nat) : Nat := dist x tx + dist y ty

/-- Stitch lines a leg crosses (R239). -/
def legStitch (x y tx ty : Nat) : Nat := dist (x / 9) (tx / 9) + dist (y / 8) (ty / 8)

/-- The routing fields of a route head: WPV, ORD1, ORD2, WX, WY, DX, DY in HEAD bits [50:22] (R241). -/
structure RouteHead where
  wpv  : Bool
  ord1 : Bool
  ord2 : Bool
  wx   : Nat
  wy   : Nat
  dx   : Nat
  dy   : Nat
deriving DecidableEq, Repr

/-- Routing fields of a HEAD (R241). -/
def headRoute (h : Nat) : RouteHead :=
  { wpv := tb h 50, ord1 := tb h 49, ord2 := tb h 48, wx := bf h 47 41, wy := bf h 40 35, dx := bf h 34 28
    dy := bf h 27 22 }

/-- HEAD bits of routing fields. -/
def routeHeadBits (r : RouteHead) : Nat :=
  b2n r.wpv * 2 ^ 50 + b2n r.ord1 * 2 ^ 49 + b2n r.ord2 * 2 ^ 48 + r.wx % 128 * 2 ^ 41 + r.wy % 64 * 2 ^ 35 +
    r.dx % 128 * 2 ^ 28 + r.dy % 64 * 2 ^ 22

/-- Routing fields of a route-table entry (R243). -/
def entryRoute (e : Nat) : RouteHead :=
  { wpv := tb e 57, ord1 := tb e 56, ord2 := tb e 55, wx := bf e 54 48, wy := bf e 47 42, dx := bf e 41 35
    dy := bf e 34 29 }

/-- Links and stitch lines of a route from a router (R242). -/
def routeLen (x y : Nat) (r : RouteHead) : Nat × Nat :=
  if r.wpv then
    (legLinks x y r.wx r.wy + legLinks r.wx r.wy r.dx r.dy, legStitch x y r.wx r.wy + legStitch r.wx r.wy r.dx r.dy)
  else (legLinks x y r.dx r.dy, legStitch x y r.dx r.dy)

/-- Path latency L (R178). -/
def routeLat (x y : Nat) (r : RouteHead) : Nat :=
  let q := routeLen x y r
  2 * max 1 q.1 + 8 * q.2

/-- The direction of the next link of a leg toward a target: 0 N, 1 E, 2 S, 3 W; 4 at the target. Order `yx` moves
along Y first (R242). -/
def legDir (yx : Bool) (x y tx ty : Nat) : Nat :=
  let dx := if x < tx then 1 else if tx < x then 3 else 4
  let dy := if y < ty then 0 else if ty < y then 2 else 4
  if yx then (if dy ≠ 4 then dy else dx) else (if dx ≠ 4 then dx else dy)

/-- The coordinate beyond a link. -/
def stepXY (x y d : Nat) : Nat × Nat :=
  match d with
  | 0 => (x, y + 1)
  | 1 => (x + 1, y)
  | 2 => (x, y - 1)
  | 3 => (x - 1, y)
  | _ => (x, y)

/-- A link exists inside the grid of 72 × 48 (R239, R240). -/
def linkInside (x y d : Nat) : Bool :=
  match d with
  | 0 => decide (y < 47)
  | 1 => decide (x < 71)
  | 2 => decide (0 < y)
  | 3 => decide (0 < x)
  | _ => false

/-- A flit's CRC-16 over bits [599:16] (R241). -/
def flitCrc (b : Nat) : Nat := crc16 584 (b / 2 ^ 16) 0xFFFF

/-- A flit with its CRC set. -/
def flitSeal (b : Nat) : Nat := b / 2 ^ 16 * 2 ^ 16 + flitCrc b

/-- The flit of 16 words (R241). -/
def flitMake (data : List PWord) (tenant kind head : Nat) : BitVec 600 :=
  let d := data.zipIdx.foldl (fun acc (w, i) => acc + w.val.toNat * 2 ^ (88 + 32 * i)) 0
  let p := data.zipIdx.foldl (fun acc (w, i) => acc + b2n w.poison * 2 ^ (72 + i)) 0
  BitVec.ofNat 600 (flitSeal (d + p + 2 ^ 71 + tenant % 4 * 2 ^ 69 + kind % 4 * 2 ^ 67 + head % 2 ^ 51 * 2 ^ 16))

/-- The data words of a flit with their poison bits (R241). -/
def flitData (b : Nat) : List PWord :=
  (List.range 16).map fun i =>
    { val := BitVec.ofNat 32 (bf b (88 + 32 * i + 31) (88 + 32 * i)), poison := tb b (72 + i) }

def flitKind (b : Nat) : Nat := bf b 68 67
def flitTenant (b : Nat) : Nat := bf b 70 69
def flitHead (b : Nat) : Nat := bf b 66 16
def flitValid (b : Nat) : Bool := tb b 71

/-- A flit with all its words poisoned, its CRC recomputed (R246). -/
def flitPoison (b : Nat) : Nat := flitSeal (setBf b 87 72 0xFFFF)

/-- The leg on which a route starts: a waypoint at its own router is behind it (R242). -/
def startLeg (x y : Nat) (r : RouteHead) : Nat := if r.wpv && (r.wx != x || r.wy != y) then 0 else 1

/-- Whether and where a flit goes next from its router: the leg it is on and the direction (R242). -/
def flitNext (f : Flit) : Nat × Nat :=
  let b := f.bits.toNat
  let r := headRoute (flitHead b)
  if flitKind b = 3 then (1, legDir false f.x f.y r.dx r.dy)
  else if f.leg = 0 ∧ r.wpv ∧ (f.x ≠ r.wx ∨ f.y ≠ r.wy) then (0, legDir r.ord1 f.x f.y r.wx r.wy)
  else if r.wpv then (1, legDir r.ord2 f.x f.y r.dx r.dy)
  else (1, legDir r.ord1 f.x f.y r.dx r.dy)

/-- A word for a number in the data of a get request. -/
def numWord (n : Nat) : PWord := { val := BitVec.ofNat 32 n }

/-- The flits of n units of a put along a route-table entry, issued at a budget time (R179, R241, R243, R244). -/
def putFlits (x y now rid e : Nat) (words : List PWord) (n : Nat) : List Flit :=
  let r := entryRoute e
  let len := routeLen x y r
  let lat := routeLat x y r
  let exit := bf e 7 5
  (List.range n).map fun u =>
    let unit := bf e 21 8 + u
    let head := if exit = 0 then
        routeHeadBits r + bf e 28 25 * 2 ^ 18 + bf e 24 22 * 2 ^ 15 + unit % 2 ^ 14 * 2
      else routeHeadBits r + exit * 2 ^ 19 + rid * 2 ^ 9 + u * 2 ^ 3 + 1
    { bits := flitMake ((words.drop (16 * u)).take 16) (bf e 59 58) 0 head
      x := x, y := y, leg := startLeg x y r, plane := bf e 61 60, out := 4, enter := now + u + 1
      due := if exit = 0 then now + u + lat else now + u
      home := len.1 == 0 && exit == 0, beyond := if exit = 0 then unit / 2 ^ 14 else 0 }

/-- The request flit of a get (R241, R245): the far cell, task and source unit in its head, requester, destination unit and count in
DATA (log entry 13). -/
def getFlit (x y cell task now e src dst n : Nat) : Flit :=
  let r := entryRoute e
  let lat := routeLat x y r
  let data := [x, y, cell, task, dst, n].map numWord ++ List.replicate 10 ({} : PWord)
  { bits := flitMake data (bf e 59 58) 1
      (routeHeadBits r + bf e 28 25 * 2 ^ 18 + bf e 24 22 * 2 ^ 15 + src % 2 ^ 14 * 2)
    x := x, y := y, leg := startLeg x y r, plane := bf e 61 60, out := 4, enter := now + 1, due := now + lat
    home := (routeLen x y r).1 == 0, beyond := src / 2 ^ 14 }

/-- The way back of a get (R245): the legs in reverse, each with its order swapped, to the requester's router. -/
def backRoute (r : RouteHead) (x y : Nat) : RouteHead :=
  if r.wpv then { r with ord1 := !r.ord2, ord2 := !r.ord1, dx := x, dy := y }
  else { r with ord1 := !r.ord1, dx := x, dy := y }

/-- The flits of KIND 3 that carry bytes from one router to another, 64 to a flit, the planes in turn (R241, R247, R250): service or
background by the tenant, the endpoint tag as the endpoint knows the transfer (log entry 122). -/
def meshFlits (src dst : Nat × Nat) (tag tenant now : Nat) (data : Bytes) : List Flit :=
  (List.range ((data.length + 63) / 64)).map fun i =>
    let words := (List.range 16).map fun w => numWord (fieldAt data (64 * i + 4 * w) 4)
    { bits := flitMake words tenant 3 (dst.1 % 128 * 2 ^ 28 + dst.2 % 64 * 2 ^ 22 + tag % 2 ^ 21 * 2)
      x := src.1, y := src.2, leg := 1, plane := i % 4, out := 4, enter := now, due := now, home := src == dst }

/-- Endpoint tag of a flit of KIND 3 (R241). -/
def flitTag (b : Nat) : Nat := bf (flitHead b) 21 1

end Sys2Proof.Machine
end

