-- ==== Sys2Proof/Machine/CellOps.lean ====
section
/-! DEFINITION. One cell: its registers, scratchpad and tiles, what is delivered when (R72), and the issue of one bundle
(R128). Everything here works on one cell and the site beneath it; Cell.lean puts it into the state. -/

namespace Sys2Proof.Machine

/-- A poisoned word: its bits are open (R85, R209). -/
def poisoned (a : Nat) : PWord := { val := Config.poisonWord a, poison := true }

/-- Scalar register; s0 reads 0 (R79). -/
def sGet (c : CellState) (n : Nat) : PWord := if n = 0 then {} else tget {} c.sreg n

/-- Write a scalar register; a write to s0 is discarded (R79). -/
def sSet (c : CellState) (n : Nat) (v : PWord) : CellState :=
  if n = 0 then c else { c with sreg := tset {} c.sreg n v }

/-- The 32 lanes of a vector register. -/
def vGet (c : CellState) (v : Nat) : List PWord := tgetMany {} c.vreg (v * 32) 32

/-- Write the 32 lanes of a vector register. -/
def vSet (c : CellState) (v : Nat) (l : List PWord) : CellState :=
  { c with vreg := tsetMany {} c.vreg (v * 32) (l.take 32) }

/-- A source operand (R136). -/
def srcGet (c : CellState) (n : Nat) : PWord :=
  if n < 32 then sGet c n else { val := tget 0 c.lc (n - 32) }

/-- The registers of the task that runs (R84). -/
def taskRegs (c : CellState) (t : Nat) : TaskRegs := tget {} c.active.tasks t

/-- Physical unit of a task-relative unit, if it is in bound (R84, R137). -/
def spUnit (r : TaskRegs) (a : Nat) : Option Nat := if a + 1 ≤ r.sbound then some (r.sbase + a) else none

/-- Physical line of a task-relative line, if it is in bound (R84, R137). -/
def cisLineOf (r : TaskRegs) (a : Nat) : Option Nat := if a + 1 ≤ r.cbound then some (r.cbase + a) else none

/-- A word of the scratchpad by word address: its four bytes and its poison mark (R206, R207). -/
def spWordGet (sp : Scratch) (w : Nat) : PWord :=
  if tget false sp.poison w then poisoned w
  else { val := BitVec.ofNat 32 (leNat (tgetMany 0 sp.bytes (4 * w) 4)) }

/-- Write a word; poisoned data stores the poison mark, clean data removes it (R209). -/
def spWordSet (sp : Scratch) (w : Nat) (v : PWord) : Scratch :=
  if v.poison then { sp with poison := tset false sp.poison w true }
  else { bytes := tsetMany 0 sp.bytes (4 * w) (leBytes 4 v.val.toNat), poison := tset false sp.poison w false }

/-- Write consecutive words. -/
def spWordsSet (sp : Scratch) : Nat → List PWord → Scratch
  | _, [] => sp
  | w, v :: vs => spWordsSet (spWordSet sp w v) (w + 1) vs

/-- Words of a row of a D-cell (8) or of a unit of a P-cell (16), over which the outer code runs (R208). -/
def outerSpan (p : Bool) : Nat := if p then 16 else 8

/-- A word as a read delivers it when the codes find errors (R207 to R209): one uncorrectable word of a row or unit is
rebuilt, two or more are poisoned. -/
def spWordRead (p : Bool) (errs : List (Nat × CodeError)) (sp : Scratch) (w : Nat) : PWord :=
  let n := outerSpan p
  let bad := (errs.filter fun e => e.1 / n == w / n && e.2 == .uncorrectable).map (·.1)
  if bad.contains w && decide (2 ≤ bad.length) then poisoned w else spWordGet sp w

/-- What one bundle issue has gathered so far: the cell, the causes with their access addresses, the scratchpad words
read, and what leaves the cell. -/
structure IssueAcc where
  c      : CellState
  causes : List (Nat × Nat) := []
  reads  : List Nat := []
  access : List AccessReq := []
  guard  : List GuardEntry := []
  flits  : List Flit := []
  reds   : List RedInput := []
  posts  : List (Nat × Option (BitVec 4)) := []
  opened : Option (Nat × Nat) := none

/-- What an issue knows beside the cell: the kind, key, budget time and issue cycle, the stroke number, what the arrays
and the arithmetic meet, the site beneath, and the coordinates of the cluster's router. -/
structure IssueCtx where
  p      : Bool
  key    : Nat
  now    : Nat
  cycle  : Nat
  stroke : Nat
  env    : IssueEnv
  site   : SiteState
  startTick : Nat
  x      : Nat
  y      : Nat
  logical : Nat

/-- Record a cause. -/
def IssueAcc.raise (a : IssueAcc) (bit addr : Nat) : IssueAcc := { a with causes := a.causes ++ [(bit, addr)] }

/-- Queue a result. -/
def IssueAcc.deliver (a : IssueAcc) (due slot : Nat) (w : Delivery) : IssueAcc :=
  { a with c := { a.c with pend := a.c.pend ++
      [{ due := due, slot := slot, what := w, task := a.c.task, bundle := a.c.pc }] } }

/-- The places that a failed check of a kind touches in a slot of this issue (R125, R171). -/
def IssueCtx.failed (ctx : IssueCtx) (slot : Nat) (kind : StageCheck) : List Nat :=
  (ctx.env.checks.filter fun k => k.slot.val == slot && k.kind == kind).map (·.place)

/-- Record the failed checks of a slot: bit 8 for a residue check, bit 9 for a float check (R125). -/
def IssueAcc.raiseChecks (a : IssueAcc) (residue fp : List Nat) : IssueAcc :=
  let a := if residue.isEmpty then a else a.raise fbResidue 0
  if fp.isEmpty then a else a.raise fbFp 0

/-- The address s[r] + off, in the 32 bits of a scalar, and whether the register is poisoned (R131, R137, R148). The spec
does not say whether off14, off11, soff, off12 and the off11 of wld are signed; the model adds each zero-extended (log
entry 12). -/
def addrOf (c : CellState) (r off : Nat) : Nat × Bool :=
  let v := sGet c r
  ((v.val.toNat + off) % 2 ^ 32, v.poison)

/-- Read n units from a task-relative unit: 16 words for each; the units out of bound read poisoned and record a plan
fault, but a poisoned address records none (R85, R131, R137). -/
def readUnits (ctx : IssueCtx) (a : IssueAcc) (addr : Nat × Bool) (n : Nat) : IssueAcc × List PWord :=
  let r := taskRegs a.c a.c.task
  let units := (List.range n).map fun i => if addr.2 then none else spUnit r (addr.1 + i)
  let words := (units.zipIdx).flatMap fun (u, i) =>
    match u with
    | some u => (List.range 16).map fun j => spWordRead ctx.p ctx.env.words a.c.sp (u * 16 + j)
    | none => (List.range 16).map fun j => poisoned ((addr.1 + i) * 16 + j)
  let reads := units.flatMap fun u =>
    match u with
    | some u => (List.range 16).map fun j => u * 16 + j
    | none => []
  let a := { a with reads := a.reads ++ reads }
  match units.findIdx? (·.isNone) with
  | some i => (if addr.2 then a else a.raise fbScratch (addr.1 + i), words)
  | none => (a, words)

/-- Queue a write of words from word `o` of a task-relative unit on; units out of bound are left out with a plan
fault (R85, R137). -/
def writeUnits (a : IssueAcc) (addr : Nat × Bool) (due slot : Nat) (words : List PWord) : IssueAcc :=
  if addr.2 then a
  else
    let r := taskRegs a.c a.c.task
    let n := (words.length + 15) / 16
    (List.range n).foldl (fun (q : IssueAcc × Bool) i =>
      match spUnit r (addr.1 + i) with
      | some u => (q.1.deliver due slot (.spWrite (u * 16) ((words.drop (16 * i)).take 16)), q.2)
      | none => (if q.2 then q.1 else q.1.raise fbScratch (addr.1 + i), true)) (a, false) |>.1

/-- Bytes of words, lowest first. -/
def wordsBytes (l : List PWord) : Bytes := l.flatMap fun w => leBytes 4 w.val.toNat

/-- A clean word from four bytes. -/
def bytesWords : Bytes → List PWord
  | a :: b :: c :: d :: t => { val := BitVec.ofNat 32 (leNat [a, b, c, d]) } :: bytesWords t
  | _ => []

/-- Some word of the bytes [o, o + n) is poisoned. -/
def bytesPoison (poison : List Bool) (o n : Nat) : Bool :=
  (List.range ((o + n + 3) / 4 - o / 4)).any fun i => poison.getD (o / 4 + i) false

/-- The block k of row r of a run of rows is poisoned: a byte that the product reads lies in a poisoned word. Scale and
grain bytes take no part in integer accumulation (R120). -/
def blockPoison (int : Bool) (f kb rows : Nat) (poison : List Bool) (r k : Nat) : Bool :=
  let eb := 16 * fmtNibbles f
  let n := r * kb + k
  let total := rows * kb
  bytesPoison poison (n * eb) eb || (!int && !fmtBf16 f && bytesPoison poison (total * eb + n) 1) ||
    (!int && fmtTempered f && bytesPoison poison (total * eb + total + n) 1)

/-- Leaves of one token column against a weight slot, by row, in K order (R107 to R110, R114); `failed` are the rows whose
update failed a check (R125). -/
def columnLeaves (p : Bool) (ws : WSlot) (fa : Nat) (int ref : Bool) (failed : List Nat) (col : Bytes) (cp : List Bool) :
    List (List PA40) :=
  let kb := cellKb p
  let rows := cellRows p
  let fw := ws.fmt.toNat
  (List.range rows).map fun r => (List.range kb).map fun k =>
    { val := BitVec.ofNat 40 (leafBits int ref fw fa (rowBlock fw kb rows ws.bytes r k) (rowBlock fa kb 1 col 0 k))
      poison := failed.contains r || blockPoison int fw kb rows ws.poison r k || blockPoison int fa kb 1 cp 0 k }

/-- Key of a tile element. -/
def accKey (t col row : Nat) : Nat := t * 4096 + col * 64 + row

/-- Kind of a tile column. -/
def colKind (c : CellState) (t col : Nat) : ColKind := tget {} c.kinds (t * 64 + col)

/-- Units a token column touches (R161). -/
def colUnits (p : Bool) (fa : Nat) : Nat := (rowBytes fa (cellKb p) 1 + 63) / 64

/-- wld (R158). -/
def mWld (ctx : IssueCtx) (a : IssueAcc) (ws fmt sB : Nat) (h : Bool) (off : Nat) : IssueAcc :=
  let nb := rowBytes fmt (cellKb ctx.p) (cellRows ctx.p)
  let o := if h then 32 else 0
  let (a, words) := readUnits ctx a (addrOf a.c sB off) ((o + nb + 63) / 64)
  let w := (words.drop (o / 4)).take (nb / 4)
  let slot : WSlot :=
    { fmt := BitVec.ofNat 3 fmt, bytes := wordsBytes w, poison := w.map (·.poison), wld := a.c.wlds }
  let a := a.deliver (ctx.now + wldCycles ctx.p fmt - 1 + 4) 0 (.slot ws slot)
  { a with c := { a.c with wlds := a.c.wlds + 1 } }

/-- acc.ld (R163). -/
def mAccLd (ctx : IssueCtx) (a : IssueAcc) (int : Bool) (t c0 n sB : Nat) : IssueAcc :=
  let rows := cellRows ctx.p
  let (a, words) := readUnits ctx a (addrOf a.c sB 0) (rows / 16 * n)
  let cols := (List.range n).map fun j => ((words.drop (rows * j)).take rows).map fun w =>
    ({ val := BitVec.ofNat 40 (if int then (i32 w.val.toNat % 2 ^ 40).toNat else a40Enc (f32Dec w.val.toNat))
       poison := w.poison } : PA40)
  a.deliver (ctx.now + accCycles (4 * rows * n) - 1 + 4) 0 (.accLoad t c0 int cols)

/-- Key of an element in a tile: column * 64 + row. -/
def tilePlace (j r : Nat) : Nat := j * 64 + r

/-- The roots of columns of a tile as acc.st and acc.save read them (R116): each is checked (R124), and one that fails, or
whose place is in `failed`, is poisoned where it stands (R125). Whether a parity check failed. -/
def readRoots (acc : Tbl AccElem) (rows t : Nat) (cols : List Nat) (failed : List Nat) : Tbl AccElem × Bool :=
  cols.foldl (fun q j => (List.range rows).foldl (fun q r =>
    let bad := (tget {} q.1 (accKey t j r)).rootBad
    (tmod {} q.1 (accKey t j r) fun e => { e with poison := e.poison || bad || failed.contains (tilePlace j r) }, q.2 || bad))
    q) (acc, false)

/-- acc.st (R163, R164): the roots in the kind of each column, the clamps' saturation flags, and the flag unit. A failed
residue check of the INT32 clamp poisons its element (R123, R125). -/
def mAccSt (ctx : IssueCtx) (a : IssueAcc) (t c0 n sB : Nat) : IssueAcc :=
  let rows := cellRows ctx.p
  let addr := addrOf a.c sB 0
  let ints := (List.range n).map fun j => (colKind a.c t (c0 + j)).int
  let residue := (ctx.failed 0 .residue).filter fun i =>
    decide (c0 ≤ i / 64 ∧ i / 64 < c0 + n) && ints.getD (i / 64 - c0) false && decide (i % 64 < rows)
  let root (e : AccElem) (j r : Nat) : Nat × Bool := storeRoot (ints.getD j false) (e.rootWord ctx.now (accKey t (c0 + j) r))
  let q := readRoots a.c.acc rows t ((List.range n).map (c0 + ·)) residue
  let acc := (List.range n).foldl (fun acc j => (List.range rows).foldl (fun acc r =>
      tmod {} acc (accKey t (c0 + j) r) fun e => { e with sat := e.sat || (root e j r).2 }) acc) q.1
  let words := (List.range n).flatMap fun j => (List.range rows).map fun r =>
    let e := tget {} acc (accKey t (c0 + j) r)
    ({ val := BitVec.ofNat 32 (root e j r).1, poison := e.poison } : PWord)
  let anyInt := ints.contains true
  let flags : Bytes := (List.range 64).map fun i =>
    if ints.getD i false && (List.range rows).any fun r => (tget {} acc (accKey t (c0 + i) r)).sat then 1 else 0
  let words := if anyInt then words ++ bytesWords flags else words
  let a := { a with c := { a.c with acc := acc } }.raiseChecks residue (if q.2 then [0] else [])
  writeUnits a addr (ctx.now + accCycles (4 * words.length)) 0 words

/-- acc.save (R165): five bytes for each root; a poisoned root marks both words it spans (R209). -/
def mAccSave (ctx : IssueCtx) (a : IssueAcc) (t sB off : Nat) : IssueAcc :=
  let rows := cellRows ctx.p
  let cols := cellCols ctx.p
  let addr := addrOf a.c sB off
  let q := readRoots a.c.acc rows t (List.range cols) []
  let elems := (List.range cols).flatMap fun j => (List.range rows).map fun r =>
    let e := tget {} q.1 (accKey t j r)
    (e.rootWord ctx.now (accKey t j r), e.poison)
  let bytes := elems.flatMap fun e => leBytes 5 e.1
  let marks := elems.flatMap fun e => List.replicate 5 e.2
  let words := (bytesWords bytes).zipIdx.map fun (w, i) => { w with poison := ((marks.drop (4 * i)).take 4).contains true }
  let a := { a with c := { a.c with acc := q.1 } }.raiseChecks [] (if q.2 then [0] else [])
  writeUnits a addr (ctx.now + accCycles (5 * rows * cols)) 0 words

/-- acc.restore (R165): the kinds come from the restore-kind mask of the bundle's address. -/
def mAccRestore (ctx : IssueCtx) (a : IssueAcc) (t sB off : Nat) : IssueAcc :=
  let rows := cellRows ctx.p
  let cols := cellCols ctx.p
  let nb := 5 * rows * cols
  let (a, words) := readUnits ctx a (addrOf a.c sB off) (nb / 64)
  let bytes := wordsBytes words
  let poison := words.map (·.poison)
  let mask := match a.c.active.restore.find? fun r => r.1 == a.c.pc with
    | some r => r.2
    | none => 0
  let elems := (List.range cols).map fun j => (List.range rows).map fun r =>
    let o := 5 * (j * rows + r)
    ({ val := BitVec.ofNat 40 (restoreWord (tb mask.toNat j) (fieldAt bytes o 5)), poison := bytesPoison poison o 5 } : PA40)
  a.deliver (ctx.now + accCycles nb - 1 + 4) 0 (.accRestore t mask elems)

/-- An mma (R161, R76, R118): every column is read at issue, the leaves enter the tile at delivery; the assay unit's
capture of a sampled tree (R357). -/
def mMma (ctx : IssueCtx) (a : IssueAcc) (ws t c0 n sA fa : Nat) (first ref int : Bool) : IssueAcc :=
  let slot := if ws = 0 then a.c.ws0 else a.c.ws1
  let addr := addrOf a.c sA 0
  -- block sums of fixed-point operands and integer adds carry residues, BF16 products and float adds the float checks
  let covers (i : Nat) : Bool := decide (c0 ≤ i / 64 ∧ i / 64 < c0 + n ∧ i % 64 < cellRows ctx.p)
  let residue := if fmtBf16 fa || fmtBf16 slot.fmt.toNat then [] else (ctx.failed 0 .residue).filter covers
  let fp := if int then [] else (ctx.failed 0 .fp).filter covers
  let a := a.raiseChecks residue fp
  let rowsFailed (j : Nat) : List Nat := ((residue ++ fp).filter fun i => i / 64 == c0 + j).map (· % 64)
  let nb := rowBytes fa (cellKb ctx.p) 1
  let (a, cols) := (List.range n).foldl (fun (q : IssueAcc × List (Bytes × List Bool)) j =>
    let (a, words) := readUnits ctx q.1 ((addr.1 + 2 * j) % 2 ^ 32, addr.2) (colUnits ctx.p fa)
    (a, q.2 ++ [((wordsBytes words).take nb, words.map (·.poison))])) (a, [])
  let leaves := cols.zipIdx.map fun (col, j) => columnLeaves ctx.p slot fa int ref (rowsFailed j) col.1 col.2
  let a := a.deliver (ctx.now + mmaCycles slot.fmt.toNat fa n ref - 1 + 12) 0 (.leaves t c0 first ref int leaves)
  let sample := a.c.sample.map fun sm =>
    if !sm.closed && sm.tile == t && decide (c0 ≤ sm.column ∧ sm.column < c0 + n) then
      let col := cols.getD (sm.column - c0) ([], [])
      let leaf : SampleLeaf :=
        { w := slot.bytes, fw := slot.fmt, wld := slot.wld, a := col.1
          fa := BitVec.ofNat 3 fa, ref := ref, int := int
          poison := slot.poison.contains true || col.2.contains true }
      { sm with leaves := sm.leaves ++ [leaf] }
    else sm
  { a with c := { a.c with sample := sample }, opened := if first then some (t, c0) else a.opened }

/-- The M slot issues. -/
def issueM (ctx : IssueCtx) (a : IssueAcc) : MOp → IssueAcc
  | .nop | .reserved => a
  | .wld ws fmt sB h off => mWld ctx a ws fmt sB h off
  | .accLd int t c0 n sB => mAccLd ctx a int t c0 n sB
  | .accSt t c0 n sB => mAccSt ctx a t c0 n sB
  | .accSave t sB off => mAccSave ctx a t sB off
  | .accRestore t sB off => mAccRestore ctx a t sB off
  | .mma ws t c0 n sA fmt first ref int => mMma ctx a ws t c0 n sA fmt first ref int

/-- A scalar result, six cycles on (R79, R140). -/
def toScalar (ctx : IssueCtx) (a : IssueAcc) (sd : Nat) (lat : Nat) (v : Nat) (poison : Bool) : IssueAcc :=
  a.deliver (ctx.now + lat) 1 (.scalar sd { val := BitVec.ofNat 32 v, poison := poison })

/-- A loop instruction at an address opens its body (R141). Where its bundle is itself the last bundle of enclosing
bodies, their next iteration waits for the body opened here: an enclosing loop tests its count only when every loop inside
it has completed its last iteration (R142; the form is not refused by R143, log entry 117). -/
def openLoop (pc lc count len : Nat) (loops : List LoopFrame) : List LoopFrame :=
  { lc := lc, first := pc + 1, last := pc + len, left := count - 1 } ::
    loops.map fun f => if f.last = pc then { f with last := pc + len } else f

/-- The V slot runs a float stage: its adders and roundings carry the checks of R124 (R171). -/
def vFloat : VOp → Bool
  | .v3 op .. => decide (op ≤ 0x25) || op == 0x3C || [0x40, 0x41, 0x42, 0x43, 0x48, 0x49, 0x58, 0x59, 0x5A].contains op
  | .vs op .. => op == 0x28 || op == 0x29
  | .vquant .. | .vdeq .. => true
  | _ => false

/-- The V slot runs an integer stage, which carries the residue of R123 (R171). -/
def vInteger : VOp → Bool
  | .v3 op .. => (decide (0x30 ≤ op) && decide (op ≤ 0x34)) || op == 0x3D
  | .vrng .. => true
  | _ => false

/-- The V slot issues (R139 to R145, R168 to R175). A failed check poisons the lanes it touched (R171). -/
def issueV (ctx : IssueCtx) (a : IssueAcc) (op : VOp) : IssueAcc :=
  let residue := if vInteger op then (ctx.failed 1 .residue).filter (decide <| · < 32) else []
  let fp := if vFloat op then (ctx.failed 1 .fp).filter (decide <| · < 32) else []
  let hit := residue ++ fp
  let a := a.raiseChecks residue fp
  match op with
  | .nop | .reserved => a
  | .alu op sd x y z =>
    let (u, v, w) := (srcGet a.c x, srcGet a.c y, srcGet a.c z)
    toScalar ctx a sd 6 (aluR op u.val.toNat v.val.toNat w.val.toNat) (u.poison || v.poison || w.poison)
  | .getv sd v lane =>
    let w := (vGet a.c v).getD lane {}
    toScalar ctx a sd 6 w.val.toNat w.poison
  | .imm op sd x im =>
    let u := srcGet a.c x
    toScalar ctx a sd 6 (aluI op u.val.toNat im) u.poison
  | .upper lui sd im => toScalar ctx a sd 6 (aluU lui im) false
  | .loop lc count len =>
    { a with c := { a.c with lc := tset 0 a.c.lc lc 0, loops := openLoop a.c.pc lc count len a.c.loops } }
  | .post chan x =>
    let u := srcGet a.c x
    { a with posts := a.posts ++ [(chan, if u.poison then none else some (BitVec.ofNat 4 u.val.toNat))] }
  | .v3 op vd va vb vc =>
    let (la, lb, lc) := (vGet a.c va, vGet a.c vb, vGet a.c vc)
    let nat (l : List PWord) := l.map fun w => w.val.toNat
    let usesB := decide (op ≤ 0x25) || (decide (0x30 ≤ op) && decide (op ≤ 0x3E))
    let usesC := op == 0x23 || op == 0x3E
    let lanes : List PWord :=
      match crossV3 op (nat la) with
      | some r =>
        -- every lane reads all lanes of a, but vscan's lane j reads lanes 0 to j only (R131, R169)
        r.zipIdx.map fun (v, j) =>
          { val := BitVec.ofNat 32 v
            poison := if op = 0x5A then hit.any (· ≤ j) || (la.take (j + 1)).any (·.poison)
              else !hit.isEmpty || la.any (·.poison) }
      | none =>
        (List.range 32).map fun j =>
          let (x, y, z) := (la.getD j {}, lb.getD j {}, lc.getD j {})
          { val := BitVec.ofNat 32 (laneV3 op j x.val.toNat y.val.toNat z.val.toNat)
            poison := hit.contains j || (op != 0x5C && x.poison) || (usesB && y.poison) || (usesC && z.poison) }
    a.deliver (ctx.now + latV3 op) 1 (.vector vd lanes)
  | .vs op vd va sB =>
    let s := sGet a.c sB
    let lanes := (vGet a.c va).zipIdx.map fun (x, j) =>
      ({ val := BitVec.ofNat 32 (match op with
          | 0x28 => f32Add x.val.toNat s.val.toNat
          | 0x29 => f32Mul x.val.toNat s.val.toNat
          | _ => s.val.toNat)
         poison := hit.contains j || s.poison || (op != 0x2A && x.poison) } : PWord)
    a.deliver (ctx.now + 6) 1 (.vector vd lanes)
  | .vquant vd va fmt h =>
    let l := vGet a.c va
    let bad := l.any (·.poison)
    let place (i : Nat) : Nat := ((quantPlace fmt ctx.p h).1 + i * fmtNibbles fmt / 2) / 4
    let lanes := (bytesWords (quantBytes fmt ctx.p h (l.map fun w => w.val.toNat))).zipIdx.map fun (w, j) =>
      { w with poison := bad || hit.any fun i => place i == j }
    a.deliver (ctx.now + 6) 1 (.vector vd lanes)
  | .vdeq vd va fmt h =>
    let l := vGet a.c va
    let (oe, os, og) := quantPlace fmt ctx.p h
    let read (o n : Nat) := bytesPoison (l.map (·.poison)) o n
    let bad := read oe (16 * fmtNibbles fmt) || (!fmtBf16 fmt && read os 1) ||
      (fmtTempered fmt && read og 1)
    let lanes := (deqLanes fmt ctx.p h (wordsBytes l)).zipIdx.map fun (v, j) =>
      ({ val := BitVec.ofNat 32 v, poison := bad || hit.contains j } : PWord)
    a.deliver (ctx.now + 6) 1 (.vector vd lanes)
  | .vrng vd k0 k1 pos draw =>
    let (u, v, w) := (sGet a.c k0, sGet a.c k1, sGet a.c pos)
    let bad := u.poison || v.poison || w.poison
    let lanes := (List.range 32).map fun j =>
      ({ val := BitVec.ofNat 32 (rngLane u.val.toNat v.val.toNat w.val.toNat draw j)
         poison := bad || hit.contains j } : PWord)
    a.deliver (ctx.now + 14) 1 (.vector vd lanes)

/-- The words of a line as the slice holds them (R228, R234). -/
def lineWords (st : SiteState) (x : Nat) : List PWord :=
  if tget false st.linePoison x then (List.range 16).map fun j => poisoned (x * 16 + j)
  else bytesWords (tgetMany 0 st.mem (x * 64) 64)

/-- A write reaches a line: a clean write of the whole line removes the mark, any other merges and keeps it (R228). -/
def lineWrite (st : SiteState) (x o : Nat) (data : Bytes) (poison : Bool) : SiteState :=
  let mark := poison || (tget false st.linePoison x && decide (¬ (o = 0 ∧ 64 ≤ data.length)))
  { st with mem := tsetMany 0 st.mem (x * 64 + o) data, linePoison := tset false st.linePoison x mark }

/-- The writes of the guard that a read at a budget time sees, applied to the slice in the order of their delivery; of
two at once the higher logical cell stands (R138, R149, R222). -/
def guardApply (st : SiteState) (x now : Nat) : SiteState :=
  let es := st.guard.filter fun g => g.line == x && g.live && decide (g.due ≤ now)
  let sorted := sortBy (fun a b => decide (a.due < b.due ∨ (a.due = b.due ∧ a.cell ≤ b.cell))) es
  sorted.foldl (fun st g => lineWrite st g.line g.offset g.data g.poison) st

/-- A line as a read issued at a budget time sees it (R149). -/
def lineRead (st : SiteState) (x now : Nat) : List PWord := lineWords (guardApply st x now) x

/-- The kind of region a line lies in, if any (R230, R235). -/
def regionKind (img : SiteImage) (x : Nat) : Option Nat :=
  let mib := x / 16384
  ((List.range 8).find? fun n =>
    let ctl := (tget 0 img.regionCtrl n).toNat
    let base := bf (tget 0 img.regionBase n).toNat 9 0
    tb ctl 31 && decide (base ≤ mib ∧ mib < base + bf ctl 9 0)).map fun n => bf (tget 0 img.regionCtrl n).toNat 26 24

/-- A cell may read or write a line of a region kind (R230). -/
def regionAllows (write : Bool) : Option Nat → Bool
  | some k => if write then k == 1 || k == 2 || k == 5 else k == 0 || k == 1 || k == 2 || k == 4 || k == 5
  | none => false

/-- Whether a declared place is the place of a line (R213, R221). -/
def placeOk (pl : AccessPlace) (x : Nat) : Bool :=
  match pl with
  | .declared chanB bg bank => tb x 2 == chanB && bf x 5 3 == bg.val && bf x 7 6 == bank.val
  | _ => true

/-- Why the controller would turn away an access of a line, if it would. -/
def accessDenied (ctx : IssueCtx) (a : IssueAcc) (i : Nat) (write : Bool) (x : Nat) : Option Denied :=
  let recs := a.c.active.map.filter fun r => r.entry == a.c.seg && r.issue == ctx.cycle
  let pl := match recs.find? fun r => r.burst == i with
    | some r => r.place
    | none => .derived
  if !placeOk pl x then some .bank
  else if !regionAllows write (regionKind ctx.site.active x) then some .region
  else none

/-- The listed activation slot of an access, from the start of the stroke that issues it on (R215, R216). -/
def listedSlot (ctx : IssueCtx) (a : IssueAcc) (burst : Nat) : Nat :=
  9 * ctx.startTick +
    match a.c.active.map.find? fun r => r.entry == a.c.seg && r.issue == ctx.cycle && r.burst == burst with
    | some r => r.slot
    | none => 0

/-- The budget time of a line's landing cycle: as the cistern map names it, else the delivery (R217, R219). -/
def landingTime (ctx : IssueCtx) (a : IssueAcc) (burst j due : Nat) : Nat :=
  match a.c.active.map.find? fun r => r.entry == a.c.seg && r.issue == ctx.cycle && r.burst == burst with
  | some r => match r.landing[j]? with
    | some c => ctx.now - ctx.cycle + c
    | none => due
  | none => due

/-- The bursts of a run of lines in ascending order, with the lines of each (R214). -/
def burstsOf (lines : List Nat) : List (List Nat) :=
  lines.foldl (fun acc x =>
    match acc.getLast? with
    | some g => if (g.headD 0) / 4 = x / 4 then acc.dropLast ++ [g ++ [x]] else acc ++ [[x]]
    | none => [[x]]) []

/-- The accesses that serve a run of lines, one for each burst (R214, R218). -/
def accessesFor (ctx : IssueCtx) (a : IssueAcc) (kind : AccessKind) (i0 : Nat) (lines : List Nat) (due rel : Nat) :
    List AccessReq :=
  (burstsOf lines).zipIdx.map fun (ls, i) =>
    { cell := ctx.key, logical := ctx.logical, slot := listedSlot ctx a (i0 + i), kind := kind, lines := ls
      issued := ctx.now, due := due
      denied := accessDenied ctx a (i0 + i) (kind == .put) (ls.headD 0)
      task := a.c.task, bundle := a.c.pc, rel := rel }

/-- Read a run of n task-relative lines at issue: the words of each, poisoned where out of bound or turned away, with
the lines in bound (R85, R137, R149, R221, R230). -/
def readLines (ctx : IssueCtx) (a : IssueAcc) (addr : Nat × Bool) (n : Nat) :
    IssueAcc × List (Option Nat × List PWord) :=
  let r := taskRegs a.c a.c.task
  let ls := (List.range n).map fun i => if addr.2 then none else cisLineOf r (addr.1 + i)
  let bursts := burstsOf (ls.filterMap id)
  let out := ls.zipIdx.map fun (l, i) =>
    match l with
    | some x =>
      let b := (bursts.findIdx? fun g => g.contains x).getD 0
      if (accessDenied ctx a b false ((bursts.getD b []).headD x)).isSome then
        (some x, (List.range 16).map fun j => poisoned (x * 16 + j))
      else (some x, lineRead ctx.site x ctx.now)
    | none => (none, (List.range 16).map fun j => poisoned ((addr.1 + i) * 16 + j))
  match ls.findIdx? (·.isNone) with
  | some i => (if addr.2 then a else a.raise fbCistern (addr.1 + i), out)
  | none => (a, out)

/-- Queue writes of a run of lines into the guard, with their accesses; lines out of bound are left out with a plan
fault (R85, R137, R149, R222). -/
def putLines (ctx : IssueCtx) (a : IssueAcc) (i0 : Nat) (addr : Nat × Bool) (items : List (Nat × Bytes × Bool))
    (n : Nat) : IssueAcc :=
  -- items: offset in the line, bytes and poison of the data, one for each of the n lines
  if addr.2 then a
  else
    let r := taskRegs a.c a.c.task
    let ls := (List.range n).map fun i => cisLineOf r (addr.1 + i)
    let due := ctx.now + 180
    let reqs := accessesFor ctx a .put i0 (ls.filterMap id) due addr.1
    let dead (x : Nat) := reqs.any fun q => q.lines.contains x && q.denied.isSome
    let es := ls.zipIdx.filterMap fun (l, i) => l.map fun x =>
      let it := items.getD i (0, [], false)
      ({ line := x, offset := it.1, data := it.2.1, poison := it.2.2, issued := ctx.now, due := due
         cell := ctx.logical, live := !dead x } : GuardEntry)
    let a := { a with access := a.access ++ reqs, guard := a.guard ++ es }
    match ls.findIdx? (·.isNone) with
    | some i => a.raise fbCistern (addr.1 + i)
    | none => a

/-- cis.get (R149). -/
def xCisGet (ctx : IssueCtx) (a : IssueAcc) (sS sC soff n : Nat) : IssueAcc :=
  let src := addrOf a.c sC 0
  let dst := addrOf a.c sS soff
  let (a, lines) := readLines ctx a src n
  let due := ctx.now + 180
  let reqs := accessesFor ctx a .get 0 (lines.filterMap (·.1)) due src.1
  let r := taskRegs a.c a.c.task
  let units := (List.range n).map fun i => if dst.2 then none else spUnit r (dst.1 + i)
  let moves := lines.map fun (l, ws) =>
    match l with
    | some x =>
      let b := (reqs.findIdx? fun q => q.lines.contains x).getD 0
      let j := match reqs[b]? with
        | some q => (q.lines.findIdx? (· == x)).getD 0
        | none => 0
      ({ line := x, data := ws, landAt := landingTime ctx a b j due } : LineMove)
    | none => { line := 0, data := ws, started := true, landed := true, landAt := due }
  let a := { a with access := a.access ++ reqs }
  let a := a.deliver due 2 (.cisGet (r.sbase + dst.1) (units.map (·.isSome)) moves)
  match units.findIdx? (·.isNone) with
  | some i => if dst.2 then a else a.raise fbScratch (dst.1 + i)
  | none => a

/-- cis.put (R149). -/
def xCisPut (ctx : IssueCtx) (a : IssueAcc) (sS sC soff n : Nat) : IssueAcc :=
  let (a, words) := readUnits ctx a (addrOf a.c sS soff) n
  let items := (List.range n).map fun i =>
    let w := (words.drop (16 * i)).take 16
    (0, wordsBytes w, w.any (·.poison))
  putLines ctx a 0 (addrOf a.c sC 0) items n

/-- kv.append (R151, R328, R329). -/
def xKvAppend (ctx : IssueCtx) (a : IssueAcc) (sS sP sQ : Nat) (v f4 : Bool) : IssueAcc :=
  let e := if f4 then 64 else 128
  let (a, words) := readUnits ctx a (addrOf a.c sS 0) (if f4 then 2 else 3)
  let page := addrOf a.c sP 0
  let pos := sGet a.c sQ
  let t := pos.val.toNat
  if page.2 || pos.poison then a
  else if 128 ≤ t then a.raise fbCistern page.1
  else
    let row := words.take (e / 4)
    let scale := (words.drop (e / 4)).take 1
    let eo := (if v then 128 * e else 0) + e * t
    let so := 256 * e + (if v then 512 else 0) + 4 * t
    let items := (List.range (e / 64)).map fun i =>
      let w := (row.drop (16 * i)).take 16
      (0, wordsBytes w, w.any (·.poison))
    let a := putLines ctx a 0 ((page.1 + eo / 64) % 2 ^ 32, false) items (e / 64)
    putLines ctx a 1 ((page.1 + so / 64) % 2 ^ 32, false) [(so % 64, wordsBytes scale, scale.any (·.poison))] 1

/-- The partition of a task in the cache area: its steps and the unit it begins at (R198). -/
def partitionOf (c : CellState) (t : Nat) : Option (Nat × Nat) :=
  let base := 16384 - 1024 * c.active.cacheZ
  let before := (c.active.parts.filter fun q => decide (q.1 < t)).foldl (fun s q => s + q.2) 0
  (c.active.parts.find? fun q => q.1 == t).map fun q => (q.2, base + 1024 * before)

/-- An address relative to a base, as the 32-bit value a capture takes it from (R97, R148, R152). -/
def relAddr (x base : Nat) : Nat := (((x : Int) - (base : Int)) % 2 ^ 32).toNat

/-- The way that a cch.ld to a line of a set uses (R199): that of a tag of its line, else an invalid way (the lowest), else
the least recently used. -/
def cacheWay (ways : List CacheWay) (line : Nat) : Nat :=
  match ways.find? fun q => q.line == line with
  | some q => q.way
  | none => match (List.range 4).find? fun k => !ways.any fun q => q.way == k with
    | some k => k
    | none => match ways.getLast? with
      | some q => q.way
      | none => 0

/-- cch.ld (R152, R199, R200): the data are the slice's as they stand at issue. The set's tags decide whether the armed slot
carries a fetch, and every cch.ld makes its way the most recently used. A way whose fill has not been written yet, or whose
line its codes cannot correct, is no hit. A hit makes no access. -/
def xCchLd (ctx : IssueCtx) (a : IssueAcc) (vd sC off : Nat) : IssueAcc :=
  let addr := addrOf a.c sC off
  let r := taskRegs a.c a.c.task
  let x := (r.cbase + addr.1) / 2 * 2
  let inb (y : Nat) := !addr.2 && decide (r.cbase ≤ y ∧ y - r.cbase + 1 ≤ r.cbound)
  let rd (ok : Bool) (y : Nat) := if inb y && ok then lineRead ctx.site y ctx.now
    else (List.range 16).map fun j => poisoned (y * 16 + j)
  let a := if addr.2 then a
    else if !inb x then a.raise fbCistern (relAddr x r.cbase)
    else if !inb (x + 1) then a.raise fbCistern (relAddr (x + 1) r.cbase)
    else a
  match partitionOf a.c a.c.task with
  | none => a.deliver (ctx.now + 180) 2 (.cache vd (rd true x ++ rd true (x + 1)))
  | some (w, unit) =>
    if !inb x || !inb (x + 1) then a.deliver (ctx.now + 180) 2 (.cache vd (rd true x ++ rd true (x + 1)))
    else
      let set := (x / 2) % (128 * w)
      let key := a.c.task * 65536 + set
      let ways := tget [] a.c.cache key
      let way := cacheWay ways x
      let word := unit * 16 + (way * 128 * w + set) * 32
      let held := (List.range 32).map (word + ·)
      let a := { a with reads := a.reads ++ held }
      let rest := ways.filter fun z => z.way != way
      let hit := (ways.any fun q => q.line == x && q.filled) &&
        !held.any fun y => (spWordRead ctx.p ctx.env.words a.c.sp y).poison
      if hit then
        { a with c := { a.c with cache := tset [] a.c.cache key ({ way := way, line := x } :: rest) } }.deliver
          (ctx.now + 180) 2 (.cache vd (rd true x ++ rd true (x + 1)))
      else
        let denied := accessDenied ctx a 0 false x
        let lanes := rd denied.isNone x ++ rd denied.isNone (x + 1)
        let fill : CacheFillRec :=
          { due := ctx.now + 179, task := a.c.task, set := set, way := way, line := x, data := lanes, word := word }
        let req : AccessReq :=
          { cell := ctx.key, logical := ctx.logical, slot := listedSlot ctx a 0, kind := .cache, lines := [x, x + 1]
            issued := ctx.now
            due := ctx.now + 180, denied := denied, task := a.c.task, bundle := a.c.pc, rel := addr.1 }
        { a with
          c := { a.c with
            cache := tset [] a.c.cache key ({ way := way, line := x, filled := false } :: rest)
            fills := (a.c.fills.map fun (f : CacheFillRec) =>
              if f.task == a.c.task && f.set == set && f.way == way then { f with stale := true } else f) ++ [fill] }
          access := a.access ++ [req] }.deliver (ctx.now + 180) 2 (.cache vd lanes)

/-- The units of the tile of sp.ldc and sp.stc: physical tile, and whether each of its 16 units is in bound (R148). -/
def tileOf (c : CellState) (addr : Nat × Bool) : Nat × List Bool :=
  let r := taskRegs c c.task
  let base := (r.sbase + addr.1) / 16 * 16
  (base, (List.range 16).map fun i =>
    !addr.2 && decide (r.sbase ≤ base + i ∧ base + i - r.sbase + 1 ≤ r.sbound))

/-- Record a scratchpad bound failed by a unit of a tile, with its address relative to SBASE (R97, R148). -/
def tileFault (a : IssueAcc) (addr : Nat × Bool) (base : Nat) (inb : List Bool) : IssueAcc :=
  match inb.findIdx? (· == false) with
  | some i => if addr.2 then a
    else a.raise fbScratch (relAddr (base + i) (taskRegs a.c a.c.task).sbase)
  | none => a

/-- cmpcnt (R154): the elements as 32-bit patterns. -/
def cmpElems (fmt : Nat) (words : List PWord) : List Nat :=
  if fmt = 1 then words.flatMap fun w => [(w.val.toNat % 65536) * 65536, w.val.toNat / 65536 * 65536]
  else words.map fun w => w.val.toNat

/-- The result of cmpcnt over elements with a threshold (R153, R154). -/
def cmpResult (fmt : Nat) (sum : Bool) (thr : Int) (elems : List Nat) : Nat :=
  let sel (b : Nat) : Bool := if fmt = 2 then decide (thr ≤ i32 b) else decide (thr ≤ orderKey b)
  if sum then f32Sum (elems.map fun b => if sel b then b else 0) else (elems.filter sel).length

/-- The X slot issues (R146 to R154). -/
def issueX (ctx : IssueCtx) (a : IssueAcc) : XOp → IssueAcc
  | .nop | .reserved => a
  | .spLdr vd sB off =>
    let (a, words) := readUnits ctx a (addrOf a.c sB off) 2
    a.deliver (ctx.now + 4) 2 (.vector vd words)
  | .spStr vs sB off => writeUnits a (addrOf a.c sB off) (ctx.now + 1) 2 (vGet a.c vs)
  | .spLdc vd sB off col =>
    let addr := addrOf a.c sB off
    let (base, inb) := tileOf a.c addr
    let lanes := (List.range 32).map fun j =>
      let w := base * 16 + 8 * j + col
      if inb.getD (j / 2) false then spWordRead ctx.p ctx.env.words a.c.sp w else poisoned w
    let reads := (List.range 32).filterMap fun j =>
      if inb.getD (j / 2) false then some (base * 16 + 8 * j + col) else none
    let a := tileFault { a with reads := a.reads ++ reads } addr base inb
    a.deliver (ctx.now + 4) 2 (.vector vd lanes)
  | .spStc vs sB off col =>
    let addr := addrOf a.c sB off
    let (base, inb) := tileOf a.c addr
    let src := vGet a.c vs
    let a := (List.range 32).foldl (fun a j =>
      if inb.getD (j / 2) false then
        a.deliver (ctx.now + 1) 2 (.spWrite (base * 16 + 8 * j + col) [src.getD j {}])
      else a) a
    tileFault a addr base inb
  | .cchLd vd sC off => xCchLd ctx a vd sC off
  | .cisGet sS sC soff n => xCisGet ctx a sS sC soff n
  | .cisPut sS sC soff n => xCisPut ctx a sS sC soff n
  | .kvAppend sS sP sQ v f4 => xKvAppend ctx a sS sP sQ v f4
  | .cmpcnt sd sB sT len fmt sum =>
    let thr := sGet a.c sT
    -- the SUM tree has float adders, the count an integer stage (R123, R124)
    let residue := if sum then [] else ctx.failed 2 .residue
    let fp := if sum then ctx.failed 2 .fp else []
    let a := a.raiseChecks residue fp
    let (a, words) := readUnits ctx a (addrOf a.c sB 0) (16 * len)
    a.deliver (ctx.now + 8 * len + 9) 2 (.scalar sd
      { val := BitVec.ofNat 32 (cmpResult fmt sum (i32 thr.val.toNat) (cmpElems fmt words))
        poison := !(residue ++ fp).isEmpty || thr.poison || words.any (·.poison) })

/-- The N slot issues (R176 to R185). A failed check of a drain's adds, a residue in an integer column and a float check in
a float one, poisons the element as the drain delivers (R123 to R125). -/
def issueN (ctx : IssueCtx) (a : IssueAcc) : NOp → IssueAcc
  | .nop | .reserved => a
  | .drain t =>
    let hit (m : SampleRec) := m.tile == t && !m.closed
    let sample := a.c.sample.map fun m =>
      if hit m then { m with closed := true, stroke := BitVec.ofNat 60 ctx.stroke } else m
    let touched (int : Bool) (l : List Nat) : List Nat := l.filter fun i =>
      decide (i / 64 < cellCols ctx.p ∧ i % 64 < cellRows ctx.p) && (colKind a.c t (i / 64)).int == int
    let residue := touched true (ctx.failed 3 .residue)
    let fp := touched false (ctx.failed 3 .fp)
    let a := a.raiseChecks residue fp
    { a with c := { a.c with sample := sample } }.deliver (ctx.now + 9) 3 (.drain t (residue ++ fp))
  | .routePut sS rid n =>
    let (a, words) := readUnits ctx a (addrOf a.c sS 0) n
    let e := (tget 0 a.c.active.routes rid).toNat
    if tb e 63 && !tb e 62 then { a with flits := a.flits ++ putFlits ctx.x ctx.y ctx.now rid e words n } else a
  | .routeGet sD sR rid n =>
    let e := (tget 0 a.c.active.routes rid).toNat
    let dst := addrOf a.c sD 0
    let src := addrOf a.c sR 0
    if tb e 63 && tb e 62 then
      let f := getFlit ctx.x ctx.y ctx.logical a.c.task ctx.now e src.1 dst.1 n
      -- a poisoned address makes the access out of bound: the request goes out poisoned (R131)
      let f := if src.2 || dst.2 then { f with bits := BitVec.ofNat 600 (flitPoison f.bits.toNat) } else f
      let f := if dst.2 then { f with lost := true } else f
      { a with flits := a.flits ++ [f] }
    else a
  | .redAdd sS tid n op =>
    let (a, words) := readUnits ctx a (addrOf a.c sS 0) n
    let reds := (List.range n).map fun u =>
      ({ tid := tid, unit := u, port := ctx.logical, op := op, data := (words.drop (16 * u)).take 16
         due := ctx.now + u + 1 } : RedInput)
    { a with reds := a.reds ++ reds }
  | .bar sd bid => { a with c := { a.c with bars := a.c.bars ++ [(bid, sd)] } }

/-- Where issue goes after the bundle at an address: the next address, the loops still open, and the counter that
advances (R141, R142). -/
def advance (a : Nat) : List LoopFrame → Nat × List LoopFrame × Option Nat
  | [] => (a + 1, [], none)
  | f :: rest =>
    if a = f.last then
      if 0 < f.left then (f.first, { f with left := f.left - 1 } :: rest, some f.lc) else advance a rest
    else (a + 1, f :: rest, none)

/-- The elements of columns of a tile after a change of each, and whether a parity check failed in one. -/
def changeElems (acc : Tbl AccElem) (t : Nat) (cols rows : List Nat) (f : Nat → Nat → AccElem → AccElem × Bool) :
    Tbl AccElem × Bool :=
  cols.foldl (fun q j => rows.foldl (fun q r =>
    let e := f j r (tget {} q.1 (accKey t j r))
    (tset {} q.1 (accKey t j r) e.1, q.2 || e.2)) q) (acc, false)

/-- Leaves enter the columns of a tile; FIRST empties them before and sets their accumulation kind, and the tree of a column
is of the mode of its leaves (R113, R114, R119). -/
def deliverLeaves (c : CellState) (t c0 : Nat) (first ref int : Bool) (cols : List (List (List PA40))) :
    CellState × Bool :=
  let q := changeElems c.acc t ((List.range cols.length).map (c0 + ·)) (List.range (cols.headD []).length) fun j r e =>
    ((cols.getD (j - c0) []).getD r []).foldl (fun q x =>
      let y := insertLeaf int ref q.1 x
      (y.1, q.2 || y.2)) (if first then emptyElem else e, false)
  let kinds := (List.range cols.length).foldl (fun k j =>
    tmod {} k (t * 64 + c0 + j) fun x => { int := if first then int else x.int, ref := ref }) c.kinds
  ({ c with acc := q.1, kinds := kinds }, q.2)

/-- A drain collapses every element of a tile and gives a closed sample its drained values (R115, R357). -/
def deliverDrain (p : Bool) (work : Nat) (c : CellState) (t : Nat) (failed : List Nat) : CellState × Bool :=
  let q := changeElems c.acc t (List.range (cellCols p)) (List.range (cellRows p)) fun j r e =>
    let k := colKind c t j
    let y := collapseElem k.int k.ref e
    ({ y.1 with poison := y.1.poison || failed.contains (tilePlace j r) }, y.2)
  let sample := c.sample.map fun m =>
    if m.closed && m.tile == t && m.drained.isNone then
      { m with
        drained := some ((List.range (cellRows p)).map fun r =>
          let e := tget {} q.1 (accKey t m.column r)
          { val := BitVec.ofNat 40 (e.rootWord 0 0), poison := e.poison })
        work := work }
    else m
  ({ c with acc := q.1, sample := sample }, q.2)

/-- Roots written by acc.ld and acc.restore: marked used, the levels emptied, the flags cleared (R113, R121). -/
def deliverRoots (c : CellState) (t c0 : Nat) (ints : List Bool) (cols : List (List PA40)) : CellState :=
  let acc := cols.zipIdx.foldl (fun acc (col, j) => col.zipIdx.foldl (fun acc (w, r) =>
    tset {} acc (accKey t (c0 + j) r) { root := some (accWord w.val.toNat), poison := w.poison }) acc) c.acc
  let kinds := (List.range cols.length).foldl (fun k j =>
    tset {} k (t * 64 + c0 + j) { int := ints.getD j false, ref := false }) c.kinds
  { c with acc := acc, kinds := kinds }

/-- The landed lines of a cis.get become visible (R149, R197). -/
def deliverLines (c : CellState) (unit : Nat) (inb : List Bool) (lines : List LineMove) : CellState :=
  { c with sp := (lines.zip inb).zipIdx.foldl (fun sp ((l, ok), i) =>
      if l.landed && ok then spWordsSet sp ((unit + i) * 16) l.data else sp) c.sp }

/-- One result takes effect; whether a parity check of the words it read failed (R124). -/
def deliverOne (p : Bool) (work : Nat) (c : CellState) : Delivery → CellState × Bool
  | .scalar sd v => (sSet c sd v, false)
  | .vector vd l | .cache vd l => (vSet c vd l, false)
  | .slot ws w => (if ws = 0 then { c with ws0 := w } else { c with ws1 := w }, false)
  | .leaves t c0 first ref int cols => deliverLeaves c t c0 first ref int cols
  | .drain t failed => deliverDrain p work c t failed
  | .accLoad t c0 int cols => (deliverRoots c t c0 (List.replicate cols.length int) cols, false)
  | .accRestore t mask cols => (deliverRoots c t 0 ((List.range cols.length).map fun j => tb mask.toNat j) cols, false)
  | .spWrite w data => ({ c with sp := spWordsSet c.sp w data }, false)
  | .cisGet unit inb lines => (deliverLines c unit inb lines, false)

/-- One result that is due is delivered; a failed parity check is a float check fault of the bundle it came from (R125). -/
def deliverDue (p : Bool) (work stroke : Nat) (c : CellState) (q : Pending) : CellState :=
  let d := deliverOne p work c q.what
  if d.2 then { d.1 with faults := captureFault d.1.faults [(fbFp, 0)] q.task q.bundle stroke false q.due } else d.1

/-- Every result due by a budget time is delivered, in the order of delivery; results of one cycle in the order of issue,
and of one bundle in the slots' order; a unit from the network, slot 4, counts as issued in its arrival cycle (R52, R72,
R138, R181). -/
def settle (p : Bool) (now stroke : Nat) (c : CellState) : CellState :=
  let ready := sortBy (fun a b => decide (a.due < b.due ∨ (a.due = b.due ∧ (a.slot < 4 ∨ b.slot = 4)))) (c.pend.filter fun q => decide (q.due ≤ now))
  ready.foldl (deliverDue p (now / 512) stroke)
    { c with pend := c.pend.filter fun q => decide (now < q.due) }

/-- The upsets of the accumulator tiles that an issue meets (R124). -/
def applyUpsets (c : CellState) (l : List TileUpset) : CellState :=
  { c with acc := l.foldl (fun acc u => tmod {} acc (accKey u.tile u.col u.row) fun e => e.upset u.word.val u.bit.val) c.acc }

/-- The events of the scratchpad words that an issue read: inner corrections, outer corrections and poisoned words, by
class and unit (R207 to R211). -/
def countReads (p : Bool) (errs : List (Nat × CodeError)) (c : CellState) (reads : List Nat) : CellState :=
  let bump (t : Tbl Nat) (cls w : Nat) : Tbl Nat := tmod 0 t (cls * 16384 + w / 16) (· + 1)
  let t := reads.foldl (fun t w =>
    let t := if (errs.filter fun e => e.1 == w && e.2 == .single).isEmpty then t else bump t 0 w
    if (spWordRead p errs c.sp w).poison then bump t 2 w
    else if errs.contains (w, .uncorrectable) then bump t 1 w else t) c.spEvents
  { c with spEvents := t }

/-- A cell ends its issue for the stroke (R556). -/
def endIssue (c : CellState) : CellState := { c with issue := .ended, loops := [] }

/-- The four slots of a bundle issue, in the order M, V, X, N (R128, R133, R138): every slot reads its sources as they stand
before any slot of this bundle delivers. -/
def issueSlots (ctx : IssueCtx) (a : IssueAcc) (b : Nat) : IssueAcc :=
  let a := issueM ctx a (mDecode ctx.p b)
  let a := issueV ctx a (vDecode ctx.p b)
  let a := issueX ctx a (xDecode ctx.p b)
  issueN ctx a (nDecode ctx.p b)

/-- After its stroke-end bundle the cell compares the tally with the entry's (R94, R95). A stroke that ends without its
stroke-end bundle makes no comparison, and CE_TALLY_LAST then keeps the values it held (model's choice, log entry 118). -/
def checkTally (a : IssueAcc) (expected : BitVec 16) : IssueAcc :=
  let c := { a.c with tallyExpected := expected, tallyComputed := a.c.crc }
  let a := { a with c := c }
  if a.c.crc ≠ expected ∧ tb c.active.ctrl.toNat 1 then a.raise fbTally 0 else a

/-- One issue of a running cell (R81, R85, R93, R128, R129, R141, R556): results due are delivered, the bundle is
fetched, folded into the tally and its slots issue; then the stroke ends or issue goes on. -/
def issueBundle (ctx : IssueCtx) (c : CellState) : IssueAcc :=
  let c := settle ctx.p ctx.now ctx.stroke (applyUpsets c ctx.env.upsets)
  let r := taskRegs c c.task
  let done (a : IssueAcc) : IssueAcc :=
    let f := { a.c with faults := captureFault a.c.faults a.causes a.c.task c.pc ctx.stroke false ctx.now }
    { a with c := countReads ctx.p ctx.env.words f a.reads }
  if r.ibound < c.pc + 1 then done (({ c := endIssue c : IssueAcc }).raise fbFetch c.pc)
  else if ctx.env.fetch = some .uncorrectable then done (({ c := endIssue c : IssueAcc }).raise fbStore 0)
  else
    let c := if ctx.env.fetch = some .single then { c with storeCorr := satAdd c.storeCorr 1 } else c
    let b := (tget 0 c.istore (r.ibase + c.pc)).toNat
    let c := { c with crc := foldTally c.crc c.pc b }
    let a := issueSlots ctx { c := c } b
    if bEnd b then
      let expected := BitVec.ofNat 16 (bf (tget 0 a.c.active.segtab a.c.seg).toNat 111 96)
      done (checkTally { a with c := endIssue { a.c with cycle := a.c.cycle + 1 } } expected)
    else
      match vDecode ctx.p b with
      | .loop .. => done { a with c := { a.c with pc := c.pc + 1, cycle := a.c.cycle + 1 } }
      | _ =>
        let (pc, loops, lc) := advance c.pc a.c.loops
        let lcs := match lc with
          | some l => tmod 0 a.c.lc l (· + 1)
          | none => a.c.lc
        done { a with c := { a.c with pc := pc, loops := loops, lc := lcs, cycle := a.c.cycle + 1 } }

end Sys2Proof.Machine
end

