-- ==== Sys2Proof/Machine/Ops.lean ====
section
/-! DEFINITION. Named operations over the state: access to the parts of the wafer, time, the sparing map (R23, R27, R502,
R503), records and their queues (R488, R489, R535), alerts (R517) and responses (R514). A block has no exception entry;
raising a record or an alert is what takes its place. -/

namespace Sys2Proof.Machine

/-- The outcome of every command of this block: a next state. -/
def done (s : State) : Host.Outcome State Fault Refusal := .next s

def cellKey (c : CellAddr) : Nat := c.field.val * 1332 + c.site.val * 18 + c.phys.val
def siteKey (s : SiteAddr) : Nat := s.field.val * 74 + s.site.val
def routerKey (r : RouterAddr) : Nat := r.field.val * 72 + r.home.val

/-- Site key of a cell key. -/
def cellSite (k : Nat) : Nat := k / 18

/-- Field of a cell key. -/
def cellField (k : Nat) : Nat := k / 1332

/-- P-fields are columns 3 and 4 (R19); every cell of a field is of the field's kind (R20). -/
def fieldIsP (f : Nat) : Bool := f % 8 == 3 || f % 8 == 4

def State.cell (s : State) (k : Nat) : CellState := tget {} s.cells k
def State.site (s : State) (k : Nat) : SiteState := tget {} s.sites k
def State.router (s : State) (k : Nat) : RouterState := tget {} s.routers k
def State.field (s : State) (f : Nat) : FieldState := tget {} s.fields f
def State.port (s : State) (p : Nat) : PortState := tget {} s.ports p
def State.cascPort (s : State) (p : Nat) : CascState := tget {} s.casc p
def State.window (s : State) (w : Nat) : Window := tget {} s.windows w

def State.setSite (s : State) (k : Nat) (v : SiteState) : State := { s with sites := tset {} s.sites k v }
def State.setRouter (s : State) (k : Nat) (v : RouterState) : State := { s with routers := tset {} s.routers k v }
def State.setField (s : State) (f : Nat) (v : FieldState) : State := { s with fields := tset {} s.fields f v }
def State.setPort (s : State) (p : Nat) (v : PortState) : State := { s with ports := tset {} s.ports p v }
def State.setCascPort (s : State) (p : Nat) (v : CascState) : State := { s with casc := tset {} s.casc p v }
def State.setWindow (s : State) (w : Nat) (v : Window) : State := { s with windows := tset {} s.windows w v }

def State.modField (s : State) (f : Nat) (g : FieldState → FieldState) : State := s.setField f (g (s.field f))
def State.modSite (s : State) (k : Nat) (g : SiteState → SiteState) : State := s.setSite k (g (s.site k))
def State.modPort (s : State) (p : Nat) (g : PortState → PortState) : State := s.setPort p (g (s.port p))
def State.modRouter (s : State) (k : Nat) (g : RouterState → RouterState) : State := s.setRouter k (g (s.router k))
def State.modCasc (s : State) (p : Nat) (g : CascState → CascState) : State := s.setCascPort p (g (s.cascPort p))

/-- Put a cell back; a new capture counts in CL_FAULT_COUNT of its cluster (R97, R99). -/
def State.setCell (s : State) (k : Nat) (v : CellState) : State :=
  let old := s.cell k
  let s := { s with cells := tset {} s.cells k v }
  if old.faults.status = 0 ∧ v.faults.status ≠ 0 then
    s.modSite (cellSite k) fun st => { st with faultCount := satAdd st.faultCount 1 }
  else s

def State.modCell (s : State) (k : Nat) (g : CellState → CellState) : State := s.setCell k (g (s.cell k))

/-- Board time (R37). -/
def boardTime (s : State) : Nat := ((s.time.localTicks.toNat : Int) + s.time.trim).toNat

/-- Stroke number of the current stroke (R47). -/
def strokeNo (s : State) : Nat := s.time.epoch * 4096 + s.time.stroke

/-- Budget time of budget cycle 0 of the current working stroke (R52). -/
def budgetBase (s : State) : Nat := s.time.work * 512

/-- The module runs strokes and its data path takes work. -/
def working (s : State) : Bool := s.time.running && s.time.dataPath && s.time.inStroke

/-- A new free value of the spec's open values; the counter advances with each (log entry 5). -/
def takeFree (s : State) : BitVec 64 × State :=
  (Config.freeValue s.freeCount, { s with freeCount := s.freeCount + 1 })

/-- Something leaves the device. -/
def State.emit (s : State) (m : Sent) : State := { s with sent := s.sent ++ [m] }

/-- Answer a management request (R514). -/
def respond (s : State) (op : Nat) (tag : BitVec 16) (status : Nat) (body : List (BitVec 64) := []) : State :=
  s.emit (.response (BitVec.ofNat 16 (op ||| 0x8000)) tag status body)

/-- Status codes of R516. -/
def stAccepted : Nat := 0
def stTooLate : Nat := 1
def stOccupied : Nat := 2
def stSwap : Nat := 3
def stQueueFull : Nat := 4
def stLoadBusy : Nat := 5
def stNotStaged : Nat := 6
def stWeightLayout : Nat := 7
def stDiscarded : Nat := 8
def stNoHoleVariant : Nat := 9
def stNotRunning : Nat := 10
def stInFlight : Nat := 11
def stBoard : Nat := 12
def stReload : Nat := 13
def stBadManifest : Nat := 14
def stStagingSpace : Nat := 15
def stKeyWrap : Nat := 16
def stShardCorrupt : Nat := 17
def stShardMissing : Nat := 18
def stSameVersion : Nat := 19
def stPlanPending : Nat := 20
def stBadRecipe : Nat := 21
def stNoWide : Nat := 22
def stBadSetting : Nat := 23
def stBadSignature : Nat := 24
def stRollback : Nat := 25
def stPackFormat : Nat := 26
def stDefectMap : Nat := 27
def stWindowCorrupt : Nat := 28
def stUnknownOp : Nat := 29
def stBadAddress : Nat := 30
def stCommitBusy : Nat := 31
def stStageFailed : Nat := 32
def stIncompatible : Nat := 33
def stBlockCheck : Nat := 34
def stNotReady : Nat := 35
def stActivation : Nat := 36
def stExhausted : Nat := 37
def stDumpBusy : Nat := 38
def stImageFormat : Nat := 39
def stPlanRefused : Nat := 40
def stNotFound : Nat := 41
def stDark : Nat := 42

/-- Raise bits of WM_ALERT; a bit that rises makes a message due (R517, R537). -/
def raiseAlert (s : State) (bit : Nat) : State :=
  let b := s.mgmt.alert ||| BitVec.ofNat 11 (2 ^ bit)
  { s with mgmt := { s.mgmt with alert := b, alertDue := s.mgmt.alertDue || decide (b ≠ s.mgmt.alert) } }

def alLog : Nat := 0
def alAssay : Nat := 1
def alPower : Nat := 2
def alThermal : Nat := 3
def alAgeing : Nat := 4
def alCqLost : Nat := 5
def alSeb : Nat := 6
def alDigest : Nat := 7
def alFirmware : Nat := 8
def alCommit : Nat := 9
def alIdentity : Nat := 10

/-- The input barrier is closed (R309). -/
def barrierClosed (s : State) : Bool := !s.plan.holds.isEmpty

/-- Close the input barrier for an event. -/
def holdBarrier (s : State) (h : BarrierHold) : State :=
  if s.plan.holds.contains h then s else { s with plan := { s.plan with holds := s.plan.holds ++ [h] } }

/-- An event releases the input barrier (R309). -/
def freeBarrier (s : State) (h : BarrierHold) : State :=
  { s with plan := { s.plan with holds := s.plan.holds.filter (· != h) } }

/-- The defect word of a site: the factory map, or in the compatibility mode the neighbour test's findings alone, with the
amendments applied (R502 to R504). -/
def siteWord (s : State) (am : List Amendment) (f site : Nat) : Nat :=
  let base := if s.mgmt.compat then 0 else (tget 0 s.otp.siteWords (f * 74 + site)).toNat
  am.foldl (fun w a =>
    if a.field.val = f ∧ a.index = site then
      match a.kind with
      | 1 => w ||| 2 ^ (a.phys % 18)
      | 2 => w ||| 2 ^ 18
      | 3 => w ||| 2 ^ 21
      | _ => w
    else w) base

/-- Bits set among the low n. -/
def popCount (n x : Nat) : Nat := ((List.range n).filter fun i => tb x i).length

/-- A site is defective (R25, R502). -/
def siteBad (s : State) (am : List Amendment) (f site : Nat) : Bool :=
  let w := siteWord s am f site
  bf w 20 18 != 0 || decide (2 < popCount 18 w)

/-- The sites of a field that serve, in chain order: cluster n takes the n-th healthy site within reach (R23). -/
def goodSites (s : State) (am : List Amendment) (f : Nat) : List Nat :=
  (List.range 74).filter fun i => !siteBad s am f i

/-- The compute site of the cluster with home index n (R23). -/
def clusterSite (s : State) (am : List Amendment) (f n : Nat) : Option Nat := (goodSites s am f)[n]?

/-- The physical cell of logical cell i (CY * 4 + CX) of a site (R27). -/
def logicalPhys (s : State) (am : List Amendment) (f site i : Nat) : Option Nat :=
  ((List.range 18).filter fun p => !tb (siteWord s am f site) p)[i]?

/-- A field has no valid mapping: three or more defective sites, or a defective router (R26, R502). -/
def fieldUnmapped (s : State) (am : List Amendment) (f : Nat) : Bool :=
  decide ((goodSites s am f).length < 72) || (List.range 72).any fun i => tb (siteWord s am f i) 21 || !s.otp.mapOk

/-- The amendments and withdrawals known, in slot order (R503). -/
def knownDefects (s : State) : List Amendment :=
  if s.mgmt.compat then s.faults.withdrawals else s.otp.amendments ++ s.faults.withdrawals

/-- Home index of a logical cluster index CLY * 9 + CLX (R22). -/
def homeOf (cl : Nat) : Nat := if cl / 9 % 2 = 0 then cl else cl / 9 * 9 + (8 - cl % 9)

/-- Cell key of a logical cell of a field under the map in force (R23, R27). -/
def placeKey (s : State) (f : Nat) (p : LogCell) : Option Nat :=
  let am := s.faults.applied
  match clusterSite s am f (homeOf p.cl.val) with
  | some site => (logicalPhys s am f site p.cell.val).map fun ph => f * 1332 + site * 18 + ph
  | none => none

/-- Cell key of the cell that serves a logical cell: CE_LOGICAL says which (R98). -/
def servedCell (s : State) (x y cell : Nat) : Option Nat :=
  let f := fieldAtXY x y
  let w := 2 ^ 31 + (x % 9) * 2 ^ 12 + (y % 8) * 2 ^ 8 + (cell % 4) * 2 ^ 4 + cell / 4
  (s.cells.find? fun q => cellField q.1 == f && q.2.active.logical.toNat == w).map (·.1)

/-- Site key that serves the cluster of a router coordinate. -/
def servedSite (s : State) (x y : Nat) : Option Nat :=
  (clusterSite s s.faults.applied (fieldAtXY x y) (homeAt x y)).map fun i => fieldAtXY x y * 74 + i

/-- Logical index CY * 4 + CX of a cell (R98). -/
def cellLogical (c : CellState) : Nat := bf c.active.logical.toNat 1 0 * 4 + bf c.active.logical.toNat 5 4

/-- Router coordinates of a cell's logical cluster (R239). -/
def cellXY (k : Nat) (c : CellState) : Nat × Nat :=
  clusterXY (cellField k) (bf c.active.logical.toNat 15 12) (bf c.active.logical.toNat 11 8)

/-- CE_CTRL.RUN, held at 0 while a classification window holds the cell (R98, R499). -/
def cellRuns (c : CellState) : Bool := tb c.active.ctrl.toNat 0 && !c.held

/-- A field computes: its compute clock and supply hold (R266, R464). -/
def fieldRuns (s : State) (f : Nat) : Bool := (s.field f).domain == .running

/-- A site computes: its field does, its regulators are up and it is not dark (R443, R446). -/
def siteRuns (s : State) (k : Nat) : Bool := fieldRuns s (k / 74) && (s.site k).up && !(s.site k).dark

/-- Word 1 of a record (R300) for an element of the wafer. -/
def locWord (s : State) (scope seg bundle task cell cl field cause : Nat) : BitVec 64 :=
  BitVec.ofNat 64 (scope % 8 * 2 ^ 56 + seg % 256 * 2 ^ 48 + bundle % 4096 * 2 ^ 32 + task % 8 * 2 ^ 28 +
    cell / 4 % 4 * 2 ^ 26 + cell % 4 * 2 ^ 24 + cl / 9 % 16 * 2 ^ 20 + cl % 9 * 2 ^ 16 + field % 64 * 2 ^ 10 +
    s.board.position.toNat * 2 ^ 8 + cause % 256)

/-- CAUSE of a record. -/
def recCause (r : ErrRec) : Nat := bf r.location.toNat 7 0

/-- FIELD of a record. -/
def recField (r : ErrRec) : Nat := bf r.location.toNat 15 10

/-- The four words of a record (R488). -/
def recWords (r : ErrRec) : List (BitVec 64) :=
  [BitVec.ofNat 64 (r.severity % 8 * 2 ^ 61 + b2n r.combined * 2 ^ 60 + r.stroke.toNat), r.location,
   BitVec.ofNat 64 (r.count.toNat * 2 ^ 32 + r.detail.toNat), r.handle]

/-- Add an entry to the log of 1,024 (R535). -/
def logAdd (s : State) (type : Nat) (words : List (BitVec 64)) : State :=
  let l := s.faults.log ++ [(s.faults.nextSeq, type, words)]
  { s with faults := { s.faults with log := l.drop (l.length - 1024), nextSeq := s.faults.nextSeq + 1 } }

/-- One record is joined with another of higher severity (R489). -/
def joinRec (hi lo : ErrRec) : ErrRec :=
  { hi with
    combined := true
    stroke := if lo.stroke.toNat ≤ hi.stroke.toNat then lo.stroke else hi.stroke
    count := satAdd hi.count lo.count.toNat
    handle := if lo.handle ≠ 0 then lo.handle else hi.handle }

/-- A staging line is copied as poisoned: it bears the mark, or its segment does not match its check value (R388, R409). -/
def stagePoisoned (st : SiteState) (x : Nat) : Bool := tget false st.linePoison x || st.stageBad.any (·.1 == x)

/-- Segments whose first line in a slice lies in a list of staging lines and that do not match their check values. -/
def badSegments (st : SiteState) (ls : List Nat) : Nat :=
  (st.stageBad.filter fun q => ls.contains q.1 && !(st.stageBad.any fun r => r.2 == q.2 && decide (r.1 < q.1))).length

/-- The board holds more than one module (R417 to R434). -/
def onBoard (s : State) : Bool := decide (s.board.admittedMask ≠ 1)

/-- A message sets out toward the next position where that way round the ring is not the longer one (R423): a master knows the number of
modules by the position that its S or W port leads to, a follower counts three to the master where no port shows fewer. -/
def towardNext (s : State) (dst : BitVec 2) : Bool :=
  let leads (ports : List Nat) (w : Nat → Bool) : Bool :=
    ports.any fun p => (s.cascPort p).prime != .untrained && w (s.cascPort p).partner.toNat
  if s.board.position = 0 then !leads [2, 3] fun n => decide (n + 1 < 2 * dst.toNat)
  else if dst = 0 then decide (2 ≤ s.board.position.toNat) || leads [0, 1] (· == 0)
  else decide (s.board.position.toNat < dst.toNat)

/-- A module sends a message of its own on VC1 or VC2 (R423). -/
def sendVc (s : State) (m : VcMessage) : State := s.emit (.vc m (towardNext s m.dst))

/-- The master tells every follower that it has admitted, and those that prime: events are named board-wide (R419, R423, R434). -/
def boardTell (s : State) (c : VcContent) : State :=
  let hears (w : Nat) : Bool := tb s.board.admittedMask.toNat w ||
    s.casc.any fun q => q.2.prime == .priming && q.2.partner.toNat == w
  if s.board.position ≠ 0 then s
  else ((List.range 4).filter fun w => w ≠ 0 && hears w).foldl (fun t w =>
    t.emit (.vc { src := 0, dst := BitVec.ofNat 2 w, content := c } (towardNext s (BitVec.ofNat 2 w)))) s

/-- The module is an admitted follower of its board: its master names every epoch (R419). -/
def follows (s : State) : Bool := onBoard s && s.board.position != 0

/-- A follower tells its master (R419, R423). -/
def tellMaster (s : State) (c : VcContent) : State :=
  if follows s then sendVc s { src := s.board.position, dst := 0, content := c } else s

/-- The modules of the board run one plan together, in widen or deepen mode (R428). -/
def boardRuns (s : State) : Bool :=
  onBoard s && match s.plan.active with
    | some p => p.header.cascade == 1 || p.header.cascade == 2
    | none => false

/-- Followers that the master has admitted. -/
def followers (s : State) : List Nat :=
  if s.board.position = 0 then (List.range 4).filter fun w => w ≠ 0 && tb s.board.admittedMask.toNat w else []

/-- The modules of the board are replicas, in multiply mode (R428). -/
def multiplies (s : State) : Bool :=
  onBoard s && match s.plan.active with
    | some p => p.header.cascade == 3
    | none => false

/-- The master serves requests with its followers (R428, R429). -/
def boardServes (s : State) : Bool := boardRuns s || multiplies s

/-- The replica that a position is; the modules that run one plan are one (R428). -/
def replicaOf (s : State) (w : Nat) : Nat := if multiplies s then w else 0

/-- A fatal-wafer error halts the board in widen and deepen mode (R430). -/
def haltBoard (s : State) (r : ErrRec) : State :=
  if 4 ≤ r.severity ∧ boardRuns s then
    boardTell (s.emit (.haltBoard r.stroke)) (.faultReport r.severity r.stroke)
  else s

/-- A module that stops for its own heat halts the board in widen and deepen mode (R430, R478, R479). -/
def haltOthers (s : State) : State :=
  if boardRuns s then
    boardTell (s.emit (.haltBoard (BitVec.ofNat 60 (strokeNo s)))) (.faultReport 4 (BitVec.ofNat 60 (strokeNo s)))
  else s

/-- A record enters the wafer ring; one of higher severity than the record being handled preempts it, and the two are
handled as one (R489). It enters the log (R535). -/
def ringPush (s : State) (r : ErrRec) : State :=
  let s := logAdd s 1 (recWords r)
  let s := haltBoard (if 1 ≤ r.severity then raiseAlert s alLog else s) r
  match s.faults.handling with
  | some h =>
    if h.severity < r.severity then
      { s with faults := { s.faults with ring := joinRec r h :: s.faults.ring, handling := none } }
    else { s with faults := { s.faults with ring := s.faults.ring ++ [r] } }
  | none => { s with faults := { s.faults with ring := s.faults.ring ++ [r] } }

/-- A record arises in a field: it joins the queue of its controller, or is coalesced into its class when the queue holds
32; more than 32 of severity deferred or higher within 100,000 ticks raise code 0x9A (R489). -/
def raiseField (s : State) (f : Nat) (r : ErrRec) : State :=
  let t := boardTime s
  let fs := s.field f
  let fs := if fs.queue.length < 32 then
      let extra := tget 0 fs.coalesced (recCause r)
      { fs with
        queue := fs.queue ++ [{ r with count := satAdd r.count extra }]
        coalesced := tset 0 fs.coalesced (recCause r) 0 }
    else
      { fs with
        coalesced := tmod 0 fs.coalesced (recCause r) (· + r.count.toNat)
        fcErr := fs.fcErr ||| 4 }
  if r.severity = 0 then s.setField f fs
  else
    let storm := (fs.storm ++ [t]).filter fun u => decide (t < u + 100000)
    if 32 < storm.length ∧ fs.stormed = false then
      let st : ErrRec := { severity := 3, stroke := BitVec.ofNat 60 (strokeNo s), location := locWord s 2 0 0 0 0 0 f 0x9A }
      s.setField f { fs with
        storm := storm, stormed := true, fcErr := fs.fcErr ||| 8
        queue := if fs.queue.length < 32 then fs.queue ++ [st] else fs.queue
        coalesced := if fs.queue.length < 32 then fs.coalesced else tmod 0 fs.coalesced 0x9A (· + 1) }
    else s.setField f { fs with storm := storm }

/-- A record arises in the wafer manager, a port or the module as a whole. -/
def raiseModule (s : State) (sev code : Nat) (field detail : Nat := 0) (scope : Nat := 1) : State :=
  ringPush s { severity := sev, stroke := BitVec.ofNat 60 (strokeNo s), location := locWord s scope 0 0 0 0 0 field code
               detail := BitVec.ofNat 32 detail }

/-- A record of a field as a whole. -/
def raiseAtField (s : State) (f sev code : Nat) (detail : Nat := 0) : State :=
  raiseField s f { severity := sev, stroke := BitVec.ofNat 60 (strokeNo s), location := locWord s 2 0 0 0 0 0 f code
                   detail := BitVec.ofNat 32 detail }

/-- The logical cluster that a compute site serves (R22, R23). -/
def siteCluster (s : State) (k : Nat) : Nat :=
  ((List.range 72).find? fun c => clusterSite s s.faults.applied (k / 74) (homeOf c) == some (k % 74)).getD 0

/-- A record of a compute site's cluster. -/
def raiseAtSite (s : State) (k sev code : Nat) (detail : Nat := 0) (count : Nat := 1) : State :=
  let f := k / 74
  let cl := siteCluster s k
  raiseField s f { severity := sev, stroke := BitVec.ofNat 60 (strokeNo s), location := locWord s 3 0 0 0 0 cl f code
                   count := BitVec.ofNat 32 count, detail := BitVec.ofNat 32 detail }

/-- Corrected events are counted where they occur; more than CORR_ALERT in a field within 3,600 s set WM_ALERT.LOG
(R488, R538). -/
def countCorrected (s : State) (f n : Nat) : State :=
  let t := boardTime s
  let fs := s.field f
  let times := (fs.corrTimes ++ List.replicate n t).filter fun u => decide (t < u + 360000000000)
  let s := s.setField f { fs with corrTimes := times }
  if n ≠ 0 ∧ bf fs.fcCtrl.toNat 7 0 ≤ times.length then raiseAlert s alLog else s

/-- Records move from the field queues into the wafer ring while it has room: those of one stroke start in descending
severity, then ascending field (R489); a controller that restarts sends when it has returned (R513). -/
def drainQueues (s : State) : State :=
  let all := s.fields.flatMap fun (f, fs) => if fs.restarting then [] else fs.queue.map fun r => (f, r)
  let sorted := sortBy (fun a b => decide (b.2.severity < a.2.severity ∨ (a.2.severity = b.2.severity ∧ a.1 ≤ b.1))) all
  let take := sorted.take (256 - s.faults.ring.length)
  let s := take.foldl (fun s q => ringPush s q.2) s
  take.foldl (fun s q => s.modField q.1 fun fs => { fs with queue := fs.queue.erase q.2 }) s

/-- The plan fault record of a run-time fault, from a cell's capture (R300 to R302). -/
def planFaultRecord (s : State) (k : Nat) (c : CellState) (cause : Nat) : List (BitVec 64) :=
  let lg := c.active.logical.toNat
  let scope := if c.faults.remote then 5 else 6
  let (key, digest) := match s.plan.active with
    | some p => (p.key.toNat, p.header.digest.toNat)
    | none => (0, 0)
  [BitVec.ofNat 64 c.faults.stroke.toNat,
   locWord s scope c.seg c.faults.bundle.toNat c.faults.task.toNat (cellLogical c) (bf lg 11 8 * 9 + bf lg 15 12)
     (cellField k) cause,
   BitVec.ofNat 64 (key * 2 ^ 48 + c.faults.addr.toNat),
   BitVec.ofNat 64 (digest % 2 ^ 64)]

/-- A window returns to closed: its content is gone, its generation stays (R405). -/
def closeWin (s : State) (w : Nat) : State := s.setWindow w { gen := (s.window w).gen }

/-- Find an event of a kind at an epoch. -/
def eventsAt (s : State) (e : Nat) : List Event := s.events.filter fun v => v.epoch == e

/-- Drop from scheduled events those a test names. -/
def dropEvents (s : State) (p : Event → Bool) : State := { s with events := s.events.filter fun v => !p v }

/-- A plan activation, a recipe's among them (R54), a rotation or a swap start stands for an epoch (R56). -/
def epochTaken (s : State) (e : Nat) : Bool :=
  (s.events.any fun v => v.epoch == e && (match v.kind with | .activation .. => true | .recipe .. => true | .swap => true | _ => false)) ||
    (s.own.any fun o => o.epoch == e)

/-- A weight swap is in progress (R381 to R388). -/
def swapping (s : State) : Bool := s.weights.sweep.isSome

/-- The first epoch from e on that carries no activation, rotation or swap start (R56, R557). -/
def freeEpoch (s : State) (e : Nat) : Nat := ((List.range 64).map (e + ·)).find? (fun x => !epochTaken s x) |>.getD e

/-- Code and data of an activation of the wafer manager's own in an epoch name (R423, R557). -/
def ownCode : OwnKind → Nat × List Nat
  | .rotation => (10, [])
  | .reactivate => (11, [])
  | .rePlace => (12, [])
  | .holeVariant w f => (13, [w.toNat, f.val])
  | .heatOff w f => (14, [w.toNat, f.val])
  | .heatReturn w f => (15, [w.toNat, f.val])

/-- Code and data of a scheduled event in an epoch name. -/
def eventCode : EventKind → Nat × List Nat
  | .commit t => (1, [t.toNat])
  | .firmware => (2, [])
  | .activation none => (3, [])
  | .activation (some l) => (4, l)
  | .recipe l => (5, l)
  | .swap => (6, [])
  | .install => (7, [])
  | .proof => (8, [])
  | .ladder t => (9, [t])
  | .testPack => (16, [])

/-- The wafer manager names an activation of its own for the first free epoch from e on; only one of a kind stands at a
time (R557). A master names it to its followers; a follower asks its master for it. -/
def nameOwn (s : State) (k : OwnKind) (e : Nat) : State :=
  if s.own.any fun o => o.kind == k then s
  else if follows s then tellMaster s (.ownDue (ownCode k).1 (ownCode k).2)
  else
    let e := freeEpoch s e
    boardTell { s with own := s.own ++ [{ kind := k, epoch := e }] }
      (.epochName (ownCode k).1 (ownCode k).2 (BitVec.ofNat 48 e))

/-- An activation of the wafer manager's own no longer stands; the modules of a board tell each other (R296 to R298). -/
def unnameOwn (s : State) (o : OwnEvent) : State :=
  let m : VcContent := .cancelName (ownCode o.kind).1 (ownCode o.kind).2 (BitVec.ofNat 48 o.epoch)
  tellMaster (boardTell { s with own := s.own.filter fun x => x != o } m) m

/-- An activation of the wafer manager's own moves to the first free epoch from e on; a master names the new one, which takes the place
of the old (R448, R557). -/
def moveOwn (s : State) (o : OwnEvent) (e : Nat) : State := nameOwn { s with own := s.own.filter fun x => x != o } o.kind e

/-- An entry of the segment table as its registers hold it: bits [78:0] are reserved and read 0 (R12, R87). -/
def segWord (e : BitVec 128) : BitVec 128 := e >>> 79 <<< 79

/-- A cascade-table entry as its registers hold it: bits [20:0] are reserved and read 0 (R12, R425). -/
def cascWord (e : BitVec 64) : BitVec 64 := e >>> 21 <<< 21

/-- The curb-stroke lead of R55. -/
def curbLead (s : State) : Nat := if onBoard s then 4 else 3

/-- DRAIN_STROKES as epochs: d of R294. -/
def drainEpochs (s : State) : Nat :=
  match s.plan.active with
  | some p => (p.header.drain + 4094) / 4095
  | none => 0

/-- The quotient rounded up. -/
def ceilDiv (a b : Nat) : Nat := (a + b - 1) / b

/-- Every field number. -/
def allFields : List Nat := List.range 48

/-- Lines written into a slice invalidate the cache lines that hold them in every cell of the cluster, and drop fills
whose cch.ld issued before the write's delivery at a budget time (R201). -/
def invalidateLines (s : State) (k : Nat) (lines : List Nat) (due : Nat) : State :=
  if lines.isEmpty then s
  else
    let evens := lines.map fun x => x / 2 * 2
    { s with cells := tmapAll {} (fun ck c =>
        if cellSite ck = k then
          { c with
            cache := tmapAll [] (fun _ ws => ws.filter fun w => !evens.contains w.line) c.cache
            fills := c.fills.map fun f =>
              if evens.contains f.line && decide (f.due < due + 179) then { f with stale := true } else f }
        else c) s.cells }

/-- The writes of a site's guard that are delivered by a budget time invalidate cache lines (R201, R222). -/
def settleGuard (s : State) (k now : Nat) : State :=
  let st := s.site k
  let due := st.guard.filter fun g => !g.seen && g.live && decide (g.due ≤ now)
  if due.isEmpty then s
  else
    let s := due.foldl (fun s g => invalidateLines s k [g.line] g.due) s
    s.modSite k fun st => { st with guard := st.guard.map fun g => if decide (g.due ≤ now) then { g with seen := true } else g }

/-- Set an error bit of CS_ERR_STATUS with its capture (R97, R235). -/
def csError (st : SiteState) (bit line stroke : Nat) : SiteState :=
  let st := if st.errStatus = 0 then
      { st with errLine := BitVec.ofNat 24 line, errStroke := BitVec.ofNat 60 stroke }
    else st
  { st with errStatus := st.errStatus ||| BitVec.ofNat 7 (2 ^ bit) }

def csUncorr : Nat := 0
def csPoisonMark : Nat := 1
def csBank : Nat := 2
def csRegion : Nat := 3
def csOrder : Nat := 4
def csLate : Nat := 5
def csTrain : Nat := 6

/-- A line was not in the landing buffer at its landing cycle: LATE, and the cluster is not done (R220). -/
def lateLine (s : State) (k line : Nat) : State :=
  s.modSite k fun st =>
    { csError st csLate line (strokeNo s) with lateCount := satAdd st.lateCount 1, late := true }

/-- The channel slot of a budget time, rounded up or down, when the working stroke it lies in has begun: 19/9 cycles a slot at
1.9 GHz, 41/18 at 2.05 GHz, the stretched cycles of the stroke among them (R50, R215, R217). Of a budget time in an earlier stroke
only a bound is known: the first slot of all, or that of the present stroke's start (log entry 125). -/
def budgetSlot (s : State) (up : Bool) (b : Nat) : Option Nat :=
  let base := budgetBase s
  if b < base then some (if up then 0 else 9 * s.time.workTick)
  else if base + 512 ≤ b then none
  else
    let y := b - base + s.time.droop
    let n := if s.time.clock = .boost then 18 * y else 9 * y
    let d := if s.time.clock = .boost then 41 else 19
    some (9 * s.time.workTick + (n + if up then d - 1 else 0) / d)

/-- The last slot of the present tick (R215). -/
def slotNow (s : State) : Nat := 9 * s.time.localTicks.toNat + 8

/-- Burst positions that a channel has used in the present stroke (R215, R229). -/
def spent (s : State) (st : SiteState) (chanB : Bool) : Nat :=
  if st.usedAt ≠ strokeNo s then 0 else if chanB then st.usedB else st.usedA

/-- Burst positions of both channels are used in the present stroke. -/
def spend (s : State) (st : SiteState) (a b : Nat) : SiteState :=
  { st with usedA := spent s st false + a, usedB := spent s st true + b, usedAt := strokeNo s }

end Sys2Proof.Machine
end

