-- ==== Sys2Proof/Machine/Cell.lean ====
section
/-! DEFINITION. Commands of a cell: the issue of a bundle, its deadline, the delivery of results, cache fills and slack
work (R52, R128, R200, R210, R556). -/

namespace Sys2Proof.Machine

/-- Looks ahead along the bundles from an opening to the close of its tree: at most 64 matrix instructions into the
column, no acc.ld and no acc.restore of it (R355). A choice is taken at its base (log entry 14). -/
def walkTree (p : Bool) (c : CellState) (t col : Nat) : Nat → Nat → Nat → List LoopFrame → Nat → Bool
  | 0, _, _, _, _ => false
  | fuel + 1, seg, pc, loops, n =>
    let e := (tget 0 c.active.segtab seg).toNat
    let b := (tget 0 c.istore ((taskRegs c (bf e 126 124)).ibase + pc)).toNat
    let covers (c0 m : Nat) : Bool := decide (c0 ≤ col ∧ col < c0 + m)
    let (n, bad) := match mDecode p b with
      | .mma _ t' c0 m _ _ _ _ _ => (if t' == t && covers c0 m then n + 1 else n, false)
      | .accLd _ t' c0 m _ => (n, t' == t && covers c0 m)
      | .accRestore t' _ _ => (n, t' == t)
      | _ => (n, false)
    if bad || decide (64 < n) then false
    else if nDecode p b = .drain t then true
    else if bEnd b then
      let nx := bf e 95 88
      walkTree p c t col fuel nx (bf (tget 0 c.active.segtab nx).toNat 123 112) [] n
    else
      match vDecode p b with
      | .loop lc count len =>
        walkTree p c t col fuel seg (pc + 1) (openLoop pc lc count len loops) n
      | _ =>
        let q := advance pc loops
        walkTree p c t col fuel seg q.1 q.2.1 n

/-- RATE_EXP of CL_ASSAY_CTRL: 0 to 7 act as 8 (R99). -/
def assayRate (st : SiteState) : Nat := max 8 (bf st.assayCtrl.toNat 3 0)

/-- The form in force of a layer is wide (R364). -/
def layerWide (s : State) (l : Nat) : Bool := s.plan.recipe.contains l

/-- An opening instruction counts an eligible tree at its cluster's assay unit and may be sampled (R355, R356). -/
def assayOpen (s : State) (k : Nat) : State :=
  let c := s.cell k
  let p := fieldIsP (cellField k)
  let r := taskRegs c c.task
  if r.ibound < c.pc + 1 then s
  else
    match c.layer, mDecode p (tget 0 c.istore (r.ibase + c.pc)).toNat with
    | some l, .mma _ t c0 _ _ _ true _ _ =>
      if walkTree p c t c0 4096 c.seg c.pc c.loops 0 then
        let sk := cellSite k
        let st := s.site sk
        let n := st.eligible + 1
        let s := s.setSite sk { st with eligible := n }
        if tb st.assayCtrl.toNat 4 && n % 2 ^ assayRate st == 0 && st.sampling.isNone then
          let s := s.setSite sk { st with
            eligible := n, sampling := some (Fin.ofNat 18 (k % 18)), assayCount := st.assayCount + 1 }
          s.setCell k { c with
            sample := some { layer := l, wide := layerWide s l, task := c.task, tile := t, column := c0 } }
        else s
      else s
    | _, _ => s

/-- Order of accesses on a channel: issue cycle, then logical cell (R218). -/
def accessLe (a b : AccessReq) : Bool :=
  decide (a.issued < b.issued ∨ (a.issued = b.issued ∧ a.logical ≤ b.logical))

/-- Channel of an access by its first line: B where bit 2 is set (R213). -/
def accessChanB (a : AccessReq) : Bool := tb (a.lines.headD 0) 2

/-- A post of a cell replaces what it posted to the same channel in the stroke; a poisoned source posts nothing (R145). -/
def putPost (s : State) (c : CellAddr) (q : Nat × Option (BitVec 4)) : State :=
  let keep := s.posts.filter fun x => !(x.cell == c && x.chan.val == q.1 && x.work == s.time.work)
  match q.2 with
  | some v => { s with posts := keep ++ [{ cell := c, chan := Fin.ofNat 16 q.1, value := v, work := s.time.work, stage := 0 }] }
  | none => { s with posts := keep }

/-- What an issue sends out of its cell enters the site, the network and the posts. -/
def applyIssue (s : State) (c : CellAddr) (a : IssueAcc) : State :=
  let k := cellKey c
  let s := s.setCell k a.c
  let s := s.modSite (cellSite k) fun st =>
    { st with
      queueA := (a.access.filter fun q => !accessChanB q).foldl (fun l q => insertBy accessLe q l) st.queueA
      queueB := (a.access.filter accessChanB).foldl (fun l q => insertBy accessLe q l) st.queueB
      guard := st.guard ++ a.guard
      held := (st.held.filter fun h => !(h.done && a.reds.any fun r => r.tid == h.tid && r.unit == h.unit && r.port == h.port))
        ++ a.reds }
  let s := { s with flits := s.flits ++ a.flits }
  a.posts.foldl (fun s q => putPost s c q) s

/-- The context of an issue of a cell. -/
def issueCtx (s : State) (k : Nat) (env : IssueEnv) : IssueCtx :=
  let c := s.cell k
  let xy := cellXY k c
  { p := fieldIsP (cellField k), key := k, now := budgetBase s + c.cycle, cycle := c.cycle, stroke := strokeNo s, env := env
    site := s.site (cellSite k), startTick := s.time.workTick, x := xy.1, y := xy.2, logical := cellLogical c }

/-- BUNDLE_ISSUE (R128): a running cell issues the bundle at its address; any other cell issues nothing. -/
def execBundleIssue (c : CellAddr) (env : IssueEnv) (s : State) : Host.Outcome State Fault Refusal :=
  let k := cellKey c
  let x := s.cell k
  if working s && siteRuns s (cellSite k) && x.issue == .running && decide (x.cycle < 512) then
    let s := settleGuard s (cellSite k) (budgetBase s + x.cycle)
    let s := assayOpen s k
    done (applyIssue s c (issueBundle (issueCtx s k env) (s.cell k)))
  else done s

/-- ISSUE_DEADLINE (R556): the end of budget cycle 511 ends the issue of a cell that has no stroke-end bundle behind it,
with cause no stroke end. -/
def execIssueDeadline (c : CellAddr) (s : State) : Host.Outcome State Fault Refusal :=
  let k := cellKey c
  let x := s.cell k
  if working s && siteRuns s (cellSite k) && x.issue == .running && decide (512 ≤ x.cycle) then
    done (s.setCell k { endIssue x with
      faults := captureFault x.faults [(fbNoEnd, 0)] x.task x.pc (strokeNo s) false (budgetBase s + 511) })
  else done s

/-- RESULT_DELIVERY (R52): the results of a cell that are due by a budget cycle are delivered; a cell that still issues
is not taken beyond its own cycle (R72). -/
def execResultDelivery (c : CellAddr) (cycle : Fin 512) (s : State) : Host.Outcome State Fault Refusal :=
  let k := cellKey c
  let x := s.cell k
  if working s && siteRuns s (cellSite k) then
    let y := if x.issue = .running then min cycle.val x.cycle else cycle.val
    let s := settleGuard s (cellSite k) (budgetBase s + y)
    done (s.setCell k (settle (fieldIsP c.field.val) (budgetBase s + y) (strokeNo s) (s.cell k)))
  else done s

/-- CACHE_FILL (R200, R201): the oldest fill that is due is written into its way. A fill that was dropped, or whose way no
longer carries its line's tag, is not made; one that arrived poisoned leaves its way invalid, and so does one whose line is not
in the landing buffer by its fill cycle, which is its landing cycle (R217, R220). -/
def execCacheFill (c : CellAddr) (s : State) : Host.Outcome State Fault Refusal :=
  let k := cellKey c
  let x := s.cell k
  let y := if x.issue = .running then x.cycle else 511
  let s := settleGuard s (cellSite k) (budgetBase s + y)
  let x := s.cell k
  match x.fills.find? fun f => decide (f.due ≤ budgetBase s + y) with
  | some f =>
    if working s && siteRuns s (cellSite k) then
      let x := { x with fills := x.fills.erase f }
      let key := f.task * 65536 + f.set
      let ways := tget [] x.cache key
      let mine (w : CacheWay) : Bool := w.way == f.way && w.line == f.line && !w.filled
      let ready := match f.readyAt, budgetSlot s false f.due with
        | some r, some n => decide (r ≤ n)
        | _, _ => false
      let dropped := { x with cache := tset [] x.cache key (ways.filter fun w => !mine w) }
      if f.stale || !ways.any mine then done (s.setCell k x)
      else if !ready then done (lateLine (s.setCell k dropped) (cellSite k) f.line)
      else if f.data.any (·.poison) then done (s.setCell k dropped)
      else done (s.setCell k { x with
        cache := tset [] x.cache key (ways.map fun w => if mine w then { w with filled := true } else w)
        sp := spWordsSet x.sp f.word f.data })
    else done s
  | none => done s

/-- Units of a power segment (R204). -/
def segUnits (p : Bool) : Nat := if p then 256 else 1024

/-- The next unit at or after a unit that lies in a segment that is on, wrapping (R204, R210). -/
def nextOnUnit (p : Bool) (mask : BitVec 16) (u : Nat) : Option Nat :=
  let n := segUnits p
  let seg := u / n % 16
  if tb mask.toNat seg then some (u % (16 * n))
  else ((List.range 16).map fun i => (seg + 1 + i) % 16).find? (fun g => tb mask.toNat g) |>.map (· * n)

/-- One unit is scrubbed: read, corrected and written back; what cannot be corrected gets the poison mark (R208, R210). -/
def scrubUnitOnce (p : Bool) (found : List (Nat × CodeError)) (c : CellState) (u : Nat) : CellState :=
  let words := (List.range 16).map (u * 16 + ·)
  let c := countReads p found c words
  { c with sp := words.foldl (fun sp w => spWordSet sp w (spWordRead p found c.sp w)) c.sp }

/-- The bytes of the resident units in ascending address order (R506). -/
def residentBytes (c : CellState) : Bytes := c.active.resident.flatMap fun u => tgetMany 0 c.sp.bytes (u * 64) 64

/-- One slack cycle of background work: a tile of a waking segment is written with zeros, or one unit is scrubbed (R205,
R210). -/
def slackCycle (p : Bool) (found : List (Nat × CodeError)) (c : CellState) : CellState :=
  match c.waking with
  | t :: rest => { c with sp := spWordsSet c.sp (t * 256) (List.replicate 256 {}), waking := rest }
  | [] =>
    match nextOnUnit p c.active.segMask c.scrubUnit with
    | some u => { scrubUnitOnce p found c u with scrubUnit := (u + 1) % (16 * segUnits p) }
    | none => c

/-- SLACK_BACKGROUND (R210): up to 64 slack cycles of a stroke go to waking segments and to scrubbing. A pass that ends
with a digest of the resident units other than the reference is a divergence, code 0x8E (R506, R507). -/
def execSlackBackground (c : CellAddr) (cycles : Fin 65) (found : List (Nat × CodeError)) (s : State) :
    Host.Outcome State Fault Refusal :=
  let k := cellKey c
  let p := fieldIsP c.field.val
  let x := s.cell k
  let used := if x.slackAt = strokeNo s then x.slackUsed else 0
  let n := min cycles.val (64 - used)
  if s.time.running && siteRuns s (cellSite k) && (s.power.ladder == .running || s.power.ladder == .poised) &&
      x.issue != .running then
    let y := (List.range n).foldl (fun c _ => slackCycle p found c) x
    let s := s.setCell k { y with slackAt := strokeNo s, slackUsed := used + n }
    if y.scrubUnit < x.scrubUnit ∧ !x.active.resident.isEmpty then
      match x.residentRef with
      | some ref =>
        if sha3_256 (residentBytes y) ≠ ref then
          let lg := y.active.logical.toNat
          done (raiseField s c.field.val {
            severity := 2, stroke := BitVec.ofNat 60 (strokeNo s), detail := BitVec.ofNat 32 k
            location := locWord s 4 0 0 0 (cellLogical y) (bf lg 11 8 * 9 + bf lg 15 12) c.field.val 0x8E
            inCell := some c, times := some (y.matchAt, boardTime s) })
        else done (s.modCell k fun y => { y with matchAt := boardTime s })
      | none => done s
    else done s
  else done s

end Sys2Proof.Machine
end

