-- ==== Sys2Proof/Machine/FieldOps.lean ====
section
/-! DEFINITION. Dark fields and holes: what the loss of a field takes with it, the spines and the control routes (R260,
R262, R266 to R268), and the escalation of wafer-manager core events (R486). -/

namespace Sys2Proof.Machine

/-- A field's links domain works (R266, R267). -/
def linksUp (s : State) (f : Nat) : Bool := (s.field f).domain == .running || (s.field f).domain == .dark

/-- A field is a hole. -/
def isHole (s : State) (f : Nat) : Bool := (s.field f).domain == .hole

/-- A site that loses supply keeps only what its hardware is: failed phases and sensor findings. -/
def siteLost (st : SiteState) : SiteState :=
  { vlogicBad := st.vlogicBad, varrayBad := st.varrayBad, dark := st.dark, shareBad := st.shareBad
    disagree := st.disagree, agree := st.agree, suspect := st.suspect }

/-- Cycles of the arithmetic clock in a number of ticks: 19 a tick at 1.9 GHz, 20.5 at 2.05 GHz (R49). -/
def cycleCount (s : State) (ticks : Nat) : Nat := ticks * (if s.time.clock = .boost then 41 else 38) / 2

/-- The field a host port attaches to (R35). -/
def hostField (p : Nat) : Nat := [3, 4, 43, 44].getD p 3

/-- The edge routers by which a host port and the wafer manager reach the mesh (R35, R240): of the field's nine the model takes the
middle one for a port and the last one of F4 for the wafer manager (DESIGN CHOICE, log entry 122). -/
def hostRouter (p : Nat) : Nat × Nat := (9 * (hostField p % 8) + 4, if hostField p < 8 then 0 else 47)
def managerRouter : Nat × Nat := (44, 0)

/-- The router of the cluster that a compute site serves (R22, R239). -/
def siteRouter (s : State) (k : Nat) : Nat × Nat :=
  let cl := siteCluster s k
  clusterXY (k / 74) (cl % 9) (cl / 9)

/-- Bytes set out over the bulk mesh as service or background flits (R236, R247). -/
def meshSend (s : State) (src dst : Nat × Nat) (tag tenant : Nat) (data : Bytes) : State :=
  { s with flits := s.flits ++ meshFlits src dst tag tenant (budgetBase s) data }

/-- A transfer's flits are still on their way to a router. -/
def meshBusy (s : State) (dst : Nat × Nat) (tag : Nat) : Bool :=
  s.flits.any fun f => flitKind f.bits.toNat == 3 && flitTag f.bits.toNat == tag % 2 ^ 21 &&
    (headRoute (flitHead f.bits.toNat)).dx == dst.1 && (headRoute (flitHead f.bits.toNat)).dy == dst.2

/-- Every QP of a port goes to the error state (R415). -/
def errorQps (q : PortState) : PortState :=
  { q with qps := tmapAll none (fun _ o => o.map fun x => { x with error := true }) q.qps, held := [] }

/-- A port's link goes down: it behaves as isolated (R412, R415). -/
def portDown (s : State) (p : Nat) : State :=
  s.modPort p fun q => { errorQps q with
    link := false, autoNeg := false, fecLock := false, isolated := true, ptpLock := false, inLock := 0, outLock := 0, paused := 0
    fillSvc := 0, fillBulk := 0, xoffSvc := false, xoffBulk := false }

/-- A port whose field is a hole is isolated: its link stays up, its queue pairs go to the error state (R36, R415). -/
def isolatePorts (s : State) : State :=
  (List.range 4).foldl (fun s p =>
    if isHole s (hostField p) && !(s.port p).isolated then
      s.modPort p fun q => { errorQps q with isolated := true }
    else s) s

/-- A host port carries traffic: its link is up, and the field it attaches to is no hole (R36, R412, R415). -/
def portCarries (s : State) (p : Nat) : Bool := (s.port p).link && !(s.port p).isolated && !isHole s (hostField p)

/-- The traffic classes (R394). -/
inductive TrafficClass where
  | service | bulk | cnp
deriving DecidableEq, Repr

/-- How a packet of a class leaves on a port's QP, as EP_PRIO and EP_CTRL say (R394, R396). -/
def viaOf (s : State) (p qp : Nat) (c : TrafficClass) : Via :=
  let r := (s.port p).prio.toNat
  let (pcp, dscp) := match c with
    | .service => (bf r 2 0, bf r 8 3)
    | .bulk => (bf r 14 12, bf r 20 15)
    | .cnp => (bf r 23 21, bf r 29 24)
  { port := p, qp := qp, pcp := BitVec.ofNat 3 pcp, dscp := BitVec.ofNat 6 dscp, ect := tb (s.port p).ctrl.toNat 6 }

/-- The port holds a packet back: its priority is paused and PFC is honoured (R395). -/
def heldBack (s : State) (v : Via) : Bool := tb (s.port v.port).ctrl.toNat 5 && tb (s.port v.port).paused.toNat v.pcp.toNat

/-- A packet to the host: held while its priority is paused, lost on a port that carries nothing (R36, R395, R415). -/
def sendHost (s : State) (v : Via) (m : HostMsg) : State :=
  if !portCarries s v.port then s
  else if heldBack s v then s.modPort v.port fun p => { p with held := p.held ++ [(v, m)] }
  else s.emit (.host v m)

/-- A packet of this kind leaves at once. -/
def sendsNow (s : State) (v : Via) : Bool := portCarries s v.port && !heldBack s v

/-- The packets that a port holds and whose priority is no longer paused leave, in the order in which they were made (R395). -/
def releaseHeld (s : State) (p : Nat) : State :=
  let go (q : Via × HostMsg) : Bool := !heldBack s q.1
  let out := (s.port p).held.filter go
  if out.isEmpty then s
  else out.foldl (fun s q => s.emit (.host q.1 q.2)) (s.modPort p fun x => { x with held := x.held.filter fun q => !go q })

/-- A field becomes a hole: its routers, control node and sync point stop, its sensors give no reading any more, and what its cells,
slices, routers and links held is lost; a host port that attaches to it is isolated (R36, R267, R268). -/
def makeHole (s : State) (f : Nat) : State :=
  let s := s.modField f fun fs => { fs with
    domain := .hole, wake := false, queue := [], pubs := [], tL := 0, tD := 0, hot := false, history := [], means := [] }
  isolatePorts { s with
    cells := s.cells.filter fun q => cellField q.1 != f
    sites := tmapAll {} (fun k st => if k / 74 = f then siteLost st else st) s.sites
    routers := s.routers.filter fun q => q.1 / 72 != f
    flits := s.flits.filter fun g => fieldAtXY g.x g.y != f
    gets := s.gets.filter fun g => fieldAtXY g.x g.y != f
    posts := s.posts.filter fun p => !(p.cell.field.val == f && p.stage.val < 2) }

/-- A field's compute clock stops while its links domain stays supplied (R266). -/
def makeDark (s : State) (f : Nat) : State :=
  s.modField f fun fs => if fs.domain = .running then { fs with domain := .dark, wake := false } else fs

/-- The fields next to a field in the 8 × 6 mesh of controllers (R256). -/
def fieldsNear (f : Nat) : List Nat :=
  (if f % 8 < 7 then [f + 1] else []) ++ (if 0 < f % 8 then [f - 1] else []) ++
    (if f < 40 then [f + 8] else []) ++ (if 8 ≤ f then [f - 8] else [])

/-- Fields that a control route from F3 or F4 reaches around holes (R260). -/
def fieldsReached (s : State) : List Nat :=
  (List.range 48).foldl (fun seen _ =>
    allFields.filter fun f => !isHole s f && (seen.contains f || (fieldsNear f).any seen.contains))
    ([3, 4].filter fun f => !isHole s f)

/-- A hole lies south, or north, of a field in its column (R262). -/
def holeSouth (s : State) (f : Nat) : Bool := allFields.any fun g => g % 8 == f % 8 && decide (g < f) && isHole s g
def holeNorth (s : State) (f : Nat) : Bool := allFields.any fun g => g % 8 == f % 8 && decide (f < g) && isHole s g

/-- After holes have arisen: a field that no control route reaches, or that both its spines miss, is a hole too; every
other field uses its north spine where a hole lies south of it (R260, R262). -/
def settleHoles (s : State) : State :=
  let cut (s : State) (f : Nat) : Bool :=
    !isHole s f && (!(fieldsReached s).contains f || (holeSouth s f && holeNorth s f))
  let s := (List.range 48).foldl (fun s _ =>
    match allFields.find? (cut s) with
    | some f => makeHole s f
    | none => s) s
  allFields.foldl (fun s f =>
    let n := holeSouth s f
    if (s.field f).northSpine = n || isHole s f then s else s.modField f fun fs => { fs with northSpine := n }) s

/-- START and EPOCH do not reach a field: a lost field that is not yet marked as a hole lies on its spine before it (R262, R268). -/
def cutOff (s : State) (f : Nat) : Bool :=
  s.fields.any fun q => q.2.lostStroke.isSome && isHole s q.1 && q.1 % 8 == f % 8 &&
    (if (s.field f).northSpine then decide (f < q.1) else decide (q.1 < f))

/-- A field loses its supply while the module runs: the loss names the stroke, and its record is code 0x8C at fatal-field
(R51, R268, R442). -/
def loseSupply (s : State) (f : Nat) : State :=
  if isHole s f then s
  else
    let s := makeHole s f
    let s := s.modField f fun fs => { fs with lostStroke := some (BitVec.ofNat 60 (strokeNo s)) }
    ringPush s { severity := 3, stroke := BitVec.ofNat 60 (strokeNo s), location := locWord s 2 0 0 0 0 0 f 0x8C }

/-- New firmware is in its first 64 epochs (R534). -/
def fwOnTrial (s : State) : Bool :=
  match s.fw.activated with
  | some e => decide (e ≤ s.time.epoch ∧ s.time.epoch < e + 64)
  | none => false

/-- A firmware activation fails: on trial, every class goes back at the next curb stroke; in the epoch before, the activation is
cancelled. The modules of a board do so together (R534). -/
def firmwareOff (s : State) : State :=
  let next (v : Event) : Bool := v.kind == .firmware && v.epoch == s.time.epoch + 1
  let tell (s : State) : State := tellMaster (boardTell s .firmwareOff) .firmwareOff
  if fwOnTrial s then
    if s.fw.revert then s else tell { s with fw := { s.fw with revert := true } }
  else if s.events.any next then
    let s := dropEvents s next
    tell { s with fw := { s.fw with pending := 0, status := stNotReady } }
  else s

/-- A wafer-manager core stopped or sent a wrong command, code 0x97: the first event is corrected, a second within
360,000,000,000 ticks is fatal-wafer (R486, R512, R513); new firmware is to be reverted (R534). -/
def coreEvent (s : State) (core : Nat) : State :=
  let t := boardTime s
  let times := s.faults.coreEvents.filter fun u => decide (t < u + 360000000000)
  let s := { s with faults := { s.faults with coreEvents := times ++ [t] } }
  raiseModule (if fwOnTrial s then firmwareOff s else s) (if times.isEmpty then 0 else 4) 0x97 (detail := core)

end Sys2Proof.Machine
end

