-- ==== Sys2Proof/Machine/Cistern.lean ====
section
/-! DEFINITION. Commands of a cistern controller: accesses, landings, refresh, scrubbing, what a background transfer does and
the training of the channels (R213 to R235). -/

namespace Sys2Proof.Machine

/-- The outer code cannot correct a line: 2e + f > 4, each word reported uncorrectable being four erasures (R227). -/
def lineLost (l : LineError) : Bool := decide (4 < 2 * l.errors + 4 * l.erasedWords)

/-- The outer code corrected something in a line. -/
def lineFixed (l : LineError) : Bool := !lineLost l && decide (0 < l.errors + l.erasedWords)

/-- A line is read with what the codes find: counts, error bits, the report of poisoned weight lines (R226 to R229,
R492). `back` says that the line is written back; what cannot be corrected then gets the poison mark. The second result
says that the line is delivered poisoned. -/
def readLine (stroke : Nat) (found : List LineError) (back : Bool) (st : SiteState) (x : Nat) : SiteState × Bool :=
  let e := (found.find? fun l => l.line == x).getD { line := x }
  let mark := tget false st.linePoison x
  let lost := !mark && lineLost e
  let st := { st with innerCorr := satAdd st.innerCorr e.inner }
  let st := if !mark && lineFixed e then { st with outerCorr := satAdd st.outerCorr 1 } else st
  let corr := (if e.inner ≠ 0 then 1 else 0) + (if !mark && lineFixed e then 1 else 0)
  let bad := mark || lost
  let st := if mark then csError st csPoisonMark x stroke else if lost then csError st csUncorr x stroke else st
  let st := { st with evLine := if st.evCorr + st.evPoison = 0 ∧ (corr ≠ 0 ∨ bad = true) then x else st.evLine
                      evCorr := st.evCorr + corr, evPoison := st.evPoison + b2n bad }
  let st := if bad then
      { st with
        poisonCount := satAdd st.poisonCount 1
        weightPoison := match regionKind st.active x with
          | some 0 | some 4 => if st.weightPoison.contains x then st.weightPoison else st.weightPoison ++ [x]
          | _ => st.weightPoison
        linePoison := if back && lost then tset false st.linePoison x true else st.linePoison }
    else st
  (st, bad)

/-- Read several lines; the second result lists those delivered poisoned. -/
def readLinesOf (stroke : Nat) (found : List LineError) (back : Bool) (st : SiteState) (ls : List Nat) :
    SiteState × List Nat :=
  ls.foldl (fun (q : SiteState × List Nat) x =>
    let r := readLine stroke found back q.1 x
    (r.1, if r.2 then q.2 ++ [x] else q.2)) (st, [])

/-- Mark the lines of a pending cis.get or cch.ld as started, in the landing buffer from a slot on, poisoning those that arrive
poisoned (R149, R200, R217). -/
def startMoves (c : CellState) (a : AccessReq) (bad : List Nat) (ready : Nat) : CellState :=
  let poison (l : List PWord) : List PWord := l.map fun w => { w with poison := true }
  { c with
    pend := c.pend.map fun q =>
      if q.due ≠ a.due then q
      else
        match a.kind, q.what with
        | .get, .cisGet u inb ms =>
          { q with what := .cisGet u inb (ms.map fun m =>
              if a.lines.contains m.line && !m.started then
                { m with started := true, readyAt := ready, data := if bad.contains m.line then poison m.data else m.data }
              else m) }
        | .cache, .cache vd l =>
          { q with what := .cache vd (l.zipIdx.map fun (w, i) =>
              if bad.contains (a.lines.getD (i / 16) 0) && !bad.isEmpty then { w with poison := true } else w) }
        | _, w => { q with what := w }
    fills := if a.kind = .cache then
        c.fills.map fun f => if f.due + 1 = a.due then
            { f with readyAt := some ready, data := if bad = [] then f.data else poison f.data }
          else f
      else c.fills }

/-- The earliest budget time that a running cell of a site still has before it; the end of the stroke when none runs. -/
def siteNow (s : State) (k : Nat) : Nat :=
  let run := (List.range 18).filterMap fun p =>
    let c := s.cell (k * 18 + p)
    if c.issue = .running then some c.cycle else none
  budgetBase s + run.foldl min 512

/-- The controller turns an access away: the cell records bit 2, and the error register says why; the lines of a read count as
delivered poisoned (R221, R222, R230, R235). -/
def denyAccess (s : State) (k : Nat) (a : AccessReq) (d : Denied) : State :=
  let bit := match d with
    | .bank => csBank
    | .region => csRegion
    | .order => csOrder
  let s := s.modSite k fun st =>
    { csError st bit (a.lines.headD 0) (strokeNo s) with
      poisonCount := if a.kind = .put then st.poisonCount else satAdd st.poisonCount a.lines.length }
  s.modCell a.cell fun c =>
    { c with faults := captureFault c.faults [(fbCistern, a.rel)] a.task a.bundle (strokeNo s) false (siteNow s k) }

/-- A write's access: its guard entries go into the slice, and a read listed behind it that issued before the write's
delivery is delivered poisoned (R214, R222, R228). -/
def commitPut (stroke : Nat) (found : List LineError) (st : SiteState) (a : AccessReq) : SiteState :=
  let mine (g : GuardEntry) : Bool := g.cell == a.logical && g.issued == a.issued && g.due == a.due && a.lines.contains g.line
  let es := st.guard.filter mine
  let st := es.foldl (fun st g =>
    if !g.live then st
    else
      let part := decide (¬ (g.offset = 0 ∧ 64 ≤ g.data.length))
      let (st, lost) := if part then readLine stroke found false st g.line else (st, false)
      lineWrite st g.line g.offset g.data (g.poison || lost)) st
  let hit (q : AccessReq) : Bool :=
    q.kind != .put && decide (q.issued < a.due) && q.lines.any fun x => es.any fun g => g.live && g.line == x
  let mark (l : List AccessReq) := l.map fun q => if hit q && q.denied.isNone then { q with denied := some .order } else q
  { st with guard := st.guard.filter fun g => !mine g, queueA := mark st.queueA, queueB := mark st.queueB }

/-- Slots by which an activation keeps from one before it on its channel: of the same bank, the same group or any, and by the idle
slots between data of different directions (R216). -/
def startGap (p q : ChanStart) : Nat :=
  max (if p.group ≠ q.group then 2 else if p.bank ≠ q.bank then 4 else 42)
    (if p.write = q.write then 2 else if q.write then 3 else 5)

/-- An activation that would keep a bank busy in the refresh window waits for the window's end (R223, R224). -/
def afterRefresh (s : State) (t : Nat) : Nat :=
  let w := 9 * s.time.curbTick
  if w + 84 < t ∧ t < w + 252 then w + 252 else t

/-- The slot in which the controller starts an access, once it is known: the latest of its listed slot, the arrival of its request
and, for a write, the start of its delivery cycle, behind the starts ahead of it on the channel and out of the refresh window
(R216, R218, R224). -/
def startSlot (s : State) (starts : List ChanStart) (a : AccessReq) : Option Nat :=
  let x := a.lines.headD 0
  let me : ChanStart := { slot := 0, group := bf x 5 3, bank := bf x 7 6, write := a.kind == .put }
  match budgetSlot s true (a.issued + 6), (if a.kind = .put then budgetSlot s true a.due else some 0) with
  | some r, some d =>
    some (afterRefresh s (starts.foldl (fun t p => max t (p.slot + startGap p me)) (max a.slot (max r d))))
  | _, _ => none

/-- An access has started in a slot of its channel. -/
def recordStart (s : State) (st : SiteState) (chanB : Bool) (a : AccessReq) (t : Nat) : SiteState :=
  let x := a.lines.headD 0
  let me : ChanStart := { slot := t, group := bf x 5 3, bank := bf x 7 6, write := a.kind == .put }
  let st := spend s st (b2n !chanB) (b2n chanB)
  let keep (l : List ChanStart) : List ChanStart := (l.filter fun p => decide (t < p.slot + 42)) ++ [me]
  if chanB then { st with startsB := keep st.startsB } else { st with startsA := keep st.startsA }

/-- CISTERN_ACCESS_START (R218): the first listed access of a channel starts once its moment has come and no cell can still issue
one listed ahead of it. -/
def execCisternAccessStart (site : SiteAddr) (chanB : Bool) (found : List LineError) (s : State) :
    Host.Outcome State Fault Refusal :=
  let k := siteKey site
  let st := s.site k
  let q := if chanB then st.queueB else st.queueA
  match q with
  | [] => done s
  | a :: rest =>
    match startSlot s (if chanB then st.startsB else st.startsA) a with
    | none => done s
    | some t =>
      if st.cisState ≠ .ready ∨ slotNow s < t ∨ siteNow s k ≤ a.issued ∨ (a.kind = .put ∧ siteNow s k < a.due) then done s
      else
        let s := settleGuard s k (siteNow s k)
        let s := s.modSite k fun st => if chanB then { st with queueB := rest } else { st with queueA := rest }
        let s := if a.denied.isSome then s else s.modSite k fun st => recordStart s st chanB a t
        match a.kind, a.denied with
        | .put, some d =>
          let s := s.modSite k fun st => commitPut (strokeNo s) found st a
          done (denyAccess s k a d)
        | .put, none => done (s.modSite k fun st => commitPut (strokeNo s) found st a)
        | _, some d => done ((denyAccess s k a d).modCell a.cell fun c => startMoves c a a.lines 0)
        | _, none =>
          let r := readLinesOf (strokeNo s) found false (s.site k) a.lines
          done ((s.setSite k r.1).modCell a.cell fun c => startMoves c a r.2 (t + 32))

/-- The lines of a site that are still to land, in the order cell, issue, line: cell key, place among the pending
results, place among the lines (log entry 15). -/
def outstanding (s : State) (k : Nat) : List (Nat × Nat × Nat) :=
  (List.range 18).flatMap fun p =>
    (s.cell (k * 18 + p)).pend.zipIdx.flatMap fun (q, i) =>
      match q.what with
      | .cisGet _ _ ms => ms.zipIdx.filterMap fun (m, j) =>
          if m.landed || m.missed then none else some (k * 18 + p, i, j)
      | _ => []

/-- Change one line of one pending cis.get. -/
def modMove (c : CellState) (i j : Nat) (f : LineMove → LineMove) : CellState :=
  { c with pend := c.pend.modify i fun q =>
      match q.what with
      | .cisGet u inb ms => { q with what := .cisGet u inb (ms.modify j f) }
      | _ => q }

/-- A line of a pending cis.get. -/
def moveAt (c : CellState) (i j : Nat) : Option LineMove :=
  match c.pend[i]? with
  | some q => match q.what with
    | .cisGet _ _ ms => ms[j]?
    | _ => none
  | none => none

/-- LINE_LANDING (R217, R220): at its landing cycle a line that is in the landing buffer enters the scratchpad's banks; one that is
not is LATE, and the stroke overruns. -/
def execLineLanding (site : SiteAddr) (index : Nat) (s : State) : Host.Outcome State Fault Refusal :=
  let k := siteKey site
  match (outstanding s k)[index]? with
  | none => done s
  | some (ck, i, j) =>
    match moveAt (s.cell ck) i j with
    | none => done s
    | some m =>
      match budgetSlot s false m.landAt with
      | none => done s
      | some n =>
        if siteNow s k < m.landAt ∨ slotNow s < n then done s
        else if m.started ∧ m.readyAt ≤ n then done (s.modCell ck fun c => modMove c i j fun m => { m with landed := true })
        else done ((lateLine s k m.line).modCell ck fun c => modMove c i j fun m => { m with missed := true })

/-- Ticks from the start of the curb stroke. -/
def curbAge (s : State) : Nat := s.time.localTicks.toNat - s.time.curbTick

/-- REFRESH_COMMAND (R223): one of the three commands of the curb stroke's window, each once, in the tick that holds its slot. -/
def execRefreshCommand (site : SiteAddr) (slot : Nat) (s : State) : Host.Outcome State Fault Refusal :=
  let k := siteKey site
  let id := s.time.epoch * 256 + slot
  if s.time.running && s.time.stroke == 0 && (slot == 126 || slot == 168 || slot == 210) && slot / 9 == curbAge s &&
      (s.site k).cisState == .ready && (s.site k).refreshLast != some id then
    done (s.modSite k fun st => { st with refreshCount := st.refreshCount + 1, refreshLast := some id })
  else done s

/-- Burst positions that the list of a channel takes in what is left of the present stroke: accesses that wait, and those that
the running cells of the cluster have still to issue; a wild one reserves its position on both channels (R219, R221). -/
def listedLeft (s : State) (k : Nat) (chanB : Bool) : Nat :=
  let st := s.site k
  let own := (List.range 18).foldl (fun n p =>
    let c := s.cell (k * 18 + p)
    if c.issue ≠ .running then n
    else n + (c.active.map.filter fun r =>
      r.entry == c.seg && decide (c.cycle ≤ r.issue) && (r.place == .wild || r.chanB == chanB)).length) 0
  (if chanB then st.queueB else st.queueA).length + own

/-- Burst positions of a channel that its list leaves free in the present stroke: a stroke of P ticks has 9P/2, a curb stroke those
outside the refresh window (R216, R223, R229, R232). -/
def freePositions (s : State) (k : Nat) (chanB : Bool) : Nat :=
  (9 * s.time.period - (if s.time.stroke = 0 then 126 else 0)) / 2 - spent s (s.site k) chanB - listedLeft s k chanB

/-- Background work is kept out of the refresh window (R224). -/
def channelsOpen (s : State) : Bool :=
  s.time.stroke != 0 || decide (9 * curbAge s ≤ 84 ∨ 252 ≤ 9 * curbAge s)

/-- Rank of a background transfer (R232, R359). -/
def transferRank : Transfer → Nat
  | .refill .. => 0
  | .stage .. => 1
  | .sweep .. => 1
  | .farTier .. => 2
  | .farRead .. => 2
  | .shadow .. => 3
  | .digest .. => 3

/-- The controller may write a line for a transfer: the kind of its region permits it, or it lies in the device region; a load
for a staged plan writes by that plan's regions (R230 to R232, R373, R380). -/
def transferMay (st : SiteState) (t : Transfer) (x : Nat) : Bool :=
  let may (img : SiteImage) : Bool :=
    match t, regionKind img x with
    | .refill .., some k => k == 0 || k == 4
    | .sweep .., some k => k == 0 || k == 4
    | .stage .., some k => k == 3
    | .farTier .., some k => k == 1
    | _, _ => false
  let new : Bool := match t, st.staged with
    | .sweep .., some img => may img
    | .stage .., some img => may img
    | _, _ => false
  decide (16711680 ≤ x) || may st.active || new

/-- Write a run of bytes from a line on, as far as the transfer may (R228, R232). -/
def transferWrite (st : SiteState) (t : Transfer) (x : Nat) (data : Bytes) (poison : List Nat) : SiteState :=
  (List.range ((data.length + 63) / 64)).foldl (fun st i =>
    if transferMay st t (x + i) then
      lineWrite st (x + i) 0 (bytesAt data (64 * i) 64) (poison.contains i)
    else st) st

/-- Lines a transfer writes. -/
def transferLines : Transfer → List Nat
  | .refill x d | .stage x d | .farTier x d => (List.range ((d.length + 63) / 64)).map (x + ·)
  | .sweep _ dst n => (List.range n).map (dst + ·)
  | .farRead .. => []
  | .shadow .. => []
  | .digest .. => []

/-- The site after one background transfer (R232). -/
def doTransfer (stroke : Nat) (found : List LineError) (st : SiteState) (t : Transfer) : SiteState :=
  match t with
  | .refill x d | .stage x d | .farTier x d => transferWrite st t x d []
  | .sweep src dst n =>
    let ls := (List.range n).map (src + ·)
    let r := readLinesOf stroke found false st ls
    transferWrite r.1 t dst (ls.flatMap fun x => tgetMany 0 r.1.mem (x * 64) 64)
      ((List.range n).filter fun i => r.2.contains (src + i) || stagePoisoned st (src + i))
  | .farRead x n | .shadow x n | .digest x n => (readLinesOf stroke found false st ((List.range n).map (x + ·))).1

/-- The waiting transfers that the controller may carry out now: with BG_EN = 0 only a refill (R232), and none whose data are still
on the mesh (R236). -/
def readyTransfers (s : State) (k : Nat) : List Transfer :=
  let st := s.site k
  let due (t : Transfer) : Bool := match t with
    | .refill x _ | .stage x _ | .farTier x _ => !meshBusy s (siteRouter s k) x
    | _ => true
  st.transfers.filter fun t => (tb st.csCtrl.toNat 1 || transferRank t == 0) && due t

/-- CISTERN_SCRUB (R229, R232, R383): the next burst is read, corrected and written back, in two free burst positions of its channel
and within its share, when no transfer waits for them; the burst is on channel B when its lowest bit is set (R213). -/
def execCisternScrub (site : SiteAddr) (chanB : Bool) (found : List LineError) (s : State) :
    Host.Outcome State Fault Refusal :=
  let k := siteKey site
  let st := s.site k
  let fresh := st.scrubAt ≠ strokeNo s
  let a := if fresh then 0 else st.scrubA
  let b := if fresh then 0 else st.scrubB
  let share := bf st.csCtrl.toNat 15 8
  let used := if chanB then b else a
  if s.time.running ∧ swapping s = false ∧ st.cisState = .ready ∧ tb st.csCtrl.toNat 0 ∧ tb st.scrubPos.toNat 0 = chanB ∧
      2 * used + 2 ≤ share ∧ channelsOpen s ∧ 2 ≤ freePositions s k chanB ∧ readyTransfers s k = [] then
    let x := st.scrubPos.toNat * 4
    let r := readLinesOf (strokeNo s) found true st [x, x + 1, x + 2, x + 3]
    let last := decide (st.scrubPos.toNat + 1 = 2 ^ 22)
    done (s.setSite k { spend s r.1 (if chanB then 0 else 2) (if chanB then 2 else 0) with
      scrubPos := st.scrubPos + 1
      scrubPasses := if last then st.scrubPasses + 1 else st.scrubPasses
      scrubAt := strokeNo s, scrubA := if chanB then a else a + 1, scrubB := if chanB then b + 1 else b })
  else done s

/-- A transfer's next burst and what is left of it after that: the lines up to the end of the burst that its first line lies in
(R214, R232). -/
def splitTransfer : Transfer → Transfer × Option Transfer
  | .refill x d =>
    let n := 64 * (4 - x % 4)
    (.refill x (d.take n), if d.length ≤ n then none else some (.refill (x + n / 64) (d.drop n)))
  | .stage x d =>
    let n := 64 * (4 - x % 4)
    (.stage x (d.take n), if d.length ≤ n then none else some (.stage (x + n / 64) (d.drop n)))
  | .farTier x d =>
    let n := 64 * (4 - x % 4)
    (.farTier x (d.take n), if d.length ≤ n then none else some (.farTier (x + n / 64) (d.drop n)))
  | .sweep x y m =>
    let n := min m (min (4 - x % 4) (4 - y % 4))
    (.sweep x y n, if m ≤ n then none else some (.sweep (x + n) (y + n) (m - n)))
  | .farRead x m =>
    let n := min m (4 - x % 4)
    (.farRead x n, if m ≤ n then none else some (.farRead (x + n) (m - n)))
  | .shadow x m =>
    let n := min m (4 - x % 4)
    (.shadow x n, if m ≤ n then none else some (.shadow (x + n) (m - n)))
  | .digest x m =>
    let n := min m (4 - x % 4)
    (.digest x n, if m ≤ n then none else some (.digest (x + n) (m - n)))

/-- Burst positions that one burst of a transfer uses on a channel: one for a write or a read, a copy one for each (R229). -/
def transferCost (t : Transfer) (chanB : Bool) : Nat :=
  let on (x : Nat) : Nat := b2n (tb x 2 == chanB)
  match t with
  | .refill x _ | .stage x _ | .farTier x _ | .farRead x _ | .shadow x _ | .digest x _ => on x
  | .sweep x y _ => on x + on y

/-- A slice is trained and cleared: every line zero with valid codes, the state ready (R234). -/
def clearSlice (st : SiteState) : SiteState :=
  { st with mem := [], linePoison := [], chaOk := true, chbOk := true, cisState := .ready }

/-- CHANNEL_TRAINING (R234): both channels trained, the slice is cleared and reads ready; a channel that fails sets TRAIN
and the site counts as defective (R502 bit 19). -/
def execChannelTraining (site : SiteAddr) (aOk bOk : Bool) (s : State) : Host.Outcome State Fault Refusal :=
  let k := siteKey site
  let st := s.site k
  let d := (s.field site.field.val).domain
  if st.cisState == .ready || st.cisState == .selfRefresh || d == .off || d == .hole then done s
  else if aOk && bOk then done (s.setSite k (clearSlice st))
  else
    let s := s.setSite k { csError st csTrain 0 (strokeNo s) with chaOk := aOk, chbOk := bOk, cisState := .training }
    done { s with faults := { s.faults with
      withdrawals := s.faults.withdrawals ++
        [{ kind := 2, field := site.field, index := site.site.val, phys := 0, time := boardTime s, code := 0x82 }] } }

end Sys2Proof.Machine
end

