-- ==== Sys2Proof/Machine/Regs.lean ====
section
/-! DEFINITION. The registers of the blocks WM_, FC_, PW_, TH_, EP_, CK_, CL_, CS_ and CE_ (R98, R99, R235, R416, R435,
R464, R483, R515, R537, R538): what each reads, what a write of its access code does (R10 to R12). A status a block
composes from other state reads its reset value until the start-up has begun. -/

namespace Sys2Proof.Machine

/-- The parts of a register address (R515). -/
structure RegAddr where
  block : Nat
  field : Nat
  site  : Nat
  phys  : Nat
  port  : Nat
  off   : Nat
deriving DecidableEq, Repr

def regAddr (a : BitVec 64) : RegAddr :=
  let n := a.toNat
  { block := bf n 63 56, field := bf n 55 50, site := bf n 49 43, phys := bf n 42 38, port := bf n 37 36, off := bf n 31 0 }

/-- Code of a field's domain. -/
def domainCode : Domain → Nat
  | .running => 0
  | .dark => 1
  | .hole => 2
  | .off => 3

/-- Code of a ladder state (PW_STATUS.STATE). -/
def ladderCode : Ladder → Nat
  | .running => 0
  | .poised => 1
  | .held => 2
  | .banked => 3
  | .dry => 4

/-- Code of a transaction's state (WM_COMMIT.STATE). -/
def txnCode : TxnState → Nat
  | .none => 0
  | .opened => 1
  | .requested => 2
  | .staging => 3
  | .staged => 4
  | .committed => 5
  | .aborted => 6

/-- Code of a port's priming (CK_STATUS.PRIME). -/
def primeCode : Prime → Nat
  | .untrained => 0
  | .priming => 1
  | .fenced => 2
  | .reloading => 3
  | .admitted => 4
  | .notAdmitted => 5

/-- Code of a cistern's state (CS_STATUS.STATE). -/
def cisCode : CisState → Nat
  | .off => 0
  | .training => 1
  | .initialising => 2
  | .ready => 3
  | .selfRefresh => 4

/-- Code of a window's state (EP_WINn.STATE). -/
def winCode : WinState → Nat
  | .closed => 0
  | .open_ => 1
  | .held => 2

/-- A status after the start-up has begun, 0 before. -/
def live (s : State) (v : Nat) : Nat := if s.mgmt.step = 0 then 0 else v

/-- One bit for each number of a list of numbers below n. -/
def bitsOf (n : Nat) (p : Nat → Bool) : Nat := (List.range n).foldl (fun acc i => acc + b2n (p i) * 2 ^ i) 0

/-- WM_ registers: offset, width in bytes, value (R537). -/
def wmRows (s : State) : List (Nat × Nat × Nat) :=
  [(0x000, 4, 0xA1 * 2 ^ 24 + 2 ^ 16 + 2 ^ 8 + s.board.position.toNat),
   (0x004, 4, s.mgmt.hold % 256 * 2 ^ 24 + b2n s.mgmt.seb * 2 ^ 16 + s.mgmt.step % 8 * 2 ^ 8 + b2n s.mgmt.compat * 4 +
      b2n s.fw.bankB * 2 + b2n s.mgmt.ready),
   (0x008, 4, s.mgmt.wmCtrl.toNat),
   (0x00C, 4, s.mgmt.alert.toNat),
   (0x010, 4, live s ((4 - s.otp.settings.length) * 16 + s.mgmt.gen)),
   (0x018, 8, s.time.epoch % 2 ^ 48),
   (0x020, 8, boardTime s % 2 ^ 64),
   (0x028, 4, s.txn.id.toNat * 2 ^ 16 + txnCode s.txn.state * 2 ^ 8 + s.txn.status % 256),
   (0x02C, 4, s.fw.status % 256 * 2 ^ 8 + s.fw.pending.toNat * 16 + bitsOf 4 fun c => (tget none s.fw.ready c).isSome)] ++
  (List.range 4).map (fun n => (0x030 + 4 * n, 4, live s (s.fw.inForce.getD n {}).version.toNat)) ++
  [(0x040, 4, s.faults.nextSeq.toNat),
   (0x044, 4, s.mgmt.restarts.toNat * 2 ^ 16 + s.mgmt.cmdRej.toNat)]

/-- FC_ registers of a field (R538). -/
def fcRows (s : State) (f : Nat) : List (Nat × Nat × Nat) :=
  let fs := s.field f
  [(0x000, 4, f * 2 ^ 24 + b2n (fieldIsP f)),
   (0x004, 4, live s (domainCode fs.domain * 16 + b2n fs.northSpine * 8 + b2n fs.masked * 4)),
   (0x008, 4, fs.fcCtrl.toNat), (0x00C, 4, fs.fcErr.toNat), (0x010, 4, fs.spInner.toNat), (0x014, 4, fs.spOuter.toNat),
   (0x018, 4, fs.spPoison.toNat), (0x01C, 4, fs.linkCrc.toNat), (0x020, 4, fs.weir.toNat), (0x024, 4, fs.darkTgt.toNat),
   (0x028, 4, fs.linkDown.toNat), (0x02C, 4, fs.nodeCheck.toNat), (0x030, 4, fs.clamp.toNat),
   (0x034, 4, fs.queue.length), (0x038, 4, fs.cmdRej.toNat)]

/-- PW_ registers (R464). -/
def pwRows (s : State) : List (Nat × Nat × Nat) :=
  let p := s.power
  let sitesOf (f : Nat) (q : SiteState → Bool) : Nat := bitsOf 74 fun i => q (s.site (f * 74 + i))
  let degr (st : SiteState) : Bool := !st.dark && !(st.vlogicBad.isEmpty && st.varrayBad.isEmpty)
  [(0x000, 4, p.outcome % 8 * 2 ^ 24 + live s (bitsOf 4 (fun i => !p.auxBad.contains i) * 2 ^ 16 +
      s.time.period % 256 * 2 ^ 8 + b2n (decide (0 < p.floorLoad)) * 32 + b2n (decide (0 < p.demandInForce)) * 16 +
      b2n (s.time.clock == .boost) * 8 + ladderCode p.ladder)),
   (0x004, 4, p.ctrl.toNat), (0x008, 4, p.cap.toNat), (0x00C, 4, p.ramp.toNat), (0x010, 4, p.margin.toNat),
   (0x014, 4, p.err.toNat), (0x018, 4, live s p.busCv.toNat), (0x01C, 4, p.lastM % 2 ^ 32),
   (0x020, 4, p.floorBoost % 2 ^ 16 * 2 ^ 16 + p.floorBase % 2 ^ 16),
   (0x024, 4, b2n p.fieldDemand * 2 ^ 9 + b2n (decide (64 < p.demandInForce)) * 2 ^ 8 + min 255 p.demand),
   (0x028, 8, 0)] ++
  allFields.flatMap fun f =>
    let fs := s.field f
    let b := 0x100 + 0x40 * f
    let dg := sitesOf f degr
    let dk := sitesOf f (·.dark)
    [(b, 4, live s (bitsOf 2 (fun i => !fs.convBad.contains i) * 2 ^ 8 + b2n fs.fuseOpen * 2 ^ 7 +
        domainCode fs.domain * 16 + b2n fs.wake * 8 + fs.wakeStep % 8)),
     (b + 4, 4, fs.amps.toNat), (b + 8, 4, live s (fs.v1 % 1024)), (b + 0xC, 4, fs.spreads.toNat * 2 ^ 16 + fs.phaseFails.toNat),
     (b + 0x10, 8, dg % 2 ^ 64), (b + 0x18, 4, dg / 2 ^ 64), (b + 0x20, 8, dk % 2 ^ 64), (b + 0x28, 4, dk / 2 ^ 64)]

/-- TH_ registers (R483). -/
def thRows (s : State) : List (Nat × Nat × Nat) :=
  let h := s.heat
  [(0x000, 4, b2n h.shutdown * 16 + b2n h.flowStop * 8 + b2n h.flowWarn * 4 + b2n h.enforce * 2 + b2n h.req),
   (0x004, 4, h.ctrl.toNat), (0x008, 4, h.err.toNat), (0x00C, 4, h.outlet % 2 ^ 16 * 2 ^ 16 + h.inlet % 2 ^ 16),
   (0x010, 4, h.flow % 1024), (0x014, 4, b2n (decide (64 < h.demand)) * 2 ^ 8 + min 64 h.demand),
   (0x018, 8, h.graceEnd % 2 ^ 64), (0x020, 4, min 64 s.otp.shutdowns.length), (0x024, 4, 0)] ++
  allFields.flatMap fun f =>
    let fs := s.field f
    let b := 0x100 + 0x40 * f
    let su := bitsOf 74 fun i => (s.site (f * 74 + i)).suspect
    let ds := bitsOf 6 fun i => tget false fs.dramSuspect i
    [(b, 4, b2n fs.tripDram * 16 + b2n fs.tripLogic * 8 + b2n fs.offHeat * 4 + b2n (decide (su + ds ≠ 0)) * 2 + b2n fs.hot),
     (b + 4, 4, fs.tLSite % 128 * 2 ^ 16 + fs.tL % 2 ^ 16), (b + 8, 4, fs.tDPos % 8 * 2 ^ 16 + fs.tD % 2 ^ 16),
     (b + 0x10, 8, su % 2 ^ 64), (b + 0x18, 4, ds * 2 ^ 16 + su / 2 ^ 64),
     (b + 0x1C, 4, fs.eol % 1024 * 2 ^ 16 + fs.slow % 256 * 2 ^ 8 + fs.margin % 256)]

/-- The port that carries the master's PTP: the lowest-numbered one with its link up and PTP_EN = 1 (R412). -/
def ptpPort (s : State) : Option Nat :=
  if s.board.position = 0 then (List.range 4).find? fun p => (s.port p).link && tb (s.port p).ctrl.toNat 7 else none

/-- EP_ registers of a port (R416). -/
def epRows (s : State) (p : Nat) : List (Nat × Nat × Nat) :=
  let q := s.port p
  let e := s.ep
  let qps := (q.qps.filter fun x => match x.2 with | some y => !y.error | none => false).length
  [(0x000, 4, hostField p * 2 ^ 24 + p), (0x004, 4, q.ctrl.toNat),
   (0x008, 4, live s (b2n q.ptpLock * 128 + b2n (ptpPort s == some p) * 64 + b2n q.isolated * 32 + b2n q.fecLock * 16 +
      q.speed.toNat * 2 + b2n q.link)),
   (0x00C, 4, q.errStatus.toNat), (0x010, 4, q.prio.toNat), (0x014, 4, q.ptpCtrl.toNat), (0x018, 4, q.ptpOffset.toNat),
   (0x020, 4, q.fecCorr.toNat), (0x024, 4, q.fecUncorr.toNat), (0x028, 4, q.sump.toNat), (0x02C, 4, q.crcFail.toNat),
   (0x030, 4, q.cnpRx.toNat), (0x034, 4, qps % 1024),
   (0x100, 8, e.idxAddr.toNat), (0x108, 8, e.rqAddr.toNat), (0x110, 8, e.cqAddr.toNat), (0x118, 4, e.svcKey.toNat),
   (0x11C, 4, e.ringSize.toNat), (0x120, 4, e.svcQp.toNat), (0x128, 8, e.ftAddr.toNat), (0x130, 8, e.ftLen.toNat),
   (0x138, 4, e.ftKey.toNat), (0x13C, 4, e.ftTtl.toNat), (0x140, 4, e.drawInt.toNat), (0x144, 4, s.serve.drawSkip.toNat),
   (0x148, 4, s.serve.buffer.length % 2 ^ 16), (0x14C, 4, s.serve.cqLost.toNat)] ++
  (List.range 8).map fun n => (0x180 + 4 * n, 4, winCode (s.window n).state * 2 ^ 16 + (s.window n).gen.toNat)

/-- Quads of a port that are up (R435). -/
def quadsUp (c : CascState) : List (Nat × QuadState) := c.quads.filter fun q => q.2.up

/-- CK_ registers of a cascade port (R435). -/
def ckRows (s : State) (p : Nat) : List (Nat × Nat × Nat) :=
  let c := s.cascPort p
  [(0x000, 4, p), (0x004, 4, c.ctrl.toNat),
   (0x008, 4, bitsOf 8 (fun q => (tget {} c.quads q).up) * 2 ^ 8 + c.partner.toNat * 2 ^ 6 + primeCode c.prime),
   (0x00C, 4, c.errStatus.toNat), (0x010, 4, (quadsUp c).foldl (fun m q => max m q.2.latency) 0 % 256),
   (0x014, 4, c.fecCorr.toNat), (0x018, 4, c.fecUncorr.toNat), (0x01C, 4, c.replay.toNat), (0x020, 4, c.late.toNat),
   (0x024, 4, c.partnerStep.toNat)] ++
  (List.range 4).map (fun n => (0x030 + 4 * n, 4, bf c.partnerSerial.toNat (32 * n + 31) (32 * n))) ++
  [(0x100, 4, s.board.reason % 256 * 2 ^ 16 + live s ((if s.board.position = 0 then s.board.admittedMask.toNat else 0) * 2 ^ 8) +
      s.board.position.toNat)] ++
  (List.range 1024).map fun r => (0x1000 + 8 * r, 8, (tget 0 c.table r).toNat)

/-- The physical cells that serve the logical cells of a site, by CE_LOGICAL (R98). -/
def siteServed (s : State) (k : Nat) : List (Nat × CellState) :=
  (List.range 18).filterMap fun p =>
    let c := s.cell (k * 18 + p)
    if tb c.active.logical.toNat 31 then some (k * 18 + p, c) else none

/-- CL_ registers of a site (R99). -/
def clRows (s : State) (k : Nat) : List (Nat × Nat × Nat) :=
  let st := s.site k
  let f := k / 74
  let served := siteServed s k
  let status := match served with
    | [] => 0
    | (_, c) :: _ =>
      let lg := c.active.logical.toNat
      let home := homeOf (bf lg 11 8 * 9 + bf lg 15 12)
      2 ^ 31 + bf lg 15 12 * 2 ^ 24 + bf lg 11 8 * 2 ^ 20 + (k % 74 - home) % 4 * 2 ^ 18 +
        bitsOf 16 fun i => served.any fun q => cellLogical q.2 == i && cellRuns q.2
  [(0x000, 4, b2n (fieldIsP f) * 2 ^ 31 + f * 2 ^ 24 + k % 74), (0x004, 4, status),
   (0x008, 4, siteWord s s.faults.applied f (k % 74) % 2 ^ 18),
   (0x00C, 4, bitsOf 16 fun i => served.any fun q => cellLogical q.2 == i && q.2.faults.status != 0),
   (0x010, 4, st.faultCount.toNat), (0x018, 8, st.selValue.toNat), (0x020, 4, st.selValid.toNat),
   (0x030, 4, st.assayCtrl.toNat), (0x034, 4, st.assayCount.toNat), (0x038, 4, st.assayExceed.toNat)]

/-- CS_ registers of a site (R235). -/
def csRows (s : State) (k : Nat) : List (Nat × Nat × Nat) :=
  let st := s.site k
  [(0x000, 4, k / 74 * 2 ^ 24 + k % 74),
   (0x004, 4, b2n s.plan.active.isSome * 2 ^ 16 + b2n st.chbOk * 2 ^ 9 + b2n st.chaOk * 2 ^ 8 + cisCode st.cisState),
   (0x008, 4, st.csCtrl.toNat), (0x00C, 4, st.errStatus.toNat), (0x010, 4, st.errLine.toNat), (0x018, 8, st.errStroke.toNat),
   (0x020, 4, st.innerCorr.toNat), (0x024, 4, st.outerCorr.toNat), (0x028, 4, st.poisonCount.toNat),
   (0x02C, 4, st.lateCount.toNat), (0x030, 4, st.refreshCount.toNat), (0x034, 4, st.scrubPos.toNat),
   (0x038, 4, st.scrubPasses.toNat)] ++
  (List.range 8).flatMap fun n =>
    [(0x040 + 8 * n, 4, (tget 0 st.active.regionBase n).toNat), (0x044 + 8 * n, 4, (tget 0 st.active.regionCtrl n).toNat)]

/-- CE_ registers of a cell (R98). -/
def ceRows (s : State) (k : Nat) : List (Nat × Nat × Nat) :=
  let c := s.cell k
  let f := c.faults
  [(0x000, 4, b2n (fieldIsP (cellField k)) * 2 ^ 31 + cellField k * 2 ^ 24 + cellSite k % 74 * 2 ^ 8 + k % 18),
   (0x004, 4, c.active.logical.toNat), (0x008, 4, c.active.ctrl.toNat),
   (0x00C, 4, c.seg % 256 * 2 ^ 8 + c.task % 8 * 2 ^ 5 + b2n (decide (f.status ≠ 0)) * 8 + b2n c.ranLast * 4),
   (0x010, 4, c.tallyExpected.toNat * 2 ^ 16 + c.tallyComputed.toNat), (0x014, 4, f.status.toNat), (0x018, 4, f.task.toNat),
   (0x01C, 4, f.bundle.toNat), (0x020, 8, f.stroke.toNat), (0x028, 4, f.extra.toNat), (0x02C, 4, c.storeCorr.toNat),
   (0x030, 4, c.storeRej.toNat), (0x034, 4, f.addr.toNat)] ++
  ((List.range 8).flatMap fun t =>
    let r := tget {} c.active.tasks t
    let b := 0x040 + 0x20 * t
    [(b, 4, r.ibase), (b + 4, 4, r.ibound), (b + 8, 4, r.sbase), (b + 0xC, 4, r.sbound), (b + 0x10, 4, r.cbase),
     (b + 0x14, 4, r.cbound), (b + 0x18, 4, b2n r.valid)]) ++
  ((List.range 256).map fun i => (0x1000 + 0x10 * i, 16, (tget 0 c.active.segtab i).toNat)) ++
  (List.range 3072).map fun i => (0x10000 + 0x10 * i, 16, 0)

/-- Cell key of an address of block 9. -/
def RegAddr.cell (a : RegAddr) : Nat := a.field * 1332 + a.site * 18 + a.phys

/-- Site key of an address of block 7 or 8. -/
def RegAddr.siteKey (a : RegAddr) : Nat := a.field * 74 + a.site

/-- The registers a block lists, lowest offset first; `none` for a block or place that does not exist (R515). -/
def blockRows (s : State) (a : RegAddr) : Option (List (Nat × Nat × Nat)) :=
  match a.block with
  | 1 => some (wmRows s)
  | 2 => if a.field < 48 then some (fcRows s a.field) else none
  | 3 => some (pwRows s)
  | 4 => some (thRows s)
  | 5 => some (epRows s a.port)
  | 6 => some (ckRows s a.port)
  | 7 => if a.field < 48 ∧ a.site < 74 then some (clRows s a.siteKey) else none
  | 8 => if a.field < 48 ∧ a.site < 74 then some (csRows s a.siteKey) else none
  | 9 => if a.field < 48 ∧ a.site < 74 ∧ a.phys < 18 then some (ceRows s a.cell) else none
  | _ => none

/-- A register access to a site or cell whose compute clock is stopped, or to a controller out of reach, is answered
"dark" (R259). -/
def regDark (s : State) (a : RegAddr) : Bool :=
  if a.block = 2 then decide (a.field < 48) && !linksUp s a.field
  else if 7 ≤ a.block ∧ a.block ≤ 9 ∧ a.field < 48 ∧ a.site < 74 then !siteRuns s a.siteKey
  else false

/-- A dark access is recorded in the field's error register (R538). -/
def noteDark (s : State) (a : RegAddr) : State :=
  if 7 ≤ a.block ∧ linksUp s a.field then s.modField a.field fun fs => { fs with fcErr := fs.fcErr ||| 1 } else s

/-- Clear the bits of a W1C register that a value sets (R10). -/
def w1c {n : Nat} (r : BitVec n) (v : Nat) : BitVec n := r &&& ~~~ BitVec.ofNat n v

/-- A write to a W1C register (R10, R97, R483); every other offset is left as it is. -/
def writeW1c (s : State) (a : RegAddr) (v : Nat) : State :=
  match a.block, a.off with
  | 1, 0x00C => { s with mgmt := { s.mgmt with alert := w1c s.mgmt.alert v } }
  | 2, 0x00C => if a.field < 48 then s.modField a.field fun fs => { fs with fcErr := w1c fs.fcErr v } else s
  | 3, 0x014 => { s with power := { s.power with err := w1c s.power.err v } }
  | 4, 0x008 => { s with heat := { s.heat with err := w1c s.heat.err v } }
  | 4, off =>
    if 0x100 ≤ off ∧ off < 0x100 + 0x40 * 48 ∧ off % 0x40 = 0 then
      s.modField ((off - 0x100) / 0x40) fun fs =>
        { fs with tripLogic := fs.tripLogic && !tb v 3, tripDram := fs.tripDram && !tb v 4 }
    else s
  | 5, 0x00C => s.modPort a.port fun p => { p with errStatus := w1c p.errStatus v }
  | 6, 0x00C => s.modCasc a.port fun c => { c with errStatus := w1c c.errStatus v }
  | 8, 0x00C =>
    if a.field < 48 ∧ a.site < 74 ∧ siteRuns s a.siteKey then
      s.modSite a.siteKey fun st => { st with errStatus := w1c st.errStatus v }
    else s
  | 9, 0x014 =>
    if a.field < 48 ∧ a.site < 74 ∧ a.phys < 18 ∧ siteRuns s a.siteKey then
      s.modCell a.cell fun c => { c with faults := clearFault c.faults v }
    else s
  | _, _ => s

/-- The host-settable CL registers (R525). -/
inductive ClReg where
  | wmCtrl
  | fcCtrl
  | pwCtrl
  | pwCap
  | pwRamp
  | pwMargin
  | thCtrl
  | epCtrl
  | epPrio
  | epPtp
  | epIdx
  | epRq
  | epCq
  | epSvcKey
  | epRing
  | epSvcQp
  | epFtAddr
  | epFtLen
  | epFtKey
  | epFtTtl
  | epDraw
  | ckCtrl
  | clAssay
  | csCtrl
deriving DecidableEq, Repr

/-- Block, offset, settable bits and name of each; reserved bits stay 0 (R12). -/
def clTable : List (Nat × Nat × Nat × ClReg) :=
  [(1, 0x008, 0x00FFFF01, .wmCtrl),
   (2, 0x008, 0xFF, .fcCtrl),
   (3, 0x004, 0x00FFFF0F, .pwCtrl),
   (3, 0x008, 0x7FFF, .pwCap),
   (3, 0x00C, 0x7FFF, .pwRamp),
   (3, 0x010, 0x7FFF, .pwMargin),
   (4, 0x004, 0x00FF0001, .thCtrl),
   (5, 0x004, 0xF7, .epCtrl),
   (5, 0x010, 0x3FFFF1FF, .epPrio),
   (5, 0x014, 0x3FF, .epPtp),
   (5, 0x100, (2 ^ 64 - 32), .epIdx),
   (5, 0x108, (2 ^ 64 - 64), .epRq),
   (5, 0x110, (2 ^ 64 - 64), .epCq),
   (5, 0x118, 0xFFFFFFFF, .epSvcKey),
   (5, 0x11C, 0x1F001F, .epRing),
   (5, 0x120, 0xB1FF31FF, .epSvcQp),
   (5, 0x128, (2 ^ 64 - 2 ^ 16), .epFtAddr),
   (5, 0x130, (2 ^ 64 - 2 ^ 16), .epFtLen),
   (5, 0x138, 0xFFFFFFFF, .epFtKey),
   (5, 0x13C, 0x1FFFF, .epFtTtl),
   (5, 0x140, 0x1FF, .epDraw),
   (6, 0x004, 0xFF01, .ckCtrl),
   (7, 0x030, 0x1F, .clAssay),
   (8, 0x008, 0xFF03, .csCtrl)]

/-- The host-settable CL register at an address. -/
def clFind (block off : Nat) : Option (Nat × ClReg) :=
  (clTable.find? fun r => r.1 == block && r.2.1 == off).map fun r => r.2.2

/-- The sites a stage write names: one, or with field 63 and site 127 every site (R515). -/
def clSites (a : RegAddr) : List Nat :=
  if a.field = 63 ∧ a.site = 127 then List.range (48 * 74)
  else if a.field < 48 ∧ a.site < 74 then [a.siteKey] else []

/-- A change of the sites named whose compute clock runs (R259). -/
def modSites (s : State) (ks : List Nat) (g : SiteState → SiteState) : State :=
  { s with sites := ks.foldl (fun t k => if siteRuns s k then tmod {} t k g else t) s.sites }

/-- A host-settable CL register takes a value at its commit (R10, R525). -/
def writeCl (s : State) (a : RegAddr) (v : Nat) : State :=
  match clFind a.block a.off with
  | none => s
  | some (m, r) =>
    let w := BitVec.ofNat 32 (v &&& m)
    let q := BitVec.ofNat 64 (v &&& m)
    match r with
    | .wmCtrl => { s with mgmt := { s.mgmt with wmCtrl := w } }
    | .fcCtrl => if a.field < 48 then s.modField a.field fun fs => { fs with fcCtrl := w } else s
    -- floor load stops at once with RAMP_EN or FLOOR_EN at 0 (R457)
    | .pwCtrl => { s with power := { s.power with
        ctrl := w, floorLoad := if tb w.toNat 1 && tb w.toNat 2 then s.power.floorLoad else 0 } }
    | .pwCap => { s with power := { s.power with cap := w } }
    | .pwRamp => { s with power := { s.power with ramp := w } }
    | .pwMargin => { s with power := { s.power with margin := w } }
    | .thCtrl => { s with heat := { s.heat with ctrl := w } }
    | .epCtrl => s.modPort a.port fun p => { p with ctrl := w }
    | .epPrio => s.modPort a.port fun p => { p with prio := w }
    | .epPtp => s.modPort a.port fun p => { p with ptpCtrl := w }
    | .epIdx => { s with ep := { s.ep with idxAddr := q } }
    | .epRq => { s with ep := { s.ep with rqAddr := q } }
    | .epCq => { s with ep := { s.ep with cqAddr := q } }
    | .epSvcKey => { s with ep := { s.ep with svcKey := w } }
    | .epRing => { s with ep := { s.ep with ringSize := w } }
    | .epSvcQp => { s with ep := { s.ep with svcQp := w } }
    | .epFtAddr => { s with ep := { s.ep with ftAddr := q } }
    | .epFtLen => { s with ep := { s.ep with ftLen := q } }
    | .epFtKey => { s with ep := { s.ep with ftKey := w } }
    | .epFtTtl => { s with ep := { s.ep with ftTtl := w } }
    | .epDraw => { s with ep := { s.ep with drawInt := w } }
    | .ckCtrl => s.modCasc a.port fun c => { c with ctrl := w }
    | .clAssay => modSites s (clSites a) fun st => { st with assayCtrl := w }
    | .csCtrl => modSites s (clSites a) fun st => { st with csCtrl := w }

/-- The store discards a bundle that falls into the range of a valid task of the active plan (R82). -/
def istoreWrite (plan : Bool) (c : CellState) (addr : Nat) (v : BitVec 128) : CellState :=
  let inside := (List.range 8).any fun t =>
    let r := tget {} c.active.tasks t
    r.valid && decide (r.ibase ≤ addr ∧ addr < r.ibase + r.ibound)
  if plan && inside then { c with storeRej := satAdd c.storeRej 1 } else { c with istore := tset 0 c.istore addr v }

/-- A task register of the staged copy takes a value (R84, R86, R98). -/
def taskWrite (r : TaskRegs) (off v : Nat) : TaskRegs :=
  match off with
  | 0 => { r with ibase := v % 2 ^ 12 }
  | 4 => { r with ibound := v % 2 ^ 13 }
  | 8 => { r with sbase := v % 2 ^ 14 }
  | 0xC => { r with sbound := v % 2 ^ 15 }
  | 0x10 => { r with cbase := v % 2 ^ 24 }
  | 0x14 => { r with cbound := v % 2 ^ 25 }
  | 0x18 => { r with valid := tb v 0 }
  | _ => r

/-- A write over the control network to the registers that the loader sets: the staged copies, and the instruction store
at once (R82, R86, R98, R235). DESIGN CHOICE (log entry 124): the first write after an activation, when no staged copy stands, begins
from a reset image and not from the active copy. -/
def writeLoader (s : State) (a : RegAddr) (v : Nat) : State :=
  match a.block with
  | 9 =>
    if a.field < 48 ∧ a.site < 74 ∧ a.phys < 18 then
      s.modCell a.cell fun c =>
        let im := c.staged.getD {}
        if a.off = 0x004 then { c with staged := some { im with logical := BitVec.ofNat 32 (v &&& 0x8000FF33) } }
        else if a.off = 0x008 then { c with staged := some { im with ctrl := BitVec.ofNat 32 (v &&& 0xFF0003) } }
        else if 0x040 ≤ a.off ∧ a.off < 0x140 then
          { c with staged := some { im with tasks := tmod {} im.tasks ((a.off - 0x040) / 0x20) fun r => taskWrite r (a.off % 0x20) v } }
        else if 0x1000 ≤ a.off ∧ a.off < 0x2000 ∧ a.off % 16 = 0 then
          { c with staged := some { im with segtab := tset 0 im.segtab ((a.off - 0x1000) / 16) (segWord (BitVec.ofNat 128 v)) } }
        else if 0x10000 ≤ a.off ∧ a.off < 0x1C000 ∧ a.off % 16 = 0 then
          istoreWrite s.plan.active.isSome c ((a.off - 0x10000) / 16) (BitVec.ofNat 128 v)
        else c
    else s
  | 8 =>
    if a.field < 48 ∧ a.site < 74 ∧ 0x040 ≤ a.off ∧ a.off < 0x080 ∧ a.off % 4 = 0 then
      s.modSite a.siteKey fun st =>
        let im := st.staged.getD {}
        let n := (a.off - 0x040) / 8
        { st with staged := some (if a.off % 8 = 0 then
            { im with regionBase := tset 0 im.regionBase n (BitVec.ofNat 32 (v &&& 0x3FF)) }
          else { im with regionCtrl := tset 0 im.regionCtrl n (BitVec.ofNat 32 (v &&& 0x870003FF)) }) }
    else s
  | 6 =>
    if 0x1000 ≤ a.off ∧ a.off < 0x3000 ∧ a.off % 8 = 0 then
      s.modCasc a.port fun c => { c with tableStaged := tset 0 c.tableStaged ((a.off - 0x1000) / 8) (cascWord (BitVec.ofNat 64 v)) }
    else s
  | _ => s

/-- A write on the control network: W1C registers act at once, the loader's registers take the value in their staged
copy, and any other write is ignored (R10). -/
def writeControl (s : State) (a : RegAddr) (v : Nat) : State := writeLoader (writeW1c s a v) a v

end Sys2Proof.Machine
end

