-- ==== Sys2Proof/Machine/PlanOps.lean ====
section
/-! DEFINITION. Plans: variants and their sections (R273 to R278), region placement (R289), relocation into staged copies
(R86, R251, R286 to R290), and what an activation does to cells, sites and routers (R88, R202, R205, R280, R558). -/

namespace Sys2Proof.Machine

def keyRot (k : Nat) : Nat := bf k 15 14
def keyHole (k : Nat) : Bool := tb k 13
def keyField (k : Nat) : Nat := bf k 12 7
def keyBoost (k : Nat) : Bool := tb k 6

/-- A key with ROT = 0; with HV, HF and HW cleared (R275). -/
def keyNoRot (k : Nat) : Nat := setBf k 15 14 0
def keyNoHole (k : Nat) : Nat := setBf (setBf k 13 7 0) 5 4 0
def keyNoBoost (k : Nat) : Nat := setBf k 6 6 0

/-- The content of a section under a key: the first present of the four keys of R275. -/
def resolve {α : Type} (l : List (Keyed α)) (key f : Nat) : Option α :=
  [key, keyNoRot key, keyNoHole key, keyNoHole (keyNoRot key)].findSome? fun k =>
    (l.find? fun e => e.key.toNat == k && e.field == f).map (·.content)

/-- A section of a type that has no boost form (R278). -/
def resolveFlat {α : Type} (l : List (Keyed α)) (key f : Nat) : Option α := resolve l (keyNoBoost key) f

/-- FIELD of a per-position section. -/
def perPosition : Nat := 255

/-- Consecutive pieces of n bytes. -/
def piecesOf (n : Nat) (b : Bytes) : List Bytes := (List.range (b.length / n)).map fun i => bytesAt b (n * i) n

/-- The bundles of a code block: byte 0 of a 16-byte image holds bits [7:0] (R127). -/
def blockBundles (b : Bytes) : List (BitVec 128) := (piecesOf 16 b).map fun x => BitVec.ofNat 128 (leNat x)

def Plan.serving (p : Plan) : Option ServingTables := resolveFlat p.body.serving p.key.toNat perPosition
def Plan.precision (p : Plan) : List LayerRec := (resolveFlat p.body.precision p.key.toNat perPosition).getD []
def Plan.blocks (p : Plan) : List (List (BitVec 128)) :=
  ((resolveFlat p.body.blocks p.key.toNat perPosition).getD []).map blockBundles
def Plan.relocs (p : Plan) : List RelocRec := (resolveFlat p.body.relocs p.key.toNat perPosition).getD []
def Plan.powerMap (p : Plan) : Option PowerMap := resolveFlat p.body.power p.key.toNat perPosition
def Plan.segs (p : Plan) (f : Nat) : List SegRec := (resolve p.body.segs p.key.toNat f).getD []
def Plan.routes (p : Plan) (f : Nat) : List RouteRec := (resolve p.body.routes p.key.toNat f).getD []
def Plan.reds (p : Plan) (f : Nat) : List RedRec := (resolve p.body.reds p.key.toNat f).getD []
def Plan.weirs (p : Plan) (f : Nat) : List WeirRec := (resolve p.body.weirs p.key.toNat f).getD []
def Plan.cascade (p : Plan) : List (CascPort × Nat × BitVec 64) := (resolveFlat p.body.cascade p.key.toNat perPosition).getD []

/-- The cells of a field under a plan's key. R273 lists a segment mask both in the cell map and in the power map, and R204 names
the power-domain map: its mask holds for the cells it lists (DESIGN CHOICE, log entry 6). -/
def Plan.cellMap (p : Plan) (f : Nat) : List CellMapRec :=
  let masks := match p.powerMap with | some m => m.masks | none => []
  ((resolveFlat p.body.cells p.key.toNat f).getD []).map fun m =>
    match masks.find? fun q => q.1.val == f && q.2.1 == m.place with
    | some q => { m with segMask := q.2.2 }
    | none => m

/-- Fields a plan uses or wakes under its key, its holes still among them (R273 type 8, R448). -/
def Plan.onFields (p : Plan) : BitVec 48 :=
  match p.powerMap with
  | some m => m.on ||| m.wakes
  | none => BitVec.allOnes 48

/-- Fields a plan treats as holes under its key at this position (R276, R287). -/
def Plan.holes (s : State) (p : Plan) : BitVec 48 :=
  let base := p.header.holeMask.getD s.board.position.toNat 0
  if keyHole p.key.toNat && bf p.key.toNat 5 4 == s.board.position.toNat then
    base ||| BitVec.ofNat 48 (2 ^ keyField p.key.toNat)
  else base

/-- Base of a region in MiB (R289, R290). -/
def baseOf (bases : List (Nat × Nat)) (sym : Nat) : Nat := ((bases.find? fun b => b.1 == sym).map (·.2)).getD 0

/-- Two regions share a slice (R289). -/
def shareSlice (a b : BitVec 48) : Bool := a &&& b != 0

/-- The regions of the active plan with their bases. -/
def activeRegions (s : State) : List (RegionRec × Nat) :=
  match s.plan.active with
  | some p => p.body.regions.map fun r => (r, baseOf p.bases r.symbol)
  | none => []

/-- Placement of one relocatable region: the lowest base that overlaps nothing placed (R289). -/
def lowestBase (placed : List (RegionRec × Nat)) (r : RegionRec) : Option Nat :=
  (List.range (1021 - r.length)).find? fun b =>
    !(placed.any fun q => shareSlice q.1.fields r.fields && decide (q.2 < b + r.length ∧ b < q.2 + q.1.length))

/-- Where a region of a plan goes: fixed, or inherited from the active plan's region of the same TAG, KIND, LENGTH and FIELDS;
a relocatable one is still to be placed (R289). -/
def givenBase (old : List (RegionRec × Nat)) (r : RegionRec) : Option Nat :=
  match r.place with
  | 0 => some r.base
  | 2 => (old.find? fun q => q.1.tag == r.tag && q.1.kind == r.kind && q.1.length == r.length && q.1.fields == r.fields).map (·.2)
  | _ => none

/-- Relocatable regions in the order of their placement: descending LENGTH, ties in ascending SYMBOL (R289). -/
def placeOrder (rs : List RegionRec) : List RegionRec :=
  sortBy (fun a b => decide (b.length < a.length ∨ (a.length = b.length ∧ a.symbol ≤ b.symbol))) (rs.filter fun r => r.place == 1)

/-- Two placed regions share lines of a slice (R235, R289). -/
def regionsMeet (a b : RegionRec × Nat) : Bool :=
  shareSlice a.1.fields b.1.fields && decide (a.2 < b.2 + b.1.length ∧ b.2 < a.2 + a.1.length)

/-- The region bases of a plan on this module, and the causes that refuse its staging, one for each region that cannot be
placed: no region to inherit, no base that fits, or a fixed or inherited region over another (R235, R289). -/
def placeRegions (s : State) (rs : List RegionRec) : List (Nat × Nat) × List Nat :=
  let old := activeRegions s
  let given := (rs.filter fun r => r.place != 1).filterMap fun r => (givenBase old r).map fun b => (r, b)
  let lost := (rs.filter fun r => r.place != 1 && (givenBase old r).isNone).map fun _ => 0x1A
  let clash := given.zipIdx.flatMap fun (a, i) => given.zipIdx.filterMap fun (b, j) =>
    if i < j ∧ (a.1.place = 2 ∨ b.1.place = 2) ∧ regionsMeet a b = true then some 0x53 else none
  let q := (placeOrder rs).foldl (fun (q : List (RegionRec × Nat) × List Nat) r =>
    match lowestBase (given ++ q.1 ++ old) r with
    | some b => (q.1 ++ [(r, b)], q.2)
    | none => (q.1, q.2 ++ [0x19])) ([], [])
  ((given ++ q.1).map fun x => (x.1.symbol, x.2), lost ++ clash ++ q.2)

/-- TARGET of a record of type 4 for a logical cell of a field (R290). -/
def cellTarget (f : Nat) (m : LogCell) : Nat := f * 2 ^ 16 + m.cl.val * 16 + m.cell.val

/-- The line where a task of a cell begins: its type 4 record, else what the cell map gives (R290). -/
def taskLine (p : Plan) (f : Nat) (m : CellMapRec) (t : Nat) (r : TaskRec) : Int :=
  match p.relocs.find? fun q => q.type == 4 && q.task == t && q.target.toNat == cellTarget f m.place with
  | some q => (baseOf p.bases q.symbol * 16384 : Nat) + q.addend
  | none => r.cbase

/-- CBASE of a task of a cell (R290); a line outside the register's range refuses the staging (R98). -/
def taskCbase (p : Plan) (f : Nat) (m : CellMapRec) (t : Nat) (r : TaskRec) : Nat := (taskLine p f m t r).toNat % 2 ^ 24

/-- The value a record of types 1 to 3 computes for a given CB (R290). -/
def relocValue (p : Plan) (q : RelocRec) (cb : Nat) : Int := (baseOf p.bases q.symbol * 16384 : Nat) + q.addend - cb

/-- A bundle with the V-slot field of its record written (R290). -/
def patchBundle (type : Nat) (b v : Nat) : Nat :=
  match type with
  | 1 => setBf b 83 64 (v / 2 ^ 12 % 2 ^ 20)
  | 2 => setBf b 77 64 (v % 2 ^ 12)
  | _ => setBf b 83 64 (v % 2 ^ 20)

/-- The bundles of a cell's code block with its patches (R288, R290). -/
def patchedBlock (p : Plan) (f : Nat) (m : CellMapRec) : List (BitVec 128) :=
  let code := p.blocks.getD m.block []
  let recs := p.relocs.filter fun q => q.type < 4 && q.target.toNat == m.block
  recs.foldl (fun code q =>
    match m.tasks[q.task]? with
    | some t => code.modify q.addr fun b =>
        BitVec.ofNat 128 (patchBundle q.type b.toNat (relocValue p q (taskCbase p f m q.task t)).toNat)
    | none => code) code

/-- The zone of a cell for a code block: its own where the block is the one its active image runs, else one that no valid task
of that image uses (R288); none where there is no free zone (R293). -/
def zoneFor (c : CellState) (code : List (BitVec 128)) : Option Nat :=
  let used (z : Nat) : Bool := (List.range 8).any fun t =>
    let r := tget {} c.active.tasks t
    r.valid && decide (r.ibase / 1536 = z)
  let same (z : Nat) : Bool := used z && decide (c.active.blockLen = code.length) &&
    decide (tgetMany 0 c.istore (z * 1536) code.length = code)
  if same 0 then some 0 else if same 1 then some 1 else if !used 0 then some 0 else if !used 1 then some 1 else none

/-- CE_LOGICAL of a logical cell (R98). -/
def logicalWord (m : LogCell) : Word :=
  BitVec.ofNat 32 (2 ^ 31 + m.cl.val % 9 * 2 ^ 12 + m.cl.val / 9 * 2 ^ 8 + m.cell.val % 4 * 2 ^ 4 + m.cell.val / 4)

/-- The precision entries of a cell in the form its layer has under a recipe (R277). -/
def formEntries (p : Plan) (recipe : List Nat) (f : Nat) (m : LogCell) : List (Nat × BitVec 128) :=
  p.precision.flatMap fun l =>
    ((if recipe.contains l.layer then l.wide else l.narrow).filter fun e => e.field.val == f && e.place == m).map fun e =>
      (e.entry, e.value)

/-- The image of a cell (R84, R87, R98, R165, R219, R273). -/
def cellImage (p : Plan) (recipe : List Nat) (f zone : Nat) (m : CellMapRec) : CellImage :=
  let seg := (p.segs f).find? fun r => r.place == m.place
  let rt := (p.routes f).find? fun r => r.place == m.place
  let ents := (match seg with | some r => r.entries | none => []) ++ formEntries p recipe f m.place
  { logical := logicalWord m.place
    ctrl := BitVec.ofNat 32 (m.startSeg % 256 * 2 ^ 16 + b2n m.tallyEn * 2 + b2n m.run)
    tasks := m.tasks.zipIdx.foldl (fun t (r, i) =>
      tset {} t i { ibase := zone * 1536 + r.ibase, ibound := r.ibound, sbase := r.sbase, sbound := r.sbound
                    cbase := taskCbase p f m i r, cbound := r.cbound, valid := r.valid }) []
    segtab := ents.foldl (fun t e => tset 0 t e.1 (segWord e.2)) []
    routes := match rt with
      | some r => r.entries.foldl (fun t e => tset 0 t e.1 e.2) []
      | none => []
    idle := m.idle, segMask := m.segMask, cacheZ := m.cacheZ, parts := m.parts
    restore := match seg with | some r => r.restore | none => []
    map := match seg with | some r => r.map | none => []
    resident := m.resident
    blockLen := (p.blocks.getD m.block []).length }

/-- The region registers of a slice (R230, R289). -/
def regionRegs (p : Plan) (f : Nat) : Tbl (BitVec 32) × Tbl (BitVec 32) :=
  (p.body.regions.filter fun r => tb r.fields.toNat f).zipIdx.foldl
    (fun (q : Tbl (BitVec 32) × Tbl (BitVec 32)) (r, n) =>
      (tset 0 q.1 n (BitVec.ofNat 32 (baseOf p.bases r.symbol % 1024)),
       tset 0 q.2 n (BitVec.ofNat 32 (2 ^ 31 + r.kind % 8 * 2 ^ 24 + r.length % 1024)))) ([], [])

/-- The image of a compute site that serves a logical cluster (R230, R252, R264). -/
def siteImage (p : Plan) (f : Nat) (cl : Fin 72) : SiteImage :=
  let red := (p.reds f).find? fun r => r.cl == cl
  let w := (p.weirs f).find? fun r => r.cl == cl
  let rg := regionRegs p f
  { masks := match red with | some r => r.masks.foldl (fun t e => tset 0 t e.1 e.2) [] | none => []
    barriers := match w with | some r => r.barriers.foldl (fun t e => tset 0 t e.1 e.2) [] | none => []
    regionBase := rg.1, regionCtrl := rg.2 }

/-- The image of a router (R247, R253). -/
def routerImage (p : Plan) (f : Nat) (cl : Fin 72) : RouterImage :=
  let red := (p.reds f).find? fun r => r.cl == cl
  let w := (p.weirs f).find? fun r => r.cl == cl
  { nodes := match red with | some r => r.nodes.foldl (fun t e => tset 0 t e.1 e.2) [] | none => []
    weirs := match w with
      | some r => r.weirs.foldl (fun t (o, pl, codes) => tsetMany 0 t ((o.val * 4 + pl.val) * 64) codes) []
      | none => [] }

/-- Every physical cell that serves a logical cell of a plan under a mapping, with its field and record (R23, R27). -/
def servedCells (s : State) (p : Plan) : List (Nat × Nat × CellMapRec) :=
  (allFields.filter fun f => !tb (p.holes s).toNat f).flatMap fun f => (p.cellMap f).filterMap fun m =>
    (placeKey s f m.place).map fun k => (k, f, m)

/-- Write consecutive bundles. -/
def istoreLoad (c : CellState) (addr : Nat) (code : List (BitVec 128)) : CellState :=
  { c with istore := tsetMany 0 c.istore addr code }

/-- The loader relocates a plan onto the module under a defect map and writes the staged copies: every cell, site and
router not named by the plan gets an empty one (R86, R251, R286, R461). -/
def stagePlan (s : State) (p : Plan) (recipe : List Nat) : State :=
  let s := { s with
    cells := tmapAll {} (fun _ c => { c with staged := some {} }) s.cells
    sites := tmapAll {} (fun _ st => { st with staged := some {}, imageStaged := false }) s.sites
    routers := tmapAll {} (fun _ r => { r with staged := some {} }) s.routers
    casc := tmapAll {} (fun _ c => { c with tableStaged := [] }) s.casc }
  let holes := p.holes s
  let s := allFields.foldl (fun s f =>
    if tb holes.toNat f then s
    else
      let s := (List.finRange 72).foldl (fun s cl =>
        let home := homeOf cl.val
        let s := s.modRouter (f * 72 + home) fun r => { r with staged := some (routerImage p f cl) }
        match clusterSite s s.faults.applied f home with
        | some i => s.modSite (f * 74 + i) fun st => { st with staged := some (siteImage p f cl), imageStaged := true }
        | none => s) s
      (p.cellMap f).foldl (fun s m =>
        match placeKey s f m.place with
        | some k =>
          s.modCell k fun c =>
            let code := patchedBlock p f m
            let z := (zoneFor c code).getD 0
            { istoreLoad c (z * 1536) code with staged := some (cellImage p recipe f z m) }
        | none => s) s) s
  p.cascade.foldl (fun s (port, rid, e) =>
    s.modCasc port.val fun c => { c with tableStaged := tset 0 c.tableStaged rid (cascWord e) }) s

/-- Segments of a cell that a mask turns off lose their content; those it turns on anew are zero (R205). -/
def switchSegments (p : Bool) (old new : BitVec 16) (sp : Scratch) : Scratch :=
  let n := (if p then 256 else 1024) * 64
  let gone (byte : Nat) : Bool := !(tb old.toNat (byte / n) && tb new.toNat (byte / n))
  { bytes := sp.bytes.filter fun b => !gone b.1
    poison := sp.poison.filter fun w => !gone (w.1 * 4) }

/-- What one activation marks of R280: cache invalidation, segment switching, assay count restart; and whether every cell begins
at START_SEG with the working-stroke count at 0 (R88, R558). -/
structure ActMarks where
  cache : Bool
  segs  : Bool
  assay : Bool
  anew  : Bool := true
deriving DecidableEq, Repr

/-- The staged copies become active (R86, R88, R251, R280): every cell starts at START_SEG, and the working-stroke count
at 0 (R558), unless the work in progress goes on across a change of boost (R66, log entry 119). -/
def activateImages (s : State) (m : ActMarks) : State :=
  let cell (k : Nat) (c : CellState) : CellState :=
    let im := c.staged.getD c.active
    let c := { c with
      sp := if m.segs then switchSegments (fieldIsP (cellField k)) c.active.segMask im.segMask c.sp else c.sp
      cache := if m.cache then [] else c.cache
      fills := if m.cache then c.fills.map (fun (f : CacheFillRec) => { f with stale := true }) else c.fills }
    { c with active := im, staged := none, waking := [], nextSeg := if m.anew then none else c.nextSeg }
  { s with
    cells := tmapAll {} cell s.cells
    sites := tmapAll {} (fun _ st => { st with
      active := st.staged.getD st.active, staged := none
      imageActive := if st.staged.isSome then st.imageStaged else st.imageActive
      eligible := if m.assay then 0 else st.eligible
      assayCount := if m.assay then 0 else st.assayCount
      assayExceed := if m.assay then 0 else st.assayExceed }) s.sites
    routers := tmapAll {} (fun _ r => { r with active := r.staged.getD r.active, staged := none }) s.routers
    casc := tmapAll {} (fun _ c => { c with table := c.tableStaged }) s.casc
    time := { s.time with wStart := s.time.wStart || m.anew } }

/-- Staged copies are dropped. -/
def dropStaged (s : State) : State :=
  { s with
    cells := tmapAll {} (fun _ c => { c with staged := none }) s.cells
    sites := tmapAll {} (fun _ st => { st with staged := none }) s.sites
    routers := tmapAll {} (fun _ r => { r with staged := none }) s.routers }

/-- The tiles of the scratchpad segments that are on under a new mask and were not under the old (R205). -/
def wakingTiles (p : Bool) (old new : BitVec 16) : List Nat :=
  let n := if p then 16 else 64
  (List.range 16).flatMap fun g => if tb new.toNat g && !tb old.toNat g then (List.range n).map (g * n + ·) else []

/-- The segments that the staged images of `t` turn on begin to wake, a tile a slack cycle (R205, R210). -/
def wakeSegments (s t : State) : State :=
  t.cells.foldl (fun s q =>
    match q.2.staged with
    | some im =>
      let tiles := wakingTiles (fieldIsP (cellField q.1)) (s.cell q.1).active.segMask im.segMask
      if tiles.isEmpty then s else s.modCell q.1 fun c => { c with waking := tiles }
    | none => s) s

/-- A plan under a key. -/
def withKey (p : Plan) (key : Nat) : Plan := { p with key := BitVec.ofNat 16 key }

/-- The defects that a relocation from now on applies (R30, R503). -/
def applyDefects (s : State) : State := { s with faults := { s.faults with applied := knownDefects s } }

end Sys2Proof.Machine
end

