-- ==== Sys2Proof/Machine/ServeOps.lean ====
section
/-! DEFINITION. Named operations of serving: completion records (R325 to R327), the end of a request (R327, R333, R339,
R349), and which requests an event reaches (R485, R490, R494). -/

namespace Sys2Proof.Machine

/-- The port and QP of the service traffic: the primary, or the alternate after the move of R400. -/
def svcPort (s : State) : Nat := if s.serve.useAlt then bf s.ep.svcQp.toNat 29 28 else bf s.ep.svcQp.toNat 13 12
def svcQpn (s : State) : Nat := if s.serve.useAlt then bf s.ep.svcQp.toNat 24 16 else bf s.ep.svcQp.toNat 8 0

/-- The service traffic, and the bulk traffic that the device begins, leave on the service QP (R394, R399, R411). -/
def svcVia (s : State) : Via := viaOf s (svcPort s) (svcQpn s) .service
def bulkVia (s : State) : Via := viaOf s (svcPort s) (svcQpn s) .bulk

/-- A prompt read is tried again on the primary QP and then, where there is one, on the alternate (R402, log entry 132). -/
def retryVia (s : State) (fails : Nat) : Via :=
  let v := s.ep.svcQp.toNat
  if fails = 0 ∨ tb v 31 = false then viaOf s (bf v 13 12) (bf v 8 0) .service
  else viaOf s (bf v 29 28) (bf v 24 16) .service

/-- Set a bit of EP_ERR_STATUS of the service port. -/
def svcErr (s : State) (bit : Nat) : State :=
  s.modPort (svcPort s) fun p => { p with errStatus := p.errStatus ||| BitVec.ofNat 9 (2 ^ bit) }

/-- Values saturate at 32 bits in a record. -/
def sat32 (n : Nat) : Nat := min n (2 ^ 32 - 1)

/-- The 64 bytes of a completion record (R325). -/
def completionBytes (handle : BitVec 64) (time kind status n miss position ttft tbt : Nat) (body : Bytes) : Bytes :=
  leBytes 8 handle.toNat ++ leBytes 8 time ++ [BitVec.ofNat 8 kind, BitVec.ofNat 8 status, BitVec.ofNat 8 n, BitVec.ofNat 8 miss] ++
    leBytes 4 position ++ leBytes 4 (sat32 ttft) ++ leBytes 4 (sat32 tbt) ++ bytesAt body 0 27 ++ leBytes 5 0

/-- A completion record waits for the ring; one that finds the buffer of 32,768 full is lost (R403). -/
def pushCompletion (s : State) (b : Bytes) : State :=
  if s.serve.buffer.length < 32768 then { s with serve := { s.serve with buffer := s.serve.buffer ++ [{ bytes := b }] } }
  else raiseAlert (svcErr { s with serve := { s.serve with cqLost := satAdd s.serve.cqLost 1 } } 5) alCqLost

def stStop : Nat := 1
def stComplete : Nat := 2
def stCancelled : Nat := 3
def stDataError : Nat := 4
def stFieldLost : Nat := 5
def stWaferFault : Nat := 6
def stPlanChanged : Nat := 7
def stWeightVersion : Nat := 8
def stBadParameter : Nat := 16
def stPromptTooLong : Nat := 17
def stNoSpeculation : Nat := 18
def stHandleInUse : Nat := 19
def stConvExpired : Nat := 20

def State.request (s : State) (i : Nat) : Option Request := tget none s.serve.table i

def State.setRequest (s : State) (i : Nat) (r : Option Request) : State :=
  { s with serve := { s.serve with table := tset none s.serve.table i r } }

/-- The requests not yet ended, with their indices. -/
def liveRequests (s : State) : List (Nat × Request) :=
  s.serve.table.filterMap fun q => match q.2 with
    | some r => if r.state = .ended then none else some (q.1, r)
    | none => none

/-- The request table is empty (R459, R460). -/
def tableEmpty (s : State) : Bool := s.serve.table.isEmpty

/-- A refusal record (R307, R325). -/
def refusalRecord (s : State) (handle : BitVec 64) (status : Nat) : State :=
  pushCompletion s (completionBytes handle (boardTime s) 2 status 0 0 0 0 0 [])

/-- The final record of a request (R325). -/
def finalBytes (s : State) (r : Request) (status : Nat) (cause : Word) : Bytes :=
  let ttft := match r.tFirst with | some t => t - r.tAdmit | none => 0
  let mean := if r.emitted ≤ r.firstN then 0 else r.tbtSum / (r.emitted - r.firstN)
  completionBytes r.handle (boardTime s) 1 status 0 (b2n r.missTtft + 2 * b2n r.missTbt) 0 ttft r.tbtMax
    (leBytes 4 r.emitted ++ leBytes 4 mean ++ leBytes 4 cause.toNat)

/-- The work of a replica (R428). -/
def State.work (s : State) (w : Nat) : ReplicaWork :=
  if w = 0 then { jobP := s.serve.jobP, jobD := s.serve.jobD, planP := s.serve.planP, planD := s.serve.planD }
  else s.serve.away.getD (w - 1) {}

/-- The work of a replica becomes another. -/
def State.setWork (s : State) (w : Nat) (x : ReplicaWork) : State :=
  if w = 0 then { s with serve := { s.serve with jobP := x.jobP, jobD := x.jobD, planP := x.planP, planD := x.planD } }
  else { s with serve := { s.serve with away := s.serve.away.set (w - 1) x } }

/-- The chunk (true) or step of a replica in progress. -/
def ReplicaWork.job (x : ReplicaWork) (p : Bool) : Option Job := if p then x.jobP else x.jobD
def ReplicaWork.setJob (x : ReplicaWork) (p : Bool) (j : Option Job) : ReplicaWork :=
  if p then { x with jobP := j } else { x with jobD := j }

/-- The chunk (true) or step of a replica that is decided for a latch to come. -/
def ReplicaWork.plan (x : ReplicaWork) (p : Bool) : Option Job := if p then x.planP else x.planD
def ReplicaWork.setPlan (x : ReplicaWork) (p : Bool) (j : Option Job) : ReplicaWork :=
  if p then { x with planP := j } else { x with planD := j }

/-- The page sets a request holds (R333). -/
def ownSets (s : State) (i : Nat) : List PageSet := s.kv.sets.filter fun p => p.owner == i && p.state != .outgoing

/-- The page sets of a request go back to their free lists (R339). -/
def freeSets (s : State) (i : Nat) : State :=
  { s with kv := { s.kv with sets := s.kv.sets.filter fun p => !(p.owner == i && p.state != .outgoing) } }

/-- A conversation held by a request that ends without having taken it over keeps its copy, its time to live restarted
(R347, R353). -/
def releaseConv (s : State) (conv : BitVec 64) : State :=
  { s with kv := { s.kv with stored := s.kv.stored.map fun v =>
      if v.conv == conv && v.expires.isNone then { v with expires := some (boardTime s + s.ep.ftTtl.toNat * 100000000), pages := v.pages && !v.part } else v } }

/-- The page sets of a paused request become outgoing and its move waits its turn (R349, R353). -/
def startPause (s : State) (i : Nat) (r : Request) : State :=
  { s with kv := { s.kv with
      sets := s.kv.sets.map fun p => if p.owner == i && p.state == .live then { p with state := .outgoing, conv := r.conv } else p
      moves := s.kv.moves ++ [{
        conv := r.conv, owner := i, c := r.commit, rank := (r.priority, r.tAdmit)
        version := match (ownSets s i).head? with | some p => p.version | none => r.version
        layout := match s.plan.active with | some p => p.header.kvLayout | none => 0 }] } }

/-- A request ends with its final record, or with a refusal record for a status of 16 and above; its page sets are freed,
or move to the far tier (R326, R327, R339, R349). -/
def endRequest (s : State) (i status : Nat) (cause : Word := 0) : State :=
  match s.request i with
  | none => s
  | some r =>
    if r.state = .ended then s
    else
      let s := if 16 ≤ status then refusalRecord s r.handle status else pushCompletion s (finalBytes s r status cause)
      let s := s.setRequest i (some { r with state := .ended })
      let s := { s with serve := { s.serve with parcels := s.serve.parcels.filter fun q => q.index != i } }
      let s := if tb r.flags.toNat 1 && !r.returning then releaseConv s r.conv else s
      if tb r.flags.toNat 2 && r.conv != 0 && r.replica == 0 && (status == stStop || status == stComplete) then startPause s i r
      else if r.returning then s
      else freeSets s i

/-- Every request not yet ended that a test names ends; in the order of the table. -/
def endWhere (s : State) (p : Nat → Request → Bool) (status : Nat) : State :=
  (liveRequests s).foldl (fun s q => if p q.1 q.2 then endRequest s q.1 status else s) s

/-- Every request in flight ends and nothing is in progress any more (R495, R496). -/
def endAll (s : State) (status : Nat) : State :=
  let s := endWhere s (fun _ _ => true) status
  { s with serve := { s.serve with
    jobP := none, jobD := none, planP := none, planD := none, away := List.replicate 3 {}, ending := [], parcels := [], results := [] } }

/-- Every request of a replica ends and nothing is in progress on it any more (R430). -/
def endReplica (s : State) (w status : Nat) : State :=
  let s := (endWhere s (fun _ r => r.replica == w) status).setWork w {}
  { s with serve := { s.serve with
    ending := s.serve.ending.filter fun j => j.replica != w, results := s.serve.results.filter fun o => o.src != w } }

/-- The chunks (true) or steps of a replica in progress, and those that have ended and are not yet reported. -/
def jobsOf (s : State) (w : Nat) (p : Bool) : List Job :=
  ((s.work w).job p).toList ++ s.serve.ending.filter fun j => j.replica == w && j.chunk == p

/-- Requests with a chunk or step in progress on a replica's fields of a kind (true = P-fields). -/
def jobReqs (s : State) (w : Nat) (p : Bool) : List Nat := (jobsOf s w p).flatMap (·.reqs)

/-- A request has a chunk or step in progress. -/
def inProgress (s : State) (i : Nat) : Bool :=
  (List.range 4).any fun w => (jobReqs s w true).contains i || (jobReqs s w false).contains i

/-- The serving tables in force (R313). -/
def servingTables (s : State) : Option ServingTables :=
  match s.plan.active with
  | some p => p.serving
  | none => none

/-- A page set has a page in a slice of a field (R330, R485). -/
def setInField (s : State) (ps : PageSet) (f : Nat) : Bool :=
  match servingTables s with
  | some t => match t.pools[ps.pool]? with
    | some pl => pl.pages.any fun g => g.lane == ps.lane && g.field.val == f
    | none => false
  | none => false

/-- A request touches a field of a position (R485): in multiply mode only one of that replica (R428). -/
def touches (s : State) (w f i : Nat) : Bool :=
  let here := match s.request i with
    | some r => r.replica == replicaOf s w
    | none => false
  here && ((jobReqs s (replicaOf s w) (fieldIsP f)).contains i || ((ownSets s i).any fun ps => setInField s ps f) ||
    match servingTables s with
    | some t => t.history.any fun h => h.index == i && h.field.val == f
    | none => false)

/-- Report the tokens of a step or chunk in a token record: no more than MAX_NEW, and none behind the first stop token; then
the request ends when a stop token or MAX_NEW is reached (R325 to R327). -/
def reportTokens (s : State) (i : Nat) (toks : List Word) (position time : Nat) : State :=
  match s.request i with
  | none => s
  | some r =>
    let toks := toks.take (min 9 (r.maxNew - r.emitted))
    let stopAt := toks.findIdx? fun t => r.stop.contains t && t != 0xFFFFFFFF
    let toks := match stopAt with | some k => toks.take (k + 1) | none => toks
    let n := toks.length
    if n = 0 then s
    else
      let first := r.tFirst.getD time
      let ttft := first - r.tAdmit
      let gap := if r.tFirst.isNone then 0 else time - r.tLast
      let tbt := gap / n
      let missF := decide (r.ttft ≠ 0 ∧ r.ttft < ttft)
      let missB := decide (r.tbt ≠ 0 ∧ r.tbt < tbt)
      let s := pushCompletion s (completionBytes r.handle time 0 0 n (b2n missF + 2 * b2n missB) position ttft tbt
        (toks.flatMap fun t => leBytes 3 t.toNat))
      let r := { r with
        emitted := r.emitted + n, tFirst := some first, tLast := time, tbtMax := max r.tbtMax tbt, tbtSum := r.tbtSum + gap
        firstN := if r.tFirst.isNone then n else r.firstN, missTtft := missF, missTbt := r.missTbt || missB
        position := position + n }
      let s := s.setRequest i (some r)
      if stopAt.isSome then endRequest s i stStop
      else if r.maxNew ≤ r.emitted then endRequest s i stComplete
      else s

/-- The wafer manager withholds every new chunk and step (R309, R403, R492, R499, R501, R509, R534). -/
def dispatchHeld (s : State) : Bool :=
  barrierClosed s || decide (16384 < s.serve.buffer.length) || s.faults.window.isSome || s.faults.handling.isSome || !s.weights.refills.isEmpty ||
    s.faults.rePlace || s.faults.proofFrom.isSome || s.faults.restart || s.faults.waitClear ||
    s.fw.pauseEpoch == some s.time.epoch

/-- Priorities of EP_PRIO (R394). -/
def svcPcp (p : PortState) : Nat := bf p.prio.toNat 2 0
def bulkPcp (p : PortState) : Nat := bf p.prio.toNat 14 12
def cnpPcp (p : PortState) : Nat := bf p.prio.toNat 23 21

/-- A class's ingress buffer has been emptied into the mesh: XON (R395, log entry 36). -/
def drainPort (s : State) (p : Nat) (bulk : Bool) : State :=
  let q := s.port p
  let sent := if bulk then q.xoffBulk else q.xoffSvc
  let q := if bulk then { q with fillBulk := 0, xoffBulk := false } else { q with fillSvc := 0, xoffSvc := false }
  let s := s.setPort p q
  if sent then s.emit (.pfc p (BitVec.ofNat 3 (if bulk then bulkPcp q else svcPcp q)) false) else s

end Sys2Proof.Machine
end

