-- ==== Sys2Proof/Machine/LadderOps.lean ====
section
/-! DEFINITION. The power ladder: entry to Poised, Held, Banked and Dry, forced or requested, and what an exit brings back
(R80, R202, R206, R233, R458 to R462), and the loss of VAON (R463, R554). -/

namespace Sys2Proof.Machine

/-- The data path stops. -/
def stopDataPath (s : State) : State := { s with time := { s.time with dataPath := false } }

/-- A pending configuration transaction ends with a status (R525). -/
def abortTxn (s : State) (status : Nat) : State :=
  match s.txn.state with
  | .opened | .requested | .staging | .staged =>
    raiseAlert { s with txn := { s.txn with state := .aborted, status := status, writes := [] } } alCommit
  | _ => s

/-- Events pending at the entry to Held, Banked or Dry are cancelled with "not running"; a trim stands apart (R460). -/
def cancelPending (s : State) : State :=
  let s := abortTxn s stNotRunning
  let had := s.events.any fun v => match v.kind with | .activation .. => true | _ => false
  let s := { s with events := [], own := [], fw := { s.fw with pending := 0 } }
  let s := if had then { s with plan := { s.plan with loadStatus := stNotRunning } } else s
  { s with plan := { s.plan with
    holds := s.plan.holds.filter fun h => !(h == .activation || h == .recipe || h == .install || h == .swap || h == .rotation) } }

/-- A cell whose VARRAY is off has lost what it held; "after Banked or Dry the wafer manager sets them to 0" (R80, R206). -/
def cellSramLost (c : CellState) : CellState :=
  { faults := c.faults, storeCorr := c.storeCorr, storeRej := c.storeRej, proofAt := c.proofAt }

/-- Poised: strokes run on, cells gated, every content kept (R459). -/
def enterPoised (s : State) : State :=
  { s with power := { s.power with ladder := .poised, poisedAt := some (boardTime s), leaving := false, idleEpochs := 0 } }

/-- Held: the clock and the links domains off, SRAM in retention, the cisterns in self-refresh (R233, R458, R461). -/
def enterHeld (s : State) : State :=
  let s := cancelPending (stopDataPath s)
  { s with
    fields := (allFields.foldl (fun t f => tmod {} t f fun fs =>
      if fs.domain = .running ∨ fs.domain = .dark then { fs with domain := .off, wake := false, pubs := [] } else fs) s.fields)
    sites := tmapAll {} (fun _ st => { st with
      up := false, held := []
      cisState := if st.cisState = .ready then .selfRefresh else st.cisState }) s.sites
    routers := []
    flits := [], gets := [], posts := [], wafer := []
    power := { s.power with ladder := .held, leaving := false, floorLoad := 0, demand := s.power.demand } }

/-- Banked: as Held with the SRAM lost (R458). -/
def enterBanked (s : State) : State :=
  let s := enterHeld s
  { s with
    cells := tmapAll {} (fun _ c => cellSramLost c) s.cells
    sites := tmapAll {} (fun _ st => { st with sampling := none }) s.sites
    power := { s.power with ladder := .banked, bankedReady := false } }

/-- Dry: the cisterns, and with them the plan, the weight set and its key, the page sets and the directory, are lost; host
ports and cascade links go down (R353, R375, R458, R460). -/
def enterDry (s : State) : State :=
  let s := enterBanked s
  { s with
    sites := tmapAll {} (fun _ st => { st with
      mem := [], linePoison := [], active := {}, staged := none, provisional := false, cisState := .off
      queueA := [], queueB := [], guard := [], transfers := [], imageStaged := false, imageActive := false }) s.sites
    plan := { s.plan with
      active := none, pending := none, stage := none, recipe := [], recipeStaged := none, holds := [], staging := none
      prologueEnd := none, rotationAt := none }
    weights := { lastStatus := s.weights.lastStatus }
    kv := { s.kv with
      sets := [], moves := []
      stored := s.kv.stored.map fun v =>
        if v.expires.isNone then { v with expires := some (boardTime s + s.ep.ftTtl.toNat * 100000000) } else v }
    serve := { s.serve with
      table := tmapAll none (fun _ r => r.map fun r => { r with returning := false, arrived := false }) s.serve.table }
    windows := tmapAll {} (fun _ w => ({ gen := w.gen } : Window)) s.windows
    ports := tmapAll {} (fun _ p => { p with link := false, fecLock := false, isolated := false, qps := [], ptpLock := false, inLock := 0
                                             outLock := 0 }) s.ports
    casc := tmapAll {} (fun _ c => { c with
      quads := tmapAll {} (fun _ q => { q with up := false }) c.quads, prime := .untrained, table := [], tableStaged := []
      received := [], kept := [] }) s.casc
    power := { s.power with ladder := .dry } }

/-- A forced entry ends every request in flight first (R40, R441, R462, R478, R479). -/
def forceLadder (s : State) (enter : State → State) : State := enter (stopDataPath (endAll s stWaferFault))

/-- Fields woken in an exit: those off for Held or below run again, those the plan treats as holes stay dark (R266, R287,
R446, R460). -/
def wakeAll (s : State) : State :=
  let masked (f : Nat) : Bool := match s.plan.active with
    | some p => tb (p.holes s).toNat f
    | none => false
  let s := allFields.foldl (fun s f =>
    if (s.field f).domain = .off then
      s.modField f fun fs => { fs with
        domain := if masked f || fs.offHeat || fs.tripped then .dark else .running, wake := false, wakeStep := 0, epochSeen := s.time.epoch }
    else s) s
  { s with sites := (List.range (48 * 74)).foldl (fun t k =>
      let d := (s.field (k / 74)).domain
      if d = .running then
        tmod {} t k fun st =>
          if st.cisState = .selfRefresh then
            { st with up := !st.dark, cisState := .ready, refreshCount := st.refreshCount + 3 }
          else { st with up := !st.dark }
      else t) s.sites }

/-- The router tables are rewritten from the restore images (R461). -/
def restoreRouters (s : State) : State :=
  match s.plan.active with
  | none => s
  | some p =>
    let holes := p.holes s
    allFields.foldl (fun s f =>
      if tb holes.toNat f || !linksUp s f then s
      else (List.finRange 72).foldl (fun s cl =>
        s.modRouter (f * 72 + homeOf cl.val) fun r => { r with active := routerImage p f cl }) s) s

/-- The cells resume their idle entries at the second working stroke start from now, or at the third where w would be odd
(R459, R558). -/
def resumeCells (s : State) : State :=
  let n := s.time.work + 2
  let w := s.time.w + 2
  { s with time := { s.time with resumeAt := some (if w % 2 = 0 then n else n + 1) } }

/-- Set a bit of TH_ERR_STATUS (R483). -/
def thErr (s : State) (bit : Nat) : State :=
  { s with heat := { s.heat with err := s.heat.err ||| BitVec.ofNat 6 (2 ^ bit) } }

/-- The clear of a shutdown (R481): accepted after 3 good tray rounds, else discarded and noted. -/
def clearShutdown (s : State) : State × Bool :=
  if 3 ≤ s.heat.clearGood then ({ s with heat := { s.heat with shutdown := false, tripPin := false } }, true)
  else (thErr s 5, false)

/-- An event is pending from now on; each has a number (R57); a master names it to its followers (R54). -/
def addEvent (s : State) (e : Nat) (k : EventKind) : State :=
  boardTell { s with
    events := s.events ++ [{ number := s.mgmt.nextEvent, epoch := e, kind := k }]
    mgmt := { s.mgmt with nextEvent := s.mgmt.nextEvent + 1 } }
    (.epochName (eventCode k).1 (eventCode k).2 (BitVec.ofNat 48 e))

/-- The device holds 16 pending host-scheduled events (R57). -/
def eventsFull (s : State) : Bool := decide (16 ≤ s.events.length)

/-- The outcome of a ladder request reads in PW_STATUS.LADDER (R559). -/
def ladderOutcome (s : State) (o : Nat) : State := { s with power := { s.power with outcome := o } }

/-- The module is to leave its state of the ladder, and a master's board with it (R458, R459). -/
def askLeave (s : State) : State := boardTell { s with power := { s.power with leaving := true } } (.ladder 1)

/-- A module that a flow stop forced into Poised stays there until the flow warning has cleared and no field is over (R478). -/
def heldByHeat (s : State) : Bool := s.heat.forced && (s.heat.flowWarn || s.fields.any fun q => q.2.hot)

/-- Entry to Held, Banked or Dry by its target (R460, R559). -/
def enterLower (s : State) (target : Nat) : State :=
  match target with
  | 2 => enterHeld s
  | 3 => enterBanked s
  | _ => enterDry s

/-- A follower takes its master's word of the ladder (R458 to R460). -/
def followLadder (s : State) (target : Nat) : State :=
  let high := s.power.ladder == .running || s.power.ladder == .poised
  match target with
  | 0 => if s.power.ladder == .running then enterPoised s else s
  | 1 =>
    let low := s.power.ladder == .held || (s.power.ladder == .poised && !heldByHeat s) ||
      (s.power.ladder == .banked && !s.power.bankedReady)
    if low then { s with power := { s.power with leaving := true } } else s
  | n => if high then enterLower s n else s

/-- A request to leave a state is acted on at once: the exit follows (R559), but for R478. -/
def ladderLeave (s : State) : State × Nat :=
  match s.power.ladder with
  | .running => (ladderOutcome s 5, stAccepted)
  | .poised =>
    if heldByHeat s then (ladderOutcome s 4, stNotRunning)
    else (ladderOutcome (askLeave s) 1, stAccepted)
  | .held => (ladderOutcome (askLeave s) 1, stAccepted)
  | .banked =>
    if s.power.bankedReady then (ladderOutcome s 5, stAccepted)
    else (ladderOutcome (askLeave s) 1, stAccepted)
  | .dry => (ladderOutcome s 4, stNotRunning)

/-- A request for a lower state names the epoch of its entry (R55, R57, R460, R559). -/
def ladderEnter (s : State) (target epoch : Nat) : State × Nat :=
  if s.power.ladder = .running ∨ s.power.ladder = .poised then
    if epoch < s.time.epoch + curbLead s then (ladderOutcome s 3, stTooLate)
    else if eventsFull s then (s, stQueueFull)
    else (ladderOutcome (addEvent s epoch (.ladder target)) 1, stAccepted)
  else (ladderOutcome s 4, stNotRunning)

/-- A write to a WO register triggers its action (R10): PW_LADDER a ladder request (R464, R559), TH_CLEAR a shutdown clear (R481). -/
def writeWo (s : State) (a : RegAddr) (v : Nat) : State :=
  match a.block, a.off with
  | 3, 0x028 =>
    match bf v 2 0 with
    | 1 => (ladderLeave s).1
    | 2 => (ladderEnter s 2 (bf v 63 16)).1
    | 3 => (ladderEnter s 3 (bf v 63 16)).1
    | 4 => (ladderEnter s 4 (bf v 63 16)).1
    | _ => s
  | 4, 0x024 => if tb v 0 then (clearShutdown s).1 else s
  | _, _ => s

/-- Supply and VAON are gone: every register returns to its reset value; OTP and the firmware banks keep what they hold
(R463, R522, R531, R554). -/
def vaonLost (s : State) : State :=
  { State.reset with
    pending := s.pending
    otp := s.otp
    fw := { inForce := s.fw.inForce, ready := s.fw.ready, previous := s.fw.previous, bankB := s.fw.bankB }
    sent := s.sent, freeCount := s.freeCount
    power := { State.reset.power with busCv := s.power.busCv, pwrEn := s.power.pwrEn, resetN := s.power.resetN } }

end Sys2Proof.Machine
end

