-- ==== Sys2Proof/Machine/WeightOps.lean ====
section
/-! DEFINITION. Named operations of weight sets: extents in slices (R372, R373), the sweep of a swap and its guaranteed
completion (R383 to R387), reference digests (R505), and the copy of an install (R380). -/

namespace Sys2Proof.Machine

/-- An extent lies in the slices of a field at a board position (R372). -/
def extentIn (x : ManExtent) (pos f : Nat) : Bool := tb x.positions.toNat pos && tb x.fields.toNat f

/-- The extents of a layer in extent order. -/
def layerExtents (w : WeightSet) (l : Nat) : List ManExtent :=
  match w.layers[l]? with
  | some r => (w.extents.drop r.first).take r.count
  | none => []

/-- N of a layer: the largest sum of LINES over a slice of the board (R383). -/
def layerLines (w : WeightSet) (l : Nat) : Nat :=
  let xs := layerExtents w l
  (List.range 4).foldl (fun m pos => allFields.foldl (fun m f =>
    max m ((xs.filter fun x => extentIn x pos f).foldl (fun n x => n + x.lines) 0)) m) 0

/-- The sites that serve the logical clusters of a field, in the order of CLY * 9 + CLX (R373). -/
def fieldSlices (s : State) (f : Nat) : List Nat :=
  if isHole s f then []
  else (List.range 72).filterMap fun cl => (clusterSite s s.faults.applied f (homeOf cl)).map fun i => f * 74 + i

/-- The lines a layer's extents copy in a slice of a field: staging line and master line, in extent order. -/
def layerMoves (s : State) (w : WeightSet) (l f : Nat) : List (Nat × Nat) :=
  (layerExtents w l).flatMap fun x =>
    if extentIn x s.board.position.toNat f then (List.range x.lines).map fun i => (x.staging + i, x.master + i) else []

/-- Mismatches count at the port that received the segments (R409). -/
def countMismatch (s : State) (n : Nat) : State :=
  if n = 0 then s
  else s.modPort (svcPort s) fun q => { q with crcFail := satAdd q.crcFail n, errStatus := q.errStatus ||| 2 }

/-- One staging line becomes a master line with its poison mark (R383, R388). -/
def copyLine (st : SiteState) (m : Nat × Nat) : SiteState :=
  lineWrite st m.2 0 (tgetMany 0 st.mem (m.1 * 64) 64) (stagePoisoned st m.1)

/-- Work is in progress on the board (R383). -/
def workNow (s : State) : Bool := (List.range 4).any fun w => (s.work w).jobP.isSome || (s.work w).jobD.isSome

/-- Lines guaranteed in one working stroke (R383). -/
def sweepRate (busy : Bool) : Nat := if busy then 24 else 512

/-- The model of R384 from a working stroke on: lines of each layer, releases, the strokes in which work is in progress,
and G of every layer reached. -/
def sweepModel (n release : List Nat) (busy : Nat → Bool) : Nat → Nat → Nat → Nat → List Nat → List Nat
  | 0, _, _, _, g => g
  | fuel + 1, w, layer, copied, g =>
    if n.length ≤ layer then g
    else if w < release.getD layer 1 then sweepModel n release busy fuel (w + 1) layer copied g
    else if n.getD layer 0 ≤ copied then sweepModel n release busy fuel w (layer + 1) 0 (g ++ [w - 1])
    else
      let c := copied + sweepRate (busy w)
      if n.getD layer 0 ≤ c then sweepModel n release busy fuel (w + 1) (layer + 1) 0 (g ++ [w])
      else sweepModel n release busy fuel (w + 1) layer c g

/-- Lines of every layer of a set. -/
def setLines (w : WeightSet) : List Nat := (List.range w.layers.length).map (layerLines w)

/-- Steps that the model takes at most. -/
def sweepFuel (n release : List Nat) : Nat := n.foldl (fun t x => t + x / 24 + 2) 2 + release.foldl max 0

/-- A job's strokes on the count of the sweep (R384): its first, and one past its last. -/
def jobSpan (sw : Sweep) (j : Job) : Int × Int := ((j.first : Int) - sw.work0, (j.last : Int) - sw.work0)

/-- The work in progress or decided, and what has ended and is not yet reported. -/
def boardJobs (s : State) : List Job :=
  ((List.range 4).flatMap fun w =>
    let x := s.work w
    [x.jobP, x.jobD, x.planP, x.planD].filterMap id) ++ s.serve.ending

/-- G of every layer with the work dispatched, and one more piece of work if given (R384, R385). -/
def sweepG (s : State) (sw : Sweep) (w : WeightSet) (more : List (Int × Int)) : List Nat :=
  let spans := (boardJobs s).map (jobSpan sw) ++ more
  let n := setLines w
  let busy (x : Nat) : Bool := spans.any fun p => decide (p.1 ≤ (x : Int) ∧ (x : Int) < p.2)
  sweepModel n sw.release busy (sweepFuel n sw.release) (sw.w + 1) sw.layer sw.copied sw.g

/-- A chunk or step of a schedule may start at the next latch: every layer it reads is complete in time (R385). -/
def sweepAllows (s : State) (first : List Nat) (length : Nat) : Bool :=
  match s.weights.sweep, s.weights.loading with
  | some sw, some w =>
    let t := sw.w + 1
    let g := sweepG s sw w [((t : Int), (t : Int) + length)]
    (List.range w.layers.length).all fun l => decide (g.getD l 0 + 1 ≤ t + first.getD l 0)
  | _, _ => true

/-- The version under which new work runs: during a swap the new one (R371, R386). -/
def versionNow (s : State) : Word :=
  match s.weights.sweep, s.weights.loading, s.weights.resident with
  | some _, some w, _ => w.version
  | _, _, some w => w.version
  | _, _, none => 0

/-- SHA3-256 of an extent's lines in a slice (R505). -/
def extentDigest (s : State) (x : ManExtent) (k : Nat) : BitVec 256 :=
  sha3_256 (tgetMany 0 (s.site k).mem (x.master * 64) (x.lines * 64))

/-- Each slice digest of a set: site key, extent index and SHA3-256 of its lines (R505). -/
def sliceDigests (s : State) (w : WeightSet) : List (Nat × Nat × BitVec 256) :=
  w.extents.zipIdx.flatMap fun (x, i) =>
    allFields.flatMap fun f =>
      if extentIn x s.board.position.toNat f then
        (fieldSlices s f).map fun k => (k, i, extentDigest s x k)
      else []

/-- A set becomes resident: its reference digests are recorded, staging is released, the manifest window closes, and the
digest passes begin anew (R376, R386, R405, R505). A line of the set before that waits for a refill is rewritten; one
copied poisoned still waits (R388). -/
def becomeResident (s : State) (w : WeightSet) : State :=
  let s := closeWin s 0
  let s := { s with weights := { s.weights with
    resident := some w, loading := none, state := none, sweep := none, arrived := [], requested := [], crcFails := []
    retries := [], lastStatus := 0, installEpochs := 0, pass := none, passStart := boardTime s, lastMatch := boardTime s
    recheck := [], refills := s.weights.refills.filter fun (q : Nat × Nat) => tget false (s.site q.1).linePoison q.2 } }
  { s with
    weights := { s.weights with refs := sliceDigests s w }
    sites := tmapAll {} (fun _ st => { st with stageBad := [] }) s.sites }

/-- The set bits below n. -/
def bitList (n x : Nat) : List Nat := (List.range n).filter (tb x)

/-- The slices of an extent in the order of the set image: position, field, cluster (R373). -/
def extentSlices (x : ManExtent) : List (Nat × Nat × Nat) :=
  (bitList 4 x.positions.toNat).flatMap fun p => (bitList 48 x.fields.toNat).flatMap fun f => (List.range 72).map fun c => (p, f, c)

/-- Bytes of an extent in the set image. -/
def extentSize (x : ManExtent) : Nat := (extentSlices x).length * x.lines * 64

/-- Image offset of extent i; with i the number of extents, the length before padding. -/
def extentStart (w : WeightSet) (i : Nat) : Nat := (w.extents.take i).foldl (fun n x => n + extentSize x) 0

/-- The padded set image (R373). -/
def imageSize (w : WeightSet) : Nat := ceilDiv (extentStart w w.extents.length) 4096 * 4096

/-- Bytes of a shard but the last. -/
def shardSize : Nat := 67108864

/-- The slices of this module in the set image: image offset, extent, site key. -/
def imageSlices (s : State) (w : WeightSet) : List (Nat × ManExtent × Nat) :=
  w.extents.zipIdx.flatMap fun (x, i) =>
    (extentSlices x).zipIdx.filterMap fun (q, j) =>
      if q.1 ≠ s.board.position.toNat ∨ isHole s q.2.1 = true then none
      else (clusterSite s s.faults.applied q.2.1 (homeOf q.2.2)).map fun i' =>
        (extentStart w i + j * x.lines * 64, x, q.2.1 * 74 + i')

/-- The bytes of a part of the set image that a position's slices hold, by their image offsets (R373, R378). -/
def imagePieces (w : WeightSet) (pos a : Nat) (plain : Bytes) : List (Nat × Bytes) :=
  w.extents.zipIdx.flatMap fun (x, i) =>
    (extentSlices x).zipIdx.filterMap fun (q, j) =>
      let o := extentStart w i + j * x.lines * 64
      let lo := max o a
      let hi := min (o + x.lines * 64) (a + plain.length)
      if q.1 ≠ pos ∨ hi ≤ lo then none else some (lo, bytesAt plain (lo - a) (hi - lo))

/-- The extent of a set that holds a master line of a field, with its index. -/
def extentAt (s : State) (w : WeightSet) (f line : Nat) : Option (ManExtent × Nat) :=
  w.extents.zipIdx.find? fun q =>
    extentIn q.1 s.board.position.toNat f && decide (q.1.master ≤ line ∧ line < q.1.master + q.1.lines)

/-- Image offset of a master line of a slice. -/
def lineOffset (s : State) (w : WeightSet) (k line : Nat) : Option Nat :=
  (imageSlices s w).findSome? fun q =>
    if q.2.2 = k ∧ q.2.1.master ≤ line ∧ line < q.2.1.master + q.2.1.lines then some (q.1 + (line - q.2.1.master) * 64) else none

/-- A twin on this module that holds its reference, its line not poisoned: its slice, and the bytes of the line there (R492, R505). -/
def twinData (s : State) (k line : Nat) : Option (Nat × Bytes) :=
  match s.weights.resident with
  | none => none
  | some w =>
    match extentAt s w (k / 74) line with
    | none => none
    | some (x, i) =>
      match s.weights.refs.find? fun r => r.1 == k && r.2.1 == i with
      | none => none
      | some r => s.weights.refs.findSome? fun q =>
          match w.extents[q.2.1]? with
          | some y =>
            let l := y.master + (line - x.master)
            if (q.1, q.2.1) ≠ (k, i) ∧ q.2.2 = r.2.2 ∧ y.lines = x.lines ∧ tget false (s.site q.1).linePoison l = false ∧
                extentDigest s y q.1 = q.2.2 then
              some (q.1, tgetMany 0 (s.site q.1).mem (l * 64) 64)
            else none
          | none => none

/-- The host is asked for the data unit of a line through its shard (R492). -/
def askHost (s : State) (w : WeightSet) (k line : Nat) : State :=
  match lineOffset s w k line with
  | none => s
  | some o =>
    match w.shards[o / shardSize]? with
    | some sh => sendHost s (bulkVia s) (.read (sh.addr + BitVec.ofNat 64 (o % shardSize / 4096 * 4096)) sh.rkey 4096)
    | none => s

/-- A line of the resident set waits for its refill, dispatch withheld: a twin on this module sends it over the mesh at once, else
its bytes are asked for (R236, R492). -/
def askRefill (s : State) (k line : Nat) : State :=
  if s.weights.refills.contains (k, line) then s
  else
    let s : State := { s with weights := { s.weights with refills := s.weights.refills ++ [(k, line)] } }
    match twinData s k line, s.weights.resident with
    | some (from_, d), _ =>
      let s := meshSend s (siteRouter s from_) (siteRouter s k) line 0 d
      s.modSite k fun st => { st with transfers := st.transfers ++ [.refill line d] }
    | none, some w => if onBoard s then s else askHost s w k line
    | none, none => s

/-- One working stroke of a sweep (R383): every slice copies the guaranteed lines of the layer being rewritten, each burst in two
burst positions, and the lines written leave the caches (R201, R229). -/
def sweepAdvance (s : State) : State :=
  match s.weights.sweep, s.weights.loading with
  | some sw, some w =>
    if !(s.power.ladder == .running || s.power.ladder == .poised) then s
    else
      let sw := if s.time.inStroke then sw else { sw with work0 := sw.work0 - 1 }
      let x := sw.w + 1
      if w.layers.length ≤ sw.layer ∨ x < sw.release.getD sw.layer 1 then
        { s with weights := { s.weights with sweep := some { sw with w := x } } }
      else
        let n := layerLines w sw.layer
        let c := sw.copied + sweepRate (workNow s)
        let move (k : Nat) : List (Nat × Nat) := ((layerMoves s w sw.layer (k / 74)).drop sw.copied).take (c - sw.copied)
        let keys := allFields.flatMap (fieldSlices s)
        let bad := keys.flatMap fun k =>
          (move k).filterMap fun m => if stagePoisoned (s.site k) m.1 then some (k, m.2) else none
        let wrong := keys.foldl (fun n k => n + badSegments (s.site k) ((move k).map (·.1))) 0
        let busy := keys.filter fun k => !(move k).isEmpty
        let s := busy.foldl (fun s k =>
          let n := ((move k).length + 3) / 4
          invalidateLines (s.modSite k fun st => spend s ((move k).foldl copyLine st) n n) k ((move k).map (·.2)) (budgetBase s)) s
        let s : State := bad.foldl (fun (s : State) (q : Nat × Nat) => askHost s w q.1 q.2)
          (countMismatch { s with weights := { s.weights with refills := s.weights.refills ++ bad } } wrong)
        if n ≤ c then
          let s := { s with weights := { s.weights with
            sweep := some { sw with w := x, layer := sw.layer + 1, copied := 0, g := sw.g ++ [x] } } }
          let regions := match s.plan.active with | some p => p.header.regions | none => false
          if sw.layer = 0 ∧ regions = false then freeBarrier s .swap else s
        else { s with weights := { s.weights with sweep := some { sw with w := x, copied := c } } }
  | _, _ => s

/-- Releases of the layers by the old work (R384). -/
def sweepReleases (s : State) (layers : Nat) : List Nat :=
  let scheds := match servingTables s with | some t => t.schedules | none => []
  let old := (List.range 4).flatMap fun w => [(s.work w).jobP, (s.work w).jobD].filterMap id
  (List.range layers).map fun l =>
    old.foldl (fun m j =>
      match scheds.find? fun c => c.number == j.schedule with
      | some c => max m (((j.first : Int) - s.time.work + c.last.getD l 0 + 1).toNat)
      | none => m) 1

/-- A swap starts: the barrier closes and the sweep begins (R384). -/
def startSwap (s : State) : State :=
  match s.weights.loading with
  | some w =>
    let s := holdBarrier s .swap
    { s with
      weights := { s.weights with
        state := some .swapping
        sweep := some { release := sweepReleases s w.layers.length, work0 := s.time.work } } }
  | none => s

/-- The copies of an install join the background transfers of every slice (R232, R380). -/
def startInstall (s : State) : State :=
  match s.weights.loading with
  | some w =>
    let mine (f : Nat) : List Transfer := (w.extents.filter fun x => extentIn x s.board.position.toNat f).map fun x =>
      .sweep x.staging x.master x.lines
    let s := { s with weights := { s.weights with state := some .installing } }
    allFields.foldl (fun s f => (fieldSlices s f).foldl (fun s k =>
      s.modSite k fun st => { st with transfers := st.transfers ++ mine f }) s) s
  | none => s

/-- Epochs an install needs at the idle rate (R380, R383). -/
def installEpochs (w : WeightSet) : Nat := ceilDiv ((setLines w).foldl (· + ·) 0) (512 * 4095)

/-- Copies of an install are still waiting (R380). -/
def installPending (s : State) : Bool := s.sites.any fun q => q.2.transfers.any fun t => match t with
  | .sweep .. => true
  | _ => false

/-- Followers that hold slices of a set. -/
def setFollowers (s : State) (w : WeightSet) : List Nat := (followers s).filter fun p => tb w.positions.toNat p

/-- A load ends without a set: staging is released, on the followers too, the manifest window closes, the resident set is untouched; a reload of priming that
fails leaves the follower not admitted (R377, R379, R405, R433). -/
def dropLoad (s : State) (status : Nat) : State :=
  let gone := match s.weights.loading with
    | some w => setFollowers s w
    | none => []
  let s := gone.foldl (fun s p => sendVc s { src := 0, dst := BitVec.ofNat 2 p, content := .loadGone status }) s
  let s := closeWin s 0
  let reload := s.casc.any fun q => q.2.prime == .reloading
  { s with
    board := { s.board with reason := if reload then 5 else s.board.reason }
    casc := tmapAll {} (fun _ c => if c.prime = .reloading then { c with prime := .notAdmitted } else c) s.casc
    weights := { s.weights with
      loading := none, state := none, arrived := [], requested := [], crcFails := [], retries := [], lastStatus := status
      installEpochs := 0 }
    sites := tmapAll {} (fun _ st => { st with
      stageBad := []
      transfers := st.transfers.filter fun t => match t with
        | .stage .. => false
        | _ => true }) s.sites }

end Sys2Proof.Machine
end

