-- ==== Sys2Proof/Machine/Scheduling.lean ====
section
/-! DEFINITION. Dispatch of chunks and steps: schedules and their lengths (R313 to R317, R366), page binding and shortage
(R330, R331, R334, R341, R344), parcels for the mailboxes (R310 to R312), what ends a chunk or step (R336, R337, R491), and the shared request service of a board
(R428, R429).
-/

namespace Sys2Proof.Machine

/-- Positions of each length bucket (R313). -/
def bucketSizes : List Nat := [512, 2048, 8192, 32768, 131072]

/-- Length of a schedule under the recipe in force (R366). -/
def schedLength (s : State) (p : Plan) (c : Schedule) : Nat :=
  p.precision.foldl (fun n l => if s.plan.recipe.contains l.layer then n + l.extra.getD (c.number - 1) 0 else n) c.length

/-- The schedule of the smallest bucket provided that holds a length, with the bucket's index (R315). -/
def chunkSchedule (t : ServingTables) (len : Nat) : Option (Nat × Schedule) :=
  (List.finRange 5).findSome? fun b =>
    if len ≤ bucketSizes.getD b.val 0 then (t.schedules.find? fun c => c.kind == .chunk b).map fun c => (b.val, c) else none

/-- The schedule of a decode step (R313). -/
def stepSchedule (t : ServingTables) (spec : Bool) : Option Schedule :=
  t.schedules.find? fun c => c.kind == (if spec then .spec else .plain)

/-- Positions of the largest bucket that the tables provide (R307, R345). -/
def largestBucket (t : ServingTables) : Nat :=
  (List.finRange 5).foldl (fun m b => if t.schedules.any fun c => c.kind == .chunk b then bucketSizes.getD b.val 0 else m) 0

def Request.spec (r : Request) : Bool := tb r.flags.toNat 0
def Request.resume (r : Request) : Bool := tb r.flags.toNat 1
def Request.pause (r : Request) : Bool := tb r.flags.toNat 2

/-- Positions that the request's next chunk runs over (R336, R342, R351). -/
def chunkLen (r : Request) : Nat :=
  match r.chunk with
  | .fresh => if r.resume then r.c0 + r.promptLen + 1 else r.promptLen
  | .resume => r.promptLen + 1
  | .recompute => r.commit

/-- One past the highest row that a request's next chunk or step writes (R336). -/
def rowsTo (r : Request) (chunk : Bool) : Nat :=
  if chunk then
    match r.chunk with
    | .resume => r.c0 + r.promptLen + 1
    | _ => chunkLen r
  else if r.spec then r.position + r.drafts else r.position

/-- The lowest free slot of a lane (R331). -/
def lowestSlot (s : State) (pool lane slots : Nat) : Option Nat :=
  (List.range slots).find? fun k => !(s.kv.sets.any fun p => p.pool == pool && p.lane == lane && p.slot == k)

/-- Free slots of a lane. -/
def freeSlots (s : State) (pool lane slots : Nat) : Nat :=
  slots - (s.kv.sets.filter fun p => p.pool == pool && p.lane == lane).length

/-- Page sets a request needs and does not hold, for rows below a bound: pool, logical set, lane (R330, R331, R334). -/
def setsNeeded (s : State) (t : ServingTables) (i rows : Nat) : List (Nat × Nat × Nat) :=
  t.pools.zipIdx.flatMap fun (pl, n) =>
    (List.range ((rows + 127) / 128)).filterMap fun j =>
      if s.kv.sets.any fun p => p.pool == n && p.owner == i && p.j == j && p.state != .outgoing then none
      else some (n, j, j % max 1 pl.lanes)

/-- Some lane has fewer free slots than a list of needed sets asks (R341). -/
def laneShort (s : State) (t : ServingTables) (need : List (Nat × Nat × Nat)) : Bool :=
  need.any fun q =>
    decide (freeSlots s q.1 q.2.2 ((t.pools[q.1]?).map (·.slots) |>.getD 0)
      < (need.filter fun r => r.1 == q.1 && r.2.2 == q.2.2).length)

/-- A request ranks below another (R341). -/
def rankBelow (a b : Nat × Nat) : Bool := decide (b.1 < a.1 ∨ (a.1 = b.1 ∧ b.2 < a.2))

/-- A request is dropped: it loses its page sets and waits for a recompute chunk, or for its whole prompt where it has
committed no row of its own (R342, R351). -/
def dropRequest (s : State) (i : Nat) : State :=
  match s.request i with
  | some r =>
    let s := freeSets s i
    let fresh := decide (r.emitted = 0)
    s.setRequest i (some { r with
      state := .waiting, chunk := if fresh then .fresh else .recompute, readyAt := s.time.work })
  | none => s

/-- The copies not yet begun lose their page sets; their conversation will be stored without pages (R341, R343). -/
def dropMove (s : State) (m : FarMove) : State :=
  { s with kv := { s.kv with
    sets := s.kv.sets.filter fun p => !(p.owner == m.owner && p.state == .outgoing && p.conv == m.conv)
    moves := s.kv.moves.map fun q => if q.conv == m.conv && q.owner == m.owner then { q with pages := false } else q } }

/-- The requests to whose work the next latch or one before belongs. -/
def engaged (s : State) : List Nat := (boardJobs s).flatMap (·.reqs)

/-- Victims in the order of R341 for a request of a rank: outgoing copies not begun, then requests of lower rank. -/
def victims (s : State) (rank : Nat × Nat) : List (FarMove ⊕ Nat) :=
  let mv := sortBy (fun a b => !rankBelow b.rank a.rank) (s.kv.moves.filter fun m => !m.started && m.pages)
  let rq := (liveRequests s).filter fun q =>
    rankBelow (q.2.priority, q.2.tAdmit) rank && !(engaged s).contains q.1 && !q.2.returning && !(ownSets s q.1).isEmpty
  let rq := sortBy (fun a b => !rankBelow (b.2.priority, b.2.tAdmit) (a.2.priority, a.2.tAdmit)) rq
  mv.map .inl ++ rq.map fun q => .inr q.1

/-- Drop victims one by one until the needed sets fit; the state stands as it was if they never do (R341). -/
def makeRoom (t : ServingTables) (need : List (Nat × Nat × Nat)) : List (FarMove ⊕ Nat) → State → Option State
  | vs, s =>
    if !laneShort s t need then some s
    else match vs with
      | [] => none
      | .inl m :: rest => makeRoom t need rest (dropMove s m)
      | .inr i :: rest => makeRoom t need rest (dropRequest s i)

/-- The intake cells' keys (R310). -/
def intakeCells (s : State) (t : ServingTables) : List Nat := t.intake.filterMap fun a => placeKey s a.field.val a.place

/-- The replica of an entry of the request table (R428). -/
def replicaAt (s : State) (i : Nat) : Nat := match s.request i with
  | some r => r.replica
  | none => 0

/-- The other modules whose mailboxes take a request's parcels: every follower where the board runs one plan, the replica's in multiply
mode (R428, R429). -/
def parcelModules (s : State) (i : Nat) : List Nat :=
  if boardRuns s then followers s
  else if multiplies s then (followers s).filter (· == replicaAt s i)
  else []

/-- A parcel waits for every intake cell, and goes to the other modules that serve its request (R310, R312, R429). -/
def addParcel (s : State) (t : ServingTables) (type index : Nat) (payload : Bytes) : State :=
  let here := if multiplies s && replicaAt s index != 0 then [] else intakeCells s t
  let there := parcelModules s index
  if here.isEmpty && there.isEmpty then s
  else
    let n := s.serve.parcelNo
    there.foldl (fun s w => sendVc s { src := 0, dst := BitVec.ofNat 2 w, content := .parcel n type index payload })
      { s with serve := { s.serve with
        parcelNo := if there.isEmpty then n else n + 1
        parcels := s.serve.parcels ++ [{
          type := type, payload := payload, index := index, left := here, number := n, others := there }] } }

/-- A parcel has still to be written: here, or by a module that is admitted (R309, R334). -/
def parcelWaits (s : State) (q : Parcel) : Bool := !q.left.isEmpty || q.others.any (followers s).contains

/-- A parcel of the master waits for the intake cells of a follower; one that has none has it written at once (R429). -/
def takeParcel (s : State) (number type index : Nat) (payload : Bytes) : State :=
  let here := match servingTables s with
    | some t => intakeCells s t
    | none => []
  if here.isEmpty then tellMaster s (.parcelTaken number)
  else { s with serve := { s.serve with
    parcels := s.serve.parcels ++ [{ type := type, payload := payload, index := index, left := here, number := number, board := true }] } }

/-- A module has written a parcel (R429). -/
def parcelTaken (s : State) (w number : Nat) : State :=
  { s with serve := { s.serve with parcels := (s.serve.parcels.map fun q =>
      if q.number == number then { q with others := q.others.filter (· != w) } else q).filter fun q =>
        !(q.left.isEmpty && q.others.isEmpty) } }

/-- The page map parcels of the sets just bound to a request, each of at most 960 sets (R334). -/
def pageMaps (s : State) (t : ServingTables) (i : Nat) (bound : List PageSet) : State :=
  (List.range t.pools.length).foldl (fun s n =>
    let mine := bound.filter fun p => p.pool == n
    (List.range ((mine.length + 959) / 960)).foldl (fun s h =>
      match (mine.drop (960 * h)).take 960 with
      | [] => s
      | p :: rest =>
        addParcel s t 4 i (leBytes 4 i ++ leBytes 2 p.j ++ leBytes 2 (rest.length + 1) ++ leBytes 56 0 ++
          (p :: rest).flatMap fun q => leBytes 2 q.slot)) s) s

/-- Bind page sets to the lowest free slots of their lanes, tagged with a version (R331, R334, R344). -/
def bindSets (s : State) (t : ServingTables) (i : Nat) (need : List (Nat × Nat × Nat)) (state : SetState) : State :=
  let v := versionNow s
  let s' := need.foldl (fun s q =>
    match lowestSlot s q.1 q.2.2 ((t.pools[q.1]?).map (·.slots) |>.getD 0) with
    | some k =>
      { s with kv := { s.kv with sets := s.kv.sets ++
        [{ pool := q.1, owner := i, j := q.2.1, lane := q.2.2, slot := k, version := v, state := state }] } }
    | none => s) s
  pageMaps s' t i (s'.kv.sets.drop s.kv.sets.length)

/-- Make room for the rows of a request's next work and bind them; `none` where the candidates cannot free enough. -/
def bindFor (s : State) (t : ServingTables) (i : Nat) (r : Request) (chunk : Bool) : Option State :=
  let need := setsNeeded s t i (rowsTo r chunk)
  (makeRoom t need (victims s (r.priority, r.tAdmit)) s).map fun s => bindSets s t i need .live

/-- Page sets of another version stand in the way of a request's next work (R344). -/
def wrongVersion (s : State) (i : Nat) : Bool := (ownSets s i).any fun p => p.version != versionNow s

/-- A demand withholds new chunks, a follower's too (R61, R317). -/
def chunksHeld (s : State) : Bool :=
  decide (0 < s.power.demandInForce ∨ 0 < s.heat.demandInForce ∨ 0 < s.board.demandOld)

/-- Dispatch on a replica may go on for the next latch. -/
def mayDispatch (s : State) (w : Nat) : Bool :=
  s.power.ladder == .running && !dispatchHeld s &&
    if w = 0 then s.time.dataPath else (followers s).contains w && !tb s.board.stopped.toNat w

/-- Strokes by which the master names ahead what its followers publish, and for which it waits for what they tell when work ends: those
that a unit takes from wafer to wafer (R69, R429). -/
def boardLead : Nat := 4

/-- Followers publish a replica's dispatch values. -/
def ledWork (s : State) (w : Nat) : Bool := boardRuns s || (multiplies s && w != 0)

/-- The working stroke in which work that is decided now begins at the earliest (R314, R429). -/
def firstStroke (s : State) (w : Nat) : Nat := s.time.work + if ledWork s w then boardLead + 1 else 1

/-- One kind of cells is free for work that is decided now. -/
def kindFree (s : State) (w : Nat) (j : Option Job) : Bool :=
  match j with
  | some j => decide (j.last ≤ firstStroke s w)
  | none => true

/-- A request is ready for the next latch: ready at the start of an earlier working stroke (R314). -/
def ready (s : State) (q : Nat × Request) : Bool :=
  !q.2.cancel && !q.2.returning && !q.2.badToken && decide (q.2.promptLen ≤ q.2.delivered ∧ q.2.readyAt < s.time.work) &&
    !(engaged s).contains q.1

/-- One waiting request is tried for the next chunk (R315, R341, R344, R345). -/
def tryChunk (p : Plan) (t : ServingTables) (s : State) (i : Nat) : State :=
  match s.request i with
  | none => s
  | some r =>
    let s := if wrongVersion s i then dropRequest s i else s
    let r := (s.request i).getD r
    if (r.chunk = .recompute ∨ (r.chunk = .fresh ∧ r.resume = true)) ∧ largestBucket t < chunkLen r then
      endRequest s i stWeightVersion
    else
      match chunkSchedule t (chunkLen r) with
      | none => s
      | some (b, c) =>
        let len := schedLength s p c
        if !sweepAllows s c.first len then s
        else
          match bindFor s t i r true with
          | none => s
          | some s =>
            let s := s.setRequest i (some { r with bucket := b })
            let j : Job := {
              schedule := c.number, first := firstStroke s r.replica, last := firstStroke s r.replica + len, reqs := [i]
              chunk := true, version := versionNow s, replica := r.replica }
            s.setWork r.replica ((s.work r.replica).setPlan true (some j))

/-- The chunk for a replica's next latch: the waiting request of the highest priority, then the earliest admission (R315, R428). -/
def decideChunk (s : State) (w : Nat) : State :=
  match s.plan.active, servingTables s with
  | some p, some t =>
    if (s.work w).planP.isSome || !kindFree s w (s.work w).jobP || chunksHeld s || !mayDispatch s w then s
    else
      let cand := (liveRequests s).filter fun q => q.2.state == .waiting && q.2.replica == w && ready s q
      let cand := sortBy (fun a b => decide (a.2.priority < b.2.priority ∨
        (a.2.priority = b.2.priority ∧ (a.2.tAdmit < b.2.tAdmit ∨ (a.2.tAdmit = b.2.tAdmit ∧ a.1 ≤ b.1))))) cand
      cand.foldl (fun s q => if (s.work w).planP.isSome then s else tryChunk p t s q.1) s
  | _, _ => s

/-- The deadline of a decoding request; `none` is later than every finite one (R316). -/
def deadline (r : Request) : Option Nat :=
  if r.tFirst.isSome then (if r.tbt = 0 then none else some (r.tLast + r.tbt))
  else if r.ttft = 0 then none else some (r.tAdmit + r.ttft)

/-- Order of decoding requests (R316). -/
def stepBefore (a b : Nat × Request) : Bool :=
  let rest := decide (a.2.priority < b.2.priority ∨ (a.2.priority = b.2.priority ∧ a.1 ≤ b.1))
  match deadline a.2, deadline b.2 with
  | some x, some y => decide (x < y) || (decide (x = y) && rest)
  | some _, none => true
  | none, some _ => false
  | none, none => rest

/-- A decoding request joins the step that is being filled, if it is of the same schedule and a column is left (R316, R341,
R344, R345). -/
def joinStep (p : Plan) (t : ServingTables) (s : State) (i : Nat) : State :=
  match s.request i with
  | none => s
  | some r =>
    if wrongVersion s i then
      if largestBucket t < r.commit then endRequest s i stWeightVersion else dropRequest s i
    else
      match stepSchedule t r.spec with
      | none => s
      | some c =>
        let len := schedLength s p c
        let columns := if p.header.regions && !r.spec then max 1 t.columns else 1
        let room := match (s.work r.replica).planD with
          | some j => j.schedule == c.number && decide (j.reqs.length < columns)
          | none => sweepAllows s c.first len
        if !room then s
        else
          match bindFor s t i r false with
          | none => s
          | some s =>
            let column := match (s.work r.replica).planD with | some j => j.reqs.length | none => 0
            let s := if p.header.regions then
                addParcel s t 3 i (leBytes 4 i ++ leBytes 4 column ++ leBytes 4 r.position)
              else s
            let j := match (s.work r.replica).planD with
              | some j => { j with reqs := j.reqs ++ [i] }
              | none => {
                  schedule := c.number, first := firstStroke s r.replica, last := firstStroke s r.replica + len, reqs := [i]
                  chunk := false, version := versionNow s, spec := r.spec, replica := r.replica }
            s.setWork r.replica ((s.work r.replica).setPlan false (some j))

/-- The step for a replica's next latch (R316, R428). -/
def decideStep (s : State) (w : Nat) : State :=
  match s.plan.active, servingTables s with
  | some p, some t =>
    if (s.work w).planD.isSome || !kindFree s w (s.work w).jobD || !mayDispatch s w then s
    else
      let cand := sortBy stepBefore
        ((liveRequests s).filter fun q => q.2.state == .decoding && q.2.replica == w && ready s q)
      cand.foldl (fun s q => joinStep p t s q.1) s
  | _, _ => s

/-- The stroke that the master names for a dispatch: `boardLead` strokes on, past a curb stroke (R429). -/
def namedStroke (s : State) : Nat :=
  let n := strokeNo s + boardLead
  if n % 4096 = 0 then n + 1 else n

/-- The master names to the followers that run a replica's work what they publish in a stroke (R429). -/
def tellDispatch (s : State) (w : Nat) (p : Bool) (schedule stroke : Nat) : State :=
  let c : VcContent := .dispatch (if p then 14 else 15) (BitVec.ofNat 4 schedule) stroke
  if boardRuns s then boardTell s c
  else if ledWork s w then sendVc s { src := 0, dst := BitVec.ofNat 2 w, content := c }
  else s

/-- What channel 14 or 15 carries for the latch of this stroke, and a replica's work that begins: none while dispatch is withheld;
work whose parcels are not all written waits a stroke, and work that followers share is named to them before (R309, R314, R334,
R429). -/
def latchJob (s : State) (w : Nat) (p : Bool) : State × Nat :=
  match (s.work w).plan p with
  | none => (s, 0)
  | some j =>
    let put (s : State) (plan : Option Job) : State := s.setWork w ((s.work w).setPlan p plan)
    let live := j.reqs.filter fun i => match s.request i with
      | some r => r.state != .ended && !r.cancel
      | none => false
    if !mayDispatch s w || (p && chunksHeld s) || live.isEmpty then
      (match j.told with
        | some n => tellDispatch (put s none) w p 0 n
        | none => put s none, 0)
    else if j.told.isNone && s.serve.parcels.any (fun q => live.contains q.index && parcelWaits s q) then
      (put s (some { j with reqs := live, first := firstStroke s w, last := firstStroke s w + (j.last - j.first) }), 0)
    else if ledWork s w && j.told.isNone then
      let n := namedStroke s
      (tellDispatch (put s (some { j with
        reqs := live, told := some n, first := s.time.work + boardLead, last := s.time.work + boardLead + (j.last - j.first) }))
        w p j.schedule n, 0)
    else if (match j.told with | some n => decide (strokeNo s < n) | none => false) then (s, 0)
    else
      let run := { j with
        reqs := live, first := s.time.work, last := s.time.work + (j.last - j.first), stroke := strokeNo s }
      let s := put s none
      let s := s.setWork w ((s.work w).setJob p (some run))
      let s := if p then live.foldl (fun s i => match s.request i with
          | some r => s.setRequest i (some { r with state := .prefill })
          | none => s) s else s
      (s, if multiplies s && w != 0 then 0 else j.schedule)

/-- What the master has named for a channel in this stroke (R429). -/
def namedValue (s : State) (ch : Nat) : Nat :=
  match s.board.dispatch.find? fun q => q.1 == strokeNo s && q.2.1 == ch with
  | some q => q.2.2
  | none => 0

/-- A follower notes the work that begins with what it publishes (R383, R429). -/
def noteWork (s : State) (p : Bool) : State :=
  match s.plan.active, servingTables s with
  | some pl, some t =>
    match t.schedules.find? fun c => c.number == namedValue s (if p then 14 else 15) with
    | some c =>
      let j : Job := {
        schedule := c.number, first := s.time.work, last := s.time.work + schedLength s pl c, reqs := [], chunk := p
        version := versionNow s, stroke := strokeNo s }
      s.setWork 0 ((s.work 0).setJob p (some j))
    | none => s
  | _, _ => s

/-- A fatal-request record of the work's time is still to be handled, or a record of higher severity (R491). -/
def recordWaits (s : State) (j : Job) : Bool :=
  let rs := s.faults.ring ++ s.fields.flatMap fun q => q.2.queue
  rs.any fun r => decide (3 ≤ r.severity ∨ (r.severity = 2 ∧ j.stroke ≤ r.stroke.toNat))

/-- C and T of a request after its chunk or step (R336, R337). -/
def commitRows (r : Request) (j : Job) : Request :=
  if j.chunk then
    match r.chunk with
    | .recompute => { r with tail := r.commit }
    | .fresh => { r with commit := chunkLen r, tail := chunkLen r }
    | .resume => { r with commit := r.c0 + r.promptLen + 1, tail := r.c0 + r.promptLen + 1 }
  else
    let c := r.position + (if j.spec then j.accepted.getD 0 else 0)
    { r with commit := c, tail := c }

/-- One request of a chunk or step that has ended: poison at its outbox, a request error or a wrong acceptance count end it
and withhold its tokens; else its tokens are reported, then a cancel counts, and it is ready for its next step (R307, R324,
R326, R327, R337, R342, R490, R491). -/
def endWork (s : State) (j : Job) (mine : List OutResult) (i : Nat) : State :=
  match s.request i with
  | none => s
  | some r =>
    if r.state = .ended then s
    else
      let rs := mine.filter fun o => o.all || o.index == i
      let cause := (rs.findSome? (·.error)).getD 0
      let bad := (rs.any fun o => o.poison || o.error.isSome) ||
        (j.spec && match j.accepted with | some a => decide (r.drafts < a) | none => true)
      if bad then endRequest s i (if r.cancel then stCancelled else stDataError) (if r.cancel then 0 else cause)
      else
        let silent := j.chunk && r.chunk == .recompute
        let r := commitRows r j
        let next := if silent then r.commit + 1 else if j.chunk then r.commit else r.position
        let r := { r with state := .decoding, readyAt := s.time.work, position := next, workedAt := j.endAt }
        let s := s.setRequest i (some r)
        let s := if silent then s
          else (rs.filter fun o => !o.tokens.isEmpty).foldl (fun s o => reportTokens s i o.tokens o.position (j.endAt.getD 0)) s
        match s.request i with
        | some r => if r.cancel ∧ r.state ≠ .ended then endRequest s i stCancelled else s
        | none => s

/-- The chunk (true) or step of a replica has ended at this stroke start (R337). -/
def endJob (s : State) (w : Nat) (p : Bool) : State :=
  match (s.work w).job p with
  | none => s
  | some j =>
    if s.time.work < j.last then s
    else
      let s := s.setWork w ((s.work w).setJob p none)
      { s with serve := { s.serve with
        ending := s.serve.ending ++ [{ j with endAt := some (boardTime s), lastNo := some (strokeNo s) }] } }

/-- Results of a piece of work: read from outboxes of its kind of fields before its end, in multiply mode on its replica (R312, R428). -/
def resultOf (s : State) (j : Job) (o : OutResult) : Bool :=
  o.pkind == j.chunk && (!multiplies s || o.src == j.replica) && decide (o.stroke < j.lastNo.getD 0)

/-- Work that has ended is reported once no record of its time is still to be handled and its followers' results are in (R429, R491). -/
def finishJobs (s : State) : State :=
  s.serve.ending.foldl (fun s j =>
    if recordWaits s j || (ledWork s j.replica && decide (strokeNo s < j.lastNo.getD 0 + boardLead)) then s
    else
      let mine := s.serve.results.filter (resultOf s j)
      let s := { s with serve := { s.serve with
        ending := s.serve.ending.erase j, results := s.serve.results.filter fun o => !resultOf s j o } }
      j.reqs.foldl (fun s i => endWork s j mine i) s) s

/-- An acceptance count of a replica's step, the last one that ended and has none or the one in progress (R323, R324, R337). -/
def takeAccepted (s : State) (w v : Nat) : State :=
  let late (j : Job) : Bool := j.replica == w && j.spec && j.accepted.isNone
  if s.serve.ending.any late then
    { s with serve := { s.serve with ending := s.serve.ending.map fun j => if late j then { j with accepted := some v } else j } }
  else
    match (s.work w).jobD with
    | some j => if j.spec then s.setWork w ((s.work w).setJob false (some { j with accepted := some v })) else s
    | none => s

/-- The acceptance count latched on channel 13 in a speculative step; the replica of a follower tells its master (R323, R337, R429). -/
def latchAccepted (s : State) (valid conflict : Bool) (v : Nat) : State :=
  if !valid || conflict then s
  else if follows s then (if multiplies s then tellMaster s (.accepted v) else s)
  else
    match s.serve.jobD with
    | some j => if j.spec then { s with serve := { s.serve with jobD := some { j with accepted := some v } } } else s
    | none => s

/-- Intake ends when the whole prompt is in the mailboxes; a request with a token of 2^24 or more ends here, before its
chunk is dispatched (R303, R312). -/
def endIntake (s : State) : State :=
  (liveRequests s).foldl (fun s q =>
    let r := q.2
    if (r.state == .intake || r.state == .waiting) && r.delivered == r.promptLen &&
        !(s.serve.parcels.any fun p => p.index == q.1 && parcelWaits s p) then
      if r.badToken then endRequest s q.1 stBadParameter
      else if r.state = .intake then s.setRequest q.1 (some { r with state := .waiting, readyAt := s.time.work })
      else s
    else s) s

/-- The mailbox area of an intake cell, or the outbox area of an output cell. -/
def areaOf (s : State) (l : List IoArea) (k : Nat) : Option IoArea :=
  l.find? fun a => placeKey s a.field.val a.place == some k

/-- Physical unit at which half w mod 2 of an area begins (R310 to R312). -/
def areaUnit (c : CellState) (a : IoArea) (w : Nat) : Nat := (taskRegs c a.task).sbase + a.base + 32 * (w % 2)

/-- Clean words of bytes, whole units. -/
def unitWords (b : Bytes) : List PWord := bytesWords (b ++ List.replicate ((64 - b.length % 64) % 64) 0)

/-- MAILBOX_WRITE (R310, R311): in the slack of a working stroke the device writes half w mod 2 of an intake cell: the next
parcel, header last, if the slack cycles left hold it, else a header with COUNT = 0. -/
def execMailboxWrite (c : CellAddr) (slack : Nat) (s : State) : Host.Outcome State Fault Refusal :=
  let k := cellKey c
  let x := s.cell k
  match servingTables s with
  | none => done s
  | some t =>
    match areaOf s t.intake k with
    | none => done s
    | some a =>
      if !working s || slack = 0 || x.mailAt == s.time.work then done s
      else
        let u := areaUnit x a s.time.w
        let x := { x with mailAt := s.time.work }
        let empty := { x with sp := spWordsSet x.sp (u * 16) [{}] }
        match s.serve.parcels.findIdx? fun p => p.left.contains k with
        | none => done (s.setCell k empty)
        | some i =>
          match s.serve.parcels[i]? with
          | none => done s
          | some p =>
            let n := (p.payload.length + 63) / 64
            if slack < n + 1 then done (s.setCell k empty)
            else
              let sp := spWordsSet x.sp (u * 16 + 16) (unitWords p.payload)
              let sp := spWordsSet sp (u * 16) (unitWords (leBytes 4 n ++ leBytes 4 p.type))
              let p := { p with left := p.left.filter (· != k) }
              let ps := s.serve.parcels.set i p
              let ps := if p.left.isEmpty && p.others.isEmpty then ps.eraseIdx i else ps
              let s : State := { s.setCell k { x with sp := sp } with serve := { s.serve with parcels := ps } }
              done (if p.left.isEmpty && p.board then tellMaster s (.parcelTaken p.number) else s)

/-- OUTBOX_READ (R312, R429, R490): in the slack of a working stroke the device reads half w mod 2 of an output cell and writes
COUNT = 0 into its header; a follower sends what it read to its master. -/
def execOutboxRead (c : CellAddr) (s : State) : Host.Outcome State Fault Refusal :=
  let k := cellKey c
  let x := settle (fieldIsP (cellField k)) (budgetBase s + 511) (strokeNo s) (s.cell k)
  match servingTables s with
  | none => done s
  | some t =>
    match areaOf s t.output k with
    | none => done s
    | some a =>
      if !working s || x.outAt == s.time.work then done s
      else
        let u := areaUnit x a s.time.w
        let w (i : Nat) : PWord := spWordGet x.sp (u * 16 + i)
        let x := { x with outAt := s.time.work, sp := spWordsSet x.sp (u * 16) [{}] }
        let s := s.setCell k x
        let pk := fieldIsP (cellField k)
        let add (o : OutResult) : State :=
          let o := { o with stroke := strokeNo s }
          if follows s && boardServes s then tellMaster s (.outbox o)
          else { s with serve := { s.serve with results := s.serve.results ++ [o] } }
        let n := (w 0).val.toNat
        if (w 0).poison || (w 1).poison then
          done (add {
            index := 0, tokens := [], position := 0, error := none, poison := true, all := true, pkind := pk })
        else if n = 0 then done s
        else if (w 1).val = 2 then
          done (add {
            index := (w 16).val.toNat, tokens := [], position := 0
            error := some (if (w 17).poison then 0 else (w 17).val), poison := (w 17).poison, all := (w 16).poison
            pkind := pk })
        else if (w 1).val = 1 then
          let m := min 9 (w 17).val.toNat
          let toks := (List.range m).map fun i => w (18 + i)
          done (add {
            index := (w 16).val.toNat, tokens := toks.map (·.val), position := (w (18 + m)).val.toNat
            error := none, all := (w 16).poison
            poison := (w 16).poison || (w 17).poison || (toks.any (·.poison)) || (w (18 + m)).poison
            pkind := pk })
        else done s

end Sys2Proof.Machine
end

