-- ==== Sys2Proof/Machine/Reports.lean ====
section
/-! DEFINITION. Reports at a stroke start: cell, router and cistern events of the stroke before become records (R211, R246,
R250, R255, R264, R302, R363, R486, R492, R493), and the ledger of the assay (R364). -/

namespace Sys2Proof.Machine

/-- Code and severity of a fault bit of a cell (R96, R486). -/
def faultCode (bit : Nat) : Nat × Nat :=
  if bit ≤ 2 then (0x8A, 2)
  else if bit = fbResidue then (0x83, 1)
  else if bit = fbFp then (0x84, 1)
  else if 4 ≤ bit ∧ bit ≤ 6 then (0x88, 2)
  else (0x87, 2)

/-- Address of a cell key. -/
def cellAddr (k : Nat) : CellAddr :=
  { field := Fin.ofNat 48 (cellField k), site := Fin.ofNat 74 (cellSite k % 74), phys := Fin.ofNat 18 (k % 18) }

/-- Location word of a cell's capture (R300, R302). -/
def captureLoc (s : State) (k : Nat) (c : CellState) (code : Nat) : BitVec 64 :=
  let lg := c.active.logical.toNat
  locWord s (if c.faults.remote then 5 else 6) (if c.faults.remote then 0 else c.seg) c.faults.bundle.toNat
    c.faults.task.toNat (cellLogical c) (bf lg 11 8 * 9 + bf lg 15 12) (cellField k) code

/-- One fault bit of a cell is reported: its record, and for a bound or cistern fault the plan fault record too (R302,
R488, R535). -/
def reportBit (s : State) (k : Nat) (c : CellState) (bit : Nat) : State :=
  let (code, sev) := faultCode bit
  let s := if bit ≤ 2 then logAdd s 2 (planFaultRecord s k c (bit + 1)) else s
  raiseField s (cellField k) {
    severity := sev, stroke := c.faults.stroke, location := captureLoc s k c code
    detail := if bit ≤ 2 then BitVec.ofNat 32 c.faults.addr.toNat else 0, inCell := some (cellAddr k), idleCell := c.ranIdle
    cause := bit }

/-- The scratchpad events of a cell are reported: corrections are counted, poisoned words make a record for each unit
(R211, R488). -/
def reportScratch (s : State) (k : Nat) (c : CellState) : State :=
  let f := cellField k
  let lg := c.active.logical.toNat
  c.spEvents.foldl (fun s q =>
    let unit := q.1 % 16384
    if q.1 < 16384 then countCorrected (s.modField f fun fs => { fs with spInner := satAdd fs.spInner q.2 }) f q.2
    else if q.1 < 32768 then countCorrected (s.modField f fun fs => { fs with spOuter := satAdd fs.spOuter q.2 }) f q.2
    else
      let s := s.modField f fun fs => { fs with spPoison := satAdd fs.spPoison q.2 }
      raiseField s f {
        severity := 1, stroke := BitVec.ofNat 60 (strokeNo s), count := BitVec.ofNat 32 q.2, detail := BitVec.ofNat 32 unit
        location := locWord s 4 0 0 0 (cellLogical c) (bf lg 11 8 * 9 + bf lg 15 12) f 0x82
        inCell := some (cellAddr k), idleCell := c.ranIdle }) s

/-- A resident unit was delivered or written back poisoned (R493). -/
def residentPoison (c : CellState) : Bool :=
  c.spEvents.any fun q => decide (32768 ≤ q.1) && c.active.resident.contains (q.1 % 16384)

/-- The plan in force keeps its weights in scratchpads (R292). -/
def inRegions (s : State) : Bool := match s.plan.active with | some p => p.header.regions | none => false

/-- Dispatch is withheld and the active key reactivated at the earliest curb stroke that R55 and R56 allow (R493). -/
def reactivate (s : State) : State := holdBarrier (nameOwn s .reactivate (s.time.epoch + curbLead s)) .reactivation

/-- Reports of one cell (R94, R211, R302). -/
def reportCell (s : State) (k : Nat) : State :=
  let c := s.cell k
  if c.faults.newBits = 0 ∧ c.spEvents.isEmpty then s
  else
    let s := (List.range 11).foldl (fun s b => if tb c.faults.newBits.toNat b then reportBit s k c b else s) s
    let s := reportScratch s k c
    let s := if inRegions s && residentPoison c then reactivate s else s
    s.modCell k fun x => { x with faults := { x.faults with newBits := 0 }, spEvents := [] }

/-- A record of a router (R255). -/
def routerRecord (s : State) (rk sev code count : Nat) : State :=
  if count = 0 then s
  else
    let cl := ((List.range 72).find? fun c => homeOf c == rk % 72).getD 0
    raiseField s (rk / 72) {
      severity := sev, stroke := BitVec.ofNat 60 (strokeNo s), count := BitVec.ofNat 32 count
      location := locWord s 3 0 0 0 0 cl (rk / 72) code }

/-- Reports of one router (R246, R250, R255, R266, R267, R538). -/
def reportRouter (s : State) (rk : Nat) : State :=
  let r := s.router rk
  if r.evCrc + r.evWeir + r.evDark + r.evDown + r.evNode + r.evClamp = 0 then s
  else
    let s := s.modField (rk / 72) fun fs => { fs with
      linkCrc := satAdd fs.linkCrc r.evCrc, weir := satAdd fs.weir r.evWeir, darkTgt := satAdd fs.darkTgt r.evDark
      linkDown := satAdd fs.linkDown r.evDown, nodeCheck := satAdd fs.nodeCheck r.evNode, clamp := satAdd fs.clamp r.evClamp }
    let s := routerRecord s rk 1 0x85 (r.evCrc + r.evNode)
    let s := routerRecord s rk 2 0x86 (r.evWeir + r.evDark + r.evDown)
    s.modRouter rk fun q => { q with evCrc := 0, evWeir := 0, evDark := 0, evDown := 0, evNode := 0, evClamp := 0 }

/-- The ledger record of a layer; an assay unit reports only layers of the precision table (R364). -/
def ledgerUpdate (s : State) (l : Nat) (g : LedgerRec → LedgerRec) : State :=
  { s with ledger := s.ledger.map fun r => if r.layer = l then g r else r }

/-- Larger of two FP32 deviations, both at least +0 or +infinity (R364). -/
def maxDev (a b : Word) : Word := if a.toNat < b.toNat then b else a

/-- Reports of one site: cistern corrections and poisonings, poisoned weight lines, and a compared sample (R229, R363, R364,
R492). -/
def reportSite (s : State) (k : Nat) : State :=
  let st := s.site k
  if st.evCorr = 0 ∧ st.evPoison = 0 ∧ st.weightPoison.isEmpty ∧ st.report.isNone then s
  else
    let s := countCorrected s (k / 74) st.evCorr
    let s := if st.evPoison = 0 then s else raiseAtSite s k 1 0x82 st.evLine st.evPoison
    let s := st.weightPoison.foldl (fun (s : State) (x : Nat) => askRefill s k x) s
    let s := match st.report with
      | none => s
      | some (l, dev, exc, fault, phys, stroke) =>
        let flag : BitVec 2 := BitVec.ofNat 2 (b2n exc + 2 * b2n fault)
        let old := ((s.ledger.find? fun (r : LedgerRec) => r.layer == l).map fun (r : LedgerRec) => r.flag).getD 0
        let c := s.cell (k * 18 + phys.val)
        let lg := c.active.logical.toNat
        let s := ledgerUpdate s l fun r => { r with
          samples := satAdd r.samples 1, exceeds := satAdd r.exceeds (b2n exc), dmax := maxDev r.dmax dev
          flag := r.flag ||| flag
          stroke := if exc then stroke else r.stroke
          loc := if exc then BitVec.ofNat 32 (k / 74 * 2 ^ 16 + (bf lg 11 8 * 9 + bf lg 15 12) * 16 + cellLogical c) else r.loc }
        let s := if (s.ledger.any fun r => r.layer == l) && old ||| flag != old then raiseAlert s alAssay else s
        if fault then
          raiseField s (k / 74) {
            severity := 2, stroke := stroke
            location := locWord s 4 0 0 0 (cellLogical c) (bf lg 11 8 * 9 + bf lg 15 12) (k / 74) 0x98
            inCell := some (cellAddr (k * 18 + phys.val)) }
        else s
    s.modSite k fun st => { st with evCorr := 0, evPoison := 0, evLine := 0, weightPoison := [], report := none }

/-- Barrier trees on which a member of some cluster arrived and that are not complete: each member that did not arrive is
reported by its field, once (R185, R264). -/
def reportBarriers (s : State) : State :=
  if s.time.barPartial = 0 then s
  else
    let s := (List.range 64).foldl (fun s b =>
      if !tb s.time.barPartial.toNat b then s
      else s.sites.foldl (fun s q =>
        let mask := (tget 0 q.2.active.barriers b).toNat
        if mask = 0 || !fieldRuns s (q.1 / 74) then s
        else (siteServed s q.1).foldl (fun s x =>
          let c := x.2
          if tb mask (cellLogical c) && !(c.bars.any fun y => y.1 == b) then
            let lg := c.active.logical.toNat
            raiseField s (q.1 / 74) {
              severity := 2, stroke := BitVec.ofNat 60 (strokeNo s)
              location := locWord s 4 0 0 0 (cellLogical c) (bf lg 11 8 * 9 + bf lg 15 12) (q.1 / 74) 0x89
              inCell := some (cellAddr x.1), idleCell := c.ranIdle }
          else s) s) s) s
    { s with time := { s.time with barPartial := 0 } }

/-- Every report of the stroke that has ended, and the records into the wafer ring (R211, R486, R489). -/
def takeReports (s : State) : State :=
  let s := s.cells.foldl (fun s q => reportCell s q.1) s
  let s := s.routers.foldl (fun s q => reportRouter s q.1) s
  let s := s.sites.foldl (fun s q => reportSite s q.1) s
  drainQueues (reportBarriers s)

end Sys2Proof.Machine
end

