-- ==== Sys2Proof/Machine/Stroke.lean ====
section
/-! DEFINITION. The start of a working stroke and its call tick (R47, R51, R88 to R91, R185, R263 to R265, R314, R337, R383,
R491, R558). -/

namespace Sys2Proof.Machine

/-- What a channel holds at a latch: valid, more than one publication, value (R89, R91). -/
structure Latched where
  valid    : Bool := false
  conflict : Bool := false
  value    : Nat := 0
deriving DecidableEq, Repr

/-- A follower whose master dispatches (R429). -/
def ledByMaster (s : State) : Bool := s.board.admitted && follows s && boardServes s

/-- What a field latches on a channel: its own publications, and the wafer-wide ones, those of the wafer manager's dispatch
among them, unless its controller refused them (R89, R512); a follower publishes on channels 14 and 15 what its master has
named (R429). -/
def latchChan (s : State) (f ch v14 v15 : Nat) : Latched :=
  let own := tget {} (s.field f).pubs ch
  let wide : Publication := if ch < 12 then {} else tget {} s.wafer ch
  let auto := if s.plan.active.isSome && (ch == 14 || ch == 15) then 1 else 0
  let led := decide (0 < auto) && ledByMaster s
  let v14 := if led then namedValue s 14 else v14
  let v15 := if led then namedValue s 15 else v15
  let from_ := if own.refused then 0 else if led then auto else wide.count + auto
  let n := own.count + from_
  { valid := decide (1 ≤ n), conflict := decide (2 ≤ n)
    value := if 0 < own.count then own.value.toNat else if 0 < auto then (if ch = 14 then v14 else v15) else wide.value.toNat }

/-- The entry a cell runs and the fault bit of its choice (R87, R88, R91). -/
def selectEntry (c : CellState) (chans : List Latched) : Nat × Option Nat :=
  match c.nextSeg with
  | none => (bf c.active.ctrl.toNat 23 16, none)
  | some p =>
    let e := (tget 0 c.active.segtab p).toNat
    let next := bf e 95 88
    if !tb e 87 then (next, none)
    else
      let q := chans.getD (bf e 86 83) {}
      let count := if bf e 82 79 = 0 then 16 else bf e 82 79
      if !q.valid then (next, some fbSelLate)
      else if q.conflict then (next, some fbSelConflict)
      else if count ≤ q.value then (next, some fbSelRange)
      else ((next + q.value) % 256, none)

/-- The layer that the precision table assigns an entry of a cell to, and whether it is the layer's first entry (R277, R355,
R358). -/
def entryLayer (s : State) (k : Nat) (c : CellState) (seg : Nat) : Option (Nat × Bool) :=
  match s.plan.active with
  | none => none
  | some p =>
    let lg := c.active.logical.toNat
    let mine (l : List FormEntry) : List Nat := (l.filter fun e =>
      e.field.val == cellField k && e.place.cl.val == bf lg 11 8 * 9 + bf lg 15 12 && e.place.cell.val == cellLogical c).map (·.entry)
    p.precision.findSome? fun l =>
      let es := mine (if s.plan.recipe.contains l.layer then l.wide else l.narrow)
      if es.contains seg then some (l.layer, es.head? == some seg) else none

/-- A cell begins a working stroke: results due before it are delivered, its entry is chosen, and issue begins; an entry
with VALID = 0 ends it at once (R88, R91, R93, R185, R556). -/
def startCell (s : State) (k : Nat) (c : CellState) (chans : List Latched) (fromIdle : Bool) : CellState :=
  let stroke := strokeNo s
  let (seg, fault) := if fromIdle then (c.active.idle, none) else selectEntry c chans
  let e := (tget 0 c.active.segtab seg).toNat
  let lay := entryLayer s k c seg
  let layer := lay.map (·.1)
  let wlds := match lay with
    | some (l, first) => if first || c.layer != some l then 0 else c.wlds
    | none => c.wlds
  let c := { c with
    seg := seg, task := bf e 126 124, nextSeg := some seg, ranLast := true, ranIdle := decide (seg = c.active.idle)
    issue := .running, pc := bf e 123 112, cycle := 0, loops := [], crc := 0xFFFF, layer := layer, wlds := wlds }
  let c := match fault with
    | some b => { c with faults := captureFault c.faults [(b, 0)] c.task c.pc stroke false (budgetBase s) }
    | none => c
  if tb e 127 then c
  else { c with issue := .ended, faults := captureFault c.faults [(fbNoEnd, 0)] c.task c.pc stroke false (budgetBase s) }

/-- A cell at a stroke start: results of the stroke before are delivered, barrier results enter their registers (R52, R185),
and it begins its segment if it runs one in this stroke. -/
def cellStart (s : State) (go resume : Bool) (chans : List Latched) (k : Nat) (c : CellState) : CellState :=
  let c := if go then settle (fieldIsP (cellField k)) (budgetBase s - 1) (strokeNo s) c else c
  let c := if go then
      c.bars.foldl (fun c b => sSet c b.2 { val := if tb s.time.barResult.toNat b.1 then 1 else 0 }) { c with bars := [] }
    else c
  let c := { c with ranLast := false, ranIdle := false }
  let waits := match s.time.resumeAt with
    | some n => decide (s.time.work < n)
    | none => false
  if go && s.power.ladder == .running && siteRuns s (cellSite k) && cellRuns c && !waits then startCell s k c chans resume
  else if go then { c with issue := .idle } else { c with bars := [] }

/-- The clusters latch their channels; the publications are spent (R89, R99). -/
def latchSite (chans : List Latched) (st : SiteState) : SiteState :=
  { st with
    selValue := BitVec.ofNat 64 (chans.zipIdx.foldl (fun n q => n + (if q.1.valid then q.1.value % 16 else 0) * 16 ^ q.2) 0)
    selValid := BitVec.ofNat 16 (chans.zipIdx.foldl (fun n q => n + b2n q.1.valid * 2 ^ q.2) 0)
    late := false }

/-- A record that stops the data path stands (R51, R496, R500). -/
def pathStops (s : State) : Bool :=
  let fatal (r : ErrRec) : Bool := decide (4 ≤ r.severity)
  s.faults.ring.any fatal || s.faults.handling.any fatal || s.faults.restart || s.faults.waitClear || s.time.timeFault ||
    (match s.board.halted with | some n => decide (n.toNat ≤ strokeNo s) | none => false)

/-- Local tick at which the present working stroke began (R47). -/
def strokeTick (s : State) : Nat :=
  s.time.localTicks.toNat - (boardTime s - (s.time.epochStart + s.time.stroke * s.time.period))

/-- Budget cycle that the stretched clock has reached at the call tick, three ticks before the next stroke (R50, R263). -/
def callCycle (s : State) : Nat := cycleCount s (s.time.period - 3) - s.time.droop

/-- The mesh still owes a cluster a result by a budget time (R51, R263): a unit of a route, a get that is to be read there, a
reduction on its way through its router, or a unit that waits at a cascade port to be injected for it. -/
def netOwes (s : State) (k by_ : Nat) : Bool :=
  let at_ (x y : Nat) : Bool := servedSite s x y == some k
  (s.flits.any fun f =>
    let b := f.bits.toNat
    let r := headRoute (flitHead b)
    match flitKind b with
    | 3 => false
    | 2 => (if f.home then decide (f.due ≤ by_) else decide (f.enter ≤ by_)) && at_ f.x f.y
    | _ => decide (f.due ≤ by_) && !(flitKind b == 0 && tb (flitHead b) 0) && at_ r.dx r.dy) ||
    (s.gets.any fun g => decide (g.time ≤ by_) && at_ g.x g.y) ||
    s.casc.any fun q => q.2.prime == .admitted && q.2.received.any fun u =>
      let e := (tget 0 q.2.table u.rid).toNat
      !u.used && tb e 63 && decide (u.work * 512 + u.dcyc ≤ by_) && at_ (bf e 54 48) (bf e 47 42)

/-- A cluster is not done at the call tick: a running cell has not ended its issue, a result due by budget cycle 511 has not been
delivered, or the stretched clock has not come to the cycle in which a cell issued last or a result is due (R50, R51, R220, R263).
Cells with RUN = 0 count as done. -/
def siteUndone (s : State) (k : Nat) : Bool :=
  let cells := ((List.range 18).map fun p => s.cell (k * 18 + p)).filter cellRuns
  let reach := callCycle s
  let end_ := budgetBase s + 511
  let open_ (c : CellState) : Bool := c.issue == .running ||
    c.pend.any fun q => match q.what with
      | .cisGet _ _ ms => ms.any fun m => !m.landed && decide (m.landAt ≤ end_)
      | _ => false
  let late (c : CellState) : Bool := c.ranLast && decide (reach < 512) && (decide (reach ≤ c.cycle) ||
    c.pend.any fun q => decide (budgetBase s + reach ≤ q.due ∧ q.due ≤ end_))
  (s.site k).late || cells.any open_ || cells.any late || netOwes s k end_ ||
    (fieldRuns s (k / 74) && s.power.ladder == .running && !siteRuns s k && !cells.isEmpty)

/-- Fields whose supply or clock was lost and that are not yet marked: they send no DONE (R51, R268, R470). -/
def lostFields (s : State) : List Nat := (s.fields.filter fun q => q.2.lostStroke.isSome).map (·.1)

/-- Barrier trees: result and partial flag of each (R264). -/
def barrierTrees (s : State) : Nat × Nat :=
  let sites := s.sites.filter fun q => fieldRuns s (q.1 / 74)
  (List.range 64).foldl (fun acc b =>
    let arr := sites.filterMap fun q =>
      let mask := (tget 0 q.2.active.barriers b).toNat
      if mask = 0 then none
      else
        let came := bitsOf 16 fun i => (siteServed s q.1).any fun x => cellLogical x.2 == i && x.2.bars.any fun y => y.1 == b
        some (came &&& mask != 0, came &&& mask == mask)
    let all := arr.all (·.2)
    let any := arr.any (·.1)
    (acc.1 + b2n all * 2 ^ b, acc.2 + b2n (any && !all) * 2 ^ b)) (0, 0)

/-- Selector posts that are bound to have arrived by now (R258): at its field controller before the call tick of the next working
stroke, and of a wafer-wide channel at the wafer manager before that stroke's end. -/
def arrivePosts (s : State) (ended : Bool) : State :=
  { s with posts := s.posts.map fun p =>
      if s.time.work < p.work + 1 then p
      else if ended && decide (12 ≤ p.chan.val) then { p with stage := 2 }
      else if p.stage = 0 then { p with stage := 1 } else p }

/-- The call tick's samples: overrun, the first field that reported, the cluster of it whose cistern was late, whether all of it
lies in lost fields, and the barrier results (R51, R220, R263, R264). -/
def sampleCall (s : State) : State :=
  let s := arrivePosts s false
  let undone := (s.sites.filter fun q => siteUndone s q.1).map (·.1)
  let lost := lostFields s
  let own := undone.filter fun k => !lost.contains (k / 74)
  let bars := barrierTrees s
  let first := (undone.map (· / 74) ++ lost).foldl (fun (m : Option Nat) f => match m with
    | some x => some (min x f)
    | none => some f) none
  { s with time := { s.time with
      called := true, overrun := !undone.isEmpty || !lost.isEmpty, overrunField := first.map fun f => Fin.ofNat 48 f
      overrunCistern := (own.find? fun k => (s.site k).late && first == some (k / 74)).map fun k => siteCluster s k
      supplyLoss := own.isEmpty && !lost.isEmpty
      barResult := BitVec.ofNat 64 bars.1, barPartial := BitVec.ofNat 64 bars.2 } }

/-- CALL_TICK (R263): three ticks before the start of the next stroke every cluster samples DONE and BAR. -/
def execCallTick (s : State) : Host.Outcome State Fault Refusal :=
  if working s && !s.time.called && decide (boardTime s + 3 = s.time.epochStart + (s.time.stroke + 1) * s.time.period) then
    done (sampleCall s)
  else done s

/-- EPOCH in a working stroke: in strokes 4,000 to 4,047 it carries the number of the next epoch, one bit a stroke, the most
significant first, to every field controller that it reaches (R265, R268). -/
def carryEpoch (s : State) : State :=
  if s.time.stroke < 4000 ∨ 4047 < s.time.stroke then s
  else
    let i := s.time.stroke - 4000
    let bit := tb ((s.time.epoch + 1) % 2 ^ 48) (47 - i)
    { s with fields := tmapAll {} (fun f fs =>
        if linksUp s f && !cutOff s f then
          { fs with
            epochBits := (if i = 0 then (0 : BitVec 48) else fs.epochBits <<< 1) ||| (if bit then 1 else 0)
            epochGot := (if i = 0 then 0 else fs.epochGot) + 1 }
        else fs) s.fields }

/-- A field controller's own count disagrees with the whole number that EPOCH has carried to it (R265). -/
def epochDisagrees (s : State) : Bool :=
  s.fields.any fun q => linksUp s q.1 && q.2.epochGot == 48 && q.2.epochBits != BitVec.ofNat 48 (q.2.epochSeen + 1)

/-- A module loses its admission: it primes its links again (R39, R41, R433). -/
def loseAdmission (s : State) : State :=
  { s with
    board := { s.board with
      admitted := false, admitEpoch := none
      admittedMask := if s.board.position = 0 then 1 else s.board.admittedMask }
    casc := tmapAll {} (fun _ c =>
      if c.prime = .untrained then c else { c with prime := .untrained, compactSent := false }) s.casc }

/-- A time fault: a record of code 0x8D at fatal-wafer; the tick count is re-aligned at the next beat, and a follower must be
primed again (R38, R39). -/
def timeFault (s : State) : State :=
  let s := raiseModule s 4 0x8D
  let s := { s with time := { s.time with timeFault := true, realign := true } }
  if s.board.position = 0 then s else loseAdmission s

/-- An overrun of the stroke that has ended withholds this start and is recorded, naming the field and, for a late line, the
cistern's cluster (R220), but for a field's own loss, whose record is 0x8C (R51, R442). -/
def overrunRecord (s : State) : State :=
  if !s.time.overrun || s.time.supplyLoss then s
  else
    let f := match s.time.overrunField with | some f => f.val | none => 0
    match s.time.overrunCistern with
    | some cl => ringPush s {
        severity := 4, stroke := BitVec.ofNat 60 (strokeNo s), location := locWord s 3 0 0 0 0 cl f 0x8B }
    | none => raiseModule s 4 0x8B f 0 (match s.time.overrunField with | some _ => 2 | none => 1)

end Sys2Proof.Machine
end

