-- ==== Sys2Proof/Machine/ActivateOps.lean ====
section
/-! DEFINITION. Activations at a curb stroke: a staged plan (R279, R280, R294, R295), the module's own activations of the
active plan (R296 to R298, R493, R496, R501), recipes (R368), the wakes before them (R446, R448), and the end of the
prologue (R295, R506). -/

namespace Sys2Proof.Machine

/-- Fields a plan needs running on this module (R273 type 8, R287, R448). -/
def usedFields (s : State) (p : Plan) : List Nat :=
  allFields.filter fun f => tb p.onFields.toNat f && !tb (p.holes s).toNat f

/-- Fields that must be woken before a plan takes effect. -/
def sleepers (s : State) (p : Plan) : List Nat :=
  (usedFields s p).filter fun f => !isHole s f && (s.field f).domain != .running

/-- The wakes of an activation begin (R446, R448), unless the flow has stopped (R478); a field that was switched off for heat or
tripped wakes the same way. -/
def beginWakes (s : State) (p : Plan) : State :=
  if s.heat.flowStop then s
  else (sleepers s p).foldl (fun s f => s.modField f fun fs =>
    if fs.wake then fs else { fs with wake := true, wakeStep := 0, wakeAt := s.time.localTicks.toNat }) s

/-- A field's compute stops for heat or because the plan masks it: its slices go to self-refresh, all contents stay
(R266, R287, R449). -/
def coolField (s : State) (f : Nat) : State :=
  let s := makeDark s f
  { s with sites := tmapAll {} (fun k st =>
      if k / 74 = f then
        { st with up := false, cisState := if st.cisState = .ready then .selfRefresh else st.cisState }
      else st) s.sites }

/-- After an activation: the fields the plan treats as holes are masked and dark, the others not (R266, R287, R538). -/
def settleDomains (s : State) (p : Plan) : State :=
  let holes := p.holes s
  allFields.foldl (fun s f =>
    let m := tb holes.toNat f
    let s := if (s.field f).masked = m then s else s.modField f fun fs => { fs with masked := m }
    if !m then s
    else
      match (s.field f).domain with
      | .running => coolField s f
      | .off => s.modField f fun fs => { fs with domain := .dark }
      | _ => s) s

/-- The prologue of an activation begins: the barrier stays closed for PROLOGUE_EPOCHS (R295). -/
def beginPrologue (s : State) (p : Plan) : State :=
  if p.header.prologue = 0 then s
  else
    let s := holdBarrier s .prologue
    { s with plan := { s.plan with prologueEnd := some (s.time.epoch + p.header.prologue) } }

/-- Write the staged copies of a plan under a mapping other than the one in force (R286). -/
def stageUnder (s : State) (am : List Amendment) (p : Plan) (recipe : List Nat) : State :=
  let t := stagePlan { s with faults := { s.faults with applied := am } } p recipe
  { t with faults := s.faults }

/-- The staged copies of a pending plan are written again under its mapping, into the zones that are free now (R286, R288,
R461). -/
def restagePending (s : State) : State :=
  match s.plan.pending, s.plan.stage with
  | some p, some .staged => stageUnder s p.mapped p []
  | _, _ => s

/-- The module runs segments from now on: out of Banked-ready or Poised, the data path running, a halt of the board over; the replica of a
follower tells its master (R428, R430, R459, R520). -/
def runPath (s : State) : State :=
  let s : State := { s with
    power := { s.power with ladder := .running, bankedReady := false, poisedAt := none, leaving := false, idleEpochs := 0 }
    time := { s.time with dataPath := true, resumeAt := none }
    board := { s.board with halted := none } }
  if multiplies s then tellMaster s (.replica true) else s

/-- The marks of the columns of R280. -/
def marksAll : ActMarks := { cache := true, segs := true, assay := true }
def marksNone : ActMarks := { cache := false, segs := false, assay := false }

/-- A boost key leaves the work in progress undisturbed: where the cells do not begin anew, their chains and the working-stroke
count go on (R66, R280). -/
def marksBoost (anew : Bool) : ActMarks := { cache := false, segs := false, assay := false, anew := anew }

/-- A key of the active plan takes effect with the recipe in force (R279, R280). -/
def activateKey (s : State) (key : Nat) (m : ActMarks) : State :=
  match s.plan.active with
  | none => s
  | some p =>
    let p := withKey p key
    let s := activateImages (stagePlan s p s.plan.recipe) m
    let s := { s with plan := { s.plan with active := some p } }
    restagePending (settleDomains s p)

/-- A same-plan layout activation with its prologue (R280, R295); the data path runs again. -/
def activateLayout (s : State) (key : Nat) : State :=
  let s := runPath (activateKey s key marksAll)
  match s.plan.active with
  | some p => beginPrologue s p
  | none => s

/-- The ledger of a plan: one record for each layer of its precision table, all zero (R364). -/
def freshLedger (p : Plan) (recipe : List Nat) : List LedgerRec :=
  p.precision.map fun l => { layer := l.layer, wide := recipe.contains l.layer }

/-- A region of KV pages or token history. -/
def requestRegion (r : RegionRec) : Bool := r.kind == 1 || r.kind == 2

/-- Requests in flight go on under a new plan only with the same KV_LAYOUT and every KV and token-history region inherited: the
new plan places none of its own and takes over each one of the old (R294). -/
def keepsRequests (old new : Plan) : Bool :=
  old.header.kvLayout == new.header.kvLayout &&
    (new.body.regions.all fun r => !requestRegion r || r.place == 2) &&
    old.body.regions.all fun r => !requestRegion r ||
      new.body.regions.any fun n => n.place == 2 && n.tag == r.tag && n.kind == r.kind && n.length == r.length && n.fields == r.fields

/-- Fixed regions of a plan that hold weights or staging equal the provisional ones of the slices (R373, log entry 134). -/
def matchesProvisional (s : State) (p : Plan) : Bool :=
  let fixed (f : Nat) : List (Nat × Nat × Nat) :=
    (p.body.regions.filter fun r => r.place == 0 && tb r.fields.toNat f).map fun r => (r.kind, r.base, r.length)
  let prov (st : SiteState) : List (Nat × Nat × Nat) := (List.range 8).filterMap fun n =>
    let c := (tget 0 st.active.regionCtrl n).toNat
    if tb c 31 then some (bf c 26 24, (tget 0 st.active.regionBase n).toNat, bf c 9 0) else none
  s.sites.all fun q =>
    !q.2.provisional || ((prov q.2).all fun r => (fixed (q.1 / 74)).contains r) &&
      (fixed (q.1 / 74)).all fun r => !(r.1 == 0 || r.1 == 3 || r.1 == 4) || (prov q.2).contains r

/-- The resident set has a plan's weight layout (R294, R373). -/
def layoutFits (s : State) (p : Plan) : Bool :=
  match s.weights.resident with
  | some w => w.layout == p.header.weightLayout && matchesProvisional s p
  | none => false

/-- Modules of the board that take part. -/
def admittedCount (s : State) : Nat := popCount 8 s.board.admittedMask.toNat

/-- A layer's shadow is present in the resident set (R367, R368). -/
def shadowPresent (s : State) (l : Nat) : Bool :=
  match s.weights.resident with
  | some w => w.layers.any fun r => r.layer == l && r.shadow
  | none => false

/-- The pending plan's activation does not take place (R294): the barrier reopens, the plan stays staged. -/
def refuseActivation (s : State) (status : Nat) : State :=
  freeBarrier { s with plan := { s.plan with loadStatus := status } } .activation

/-- Copies that have not begun and whose pages lie in another layout than a plan's lose them: their conversations are stored
without pages (R330, R350). -/
def movesUnder (s : State) (p : Plan) : State :=
  let lost (m : FarMove) : Bool := !m.started && m.layout != p.header.kvLayout
  { s with kv := { s.kv with
    sets := s.kv.sets.filter fun q =>
      !(q.state == .outgoing && s.kv.moves.any fun m => lost m && m.owner == q.owner && m.conv == q.conv)
    moves := s.kv.moves.map fun m => if lost m then { m with pages := false } else m } }

/-- A staged plan becomes active (R280, R293 to R296, R364). -/
def activatePlan (s : State) (p : Plan) (recipe : List Nat) : State :=
  let keep := match s.plan.active with
    | some old => keepsRequests old p
    | none => true
  let s := movesUnder (if keep then s else endAll s stPlanChanged) p
  let s : State := { s with faults := { s.faults with applied := p.mapped } }
  let s := closeWin (activateImages (stagePlan s p recipe) marksAll) 1
  let s := { s with
    plan := { s.plan with
      active := some p, pending := none, stage := none, recipe := recipe, recipeStaged := none, loadStatus := stAccepted
      holeVariant := none, staging := none, prevKey := 0, rotationAt := none, rotationDue := false, rotationRetry := false
      rotationFrom := boardTime s }
    -- activating a new plan restarts the interval: a rotation named before no longer stands (R296)
    own := s.own.filter fun o => o.kind != .rotation
    ledger := freshLedger p recipe
    sites := tmapAll {} (fun _ st => { st with provisional := false }) s.sites
    faults := { s.faults with restart := false, rePlace := false } }
  let s := settleDomains s p
  let s := freeBarrier (freeBarrier (freeBarrier s .activation) .fieldLoss) .rotation
  beginPrologue (runPath s) p

/-- A scheduled plan activation at its curb stroke (R294, R433, R448): a module by itself defers it to the next free epoch while its
wakes are not complete (R56); on a board the master has then moved it before. It may also be refused. -/
def curbActivation (s : State) (v : Event) (recipe : Option (List Nat)) : State :=
  match s.plan.pending with
  | none => freeBarrier s .activation
  | some p =>
    if s.faults.waitClear then refuseActivation s stNotRunning
    else if !layoutFits s p then refuseActivation s stWeightLayout
    else if admittedCount s < p.header.wafers then
      refuseActivation { s with board := { s.board with reason := 6 } } stBoard
    else if !onBoard s && !(sleepers s p).isEmpty then
      let s := beginWakes s p
      { s with events := s.events ++ [{ v with epoch := freeEpoch s (s.time.epoch + 1) }] }
    else activatePlan s p (recipe.getD [])

/-- Hole key of a field of a position (R274, R297). -/
def holeKey (w : BitVec 2) (f : Field) : Nat := 2 ^ 13 + f.val * 2 ^ 7 + w.toNat * 2 ^ 4

/-- The key that an activation of the wafer manager's own runs. -/
def ownKey (s : State) (k : OwnKind) : Nat :=
  let key := match s.plan.active with | some p => p.key.toNat | none => 0
  match k with
  | .reactivate => keyNoBoost key
  | .holeVariant w f => holeKey w f
  | .heatOff w f => holeKey w f
  | .heatReturn .. => keyNoBoost s.plan.prevKey.toNat
  | .rePlace => keyNoBoost key
  | .rotation =>
    match s.plan.active with
    | some p => setBf (keyNoBoost key) 15 14 ((keyRot key + 1) % max 1 p.header.rotations)
    | none => key

/-- Registers, weight slots, tiles and scratchpad of one cell for another (R501). -/
def takeContent (src dst : CellState) : CellState :=
  { dst with
    sreg := src.sreg, vreg := src.vreg, lc := src.lc, ws0 := src.ws0, ws1 := src.ws1, acc := src.acc, kinds := src.kinds
    sp := src.sp, active := { dst.active with segMask := src.active.segMask } }

/-- Old and new physical cell of each logical cell of a field that a re-placement moves. -/
def cellMoves (s t : State) (f : Nat) : List (Nat × Nat) :=
  (List.finRange 72).flatMap fun cl => (List.finRange 16).filterMap fun i =>
    match placeKey s f { cl := cl, cell := i }, placeKey t f { cl := cl, cell := i } with
    | some a, some b => if a ≠ b ∧ cellSite a = cellSite b then some (a, b) else none
    | _, _ => none

/-- Old and new site of each cluster of a field that a re-placement moves. -/
def siteMoves (s t : State) (f : Nat) : List (Nat × Nat) :=
  (List.range 72).filterMap fun h =>
    match clusterSite s s.faults.applied f h, clusterSite t t.faults.applied f h with
    | some a, some b => if a ≠ b then some (f * 74 + a, f * 74 + b) else none
    | _, _ => none

/-- Lines of the resident weights in a slice of a field. -/
def weightLines (s : State) (f : Nat) : List Nat :=
  match s.weights.resident with
  | some w => (w.extents.filter fun x => extentIn x s.board.position.toNat f).flatMap fun x =>
      (List.range x.lines).map (x.master + ·)
  | none => []

/-- The moves of a re-placement (R501): the content of each moved cell but a failed one, whose successor keeps what it holds
(R281), and every shifted slice; a slice that cannot be read is lost, and its weights are to be refilled. -/
def moveContents (s : State) : State :=
  let t := applyDefects s
  let bad (k : Nat) : Bool := tb (siteWord s (knownDefects s) (cellField k) (cellSite k % 74)) (k % 18)
  let cells := allFields.flatMap (cellMoves s t)
  let sites := allFields.flatMap (siteMoves s t)
  let refs := s.weights.refs.map fun r => match sites.find? fun (q : Nat × Nat) => q.1 == r.1 with
    | some q => (q.2, r.2)
    | none => r
  let s := { s with weights := { s.weights with refs := refs } }
  let s' := cells.foldl (fun (u : State) (q : Nat × Nat) => u.modCell q.2 fun c => if bad q.1 then c else takeContent (s.cell q.1) c) s
  sites.foldl (fun (u : State) (q : Nat × Nat) =>
    let st := s.site q.1
    if st.cisState = .ready then u.modSite q.2 fun x => { x with mem := st.mem, linePoison := st.linePoison }
    else
      let u := u.modSite q.2 fun x => { x with mem := [], linePoison := [] }
      { u with weights := { u.weights with
        refills := u.weights.refills ++ (weightLines s (q.2 / 74)).map fun x => (q.2, x) } }) s'

/-- One of the wafer manager's own activations at its curb stroke (R296 to R298, R448, R493, R496, R501, R557). -/
def curbOwn (s : State) (o : OwnEvent) : State :=
  match s.plan.active with
  | none => s
  | some p0 =>
    let key := ownKey s o.kind
    let later (s : State) : State := nameOwn s o.kind (s.time.epoch + 1)
    if s.faults.waitClear || !(s.power.ladder == .running || s.power.ladder == .poised) then s
    else if swapping s && !follows s then later s
    else if !onBoard s && !(sleepers s (withKey p0 key)).isEmpty then later (beginWakes s (withKey p0 key))
    else
      let old := p0.key.toNat
      match o.kind with
      | .reactivate =>
        let s := activateLayout s key
        freeBarrier { s with faults := { s.faults with restart := false } } .reactivation
      | .holeVariant w f =>
        let s := activateLayout s key
        freeBarrier { s with plan := { s.plan with holeVariant := some (w, f), staging := none, prevKey := BitVec.ofNat 16 old } } .fieldLoss
      | .heatOff w f =>
        let s := activateLayout s key
        let s := if w = s.board.position then s.modField f.val fun fs => { fs with offHeat := true, coolRounds := 0, hotEpochs := 0 } else s
        freeBarrier { s with plan := { s.plan with holeVariant := some (w, f), prevKey := BitVec.ofNat 16 old } } .heat
      | .heatReturn w f =>
        let s := activateLayout s key
        let s := if w = s.board.position then s.modField f.val fun fs => { fs with offHeat := false, tripped := false, coolRounds := 0 } else s
        freeBarrier { s with plan := { s.plan with holeVariant := none } } .heat
      | .rePlace =>
        let s := activateLayout (applyDefects (moveContents s)) key
        freeBarrier { s with faults := { s.faults with rePlace := false, restart := false } } .rePlacement
      | .rotation =>
        let s := activateLayout s key
        freeBarrier { s with plan := { s.plan with
          rotationAt := none, rotationDue := false, rotationRetry := false, rotationFrom := boardTime s } } .rotation

/-- A recipe at its curb stroke (R364, R368): it takes effect unless a swap is in progress or a shadow is absent. -/
def curbRecipe (s : State) (layers : List Nat) : State :=
  let s := { s with plan := { s.plan with recipeStaged := none } }
  let s := freeBarrier s .recipe
  if swapping s then { s with plan := { s.plan with loadStatus := stSwap } }
  else if layers.any fun l => !shadowPresent s l then { s with plan := { s.plan with loadStatus := stNoWide } }
  else
    match s.plan.active with
    | none => s
    | some p =>
      let old := s.plan.recipe
      let s := { s with
        plan := { s.plan with recipe := layers }
        ledger := s.ledger.map fun (r : LedgerRec) =>
          if old.contains r.layer = layers.contains r.layer then r
          else { layer := r.layer, wide := layers.contains r.layer, flag := r.flag } }
      activateKey s p.key.toNat marksNone

/-- SHA3-256 over a cell's resident units in ascending order (R506). -/
def residentDigest (c : CellState) : BitVec 256 :=
  sha3_256 ((sortBy (fun a b => decide (a ≤ b)) c.active.resident).flatMap fun u => tgetMany 0 c.sp.bytes (u * 64) 64)

/-- The prologue ends: the barrier reopens, and the digests of resident units are recorded (R295, R506). -/
def endPrologue (s : State) : State :=
  match s.plan.prologueEnd with
  | some e =>
    if e ≤ s.time.epoch then
      let s := freeBarrier { s with plan := { s.plan with prologueEnd := none } } .prologue
      { s with cells := tmapAll {} (fun _ c =>
          if c.active.resident.isEmpty then c else { c with residentRef := some (residentDigest c), matchAt := boardTime s }) s.cells }
    else s
  | none => s

end Sys2Proof.Machine
end

