-- ==== Sys2Proof/Machine/Power.lean ====
section
/-! DEFINITION. Commands of power delivery: converters, fuses, phases, droop, input voltage, samples, wakes and the latch of
the demands at stroke 3,840 (R436 to R457, R463, R472 to R475). -/

namespace Sys2Proof.Machine

/-- Set a bit of PW_ERR_STATUS (R464). -/
def pwErr (s : State) (bit : Nat) : State :=
  { s with power := { s.power with err := s.power.err ||| BitVec.ofNat 7 (2 ^ bit) } }

/-- FUSE_OPEN (R442, R268): the field loses its supply; the fuse stays open. -/
def execFuseOpen (f : Field) (s : State) : Host.Outcome State Fault Refusal :=
  if isHole s f.val then done s
  else
    let s := s.modField f.val fun fs => { fs with fuseOpen := true }
    done (loseSupply (pwErr s 6) f.val)

/-- CONVERTER_FAILURE (R440): the converter disconnects; with both failed the fuse opens. -/
def execConverterFailure (f : Field) (i : Fin 2) (s : State) : Host.Outcome State Fault Refusal :=
  let fs := s.field f.val
  if fs.convBad.contains i.val then done s
  else
    let s := raiseAlert (pwErr (s.setField f.val { fs with convBad := fs.convBad ++ [i.val] }) 2) alPower
    if fs.convBad.isEmpty || isHole s f.val then done s
    else
      let s := s.modField f.val fun fs => { fs with fuseOpen := true }
      done (loseSupply (pwErr s 6) f.val)

/-- AUX_CONVERTER_FAILURE (R441): a second failure is a fatal-wafer error and forces Dry. -/
def execAuxConverterFailure (i : Fin 4) (s : State) : Host.Outcome State Fault Refusal :=
  if s.power.auxBad.contains i.val then done s
  else
    let again := !s.power.auxBad.isEmpty
    let s := { s with power := { s.power with auxBad := s.power.auxBad ++ [i.val] } }
    let s := raiseAlert (pwErr s 3) alPower
    if again then done (forceLadder (raiseModule s 4 0x96 (detail := i.val)) enterDry) else done s

/-- A phase of a site fails and is disconnected; two VLOGIC or both VARRAY phases take the site dark, and without VARRAY its
scratchpads are lost (R443). -/
def failPhase (s : State) (k : Nat) (array : Bool) (i : Nat) : State :=
  let st := s.site k
  if (if array then st.varrayBad else st.vlogicBad).contains i then s
  else
    let st := if array then { st with varrayBad := st.varrayBad ++ [i] } else { st with vlogicBad := st.vlogicBad ++ [i] }
    let dark := decide (2 ≤ st.vlogicBad.length ∨ 2 ≤ st.varrayBad.length)
    let s := s.setSite k { st with dark := st.dark || dark }
    let s := s.modField (k / 74) fun fs => { fs with phaseFails := satAdd fs.phaseFails 1 }
    let s := pwErr s 1
    if st.varrayBad.length = 2 then
      { s with cells := tmapAll {} (fun ck c => if cellSite ck = k then { c with sp := {} } else c) s.cells }
    else s

/-- PHASE_FAILURE (R443, R444). -/
def execPhaseFailure (site : SiteAddr) (array : Bool) (i : Fin 4) (s : State) : Host.Outcome State Fault Refusal :=
  if array && decide (2 ≤ i.val) then done s else done (failPhase s (siteKey site) array i.val)

/-- The working phases whose share deviates by more than 25 % from the mean of the working phases (R444). -/
def phaseOutliers (bad : List Nat) (amps : List Nat) : List Nat :=
  let live := amps.zipIdx.filter fun q => !bad.contains q.2
  let n := live.length
  let sum := live.foldl (fun t q => t + q.1) 0
  (live.filter fun q => decide (sum < 4 * dist (n * q.1) sum)).map (·.2)

/-- PHASE_SHARE_TEST (R444): a phase whose share deviates by more than 25 % has failed. -/
def execPhaseShareTest (site : SiteAddr) (logic : List Nat) (array : List Nat) (s : State) :
    Host.Outcome State Fault Refusal :=
  let k := siteKey site
  let st := s.site k
  let s := (phaseOutliers st.vlogicBad (logic.take 4)).foldl (fun s i => failPhase s k false i) s
  done ((phaseOutliers st.varrayBad (array.take 2)).foldl (fun s i => failPhase s k true i) s)

/-- DROOP_STRETCH (R50, R237): one cycle is stretched everywhere; the slack of the stroke shrinks by it. -/
def execDroopStretch (site : SiteAddr) (s : State) : Host.Outcome State Fault Refusal :=
  if siteRuns s (siteKey site) then done { s with time := { s.time with droop := s.time.droop + 1 } } else done s

/-- INPUT_VOLTAGE_EXCURSION (R463): below 46 V or above 58 V for 20 µs every converter stops and VAON is lost. -/
def execInputVoltageExcursion (centivolts : BitVec 16) (ticks : Nat) (s : State) : Host.Outcome State Fault Refusal :=
  let v := centivolts.toNat
  let s := { s with power := { s.power with busCv := centivolts } }
  if 4800 ≤ v ∧ v ≤ 5600 then done s
  else if (v < 4600 ∨ 5800 < v) ∧ 2000 ≤ ticks then done (vaonLost s)
  else done (raiseAlert (pwErr s 4) alPower)

/-- Sum of a list. -/
def sumNat (l : List Nat) : Nat := l.foldl (· + ·) 0

/-- The floor F at the clock in force (R450). -/
def floorNow (s : State) : Nat := if s.time.clock = .boost then s.power.floorBoost else s.power.floorBase

/-- POWER_SAMPLE (R450), once in 1,000 ticks: input watts of the two converters of every field, of the auxiliary converters, and IR-MAIN amperes
in units of 0.25 A; the samples of strokes 0 to 3,839 enter the epoch's means. -/
def execPowerSample (main : List (Nat × Nat)) (aux : List Nat) (amps : List Nat) (s : State) :
    Host.Outcome State Fault Refusal :=
  let total := sumNat (main.map fun q => q.1 + q.2) + sumNat aux
  let counts := decide (s.time.stroke < 3840)
  let now := s.time.localTicks.toNat / 1000
  if s.power.sampleAt == some now then done s
  else
  let s := { s with
    power := { s.power with
      lastSample := total, sampleAt := some now
      noDraw := s.power.noDraw && decide (s.power.cap.toNat ≤ total)
      sum := if counts then s.power.sum + total else s.power.sum
      count := if counts then s.power.count + 1 else s.power.count }
    fields := allFields.foldl (fun t f => tmod {} t f fun fs =>
      let q := main.getD f (0, 0)
      { fs with
        lastBranch := q.1 + q.2
        powerSum := if counts then fs.powerSum + q.1 + q.2 else fs.powerSum
        ampSum := if counts then fs.ampSum + amps.getD f 0 else fs.ampSum }) s.fields }
  match s.power.ladder, s.power.poisedAt with
  | .poised, some t =>
    if t + 1000000 ≤ boardTime s ∧ s.power.floorLoad = 0 then
      if s.time.clock = .boost then done { s with power := { s.power with floorBoost := total } }
      else done { s with power := { s.power with floorBase := total } }
    else done s
  | _, _ => done s

/-- The other field of a branch (R439). -/
def branchMate (f : Nat) : Nat := if f / 8 % 2 = 0 then f + 8 else f - 8

/-- The sites of a wake step: a cluster row, and with row 7 the spare sites (R446). -/
def wakeRow (y : Nat) : List Nat := if y = 7 then (List.range 11).map (63 + ·) else (List.range 9).map (9 * y + ·)

/-- WAKE_STEP (R446, R447): a ramp of 1,024 ticks ends and the next begins: the whole row if the branch's headroom covers it, else as
many sites as it covers; below 16.7 W it waits. The slices leave self-refresh in the first step (R233). -/
def execWakeStep (f : Field) (s : State) : Host.Outcome State Fault Refusal :=
  let fs := s.field f.val
  if !fs.wake || decide (s.time.localTicks.toNat < fs.wakeAt + 1024) then done s
  else
    let head := 1600 - (fs.lastBranch + (s.field (branchMate f.val)).lastBranch)
    let left := (wakeRow fs.wakeStep).filter fun i => !(s.site (f.val * 74 + i)).up && !(s.site (f.val * 74 + i)).dark
    let all := decide ((if fs.wakeStep = 7 then 184 else 150) ≤ head)
    let n := if all then left.length else min left.length (head * 10 / 167)
    let narrow := !all && decide (0 < left.length)
    let fs := if narrow then { fs with spreads := satAdd fs.spreads 1 } else fs
    if narrow && n = 0 then done (s.setField f.val fs)
    else
      let fs := { fs with wakeAt := s.time.localTicks.toNat }
      let s := (left.take n).foldl (fun s i => s.modSite (f.val * 74 + i) fun st => { st with up := true }) s
      let s := if fs.wakeStep = 0 then
          { s with sites := tmapAll {} (fun k st =>
              if k / 74 = f.val ∧ st.cisState = .selfRefresh then
                { st with cisState := .ready, refreshCount := st.refreshCount + 3 }
              else st) s.sites }
        else s
      if n < left.length then done (s.setField f.val fs)
      else if fs.wakeStep < 7 then done (s.setField f.val { fs with wakeStep := fs.wakeStep + 1 })
      else
        done (s.setField f.val { fs with
          wake := false, wakeStep := 0, domain := .running
          epochSeen := if fs.domain = .running ∨ fs.domain = .dark then fs.epochSeen else s.time.epoch })

/-- The capping demand of R451 from the period, the base period, whether one is in force, F, U, and the mean as a sum over a
count; 0 is no demand. -/
def cappingDemand (p base : Nat) (inForce : Bool) (f u sum n : Nat) : Nat :=
  let m := sum - f * n
  let demand :=
    if u ≤ f then 65
    else if u * n < sum then ceilDiv (p * m) ((u - f) * n)
    else if 20 * sum ≤ 19 * u * n then
      if 19 * u ≤ 20 * f then p - 2 else max (ceilDiv (20 * p * m) ((19 * u - 20 * f) * n)) (p - 2)
    else p
  if demand ≤ base ∨ (inForce = false ∧ sum ≤ u * n) then 0 else demand

/-- The epoch means latched within the last 10,000,000 ticks (R456). -/
def recentMeans (s : State) : List Nat :=
  (s.power.means.filter fun q => decide (boardTime s ≤ q.2 + 10000000)).map (·.1)

/-- Base period of R58 (PW_CTRL.BASE_PERIOD). -/
def basePeriod (s : State) : Nat := bf s.power.ctrl.toNat 23 16

/-- The thermal demand latched for the next epoch, and the end of enforcement, judged without the fields that are off for heat or
tripped (R473 to R475). -/
def thermalLatch (s : State) : State :=
  let h := s.heat
  if !h.enforce || !(s.power.ladder == .running || s.power.ladder == .poised) then s
  else
    let fs := (s.fields.map (·.2)).filter fun q => !q.offHeat && !q.tripped
    let atLimit := fs.any fun q => decide (760 ≤ q.tL ∨ 680 ≤ q.tD)
    let anyOver := fs.any (·.hot)
    let d := if h.firstEnforce then s.time.period + 4
      else if atLimit then h.demand + 4
      else if anyOver then h.demand
      else h.demand - 2
    let d := if h.flowWarn then max d (if h.flow = 0 then 65 else ceilDiv 4608 h.flow) else d
    if d ≤ basePeriod s ∧ anyOver = false ∧ h.flowWarn = false then
      { s with heat := { h with demand := 0, enforce := false, req := false, firstEnforce := false } }
    else { s with heat := { h with demand := d, firstEnforce := false } }

/-- A plan has a hole variant for a field at a position, and runs none already (R276, R299). -/
def hasHoleVariant (s : State) (w : BitVec 2) (f : Nat) : Bool :=
  match s.plan.active with
  | some p => tb (p.header.holeVariants.getD w.toNat 0).toNat f && !keyHole p.key.toNat
  | none => false

/-- Epoch in which an activation that follows the table of R296 takes effect, b + d + 1: on a board b is at least 4 epochs
ahead (R296, R298). -/
def heatEpoch (s : State) : Nat := s.time.epoch + (if onBoard s then 4 else 1) + drainEpochs s + 1

/-- A field that must stay off is switched off for heat through its hole variant, the hottest first, one at a time (R298,
R475). -/
def heatOff (s : State) : State :=
  let s := { s with fields := tmapAll {} (fun _ fs =>
      { fs with hotEpochs := if 64 < s.heat.demand ∧ (760 ≤ fs.tL ∨ 680 ≤ fs.tD) then fs.hotEpochs + 1 else 0 }) s.fields }
  let must := s.fields.filter fun q => decide (16 ≤ q.2.hotEpochs) && q.2.domain == .running
  match must.foldl (fun (b : Option (Nat × FieldState)) q =>
      match b with
      | some c => if max c.2.tL c.2.tD < max q.2.tL q.2.tD then some q else b
      | none => some q) none with
  | some (f, _) =>
    if hasHoleVariant s s.board.position f && decide (s.plan.heatRetryAt ≤ boardTime s) &&
        !(s.own.any fun o => match o.kind with | .heatOff .. => true | _ => false) then
      nameOwn s (.heatOff s.board.position (Fin.ofNat 48 f)) (heatEpoch s)
    else s
  | none => s

/-- Floor load holds the fall of power to PW_RAMP (R457). -/
def adjustFloor (s : State) (m : Nat) : State :=
  let p := s.power
  let means := recentMeans s
  let stop := !tb p.ctrl.toNat 1 || !tb p.ctrl.toNat 2 || decide (0 < s.heat.demandInForce) || s.heat.req || s.heat.flowWarn ||
    !(p.ladder == .running || p.ladder == .poised) || means.isEmpty
  if stop then { s with power := { p with floorLoad := 0 } }
  else
    let level := means.foldl max 0 - p.ramp.toNat
    let need := level - (m - p.floorLoad)
    let s := { s with power := { p with floorLoad := min need 5500 } }
    if 5500 < need then pwErr s 5 else s

/-- The latch of this epoch has been taken: a mean stands whose time is not before stroke 3,840 (R58, R59). -/
def latchedNow (s : State) : Bool :=
  s.power.means.any fun q => decide (s.time.epochStart + 3840 * s.time.period ≤ q.2)

/-- CAPPING_LATCH (R451 to R457, R473): at stroke 3,840 the epoch mean is formed, the capping, field and thermal demands are
latched, and floor load is adjusted. -/
def execCappingLatch (s : State) : Host.Outcome State Fault Refusal :=
  if !(s.time.running && s.time.stroke == 3840) || latchedNow s then done s
  else
    let p := s.power
    let n := p.count
    let m := if n = 0 then p.lastM else p.sum / n
    let f := floorNow s
    let means := recentMeans s
    let low := match means with
      | [] => f
      | x :: xs => xs.foldl min x
    let u := if tb p.ctrl.toNat 1 then min p.cap.toNat (low + p.ramp.toNat) else p.cap.toNat
    let inForce := decide (0 < p.demandInForce)
    let d := if n = 0 then 0 else cappingDemand s.time.period (basePeriod s) inForce f u p.sum n
    let fd := (s.fields.filter fun q => q.2.convBad.length == 1).foldl (fun d q =>
      if n = 0 then d
      else max d (cappingDemand s.time.period (basePeriod s) inForce f (324 * 48) (48 * q.2.powerSum) n)) 0
    let s := adjustFloor s m
    let s := { s with
      power := { s.power with
        lastM := m, demand := max d fd, fieldDemand := decide (d < fd), sum := 0, count := 0
        means := s.power.means.filter (fun q => decide (boardTime s ≤ q.2 + 10000000)) ++ [(m, boardTime s)] }
      fields := tmapAll {} (fun _ fs =>
        { fs with amps := BitVec.ofNat 12 (if n = 0 then 0 else fs.ampSum / n), powerSum := 0, ampSum := 0 }) s.fields }
    done (heatOff (thermalLatch s))

end Sys2Proof.Machine
end

