-- ==== Sys2Proof/Machine/Recovery.lean ====
section
/-! DEFINITION. What follows an error record: classification of its element (R499, R500), defect-map amendments (R503), the
loss of a field with and without a hole variant (R297, R299, R495) and the fatal-wafer restart (R496 to R498). -/

namespace Sys2Proof.Machine

/-- Requests of a replica's chunks (true) or steps that were in progress in a stroke. -/
def jobAt (s : State) (w : Nat) (p : Bool) (stroke : Nat) : List Nat :=
  ((jobsOf s w p).filter fun j => decide (j.stroke ≤ stroke) && match j.lastNo with
    | some n => decide (stroke < n)
    | none => true).flatMap (·.reqs)

/-- The requests with work in progress in a stroke on either kind of field of a replica end (R494). -/
def endStroke (s : State) (w : Nat) (onP onD : Bool) (stroke : Nat) : State :=
  let ids := (if onP then jobAt s w true stroke else []) ++ if onD then jobAt s w false stroke else []
  endWhere s (fun i _ => ids.contains i) stDataError

/-- A module stops: every request in flight ends, in multiply mode those of its replica, and a follower tells its master so (R430, R496). -/
def stopReplica (s : State) : State :=
  if multiplies s && s.board.position = 0 then endReplica s 0 stWaferFault
  else
    let s := endAll s stWaferFault
    if multiplies s then tellMaster s (.replica false) else s

/-- The pending plan is discarded (R293, R297, R496, R501). -/
def discardPending (s : State) (status : Nat) : State :=
  match s.plan.pending, s.plan.stage with
  | none, none => s
  | _, _ =>
    let s := closeWin (dropStaged { s with plan := { s.plan with pending := none, stage := none, loadStatus := status } }) 1
    freeBarrier { s with casc := tmapAll {} (fun _ c => { c with tableStaged := [] }) s.casc } .activation

/-- An element that a record is located in (R499). -/
inductive Element where
  | cell (k : Nat)
  | site (k : Nat)
  | router (k : Nat)
deriving DecidableEq, Repr

/-- The element of a record; `none` where it names no cell, site, router or slice. -/
def recElement (s : State) (r : ErrRec) : Option Element :=
  match r.inCell with
  | some c => some (.cell (cellKey c))
  | none =>
    if bf r.location.toNat 58 56 = 3 then
      let n := r.location.toNat
      let f := recField r
      let home := homeOf (bf n 23 20 * 9 + bf n 19 16)
      if recCause r = 0x85 ∨ recCause r = 0x86 then some (.router (f * 72 + home))
      else (clusterSite s s.faults.applied f home).map fun i => .site (f * 74 + i)
    else none

/-- Number of an element in the count of transients. -/
def elementKey : Element → Nat
  | .cell k => k
  | .site k => 100000 + k
  | .router k => 200000 + k

/-- Field of an element. -/
def elementField : Element → Nat
  | .cell k => cellField k
  | .site k => k / 74
  | .router k => k / 72

/-- The defect map in its amended form already marks an element. -/
def elementBad (s : State) : Element → Bool
  | .cell k => tb (siteWord s (knownDefects s) (cellField k) (cellSite k % 74)) (k % 18)
  | .site k => siteBad s (knownDefects s) (k / 74) (k % 74)
  | .router k => tb (siteWord s (knownDefects s) (k / 72) (k % 72)) 21

/-- The kernel that the test pack in force assigns to the code and cause of a record (R499, R508). -/
def kernelFor (s : State) (r : ErrRec) : Option Nat :=
  match s.faults.pack with
  | some p => (p.table.find? fun q => q.1 == recCause r && q.2.1 == r.cause).map fun q => q.2.2
  | none => none

/-- An amendment, or a withdrawal where the 16 slots are used or the compatibility mode is in force (R503, R504). -/
def amend (s : State) (kind f index phys code : Nat) : State :=
  let a : Amendment := {
    kind := kind, field := Fin.ofNat 48 f, index := index, phys := phys, time := boardTime s, code := code }
  if s.mgmt.compat || decide (16 ≤ s.otp.amendments.length) then
    { s with faults := { s.faults with withdrawals := s.faults.withdrawals ++ [a] } }
  else { s with otp := { s.otp with amendments := s.otp.amendments ++ [a] } }

/-- A permanent finding (R500, R501): the amendment; a pending plan is discarded; a finding on a site stops a data path that
runs and ends every request; a field that the map no longer maps is lost (R26). -/
def permanent (s : State) (el : Element) (code : Nat) : State :=
  let s := discardPending s stDiscarded
  let s := match el with
    | .cell k =>
      let s := amend s 1 (cellField k) (cellSite k % 74) (k % 18) code
      { s.modCell k fun c => { c with held := true } with faults := { s.faults with rePlace := s.plan.active.isSome } }
    | .site k =>
      let s := amend s 2 (k / 74) (k % 74) 0 code
      let s := { s with faults := { s.faults with rePlace := s.plan.active.isSome } }
      if s.time.dataPath && !s.faults.restart then
        let s := stopReplica (stopDataPath s)
        { s with faults := { s.faults with restart := s.plan.active.isSome } }
      else s
    | .router k => amend s 3 (k / 72) (k % 72) 0 code
  if fieldUnmapped s (knownDefects s) (elementField el) then loseSupply s (elementField el) else s

/-- A transient event is counted; the third of an element within 24 h is permanent (R500). -/
def transient (s : State) (el : Element) (code : Nat) : State :=
  let t := boardTime s
  let near := s.faults.transients.filter fun (q : Nat × Nat) => decide (t < q.2 + 8640000000000)
  let s := { s with faults := { s.faults with transients := near ++ [(elementKey el, t)] } }
  if 3 ≤ (s.faults.transients.filter fun (q : Nat × Nat) => q.1 == elementKey el).length then permanent s el code else s

/-- Events named up to and including the curb stroke of a reactivation are settled (R497). -/
def settleRestart (s : State) (e : Nat) : State :=
  let near (v : Event) : Bool := decide (v.epoch ≤ e)
  let acts := s.events.filter fun v => near v && (match v.kind with | .activation _ => true | _ => false)
  let gone (v : Event) : Bool := near v && match v.kind with
    | .activation _ | .recipe _ | .swap => true
    | .install => acts.any fun a => a.epoch == v.epoch
    | _ => false
  let cancelled := s.events.any fun v => near v && match v.kind with
    | .recipe _ | .swap => true
    | _ => false
  let inst := s.events.any fun v => gone v && (v.kind == .install)
  let rot := s.own.any fun o => o.kind == .rotation && decide (o.epoch ≤ e)
  let s := { s with
    events := s.events.filter fun v => !gone v
    own := s.own.filter fun o => !(o.kind == .rotation && decide (o.epoch ≤ e))
    plan := { s.plan with
      rotationDue := s.plan.rotationDue || rot, rotationAt := if rot then none else s.plan.rotationAt
      loadStatus := if !acts.isEmpty then stDiscarded else if cancelled then stNotRunning else s.plan.loadStatus } }
  let s := if inst then freeBarrier s .install else s
  let s := if rot then freeBarrier s .rotation else s
  freeBarrier (freeBarrier s .activation) .recipe

/-- The restart names its reactivation, at least 4 epochs ahead, once nothing is left to classify and no host clear is awaited;
with a re-placement due, that activation takes its place (R496, R498, R501). With no plan active there is nothing to
reactivate; a follower asks its master for the epoch. -/
def nameRestart (s : State) : State :=
  if !s.faults.restart || s.faults.waitClear || s.faults.handling.isSome || s.faults.rePlace ||
      !(s.power.ladder == .running || s.power.ladder == .poised) then s
  else if s.plan.active.isNone then { s with faults := { s.faults with restart := false } }
  else if s.own.any fun o => o.kind == .reactivate || o.kind == .rePlace then s
  else if follows s then holdBarrier (nameOwn s .reactivate 0) .reactivation
  else
    let e := freeEpoch s (s.time.epoch + 4)
    let s := settleRestart s e
    holdBarrier (nameOwn s .reactivate e) .reactivation

/-- The handling of a record ends (R489). -/
def endHandling (s : State) : State := nameRestart { s with faults := { s.faults with handling := none } }

/-- Cells held for a classification run again, but for those that the amended map marks (R499, R501). -/
def freeCells (s : State) : State :=
  { s with cells := tmapAll {} (fun k c => if c.held && !elementBad s (.cell k) then { c with held := false } else c) s.cells }

/-- A classification window ends at the first curb stroke after its run, or after 4 epochs; an event whose run has not come by
then counts as transient (R499, log entry 17). -/
def closeWindow (s : State) : State :=
  match s.faults.window with
  | none => s
  | some e =>
    if s.faults.handling.isSome && decide (s.time.epoch < e + 4) then s
    else
      let s := match s.faults.handling with
        | some r => match recElement s r with
          | some el => transient s el (recCause r)
          | none => s
        | none => s
      endHandling (freeCells { s with faults := { s.faults with window := none } })

/-- Cells that a proof window proves: those that run (R509). -/
def provenSince (s : State) (t : Nat) : Bool :=
  s.cells.all fun q => !cellRuns q.2 || (match q.2.proofAt with | some u => decide (t ≤ u) | none => false)

/-- A proof window ends when every cell has passed a run, or after 64 epochs (R509). -/
def closeProof (s : State) : State :=
  match s.faults.proofFrom with
  | some e =>
    if s.time.epoch ≥ e + 64 ∨ provenSince s s.faults.proofStart then
      { s with faults := { s.faults with proofFrom := none } }
    else s
  | none => s

/-- The plan has a hole variant for a field of a position and no other loss is being dealt with (R276, R297, R299). -/
def variantFor (s : State) (w : BitVec 2) (f : Nat) : Bool :=
  hasHoleVariant s w f &&
    (match s.plan.staging with
      | some (.holeVariant v g) => v == w && g.val == f
      | _ => true) &&
    !(s.own.any fun o => match o.kind with
      | .holeVariant v g => !(v == w && g.val == f)
      | _ => false)

/-- A field is put dark at once: its clusters stop and it counts as lost (R470, R495). -/
def fieldDark (s : State) (f : Nat) : State :=
  if isHole s f then s
  else (coolField s f).modField f fun fs => { fs with lostStroke := some (BitVec.ofNat 60 (strokeNo s)) }

/-- A loss without a hole variant: every request ends and the data path stays stopped (R299). -/
def noVariant (s : State) : State :=
  let s := stopReplica (stopDataPath s)
  { s with plan := { s.plan with loadStatus := stNoHoleVariant, staging := none } }

/-- The log entry of a record takes the handle of the first request that it ended and its kernel number (R488, R499). -/
def logFix (s : State) (old new : ErrRec) : State :=
  { s with faults := { s.faults with log := s.faults.log.map fun q =>
      if q.2.1 = 1 ∧ q.2.2 = recWords old then (q.1, 1, recWords new) else q } }

end Sys2Proof.Machine
end

