-- ==== Sys2Proof/Machine/Priming.lean ====
section
/-! DEFINITION. The quads of the cascade ports (R420, R424) and the priming of their links: compacts, their rows and the curb stroke at
which the outcome is applied (R431 to R434). -/

namespace Sys2Proof.Machine

/-- Router of a quad (R420). -/
def quadXY (port q : Nat) : Nat × Nat :=
  let x := [11, 15, 20, 24, 47, 51, 56, 60].getD q 0
  let y := [17, 19, 21, 23, 25, 27, 29, 31].getD q 0
  match port with
  | 0 => (x, 47)
  | 1 => (71, y)
  | 2 => (x, 0)
  | _ => (0, y)

/-- Field a quad attaches to. -/
def quadField (port q : Nat) : Nat := fieldAtXY (quadXY port q).1 (quadXY port q).2

/-- A quad may train: its port and the quad are enabled, its field carries it, the links are up (R420, R435, R458). -/
def quadMay (s : State) (p q : Nat) : Bool :=
  let c := (s.cascPort p).ctrl.toNat
  s.mgmt.ready && s.power.ladder != .dry && s.mgmt.hold != 4 && tb c 0 && tb c (8 + q) && !isHole s (quadField p q)

/-- A quad carries flits: it is up, and its field is no hole (R36, R267, R420). -/
def quadCarries (s : State) (p q : Nat) : Bool := (tget {} (s.cascPort p).quads q).up && !isHole s (quadField p q)

/-- Some quad of a port carries flits. -/
def portUp (s : State) (p : Nat) : Bool := (List.range 8).any (quadCarries s p)

def modQuad (s : State) (p q : Nat) (g : QuadState → QuadState) : State :=
  s.modCasc p fun c => { c with quads := tmod {} c.quads q g }

/-- Set bits of CK_ERR_STATUS of a port. -/
def ckErr (s : State) (p bit : Nat) : State :=
  s.modCasc p fun c => { c with errStatus := c.errStatus ||| BitVec.ofNat 6 (2 ^ bit) }

/-- A quad goes down (R424): LOCK_LOST; with the port admitted and a widen or deepen plan active it is fatal-wafer, code 0x92; a
port with no quad up is untrained. -/
def quadDown (s : State) (p q : Nat) : State :=
  let adm := (s.cascPort p).prime == .admitted
  let s := ckErr (modQuad s p q fun x => { x with up := false, expect := 0, replays := 0 }) p 1
  let s := s.modCasc p fun c =>
    if (quadsUp c).isEmpty then { c with prime := .untrained, compactSent := false, received := [], kept := [] }
    else { c with received := c.received.filter fun u => u.quad != q }
  if adm && boardRuns s then raiseModule s 4 0x92 (detail := p * 8 + q) else s

/-- A commit that takes the enable of a port or of a quad takes down the quads that were up by it (R420, R435). -/
def dropDisabled (s : State) (p : Nat) : State :=
  let c := (s.cascPort p).ctrl.toNat
  (List.range 8).foldl (fun s q =>
    if (tget {} (s.cascPort p).quads q).up && !(tb c 0 && tb c (8 + q)) then quadDown s p q else s) s

/-- A compact (R431). -/
def compactBytes (s : State) : Bytes :=
  let digest := match s.plan.active with | some p => p.header.digest.toNat | none => 0
  let setId := match s.weights.resident with | some w => w.setId.toNat | none => 0
  let version := match s.weights.resident with | some w => w.version.toNat | none => 0
  let layout := match s.weights.resident with | some w => w.layout.toNat | none => 0
  let b := leBytes 1 s.board.position.toNat ++ leBytes 1 1 ++ leBytes 1 1 ++ leBytes 1 1 ++ leBytes 4 s.mgmt.gen ++
    leBytes 8 (boardTime s) ++ leBytes 8 s.time.epoch ++ leBytes 8 s.time.epochStart ++ leBytes 1 s.time.period ++
    leBytes 1 (b2n s.board.admitted) ++ leBytes 2 0 ++
    ((List.range 4).flatMap fun c => leBytes 4 (s.fw.inForce.getD c {}).version.toNat) ++ leBytes 4 0xA1 ++
    leBytes 32 digest ++ leBytes 8 setId ++ leBytes 4 version ++ leBytes 32 layout ++ leBytes 24 0
  b ++ leBytes 4 (crc32c b)

/-- CRC and FORMAT of a compact are right (R432). -/
def compactOk (b : Bytes) : Bool :=
  b.length == 160 && fieldAt b 1 1 == 1 && crc32c (bytesAt b 0 156) == fieldAt b 156 4

/-- The firmware versions of a compact lie in the compatibility table of the images in force (R433, R532). -/
def compactFw (s : State) (b : Bytes) : Bool :=
  (List.range 4).all fun c =>
    let v := BitVec.ofNat 32 (fieldAt b (36 + 4 * c) 4)
    s.fw.inForce.all fun i => match i.compat[c]? with
      | some r => decide (r.1.toNat ≤ v.toNat ∧ v.toNat ≤ r.2.toNat)
      | none => true

/-- Settings, latency class and ISA level agree (R433): the classes and levels of a partner hold those of the active plan. -/
def compactConfig (s : State) (b : Bytes) : Bool :=
  fieldAt b 4 4 == s.mgmt.gen &&
    match s.plan.active with
    | some p => tb (fieldAt b 2 1) (p.header.latClass - 1) && tb (fieldAt b 3 1) (p.header.isaLevel - 1)
    | none => true

/-- Plan, set, version and layout are those of a compact (R433). -/
def compactSame (s : State) (b : Bytes) : Bool := bytesAt b 56 76 == bytesAt (compactBytes s) 56 76

/-- Board time of the module at its last aligned beat (R432). -/
def beatTime (s : State) : Int := ((s.time.localTicks.toNat / 100 * 100 : Nat) : Int) + s.time.trim

/-- A link settles as not admitted, with the reason of CK_BOARD (R433, R435). -/
def notAdmitted (s : State) (p reason : Nat) : State :=
  { s.modCasc p fun c => { c with prime := .notAdmitted } with board := { s.board with reason := reason } }

/-- A link primes again (R433). -/
def primeAgain (s : State) (p : Nat) (v : Prime) : State := s.modCasc p fun c => { c with prime := v, compactSent := false }

/-- The follower's rows on time (R433), for the difference of the two board times at beat B: it takes the master's time; or a difference
of up to 2 ticks as a trim; or it is fenced. The flag says that it goes on to the rows that follow. -/
def followTime (s : State) (p : Nat) (b : Bytes) (diff : Int) : State × Bool :=
  if !s.board.admitted then
    ({ s with
      time := { s.time with
        trim := s.time.trim + diff, established := true, running := true, epoch := fieldAt b 16 8, epochStart := fieldAt b 24 8
        period := fieldAt b 32 1, stroke := 4095, inStroke := false }
      fields := tmapAll {} (fun _ fs => { fs with epochSeen := fieldAt b 16 8 }) s.fields }, true)
  else if diff.natAbs ≤ 2 then ({ s with board := { s.board with alignAdd := diff } }, true)
  else
    (primeAgain { stopDataPath s with
      time := { (stopDataPath s).time with realign := true }
      board := { s.board with admitted := false, admitEpoch := none } } p .fenced, false)

/-- The rows of R433 on a follower. -/
def followCompact (s : State) (p : Nat) (b : Bytes) (diff : Int) : State :=
  if !compactConfig s b then notAdmitted s p 3
  else if !compactFw s b then notAdmitted s p 4
  else
    let q := followTime s p b diff
    if !q.2 then q.1
    else if !compactSame q.1 b then primeAgain q.1 p .reloading
    else q.1

/-- The same rows as the master sees them of a follower; it names the epoch of an admission, at least 4 ahead (R432, R433). -/
def leadCompact (s : State) (p : Nat) (b : Bytes) (diff : Int) : State :=
  if !compactConfig s b then notAdmitted s p 3
  else if !compactFw s b then notAdmitted s p 4
  else if fieldAt b 33 1 = 1 ∧ 2 < diff.natAbs then
    primeAgain { s with board := { s.board with
      admittedMask := s.board.admittedMask &&& ~~~BitVec.ofNat 8 (2 ^ fieldAt b 0 1) } } p .fenced
  else if !compactSame s b then primeAgain s p .reloading
  else
    let e := s.time.epoch + 4
    sendVc { s with board := { s.board with admitEpoch := some e } }
      { src := 0, dst := BitVec.ofNat 2 (fieldAt b 0 1), content := .epochName 0 [] (BitVec.ofNat 48 e) }

/-- The outcome of a compact on a link (R433): the master's rows, or the follower's for a compact of its master or of an admitted
module. -/
def judgeCompact (s : State) (p : Nat) (b : Bytes) (diff : Int) : State :=
  if s.board.position = 0 then leadCompact s p b diff
  else if fieldAt b 0 1 = 0 ∨ fieldAt b 33 1 = 1 then followCompact s p b diff
  else primeAgain s p .priming

/-- A module whose strokes run and that is no stranger to the board's time applies the outcome at its next curb stroke; any other at
once, since it takes its strokes from it (R432, R433). -/
def holdsVerdict (s : State) : Bool := s.time.running && (s.board.position == 0 || s.board.admitted)

/-- The outcomes of priming that wait are applied at a curb stroke (R432). -/
def applyVerdicts (s : State) : State :=
  s.casc.foldl (fun s q =>
    match q.2.verdict with
    | some v =>
      let s := s.modCasc q.1 fun c => { c with verdict := none }
      if q.2.prime = .priming then judgeCompact s q.1 v.1 v.2 else s
    | none => s) s

end Sys2Proof.Machine
end

