-- ==== Sys2Proof/Machine/Curb.lean ====
section
/-! DEFINITION. The curb stroke: the epoch begins, and the scheduled events take effect in the order of R54 (R44, R47, R54 to
R64, R294 to R298, R309, R368, R380, R384, R432, R448, R459, R460, R508, R509, R525, R534). -/

namespace Sys2Proof.Machine

/-- The trim named for the epoch that begins, and a follower's alignment, as a trim (R44, R433): a positive one steps board
time forward at once, a negative one holds it. -/
def applyTrim (s : State) : State :=
  let mine := s.time.trims.filter fun q => q.1 == s.time.epoch
  let t := mine.foldl (fun n q => n + q.2) 0 + s.board.alignAdd
  { s with
    time := { s.time with
      trims := s.time.trims.filter fun q => decide (s.time.epoch < q.1)
      trim := if 0 < t then s.time.trim + t else s.time.trim
      hold := if t < 0 then s.time.hold + t.natAbs else s.time.hold }
    board := { s.board with alignAdd := 0 } }

/-- The ramp bound and the cap (R451, R456). -/
def upperBound (s : State) : Nat :=
  let low := match recentMeans s with
    | [] => floorNow s
    | x :: xs => xs.foldl min x
  if tb s.power.ctrl.toNat 1 then min s.power.cap.toNat (low + s.power.ramp.toNat) else s.power.cap.toNat

/-- Power headroom for boost (R454). -/
def boostHeadroom (s : State) : Bool :=
  let last := (s.power.means.drop (s.power.means.length - 8)).map (·.1)
  decide (8 ≤ last.length) && (last.all fun m => decide (m + s.power.margin.toNat ≤ upperBound s)) &&
    s.fields.all fun q => decide (q.2.amps.toNat ≤ 1200)

/-- The conditions under which the module may be in boost in epoch e: mode, plan, base period, demands and headroom is judged apart
(R62 to R64). DESIGN CHOICE (log entry 119): an activation, of the host's or of the wafer manager's own, that is due at this curb
stroke, and a restart, prevent boost or end it. -/
def boostMay (s : State) (e : Nat) : Bool :=
  !tb s.power.ctrl.toNat 0 && (match s.plan.active with | some p => p.header.boost | none => false) && basePeriod s == 30 &&
    decide (s.power.demand ≤ 32 ∧ s.heat.demand ≤ 32 ∧ s.board.demandIn ≤ 32) &&
    !(s.events.any fun v => decide (v.epoch ≤ e) && (match v.kind with | .activation _ => true | _ => false)) &&
    !(s.own.any fun o => decide (o.epoch ≤ e)) && !s.faults.restart

/-- This module's headroom for boost; a request to cut admission and a flow warning forbid entry too (R454, R472). -/
def boostRoom (s : State) : Bool := boostHeadroom s && !s.heat.req && !s.heat.flowWarn

/-- The step of boost of epoch e: entry and exit take two curb strokes each (R62, R63). DESIGN CHOICE (log entry 119): headroom is
tested when boost is selected, and not again at the second curb stroke of the entry or in boost. -/
def boostNext (s : State) (e : Nat) : BoostStep :=
  match s.time.boost with
  | .none => if boostMay s e && boostRoom s && !s.board.noBoost then .entering else .none
  | .entering => if boostMay s e then .inBoost else .none
  | .inBoost => if boostMay s e then .inBoost else .leaving
  | .leaving => .none

/-- The period of an epoch: the largest demand, at most 64 (R58, R60, R61). DESIGN CHOICE (log entry 120): the plan floor is that of
the plan that is active before the curb stroke, since the period is set at row 2 of R54 and a plan takes effect at row 7: the floor
of a plan activated there counts from the next epoch. -/
def epochPeriod (s : State) (boost : Bool) : Nat :=
  let plan := match s.plan.active with
    | some p => if boost then 30 else p.header.periodFloor
    | none => 0
  min 64 ([if boost then 30 else 32, plan, basePeriod s, s.power.demand, s.heat.demand, s.board.demandIn].foldl max 0)

/-- Period and boost of epoch e as this module decides them. With work in progress a change of boost lets the chains of the cells go
on (R66, log entry 119). -/
def decidePeriod (s : State) (e : Nat) : PeriodName :=
  let b := boostNext s e
  { epoch := e, period := epochPeriod s (b == .inBoost), boost := b, anew := (boardJobs s).isEmpty }

/-- Period and boost of the epoch that begins: what the master named, on the master itself too; a follower that was told nothing
goes on as it is (R61). -/
def periodNow (s : State) : PeriodName :=
  let still : PeriodName := { epoch := s.time.epoch, period := s.time.period, boost := s.time.boost }
  match s.board.named with
  | some n => if n.epoch = s.time.epoch then n else if follows s then still else decidePeriod s s.time.epoch
  | none => if follows s then still else decidePeriod s s.time.epoch

/-- A field's VLOGIC step of 5 mV, the only step at its curb stroke (R438, R526). -/
def vlogicStep (s : State) : State :=
  match s.fields.find? fun q => q.2.v1Call && decide (q.2.v1 < 740) with
  | some (f, _) => s.modField f fun fs => { fs with v1 := fs.v1 + 5, v1Steps := fs.v1Steps + 1, v1Call := false }
  | none => s

/-- Clock, VLOGIC and timing variant follow the step of boost; without one a VLOGIC step may be taken (R62, R63, R438). -/
def applyBoost (s : State) (n : PeriodName) : State :=
  let old := s.time.boost
  let key := match s.plan.active with | some p => p.key.toNat | none => 0
  let fast := n.boost == .inBoost
  let t := { s with time := { s.time with
    boost := n.boost, boostVolts := n.boost != .none, clock := if fast then .boost else .base } }
  if fast && old != .inBoost then activateKey t (setBf key 6 6 1) (marksBoost n.anew)
  else if !fast && old == .inBoost then activateKey t (keyNoBoost key) (marksBoost n.anew)
  else if n.boost == .none && old == .none then vlogicStep t
  else t

/-- Clock and period: the demands latched in the epoch before come into force (R58, R59, R61, R457). A capping demand above 64
stops draws (R60). -/
def setPeriod (s : State) : State :=
  let n := periodNow s
  let s := { s with
    -- floor load stops while a thermal demand is in force (R457)
    power := { s.power with
      demandInForce := s.power.demand, floorLoad := if 0 < s.heat.demand then 0 else s.power.floorLoad
      noDraw := s.power.noDraw || decide (64 < s.power.demand) }
    heat := { s.heat with demandInForce := s.heat.demand } }
  let s := applyBoost s n
  { s with
    time := { s.time with period := min 64 n.period }
    board := { s.board with demandOld := s.board.demandIn, demandIn := 0, noBoost := false, asleep := false, named := none } }

/-- Fields that an activation due at epoch e needs still sleep (R448). -/
def asleepFor (s : State) (e : Nat) : Bool :=
  (s.events.any fun v => v.epoch == e && match v.kind, s.plan.pending with
    | .activation _, some p => !(sleepers s p).isEmpty
    | _, _ => false) ||
    s.own.any fun o => o.epoch == e && match s.plan.active with
      | some p => !(sleepers s (withKey p (ownKey s o.kind))).isEmpty
      | none => false

/-- A follower's demand, headroom and wakes reach the master before it names the next epoch (R61, R62, R448, log entry 121). -/
def boardReport (s : State) : State :=
  tellMaster s (.demand (max s.power.demand s.heat.demand) (boostRoom s) (!asleepFor s (s.time.epoch + 1)))

/-- A scheduled event moves to another epoch on the whole board: the new name takes the place of the old (R54, R448). -/
def moveEvent (s : State) (v : Event) (e : Nat) : State :=
  boardTell { s with events := s.events.map fun x => if x == v then { x with epoch := e } else x }
    (.epochName (eventCode v.kind).1 (eventCode v.kind).2 (BitVec.ofNat 48 e))

/-- An activation, or the install that it names. -/
def activates (v : Event) : Bool :=
  match v.kind with
  | .activation _ | .install => true
  | _ => false

/-- A master moves what cannot take effect at the next curb stroke (R448, R557): an activation for which a field of the board still
sleeps, with the install that it names, and one of the wafer manager's own, which a weight swap makes wait too. -/
def boardDefer (s : State) : State :=
  let e := s.time.epoch + 1
  let slow := s.board.asleep || asleepFor s e
  let own := s.own.filter fun o => o.epoch == e && (slow || swapping s)
  let s := own.foldl (fun s o => moveOwn s o (e + 1)) s
  let acts := s.events.filter fun v => v.epoch == e && activates v
  if slow && acts.any (fun v => v.kind != .install) then
    let next := freeEpoch s (e + 1)
    acts.foldl (fun s v => moveEvent s v next) s
  else s

/-- The master names the period, the clock and the step of boost of the next epoch to its followers (R61, log entry 121). -/
def boardDecide (s : State) : State :=
  let s := boardDefer s
  let n := decidePeriod s (s.time.epoch + 1)
  let step : Nat := match n.boost with
    | .none => 0
    | .entering => 1
    | .inBoost => 2
    | .leaving => 3
  boardTell { s with board := { s.board with named := some n } } (.period n.period step n.anew (BitVec.ofNat 48 n.epoch))

/-- What the modules of a board tell each other in an epoch's last strokes (R61, R448). -/
def boardTalk (s : State) : State :=
  if s.time.stroke = 3968 then boardReport s
  else if s.time.stroke = 4032 ∧ onBoard s ∧ s.board.position = 0 then boardDecide s
  else s

/-- The input barrier closes for the events ahead, and their wakes and install copies begin (R294, R296, R298, R309, R368,
R380, R448); after an abandoned activation it reopens. The wakes are row 10 of R54. -/
def approach (s : State) : State :=
  let e := s.time.epoch
  let d := drainEpochs s
  let i := s.weights.installEpochs
  let heats (o : OwnEvent) : Bool := match o.kind with
    | .heatOff .. | .heatReturn .. => true
    | _ => false
  let s := if s.own.any fun o => o.kind == .rotation then s else freeBarrier s .rotation
  let s := if s.own.any heats then s else freeBarrier s .heat
  let s := s.events.foldl (fun s v =>
    match v.kind with
    | .activation _ =>
      let s := if v.epoch ≤ e + d + 1 then holdBarrier s .activation else s
      if v.epoch = e + 1 then (match s.plan.pending with | some p => wakeSegments (beginWakes s p) s | none => s) else s
    | .recipe _ => if v.epoch ≤ e + d + 1 then holdBarrier s .recipe else s
    | .install =>
      let s := if v.epoch ≤ e + d + i + 1 then holdBarrier s .install else s
      if v.epoch ≤ e + i ∧ s.weights.state = some .staged then startInstall s else s
    | _ => s) s
  s.own.foldl (fun s o =>
    let near := decide (o.epoch ≤ e + d + 1)
    let s := match o.kind with
      | .rotation => if near then holdBarrier s .rotation else s
      | .heatOff .. | .heatReturn .. => if near then holdBarrier s .heat else s
      | _ => s
    if o.epoch = e + 1 then
      (match s.plan.active with
        | some p =>
          let p := withKey p (ownKey s o.kind)
          wakeSegments (beginWakes s p) (stagePlan s p s.plan.recipe)
        | none => s)
    else s) s

/-- A new ROTATE_H restarts the interval of rotation: one that was named no longer stands (R296). -/
def restartRotation (s : State) : State :=
  let s := (s.own.filter fun o => o.kind == .rotation).foldl unnameOwn s
  freeBarrier { s with plan := { s.plan with
    rotationFrom := boardTime s, rotationDue := false, rotationAt := none, rotationRetry := false } } .rotation

/-- A register takes its staged value at the commit (R525), but for the W1C bits, which `commitClears` has cleared; a new ROTATE_H
restarts the interval of rotation (R296), a commit that sets the rings their counters (R398), one of EP_SVC_QP the service's
place. -/
def commitWrite (s : State) (q : BitVec 64 × BitVec 64) : State :=
  let a := regAddr q.1
  let old := bf s.mgmt.wmCtrl.toNat 23 16
  let s := writeCl (writeWo s a q.2.toNat) a q.2.toNat
  let s : State := if a.block = 5 ∧ (a.off = 0x100 ∨ a.off = 0x108 ∨ a.off = 0x110 ∨ a.off = 0x11C) then
      { s with serve := { s.serve with reqTaken := 0, cqMade := 0, cqSeen := 0 } }
    else if a.block = 5 ∧ a.off = 0x120 then { s with serve := { s.serve with useAlt := false, drawFails := 0 } }
    else if a.block = 5 ∧ a.off = 0x004 ∧ tb q.2.toNat 0 = false ∧ (s.port a.port).link = true then portDown s a.port
    else if a.block = 5 ∧ a.off = 0x004 ∧ tb q.2.toNat 5 = false then
      releaseHeld (s.modPort a.port fun p => { p with paused := 0 }) a.port
    else if a.block = 6 ∧ a.off = 0x004 then dropDisabled s a.port
    else s
  if bf s.mgmt.wmCtrl.toNat 23 16 = old then s else restartRotation s

/-- A transaction takes effect at its curb stroke: staged, and on a board with the master's go (R525). -/
def commitGoes (s : State) (txn : BitVec 16) : Bool :=
  s.txn.id == txn && s.txn.state == .staged && !(s.txn.board && onBoard s && s.txn.decided != some true)

/-- The W1C bits that the commits of epoch e clear. They are cleared before anything else that the curb stroke does, so that a bit
which hardware sets in it reads 1 afterwards (R11). -/
def commitClears (s : State) (e : Nat) : State :=
  let due := s.events.any fun v => decide (v.epoch ≤ e) && match v.kind with
    | .commit t => commitGoes s t
    | _ => false
  if due then s.txn.writes.foldl (fun s q => writeW1c s (regAddr q.1) q.2.toNat) s else s

/-- A configuration commit at its curb stroke (R525). -/
def curbCommit (s : State) (txn : BitVec 16) : State :=
  if s.txn.id ≠ txn then s
  else if !commitGoes s txn then abortTxn s stStageFailed
  else
    let s := s.txn.writes.foldl commitWrite s
    { s with txn := { s.txn with state := .committed, status := stAccepted, writes := [] } }

/-- A firmware activation at its curb stroke: every READY class switches, the banks change over, draws and dispatch pause for
the epoch (R534). -/
def curbFirmware (s : State) : State :=
  let fw := s.fw
  let new := (List.range 4).map fun c => (tget none fw.ready c).getD (fw.inForce.getD c {})
  { s with fw := { fw with
    inForce := new, previous := some fw.inForce, ready := [], pending := 0, bankB := !fw.bankB, status := stAccepted
    activated := some s.time.epoch, pauseEpoch := some s.time.epoch } }

/-- A revert of firmware falls due at this curb stroke (R534). -/
def revertFirmware (s : State) : State :=
  if !s.fw.revert then s
  else
    match s.fw.previous with
    | some old =>
      raiseAlert { s with fw := { s.fw with
        inForce := old, previous := none, activated := none, bankB := !s.fw.bankB, revert := false
        status := stActivation } } alFirmware
    | none => { s with fw := { s.fw with revert := false } }

/-- An accepted test pack replaces the one in force (R508). -/
def replacePack (s : State) : State :=
  match s.faults.packNext with
  | some (p, d) => { s with faults := { s.faults with pack := some p, packDigest := d, packNext := none } }
  | none => s

/-- An install at its curb stroke: the set becomes resident once its copy is complete (R380), and waits with the activation that
names it while the wakes of that are not complete (R448). -/
def curbInstall (s : State) (v : Event) : State :=
  match s.weights.loading with
  | some w =>
    if s.weights.state = some .installing ∧ installPending s = false ∧ (!onBoard s && asleepFor s v.epoch) = false then freeBarrier (becomeResident s w) .install
    else { s with events := s.events ++ [{ v with epoch := s.time.epoch + 1 }] }
  | none => freeBarrier s .install

/-- A swap start at its curb stroke (R384). -/
def curbSwap (s : State) : State := if s.weights.state = some .staged then startSwap s else s

/-- The request for a lower state takes effect only with an empty request table, and once floor load is 0 (R460, R559); a follower
enters when its master has entered (R458). -/
def curbLadder (s : State) (v : Event) (target : Nat) : State :=
  if follows s then s
  else if !tableEmpty s then { s with power := { s.power with outcome := 2 } }
  else if s.power.floorLoad ≠ 0 then { s with events := s.events ++ [{ v with epoch := s.time.epoch + 1 }] }
  else enterLower (boardTell s (.ladder target)) target

/-- After POISE_EPOCHS idle epochs the module enters Poised, a follower when its master does (R458, R459). -/
def autoPoise (s : State) : State :=
  let idle := !s.power.workInEpoch && tableEmpty s && (boardJobs s).isEmpty && s.plan.active.isSome && s.time.dataPath &&
    s.plan.prologueEnd.isNone
  let n := if idle then s.power.idleEpochs + 1 else 0
  let s := { s with power := { s.power with idleEpochs := n, workInEpoch := false } }
  if tb s.power.ctrl.toNat 3 && s.power.ladder == .running && idle && !follows s &&
      decide (max 1 (bf s.power.ctrl.toNat 15 8) ≤ n) then
    enterPoised (boardTell s (.ladder 0))
  else s

/-- A follower is admitted at the epoch its master named; its links carry every virtual channel, and it leaves the Poised in which
it waited for its master (R419, R432). The master counts the partners of its links. -/
def admitBoard (s : State) : State :=
  if s.board.admitEpoch = some s.time.epoch then
    let now := s.casc.filter fun q => q.2.prime == .priming
    let mask := if s.board.position = 0 then
        now.foldl (fun (m : BitVec 8) q => m ||| BitVec.ofNat 8 (2 ^ q.2.partner.toNat)) s.board.admittedMask
      else BitVec.ofNat 8 (1 + 2 ^ s.board.position.toNat)
    { s with
      board := { s.board with
        admitEpoch := none, admittedMask := mask, reason := 0
        admitted := s.board.admitted || decide (s.board.position ≠ 0) }
      casc := tmapAll {} (fun _ c => if c.prime = .priming then { c with prime := .admitted } else c) s.casc
      power := { s.power with
        leaving := s.power.leaving || (s.power.ladder == .poised && decide (s.board.position ≠ 0)) } }
  else s

/-- What the wafer manager can observe of the environment that R486 asks for: input voltage (R463), coolant (R465), and the clock and
beat. -/
def environmentOk (s : State) : Bool :=
  let v := s.power.busCv.toNat
  decide (4800 ≤ v ∧ v ≤ 5600 ∧ 144 ≤ s.heat.flow ∧ 160 ≤ s.heat.inlet ∧ s.heat.inlet ≤ 320) && !s.time.refLost && !s.time.timeFault

/-- Every condition of R510 that the wafer manager can observe holds. -/
def boundHolds (s : State) : Bool :=
  let t := boardTime s
  let used := s.cells.filter fun q => tb q.2.active.logical.toNat 31
  environmentOk s && (used.all fun q => tb q.2.active.ctrl.toNat 1 &&
      (match q.2.proofAt with | some u => decide (t ≤ u + 360000000000) | none => false)) &&
    (used.all fun q =>
      let a := (s.site (cellSite q.1)).assayCtrl.toNat
      tb a 4 && decide (bf a 3 0 ≤ 12)) &&
    decide (bf s.mgmt.wmCtrl.toNat 15 8 ≤ 10) && !s.weights.passLate && s.faults.withdrawals.isEmpty

/-- WM_STATUS.SEB, and the alert when it falls (R510, R537). -/
def setBound (s : State) : State :=
  let b := boundHolds s
  let s' := { s with mgmt := { s.mgmt with seb := b } }
  if s.mgmt.seb && !b then raiseAlert s' alSeb else s'

/-- One scheduled event of the epoch, in the place that R54 gives its kind. -/
def curbEvent (s : State) (v : Event) : State :=
  match v.kind with
  | .commit t => curbCommit s t
  | .firmware => curbFirmware s
  | .testPack => replacePack s
  | .install => curbInstall s v
  | .activation r => curbActivation s v r
  | .recipe l => curbRecipe s l
  | .swap => curbSwap s
  | .proof => { s with faults := { s.faults with proofFrom := some s.time.epoch, proofStart := boardTime s } }
  | .ladder t => curbLadder s v t

/-- Place of an event in the table of R54. -/
def eventRank : EventKind → Nat
  | .commit _ => 3
  | .firmware => 4
  | .testPack => 5
  | .install => 6
  | .activation _ => 7
  | .recipe _ => 7
  | .swap => 9
  | .proof => 11
  | .ladder _ => 12

/-- Events of one place that stand for this epoch take effect. -/
def runEvents (s : State) (rank : Nat) : State :=
  let due (v : Event) : Bool := decide (v.epoch ≤ s.time.epoch) && eventRank v.kind == rank
  let now := s.events.filter due
  now.foldl curbEvent { s with events := s.events.filter fun v => !due v }

/-- The wafer manager's own activations that stand for this epoch, rotations or the others. -/
def runOwn (s : State) (rotation : Bool) : State :=
  let due (o : OwnEvent) : Bool := decide (o.epoch ≤ s.time.epoch) && ((o.kind == .rotation) == rotation)
  let now := s.own.filter due
  now.foldl curbOwn { s with own := s.own.filter fun o => !due o }

/-- The events of R54 in the order of its table. -/
def curbEvents (s : State) : State :=
  let s := setPeriod (applyTrim s)
  let s := runEvents s 3
  let s := revertFirmware (runEvents s 4)
  let s := replacePack (runEvents s 5)
  let s := runEvents s 6
  let s := runOwn (runEvents s 7) false
  let s := runOwn s true
  let s := approach (runEvents s 9)
  let s := runEvents s 11
  runEvents s 12

/-- CURB_STROKE (R44, R47, R54): stroke 0 of the next epoch begins once board time has reached S(e + 1). Reports of the
stroke before are taken, no cell issues, and the scheduled events take effect. -/
def execCurbStroke (s : State) : Host.Outcome State Fault Refusal :=
  if !s.time.running || decide (s.time.stroke < 4095) ||
      decide (boardTime s < s.time.epochStart + 4096 * s.time.period) then done s
  else
    let s := commitClears s (s.time.epoch + 1)
    let s := if working s && !s.time.called then sampleCall s else s
    let s := takeReports (overrunRecord s)
    let s := if pathStops s || s.time.overrun then stopDataPath s else s
    let s := { s with
      time := { s.time with
        curbTick := s.time.localTicks.toNat - (boardTime s - (s.time.epochStart + 4096 * s.time.period))
        stroke := 0, epoch := s.time.epoch + 1, epochStart := s.time.epochStart + 4096 * s.time.period, inStroke := false
        droop := 0, called := false, overrun := false }
      fields := tmapAll {} (fun f fs => if linksUp s f then { fs with epochSeen := fs.epochSeen + 1 } else fs) s.fields }
    let s := closeProof (closeWindow s)
    let s := applyVerdicts (autoPoise (admitBoard (endPrologue s)))
    done (setBound (curbEvents s))

end Sys2Proof.Machine
end

