-- ==== Sys2Proof/Machine/Assay.lean ====
section
/-! DEFINITION. The precision assay: the wide recomputation of a sampled tree, its comparison and its end (R357 to R363). -/

namespace Sys2Proof.Machine

/-- Magnitude of an exact value. -/
def fabs (v : FVal) : FVal := if fsign v then fneg v else v

/-- x > y for exact finite values. -/
def fgt (x y : FVal) : Bool :=
  match fadd x (fneg y) with
  | .fin m _ => decide (0 < m)
  | _ => false

/-- Magnitude m * 2^e as an FP32 pattern, rounded up; `sticky` says that the exact value lies above (R361). -/
def f32MagUp (m : Nat) (e : Int) (sticky : Bool) : Nat :=
  if m = 0 then b2n sticky
  else
    let top : Int := bitLen m - 1 + e
    let q := max (top - 23) (-149)
    if 128 ≤ top then 0x7F800000
    else
      let d := if q ≤ e then m * 2 ^ (e - q).toNat else m / 2 ^ (q - e).toNat
      let rest := decide (e < q) && decide (m % 2 ^ (q - e).toNat ≠ 0)
      min 0x7F800000 ((q + 149).toNat * 2 ^ 23 + d + b2n (rest || sticky))

/-- x / y rounded up to FP32, for x at least 0 and y above 0. -/
def ratioUp (x y : FVal) : Nat :=
  match x, y with
  | .fin m e, .fin n g =>
    let num := m.natAbs * 2 ^ 600
    f32MagUp (num / n.natAbs) (e - g - 600) (decide (num % n.natAbs ≠ 0))
  | _, _ => 0

/-- One element of a float tree compared (R361): whether it exceeds, and its deviation. -/
def compareElem (t n a w : Nat) : Bool × Nat :=
  let x := f32Dec a
  let y := f32Dec w
  let inf (v : FVal) : Bool := v == .inf false || v == .inf true
  if x == .nan || y == .nan then (if x == y then (false, 0) else (true, 0x7F800000))
  else if inf x || inf y then (if x == y then (false, 0) else (true, 0x7F800000))
  else
    let d := fabs (fadd x (fneg y))
    let m := if fgt (f32Dec n) (fabs y) then f32Dec n else fabs y
    (fgt d (fmul (f32Dec t) m), ratioUp d m)

/-- The precision record of a sample's layer. -/
def sampleLayer (s : State) (m : SampleRec) : Option LayerRec :=
  match s.plan.active with
  | some p => p.precision.find? fun l => l.layer == m.layer
  | none => none

/-- The shadow that a layer names for a cell, taken for a layer whose form in force is narrow (R358). -/
def sampleShadow (s : State) (k : Nat) (m : SampleRec) : Option (ShadowRec × BitVec 3) :=
  let lg := (s.cell k).active.logical.toNat
  match sampleLayer s m with
  | some l =>
    if m.wide then none
    else (l.shadow.find? fun r => r.field.val == cellField k && r.place.cl.val == bf lg 11 8 * 9 + bf lg 15 12 &&
      r.place.cell.val == cellLogical (s.cell k)).map fun r => (r, l.wideFmt)
  | none => none

/-- The lines of the shadow block of the k-th wld of a layer (R106, R358). -/
def shadowLines (p : Bool) (cbase : Nat) (r : ShadowRec) (fmt : BitVec 3) (wld : Nat) : List Nat :=
  let n := (rowBytes fmt.toNat (cellKb p) (cellRows p) + 63) / 64
  (List.range n).map fun i => cbase + r.line + wld * r.stride + i

/-- Bytes of a line as a sample's reads brought it. -/
def lineOf (m : SampleRec) (x : Nat) : Bytes := match m.read.find? fun q => q.1 == x with | some q => q.2.1 | none => []

/-- Wide weights of a sample's leaves: format and block bytes (R358). -/
def wideWeights (p : Bool) (cbase : Nat) (sh : Option (ShadowRec × BitVec 3)) (m : SampleRec) : List (BitVec 3 × Bytes) :=
  m.leaves.map fun l =>
    match sh with
    | none => (l.fw, l.w)
    | some (r, fmt) => (fmt, (shadowLines p cbase r fmt l.wld).flatMap (lineOf m))

/-- A read of a shadow block. -/
def isShadow (t : Transfer) : Bool := match t with
  | .shadow .. => true
  | _ => false

/-- The sample of a site has drained: the shadow blocks of its leaves are asked for, each once, as background reads (R358, R359). -/
def askShadow (s : State) (sk : Nat) : State :=
  match (s.site sk).sampling with
  | none => s
  | some ph =>
    let k := sk * 18 + ph.val
    match (s.cell k).sample with
    | none => s
    | some m =>
      match sampleShadow s k m with
      | none => s
      | some (r, fmt) =>
        if m.drained.isNone || m.asked then s
        else
          let p := fieldIsP (cellField k)
          let first (wld : Nat) : Nat := (taskRegs (s.cell k) m.task).cbase + r.line + wld * r.stride
          let n := (rowBytes fmt.toNat (cellKb p) (cellRows p) + 63) / 64
          let s := s.modCell k fun c => { c with sample := some { m with asked := true } }
          s.modSite sk fun st => { st with
            transfers := st.transfers ++ ((m.leaves.map (·.wld)).eraseDups.map fun w => .shadow (first w) n) }

/-- At a stroke start every sample that has drained asks for its shadow blocks (R359). -/
def askShadows (s : State) : State := s.sites.foldl (fun s q => askShadow s q.1) s

/-- The wide result of row r of a float tree by the reference algorithm, as FP32 (R360). -/
def wideRow (p : Bool) (m : SampleRec) (ws : List (BitVec 3 × Bytes)) (r : Nat) : Nat :=
  let e : AccElem := (m.leaves.zip ws).foldl (fun e (l, w) =>
    (List.range (cellKb p)).foldl (fun e k =>
      (insertLeaf false true e { val := BitVec.ofNat 40 (leafBits false true w.1.toNat l.fa.toNat
        (rowBlock w.1.toNat (cellKb p) (cellRows p) w.2 r k) (rowBlock l.fa.toNat (cellKb p) 1 l.a 0 k)) }).1) e) {}
  (storeRoot false ((collapseElem false true e).1.rootWord 0 0)).1

/-- The exact integer sum of row r of an integer tree, as acc.st would write it (R121, R360). -/
def exactRow (p : Bool) (m : SampleRec) (r : Nat) : Nat :=
  let sum : Int := m.leaves.foldl (fun n l => (List.range (cellKb p)).foldl (fun n k =>
    n + leafInt l.fw.toNat l.fa.toNat (rowBlock l.fw.toNat (cellKb p) (cellRows p) l.w r k)
      (rowBlock l.fa.toNat (cellKb p) 1 l.a 0 k)) n) 0
  ofI32 (clampI32 sum)

/-- The values that the engine drained, as acc.st would write them (R116, R121, R361, R362). -/
def drainedRow (int : Bool) (d : PA40) : Nat := (storeRoot int d.val.toNat).1

/-- A sample's comparison (R361, R362): exceeds, assay fault, deviation; the spec states no deviation for an integer tree, and
an unequal one has a free value (log entry 5). -/
def compareSample (p : Bool) (l : LayerRec) (ws : List (BitVec 3 × Bytes)) (used : Bool) (free : Word) (m : SampleRec)
    (drained : List PA40) : Bool × Bool × Nat :=
  if m.leaves.any (·.int) then
    let bad := drained.zipIdx.any fun (d, r) => drainedRow true d != exactRow p m r
    (bad, bad, if bad then free.toNat else 0)
  else
    let rows := drained.zipIdx.map fun (d, r) => (drainedRow false d, wideRow p m ws r)
    let cs := rows.map fun q => compareElem l.t.toNat l.n.toNat q.1 q.2
    let fault := used && (m.leaves.all (·.ref)) && rows.any fun q => q.1 != q.2
    (fault || cs.any (·.1), fault, cs.foldl (fun n c => max n c.2) 0)

/-- A sample ends without a comparison (R359, R362). -/
def abandonSample (s : State) (sk k : Nat) (layer : Nat) : State :=
  let s := (s.modSite sk fun st => { st with
    sampling := none, transfers := st.transfers.filter fun x => !isShadow x }).modCell k fun c => { c with sample := none }
  ledgerUpdate s layer fun r => { r with abandoned := satAdd r.abandoned 1 }

/-- WIDE_RECOMPUTE (R357 to R363): a sampled tree has drained and its shadow blocks are read; the sample is recomputed and compared, or
abandoned where anything it captured or read is poisoned. -/
def execWideRecompute (site : SiteAddr) (s : State) : Host.Outcome State Fault Refusal :=
  let sk := siteKey site
  let st := s.site sk
  match st.sampling with
  | none => done s
  | some ph =>
    let k := sk * 18 + ph.val
    let c := s.cell k
    let p := fieldIsP (cellField k)
    match c.sample with
    | none => done s
    | some m =>
      match m.drained, sampleLayer s m with
      | some drained, some l =>
        let sh := sampleShadow s k m
        if st.report.isSome ∨ (sh.isSome = true ∧ (m.asked = false ∨ (st.transfers.any isShadow) = true)) then done s
        else
          let cbase := (taskRegs c m.task).cbase
          if (m.read.any (·.2.2)) || (m.leaves.any (·.poison)) || (drained.any (·.poison)) then done (abandonSample s sk k m.layer)
          else
            let (free, s) := takeFree s
            let r := compareSample p l (wideWeights p cbase sh m) sh.isNone (free.setWidth 32) m drained
            let s := s.modCell k fun c => { c with sample := none }
            done (s.modSite sk fun st => { st with
              sampling := none, assayExceed := if r.1 then satAdd st.assayExceed 1 else st.assayExceed
              report := some (m.layer, BitVec.ofNat 32 r.2.2, r.1, r.2.1, ph, m.stroke) })
      | _, _ => done s

/-- SAMPLE_ABANDON (R359): the reads of a sample have not completed within 4,096 strokes of its drain. -/
def execSampleAbandon (site : SiteAddr) (s : State) : Host.Outcome State Fault Refusal :=
  let sk := siteKey site
  match (s.site sk).sampling with
  | none => done s
  | some ph =>
    let k := sk * 18 + ph.val
    match (s.cell k).sample with
    | none => done s
    | some m =>
      if m.drained.isSome ∧ m.stroke.toNat + 4096 ≤ strokeNo s then done (abandonSample s sk k m.layer) else done s

end Sys2Proof.Machine
end

