-- ==== Sys2Proof/Machine/Ladder.lean ====
section
/-! DEFINITION. Commands of the power ladder: requests (R460, R559) and exits (R459 to R461). -/

namespace Sys2Proof.Machine

/-- The response to OP 0x06 carries the status and the number of the event; a write of PW_LADDER is not answered. -/
def ladderAnswer (q : State × Nat) (tag : Option (BitVec 16)) : State :=
  match tag with
  | some t => respond q.1 6 t q.2 (if q.2 = stAccepted then [BitVec.ofNat 64 (q.1.mgmt.nextEvent - 1)] else [])
  | none => q.1

/-- LADDER_LEAVE (R559): TARGET 1. -/
def execLadderLeave (tag : Option (BitVec 16)) (_epoch : BitVec 48) (s : State) : Host.Outcome State Fault Refusal :=
  done (ladderAnswer (ladderLeave s) tag)

/-- LADDER_HELD (R559): TARGET 2. -/
def execLadderHeld (tag : Option (BitVec 16)) (epoch : BitVec 48) (s : State) : Host.Outcome State Fault Refusal :=
  done (ladderAnswer (ladderEnter s 2 epoch.toNat) tag)

/-- LADDER_BANKED (R559): TARGET 3. -/
def execLadderBanked (tag : Option (BitVec 16)) (epoch : BitVec 48) (s : State) : Host.Outcome State Fault Refusal :=
  done (ladderAnswer (ladderEnter s 3 epoch.toNat) tag)

/-- LADDER_DRY (R559): TARGET 4. -/
def execLadderDry (tag : Option (BitVec 16)) (epoch : BitVec 48) (s : State) : Host.Outcome State Fault Refusal :=
  done (ladderAnswer (ladderEnter s 4 epoch.toNat) tag)

/-- The plan in force knows every field that is lost. -/
def pathFit (s : State) : Bool :=
  !s.plan.holds.contains .fieldLoss &&
    allFields.all fun f => (s.field f).masked || !(isHole s f || (s.field f).tripped)

/-- The module runs again, the data path unless a restart is due or a lost field stops it. -/
def leaveTo (s : State) : State :=
  { s with
    power := { s.power with ladder := .running, leaving := false, poisedAt := none, idleEpochs := 0 }
    time := { s.time with dataPath := !(s.faults.restart || s.faults.waitClear) && pathFit s }
    heat := { s.heat with forced := false } }

/-- POISED_EXIT (R459): the cells resume their idle entries at the second working stroke start, or the third. -/
def execPoisedExit (s : State) : Host.Outcome State Fault Refusal :=
  if s.power.ladder == .poised && s.power.leaving then
    done (nameRestart (resumeCells (leaveTo s)))
  else done s

/-- HELD_EXIT (R460, R461): all fields wake, the router tables come back from the restore images, the clock starts at 1.9 GHz and
the cells resume on their idle entries; a restart that is due follows as a reactivation (R497). -/
def execHeldExit (s : State) : Host.Outcome State Fault Refusal :=
  if s.power.ladder == .held && s.power.leaving && !s.time.refLost && !s.faults.waitClear then
    let s := restoreRouters (wakeAll s)
    let s := leaveTo { s with time := { s.time with clock := .base, boost := .none, boostVolts := false } }
    done (nameRestart (resumeCells s))
  else done s

/-- BANKED_EXIT (R460): as Held, and every cell gets its restore image; the prologue runs as a same-plan layout activation of the
active key. -/
def execBankedExit (s : State) : Host.Outcome State Fault Refusal :=
  match s.plan.active with
  | some p =>
    if s.power.ladder == .banked && s.power.leaving && !s.power.bankedReady && !s.time.refLost && !s.faults.waitClear then
      let s := wakeAll { s with time := { s.time with clock := .base, boost := .none, boostVolts := false } }
      let s := activateLayout s (keyNoBoost p.key.toNat)
      done { s with faults := { s.faults with restart := false } }
    else done s
  | none => done s

/-- Banked-ready (R520): no plan, no set, no key; the cisterns trained and cleared; every compute site off. -/
def standReady (s : State) : State :=
  { s with
    fields := allFields.foldl (fun t f => tmod {} t f fun fs =>
      if fs.domain = .hole then fs else { fs with domain := .dark, wake := false, wakeStep := 0, epochSeen := s.time.epoch }) s.fields
    sites := (List.range (48 * 74)).foldl (fun t k => tmod {} t k fun st =>
      if (s.field (k / 74)).domain = .hole then st
      else if st.chaOk && st.chbOk then { clearSlice st with up := false } else { st with up := false }) s.sites
    power := { s.power with ladder := .banked, bankedReady := true, leaving := false }
    time := { s.time with dataPath := false, clock := .base, boost := .none, boostVolts := false } }

/-- DRY_EXIT (R460): IR-MAIN comes up, the cisterns are trained from stored results and cleared, and the module stands in
Banked-ready; the cascade links prime again. -/
def execDryExit (s : State) : Host.Outcome State Fault Refusal :=
  if s.power.ladder == .dry && s.power.leaving then
    let s := standReady s
    done { s with
      casc := tmapAll {} (fun _ c => { c with prime := .untrained, compactSent := false }) s.casc
      board := { s.board with
        admitted := false, admitEpoch := none, admittedMask := if s.board.position = 0 then 1 else s.board.admittedMask } }
  else done s

end Sys2Proof.Machine
end

