-- ==== Sys2Proof/Machine/Network.lean ====
section
/-! DEFINITION. Commands of the networks: flits, units, reductions, selectors and the commands of a field controller
(R178 to R185, R236 to R260, R512). -/

namespace Sys2Proof.Machine

/-- The port whose quad sits at an edge router (R420), of the port numbers 0 N, 1 E, 2 S, 3 W. -/
def quadAt (port x y : Nat) : Option Nat :=
  let xs := [11, 15, 20, 24, 47, 51, 56, 60]
  let ys := [17, 19, 21, 23, 25, 27, 29, 31]
  match port with
  | 0 => if y = 47 then xs.findIdx? (· == x) else none
  | 1 => if x = 71 then ys.findIdx? (· == y) else none
  | 2 => if y = 0 then xs.findIdx? (· == x) else none
  | _ => if x = 0 then ys.findIdx? (· == y) else none

/-- A plan unit leaves through a cascade port when its quad is up and the port is admitted (R420, R426, R433); the port of
an exchange-add keeps a copy (R427). -/
def leavePort (s : State) (f : Flit) : State :=
  let h := flitHead f.bits.toNat
  let port := bf h 21 19 - 1
  let ck := s.cascPort port
  match quadAt port f.x f.y with
  | none => s
  | some q =>
    if ck.prime = .admitted ∧ (tget {} ck.quads q).up = true ∧ isHole s (fieldAtXY f.x f.y) = false then
      let rid := bf h 18 9
      let u : CascUnit := { rid := rid, unit := bf h 8 3, quad := q, dcyc := f.due % 512, work := f.due / 512 + 4
                            data := flitData f.bits.toNat }
      let s := s.emit (.cascadeUnit port u)
      if tb (tget 0 ck.table rid).toNat 62 then s.modCasc port fun c => { c with kept := c.kept ++ [u] } else s
    else s

/-- A reduction flit enters a router: it waits there as an input of its side (R252, R254). -/
def redArrive (s : State) (rk port due : Nat) (b : Nat) : State :=
  let h := flitHead b
  let i : RedInput := { tid := bf h 50 41, unit := bf h 38 33, port := port, op := bf h 40 39, data := flitData b, due := due }
  s.modRouter rk fun r =>
    { r with held := (r.held.filter fun q => !(q.done && q.tid == i.tid && q.unit == i.unit && q.port == i.port)) ++ [i] }

/-- What a router input finds in a flit of these bits: one that fails its CRC is poisoned, with an event (R246). -/
def inputCheck (s : State) (rk b : Nat) : State × Nat :=
  if flitCrc b = b % 65536 then (s, b)
  else (s.modRouter rk fun r => { r with evCrc := r.evCrc + 1 }, flitPoison b)

/-- A flit at its router takes its next link (R242, R244, R246, R250, R266, R267): the CRC at its input, the weir of the output, the
link and the field beyond, the CRC at the far input, and at its target the crossbar or the port. `wire` is what the link flips. A
flit arrives when its way has taken it there, where its head has led it astray too. -/
def hopFlit (s : State) (f : Flit) (wire : BitVec 600) : State :=
  let rk := routerKeyXY f.x f.y
  let (s, b) := inputCheck s rk f.bits.toNat
  let f := { f with bits := BitVec.ofNat 600 b }
  let kind := flitKind b
  let next := flitNext f
  let d := if kind = 2 then f.out else next.2
  if !linksUp s (fieldAtXY f.x f.y) then s
  else if d = 4 then
    if kind = 0 ∧ tb (flitHead b) 0 then leavePort s f else { s with flits := s.flits ++ [{ f with home := true }] }
  else if kind ≠ 3 ∧ (tget 0 (s.router rk).active.weirs ((d * 4 + f.plane) * 64 + f.enter % 64)).toNat ≠ flitTenant b then
    s.modRouter rk fun r => { r with evWeir := r.evWeir + 1 }
  else if !linkInside f.x f.y d then s
  else
    let (x, y) := stepXY f.x f.y d
    if !linksUp s (fieldAtXY x y) then s.modRouter rk fun r => { r with evDown := r.evDown + 1 }
    else
      let w := b ^^^ wire.toNat
      if !flitValid w then s
      else
        let far := routerKeyXY x y
        let (s, w) := inputCheck s far w
        let enter := f.enter + 2 + 8 * legStitch f.x f.y x y
        if flitKind w = 2 then redArrive s far ((d + 2) % 4) enter w
        else
          let g : Flit := { f with bits := BitVec.ofNat 600 w, x := x, y := y, leg := next.1, enter := enter }
          if (flitNext g).2 ≠ 4 then { s with flits := s.flits ++ [g] }
          else if flitKind w = 0 ∧ tb (flitHead w) 0 then leavePort s g
          else if flitKind w ≠ 3 ∧ (s.field (fieldAtXY x y)).domain = .dark then
            s.modRouter far fun r => { r with evDark := r.evDark + 1 }
          else { s with flits := s.flits ++ [{ g with due := enter - 1, home := true }] }

/-- The output and plane that a flit of KIND 3 waits for, in XY order (R250). -/
def waitsFor (f : Flit) : Nat × Nat × Nat × Nat := (f.x, f.y, (flitNext f).2, f.plane)

/-- The slot of this cycle admits a service or background flit: every cycle of a curb stroke and of slack is open; in a budget cycle
the weir's slot must hold background, or service for a service flit (R248, R250). -/
def slotOpen (s : State) (f : Flit) : Bool :=
  let e := cycleCount s (boardTime s - (s.time.epochStart + s.time.stroke * s.time.period))
  let d := (flitNext f).2
  let code := (tget 0 (s.router (routerKeyXY f.x f.y)).active.weirs ((d * 4 + f.plane) * 64 + e % 64)).toNat
  !working s || decide (512 ≤ e) || code == 0 || (code == 3 && flitTenant f.bits.toNat == 3)

/-- A service or background flit has its turn on its output plane (R250): service before background, each class in arrival order, and
the router beyond has a credit, fewer than 8 flits waiting on the plane that the flit goes on to. -/
def flitTurn (s : State) (index : Nat) (f : Flit) : Bool :=
  let waiting (g : Flit) : Bool := flitKind g.bits.toNat == 3 && !g.home && waitsFor g == waitsFor f
  let serves (g : Flit) : Bool := flitTenant g.bits.toNat == 3
  let ahead := s.flits.zipIdx.any fun q => waiting q.1 && q.2 != index &&
    (if serves q.1 == serves f then decide (q.2 < index) else serves q.1)
  let xy := stepXY f.x f.y (flitNext f).2
  let on := waitsFor { f with x := xy.1, y := xy.2 }
  let full := decide (8 ≤ (s.flits.filter fun g => flitKind g.bits.toNat == 3 && !g.home && waitsFor g == on).length)
  !ahead && ((flitNext { f with x := xy.1, y := xy.2 }).2 == 4 || !full)

/-- Service and background flits move while strokes run, in the slots that the weirs leave them (R49, R238, R250). -/
def serviceMoves (s : State) (index : Nat) (f : Flit) : Bool :=
  s.time.running && (s.power.ladder == .running || s.power.ladder == .poised) && slotOpen s f && flitTurn s index f

/-- FLIT_ARRIVAL (R246, R250): a plan flit that enters a link in this working stroke moves to the next router; a service or background
flit when its class has its turn and the slot is open to it. -/
def execFlitArrival (index : Nat) (wire : BitVec 600) (s : State) : Host.Outcome State Fault Refusal :=
  match s.flits[index]? with
  | none => done s
  | some f =>
    let may := if flitKind f.bits.toNat = 3 then serviceMoves s index f
      else working s && decide (f.enter < budgetBase s + 512)
    if may && !f.home then done (hopFlit { s with flits := s.flits.eraseIdx index } f wire)
    else done s

/-- Results of a cell that are due by a budget time take effect, unless the cell has still to issue before it. -/
def settleTo (s : State) (k due : Nat) : State :=
  let c := s.cell k
  if c.issue = .running ∧ budgetBase s + c.cycle < due then s
  else s.setCell k (settle (fieldIsP (cellField k)) due (strokeNo s) c)

/-- A unit from the network reaches a cell: it is written at its arrival cycle, or discarded with a fault of the far cell
when it is out of the far task's bound (R97, R179, R181). -/
def unitArrive (s : State) (k task unit due : Nat) (data : List PWord) : State :=
  let c := s.cell k
  match spUnit (taskRegs c task) unit with
  | some u =>
    settleTo (s.setCell k { c with pend := c.pend ++ [{ due := due, slot := 4, what := .spWrite (u * 16) data }] }) k due
  | none => s.setCell k { c with faults := captureFault c.faults [(fbScratch, unit)] task 0 (strokeNo s) true due }

/-- The number in a word of a request (R245, log entry 13). -/
def wordNat (l : List PWord) (i : Nat) : Nat := (l.getD i {}).val.toNat

/-- ROUTE_UNIT_ARRIVAL (R179, R180, R182, R245): a unit or a get request leaves the router for its cell, a service or background
flit for its endpoint. A unit for the crossbar of a dark field is discarded (R266). -/
def execRouteUnitArrival (index : Nat) (s : State) : Host.Outcome State Fault Refusal :=
  match s.flits[index]? with
  | none => done s
  | some f =>
    let b := f.bits.toNat
    if flitKind b = 3 then (if f.home then done { s with flits := s.flits.eraseIdx index } else done s)
    else if working s && f.home && decide (f.due < budgetBase s + 512) then
      let s := { s with flits := s.flits.eraseIdx index }
      let h := flitHead b
      let data := flitData b
      if (s.field (fieldAtXY f.x f.y)).domain = .dark then
        done (s.modRouter (routerKeyXY f.x f.y) fun r => { r with evDark := r.evDark + 1 })
      else if f.lost && flitKind b != 1 then done s
      else if f.via ≠ 0 then
        let e := f.via.toNat
        done ((List.range 16).foldl (fun s i =>
          if tb (bf e 37 22) i then
            match servedCell s f.x f.y i with
            | some k => unitArrive s k (bf e 21 19) (bf e 18 5 + bf h 38 33) f.due data
            | none => s
          else s) s)
      else if flitKind b = 1 then
        done { s with gets := s.gets ++
          [{ srcX := wordNat data 0, srcY := wordNat data 1, srcCell := wordNat data 2, srcTask := wordNat data 3
             x := f.x, y := f.y, cell := bf h 21 18, task := bf h 17 15, srcUnit := bf h 14 1 + f.beyond * 2 ^ 14
             dstUnit := wordNat data 4, n := wordNat data 5 % 33, time := f.due
             lat := routeLat (wordNat data 0) (wordNat data 1) (headRoute h), head := h, plane := f.plane
             tenant := flitTenant b, poison := data.any (·.poison), lost := f.lost }] }
      else
        match servedCell s f.x f.y (bf h 21 18) with
        | some k => done (unitArrive s k (bf h 17 15) (bf h 14 1 + f.beyond * 2 ^ 14) f.due data)
        | none => done s
    else done s

/-- The units a get reads from its far cell as the codes deliver them (R209), with the fault of the first out-of-bound one
(R97, R180). -/
def sourceUnits (p : Bool) (found : List (Nat × CodeError)) (c : CellState) (g : GetReq) (stroke : Nat) : CellState × List (List PWord) :=
  let r := taskRegs c g.task
  let units := (List.range g.n).map fun u => if g.poison then none else spUnit r (g.srcUnit + u)
  let words := units.zipIdx.map fun (u, i) =>
    match u with
    | some u => (List.range 16).map fun j => spWordRead p found c.sp (u * 16 + j)
    | none => (List.range 16).map fun j => poisoned ((g.srcUnit + i) * 16 + j)
  let c := match units.findIdx? (·.isNone) with
    | some i =>
      if g.poison then c
      else { c with faults := captureFault c.faults [(fbScratch, g.srcUnit + i)] g.task 0 stroke true g.time }
    | none => c
  (c, words)

/-- The flits that carry a get's units back (R180, R245): the links of the request in the opposite direction. -/
def returnFlits (g : GetReq) (words : List (List PWord)) : List Flit :=
  let r := backRoute (headRoute g.head) g.srcX g.srcY
  let len := routeLen g.x g.y r
  words.zipIdx.map fun (w, u) =>
    let unit := g.dstUnit + u
    { bits := flitMake w g.tenant 0 (routeHeadBits r + g.srcCell % 16 * 2 ^ 18 + g.srcTask % 8 * 2 ^ 15 + unit % 2 ^ 14 * 2)
      x := g.x, y := g.y, leg := startLeg g.x g.y r, plane := g.plane, out := 4, enter := g.time + 4 + u + 1
      due := g.time + g.lat + 4 + u, home := len.1 == 0, beyond := unit / 2 ^ 14, lost := g.lost }

/-- ROUTE_GET_SOURCE_READ (R180): the far cell's scratchpad is read as it stands at cycle c + L, with what its codes find
(R207 to R211). -/
def execRouteGetSourceRead (index : SourceRead) (s : State) : Host.Outcome State Fault Refusal :=
  match s.gets[index.get]? with
  | none => done s
  | some g =>
    match servedCell s g.x g.y g.cell with
    | none => done { s with gets := s.gets.eraseIdx index.get }
    | some k =>
      let c := s.cell k
      if working s && decide (g.time < budgetBase s + 512) &&
          (c.issue != .running || decide (g.time ≤ budgetBase s + c.cycle)) then
        let s := settleTo { s with gets := s.gets.eraseIdx index.get } k g.time
        let r := sourceUnits (fieldIsP (cellField k)) index.found (s.cell k) g (strokeNo s)
        let reads := r.2.zipIdx.flatMap fun (_, i) =>
          match spUnit (taskRegs r.1 g.task) (g.srcUnit + i) with
          | some u => if g.poison then [] else (List.range 16).map (u * 16 + ·)
          | none => []
        let s := s.setCell k (countReads (fieldIsP (cellField k)) index.found r.1 reads)
        done { s with flits := s.flits ++ returnFlits g r.2 }
      else done s

/-- A leg of a node: unit 0 of its contribution and the unit combined, with the number of INT32 clamps made so far. -/
structure RedLeg where
  u0     : List PWord
  u      : List PWord
  clamps : Nat := 0
deriving DecidableEq, Repr

/-- Words that are all poisoned (R184). -/
def deadWords (seed : Nat) : List PWord := (List.range 16).map fun i => poisoned (seed * 16 + i)

/-- The log-sum-exp merge of unit 0 (R183): m in lane 0, l in lane 1, the other lanes 0; any poison kills it all (R184). -/
def lseHead (a b : List PWord) : List PWord :=
  let g (l : List PWord) (i : Nat) : Nat := (l.getD i {}).val.toNat
  let m := f32Max (g a 0) (g b 0)
  let dead := (a ++ b).any (·.poison)
  let l := if g a 0 = 0xFF800000 ∧ g b 0 = 0xFF800000 then 0
    else f32Add (f32Mul (g a 1) (f32Exp2 (f32Sub (g a 0) m))) (f32Mul (g b 1) (f32Exp2 (f32Sub (g b 0) m)))
  let words := [m, l] ++ List.replicate 14 0
  words.map fun w => { val := BitVec.ofNat 32 w, poison := dead }

/-- The combination of one unit at a node (R183, R184). -/
def combineLeg (op unit : Nat) (a b : RedLeg) : RedLeg :=
  let pair (f : Nat → Nat → Nat) : List PWord := (List.range 16).map fun i =>
    let x := a.u.getD i {}
    let y := b.u.getD i {}
    { val := BitVec.ofNat 32 (f x.val.toNat y.val.toNat), poison := x.poison || y.poison }
  match op with
  | 0 => { u0 := pair f32Add, u := pair f32Add, clamps := a.clamps + b.clamps }
  | 1 =>
    let sums := (List.range 16).map fun i => i32 (a.u.getD i {}).val.toNat + i32 (b.u.getD i {}).val.toNat
    let w := pair fun x y => ofI32 (clampI32 (i32 x + i32 y))
    { u0 := w, u := w, clamps := a.clamps + b.clamps + (sums.filter fun v => v != clampI32 v).length }
  | 2 => { u0 := pair f32Max, u := pair f32Max, clamps := a.clamps + b.clamps }
  | _ =>
    let h := lseHead a.u0 b.u0
    if unit = 0 then { u0 := h, u := h }
    else
      let g (l : List PWord) (i : Nat) : Nat := (l.getD i {}).val.toNat
      let m := (h.getD 0 {}).val.toNat
      let none_ := g a.u0 0 = 0xFF800000 ∧ g b.u0 0 = 0xFF800000
      let fa := f32Exp2 (f32Sub (g a.u0 0) m)
      let fb := f32Exp2 (f32Sub (g b.u0 0) m)
      let dead := h.any (·.poison)
      { u0 := h
        u := (List.range 16).map fun i =>
          let x := a.u.getD i {}
          let y := b.u.getD i {}
          { val := if none_ then 0 else BitVec.ofNat 32 (f32Add (f32Mul x.val.toNat fa) (f32Mul y.val.toNat fb))
            poison := dead || x.poison || y.poison } }

/-- The balanced pairwise tree of the crossbar: the first ⌈m/2⌉ members on the left (R252). -/
def combineTree (op unit : Nat) : Nat → List RedLeg → Option RedLeg
  | 0, l => l.head?
  | _, [] => none
  | _, [x] => some x
  | fuel + 1, l =>
    let h := (l.length + 1) / 2
    match combineTree op unit fuel (l.take h), combineTree op unit fuel (l.drop h) with
    | some a, some b => some (combineLeg op unit a b)
    | some a, none => some a
    | none, r => r

/-- One input among those held: the unit not yet combined, with unit 0 of the same contribution (R254). -/
def heldLeg (held : List RedInput) (tid unit port : Nat) : Option (RedLeg × RedInput) :=
  match held.find? fun q => q.tid == tid && q.unit == unit && q.port == port && !q.done with
  | none => none
  | some q =>
    let u0 := if unit = 0 then q.data
      else match held.find? fun r => r.tid == tid && r.unit == 0 && r.port == port && r.due + unit == q.due with
        | some r => r.data
        | none => if q.op = 3 then deadWords tid else q.data
    some ({ u0 := u0, u := q.data }, q)

/-- Inputs taken: unit 0 of an OP 3 contribution stays for the later units, any other goes. -/
def takeHeld (held : List RedInput) (tid unit port : Nat) : List RedInput :=
  held.filterMap fun q =>
    if q.tid == tid && q.unit == unit && q.port == port && !q.done then
      if q.op = 3 ∧ unit = 0 then some { q with done := true } else none
    else some q

/-- What a node finds at one of its inputs: the leg, its OP, the time it would enter the next link, and the arrival it
would have at a cell of the node's own cluster. -/
structure NodeLeg where
  leg  : RedLeg
  op   : Nat
  due  : Nat
  home : Nat
deriving DecidableEq, Repr

/-- The crossbar's combination of the contributions of its cluster (R252, R255); a contributor that is missing poisons
every word (R184). The second result tells whether one is missing. -/
def crossbarLeg (st : SiteState) (tid unit : Nat) : Option NodeLeg × Bool :=
  let mask := (tget 0 st.active.masks tid).toNat
  let members := (List.range 16).filter fun i => tb mask i
  let legs := members.map fun i => heldLeg st.held tid unit i
  match legs.findSome? id with
  | none => (none, false)
  | some q =>
    let full := legs.map fun l => match l with
      | some x => x.1
      | none => { u0 := deadWords tid, u := deadWords tid }
    match combineTree q.2.op unit 16 full with
    | some l => (some { leg := l, op := q.2.op, due := q.2.due, home := q.2.due + 1 }, legs.any (·.isNone))
    | none => (none, false)

/-- A node's input by its code of R253. -/
def nodeLeg (r : RouterState) (st : SiteState) (tid unit code : Nat) : Option NodeLeg × Bool :=
  if code = 4 then crossbarLeg st tid unit
  else
    match heldLeg r.held tid unit code with
    | some q => (some { leg := q.1, op := q.2.op, due := q.2.due, home := q.2.due - 1 }, false)
    | none => (none, false)

/-- Take what a node's input held. -/
def takeLeg (s : State) (rk sk tid unit code : Nat) : State :=
  if code = 4 then s.modSite sk fun st => { st with held := (List.range 16).foldl (fun h i => takeHeld h tid unit i) st.held }
  else s.modRouter rk fun r => { r with held := takeHeld r.held tid unit code }

/-- The combined unit leaves a node: into the links of OUT, to the cells of its own cluster, or to the next entry of the
tree (R253, R254). -/
def nodeOut (s : State) (rk x y e unit op : Nat) (n : NodeLeg) : State :=
  let tid := bf e 62 53
  let head := tid * 2 ^ 41 + op % 4 * 2 ^ 39 + unit * 2 ^ 33
  let base : Flit := { bits := flitMake n.leg.u (bf e 39 38) 2 head, x := x, y := y, leg := 0, plane := bf e 41 40, out := 4
                       enter := n.due, due := n.home, home := false }
  let out := bf e 46 42
  if out = 0 then
    s.modRouter rk fun r => { r with held := (r.held.filter fun q => !(q.done && q.tid == tid && q.unit == unit && q.port == 5))
      ++ [{ tid := tid, unit := unit, port := 5, op := op, data := n.leg.u, due := n.due }] }
  else
    { s with flits := s.flits ++ ((List.range 5).filter (tb out)).map fun d =>
        if d = 4 then { base with home := true, via := BitVec.ofNat 64 e } else { base with out := d } }

/-- The site whose crossbar joins a router; a field's first site where none serves its cluster. -/
def routerSite (s : State) (rk : Nat) : Nat :=
  let cl := homeOf (rk % 72)
  let xy := clusterXY (rk / 72) (cl % 9) (cl / 9)
  (servedSite s xy.1 xy.2).getD (rk / 72 * 74)

/-- The inputs of an entry of a router for one unit, and whether it only relays (R253). -/
def entryLegs (s : State) (rk e unit : Nat) : (Option NodeLeg × Bool) × (Option NodeLeg × Bool) × Bool :=
  let leg := nodeLeg (s.router rk) (s.site (routerSite s rk)) (bf e 62 53) unit
  let relay := decide (bf e 49 47 = 7)
  (leg (bf e 52 50), if relay then (none, false) else leg (bf e 49 47), relay)

/-- Every input of an entry has arrived, with every contribution of its crossbar. -/
def entryReady (s : State) (rk e unit : Nat) : Bool :=
  let q := entryLegs s rk e unit
  q.1.1.isSome && !q.1.2 && (q.2.2 || q.2.1.1.isSome) && !q.2.1.2

/-- An entry of a tree in a router is ready for a unit. -/
def nodeReady (s : State) (rk tid unit : Nat) (among : Nat → Bool) : Bool :=
  (s.router rk).active.nodes.any fun q =>
    among q.1 && tb q.2.toNat 63 && bf q.2.toNat 62 53 == tid && entryReady s rk q.2.toNat unit

/-- Something of a tree's unit is still to come: a contribution of a cell that has not issued past a cycle, a flit on its way, or the
output of a node that is ready (R254). -/
def treeMoves (s : State) (tid unit due : Nat) : Bool :=
  (s.flits.any fun f => flitKind f.bits.toNat == 2 && !f.home && bf (flitHead f.bits.toNat) 50 41 == tid &&
      bf (flitHead f.bits.toNat) 38 33 == unit) ||
    (s.cells.any fun q => q.2.issue == .running && decide (budgetBase s + q.2.cycle ≤ due)) ||
    s.routers.any fun q => nodeReady s q.1 tid unit fun _ => true

/-- What an entry makes of its inputs, and whether one of them is missing (R183, R184, R254): the combined unit keeps the timing of
its later input; a leg that never comes poisons every word. -/
def entryResult (tid unit : Nat) (left right : Option NodeLeg × Bool) (relay : Bool) : Option (NodeLeg × Bool) :=
  let dead : RedLeg := { u0 := deadWords tid, u := deadWords tid }
  match left.1, right.1 with
  | none, none => none
  | some a, none =>
    if relay then some (a, left.2)
    else some ({ a with leg := combineLeg a.op unit a.leg dead }, true)
  | none, some b => some ({ b with leg := combineLeg b.op unit dead b.leg }, true)
  | some a, some b =>
    some ({ leg := combineLeg a.op unit a.leg b.leg, op := a.op, due := max a.due b.due, home := max a.home b.home },
      left.2 || right.2)

/-- REDUCTION_NODE_COMBINE (R252 to R255, R183, R184): one entry of a router combines one unit once both its inputs have arrived; the
first is held until then. The entries of a tree act in their order. An input that can no longer come poisons every word. -/
def execReductionNodeCombine (r : RouterAddr) (entry : Fin 256) (unit : Fin 64) (check : Option StageCheck) (s : State) :
    Host.Outcome State Fault Refusal :=
  let rk := routerKey r
  let f := r.field.val
  let cl := homeOf r.home.val
  let xy := clusterXY f (cl % 9) (cl / 9)
  let e := (tget 0 (s.router rk).active.nodes entry.val).toNat
  let tid := bf e 62 53
  let sk := routerSite s rk
  if !(working s && linksUp s f && tb e 63) || nodeReady s rk tid unit.val (fun i => decide (i < entry.val)) then done s
  else
    let q := entryLegs s rk e unit.val
    match entryResult tid unit.val q.1 q.2.1 q.2.2 with
    | none => done s
    | some (n, missing) =>
      if missing && treeMoves s tid unit.val n.due then done s
      else
        let s := takeLeg s rk sk tid unit.val (bf e 52 50)
        let s := if q.2.2 then s else takeLeg s rk sk tid unit.val (bf e 49 47)
        let failed := check.isSome
        let n := if failed then
            { n with leg := { n.leg with u := n.leg.u.map fun w => { w with poison := true } } } else n
        let s := if failed || missing || n.leg.clamps != 0 then
            s.modRouter rk fun q => { q with evNode := q.evNode + b2n (failed || missing), evClamp := q.evClamp + n.leg.clamps }
          else s
        done (nodeOut s rk xy.1 xy.2 e unit.val n.op n)

/-- SELECTOR_POST_ARRIVAL (R145, R258): a post reaches its field controller; a post on a wafer-wide channel goes on from
there to the wafer manager. -/
def execSelectorPostArrival (index : Nat) (s : State) : Host.Outcome State Fault Refusal :=
  match s.posts[index]? with
  | none => done s
  | some p =>
    if !linksUp s p.cell.field.val then done { s with posts := s.posts.eraseIdx index }
    else if p.stage = 0 then done { s with posts := s.posts.set index { p with stage := 1 } }
    else if p.stage = 1 ∧ 12 ≤ p.chan.val then done { s with posts := s.posts.set index { p with stage := 2 } }
    else done s

/-- SELECTOR_PUBLICATION (R89, R90, R512): the posts of a channel are published for the next latch, those of working
stroke s not before s + 1 on a field's channel and s + 2 on a wafer-wide one. A field whose controller finds a wrong
checksum discards a wafer-wide publication. -/
def execSelectorPublication (chan : Fin 16) (field : Field) (crcOk : Bool) (s : State) : Host.Outcome State Fault Refusal :=
  let wide := decide (12 ≤ chan.val)
  let mine (p : Post) : Bool :=
    p.chan == chan && (if wide then p.stage == 2 && decide (p.work + 2 ≤ s.time.work)
      else p.stage == 1 && p.cell.field == field && decide (p.work + 1 ≤ s.time.work))
  let ps := s.posts.filter mine
  let s := { s with posts := s.posts.filter fun p => !mine p }
  match ps.getLast? with
  | none => done s
  | some p =>
    let add (q : Publication) : Publication := { q with value := p.value, count := q.count + ps.length }
    if wide then
      let s := { s with wafer := tmod {} s.wafer chan.val add }
      if crcOk then done s
      else
        let s := s.modField field.val fun fs =>
          { fs with pubs := tmod {} fs.pubs chan.val fun q => { q with refused := true }
                    cmdRej := satAdd fs.cmdRej 1, fcErr := fs.fcErr ||| 2 }
        done (coreEvent { s with mgmt := { s.mgmt with cmdRej := satAdd s.mgmt.cmdRej 1 } } 0)
    else done (s.modField field.val fun fs => { fs with pubs := tmod {} fs.pubs chan.val add })

/-- The value of a register of a block's list at an offset. -/
def rowValue (rows : List (Nat × Nat × Nat)) (off : Nat) : Option Nat := (rows.find? fun r => r.1 == off).map fun r => r.2.2

/-- A register is read or written over the control network; the controller answers dark for a site or cell whose compute clock is
stopped, and the access then has no effect (R259). -/
def registerAccess (s : State) (addr : BitVec 64) (write : Option (BitVec 128)) : State :=
  let a := regAddr addr
  if regDark s a then (noteDark s a).emit (.register addr true 0)
  else
    match blockRows s a with
    | none => s
    | some rows =>
      match rowValue rows a.off, write with
      | none, _ => s
      | some v, none => s.emit (.register addr false (BitVec.ofNat 128 v))
      | some _, some v => writeControl s a v.toNat

/-- A field controller executes a command (R512): a publication of a channel, a register write, and the fields that go dark or are
holes; the spines follow a hole once the data path is stopped (R262). -/
def fieldAct (s : State) (f : Nat) (cmd : FcCmd) : State :=
  match cmd with
  | .publish chan v =>
    s.modField f fun fs => { fs with pubs := tmod {} fs.pubs chan.val fun q => { q with value := v, count := q.count + 1 } }
  | .writeRegister addr v =>
    let a := { regAddr addr with field := f }
    if regDark s a then noteDark s a else writeControl s a v.toNat
  | .goDark => makeDark s f
  | .markHole => if s.time.dataPath then makeHole s f else settleHoles (makeHole s f)

/-- Words of a message on the control network: one for its head, and its data in words of 32 bits; the spec gives no format (DESIGN
CHOICE, log entry 123). -/
def accessWords (write : Option (BitVec 128)) (a : RegAddr) : Nat :=
  match write with
  | none => 1
  | some _ => if a.block = 9 ∧ 0x1000 ≤ a.off then 5 else 3

/-- Class of a register access (R257): loads of instruction stores, segment tables and the tables of R251 are class 3. -/
def accessClass (write : Option (BitVec 128)) (a : RegAddr) : Nat :=
  if write.isSome && ((a.block == 9 && decide (0x1000 ≤ a.off)) || (a.block == 6 && decide (0x1000 ≤ a.off))) then 3 else 2

/-- Which of the messages that wait has the next word (R257): the lowest class, the oldest of it; but class 3 has one word in every 16
while it waits. -/
def ctrlPick (q : List CtrlMsg) (run : Nat) : Option Nat :=
  let third := q.findIdx? fun m => m.cls == 3
  if 15 ≤ run && third.isSome then third
  else [0, 1, 2, 3].findSome? fun c => q.findIdx? fun m => m.cls == c

/-- A message whose last word has come takes effect. -/
def ctrlAct (s : State) (f : Nat) (m : CtrlMsg) : State :=
  match m.body with
  | .access addr write => registerAccess s addr write
  | .command cmd => fieldAct s f cmd

/-- One word of the control link into a field (R256, R257). -/
def ctrlWord (s : State) (f : Nat) : State :=
  let fs := s.field f
  match ctrlPick fs.ctrlQueue fs.ctrlRun with
  | none => s
  | some i =>
    match fs.ctrlQueue[i]? with
    | none => s
    | some m =>
      let waits := fs.ctrlQueue.any fun m => m.cls == 3
      let run := if m.cls = 3 || !waits then 0 else fs.ctrlRun + 1
      let free := fs.ctrlFree + 1
      if m.words ≤ 1 then
        ctrlAct (s.setField f { fs with ctrlQueue := fs.ctrlQueue.eraseIdx i, ctrlFree := free, ctrlRun := run }) f m
      else s.setField f { fs with
        ctrlQueue := fs.ctrlQueue.set i { m with words := m.words - 1 }, ctrlFree := free, ctrlRun := run }

/-- Words of 32 bits that the link has carried by now: one every 2 ns, five a tick (R256). -/
def ctrlNow (s : State) : Nat := 5 * boardTime s

/-- The control link serves what waits for it, up to now. -/
def ctrlServe (s : State) (f : Nat) : Nat → State
  | 0 => s
  | n + 1 =>
    let fs := s.field f
    if fs.ctrlQueue.isEmpty || decide (ctrlNow s + 5 ≤ fs.ctrlFree) then s else ctrlServe (ctrlWord s f) f n

/-- A message enters the control link of a field (R257). -/
def ctrlSend (s : State) (f : Nat) (m : CtrlMsg) : State :=
  let s := s.modField f fun fs => { fs with ctrlQueue := fs.ctrlQueue ++ [m], ctrlFree := max fs.ctrlFree (ctrlNow s) }
  ctrlServe s f (((s.field f).ctrlQueue.map (·.words)).foldl (· + ·) 0)

/-- FC_COMMAND (R257, R512): a field controller executes a command whose checksum matches, a register write once the link has carried
its words; any other it discards, counts and reports with code 0x97. -/
def execFcCommand (f : Field) (cmd : FcCmd) (crcOk : Bool) (s : State) : Host.Outcome State Fault Refusal :=
  if !linksUp s f.val then done s
  else if !crcOk then
    let s := s.modField f.val fun fs =>
      { fs with
        cmdRej := satAdd fs.cmdRej 1, fcErr := fs.fcErr ||| 2
        pubs := match cmd with
          | .publish chan _ => tmod {} fs.pubs chan.val fun q => { q with refused := true }
          | _ => fs.pubs }
    done (coreEvent { s with mgmt := { s.mgmt with cmdRej := satAdd s.mgmt.cmdRej 1 } } 0)
  else
    match cmd with
    | .writeRegister addr v =>
      let a := regAddr addr
      done (ctrlSend s f.val { cls := accessClass (some v) a, words := accessWords (some v) a, body := .command cmd })
    | .publish .. => done (ctrlSend s f.val { cls := 1, words := 1, body := .command cmd })
    | _ => done (ctrlSend s f.val { cls := 2, words := 1, body := .command cmd })

/-- CONTROL_REGISTER_ACCESS (R257, R259): an access over the control network, to a field once its link has carried the words. -/
def execControlRegisterAccess (addr : BitVec 64) (write : Option (BitVec 128)) (s : State) :
    Host.Outcome State Fault Refusal :=
  let a := regAddr addr
  if a.field < 48 ∧ linksUp s a.field = true ∧ (a.block = 2 ∨ 7 ≤ a.block) then
    done (ctrlSend s a.field { cls := accessClass write a, words := accessWords write a, body := .access addr write })
  else done (registerAccess s addr write)

end Sys2Proof.Machine
end

