-- ==== Sys2Proof/Machine/CascadeOps.lean ====
section
/-! DEFINITION. What the cascade ports work with: quads, Yelzia flits, plan units, compacts (R417 to R434). -/

namespace Sys2Proof.Machine

/-- Budget cycle in which board time lies in its working stroke (R48, R58). -/
def cycleAt (s : State) (ticks : Nat) : Nat := min 511 (cycleCount s ticks)

/-- The working stroke in which a unit that arrives now is to be delivered: the fourth after the one in which its cycle lay before
the flit was sent, one link latency ago (R69, R421, R426, log entry 22). -/
def unitWork (s : State) (latency dcyc : Nat) : Nat :=
  let into := boardTime s - (s.time.epochStart + s.time.stroke * s.time.period)
  let back := if latency ≤ into then 0 else ceilDiv (latency - into) (max 1 s.time.period)
  let sent := cycleAt s (into + back * s.time.period - latency)
  let from_ := s.time.work - back
  (if dcyc ≤ sent then from_ else from_ - 1) + 4

/-- Words of a unit of a Yelzia flit with their poison bits (R422). -/
def flitUnit (b : Bytes) (i : Nat) : List PWord :=
  let marks := fieldAt b (208 + 2 * i) 2
  (List.range 16).map fun w =>
    { val := BitVec.ofNat 32 (fieldAt b (16 + 64 * i + 4 * w) 4), poison := tb marks w }

/-- The plan units of a VC0 flit (R422). -/
def flitUnits (s : State) (q latency : Nat) (b : Bytes) : List CascUnit :=
  (List.range (bf (fieldAt b 0 2) 13 12)).map fun i =>
    let slot := fieldAt b (4 + 4 * i) 4
    { rid := bf slot 31 22, unit := bf slot 21 16, quad := q, dcyc := bf slot 15 7, work := unitWork s latency (bf slot 15 7)
      data := flitUnit b i }

/-- The position that R418 wiring leads a port to, where the number of modules fitted allows it. -/
def wiredTo (w port pos : Nat) : Bool :=
  if port ≤ 1 then pos == w + 1 || (pos == 0 && decide (1 ≤ w))
  else if w = 0 then decide (1 ≤ pos ∧ pos ≤ 3)
  else pos == w - 1

/-- The unit that waits for injection under a route id, oldest first. -/
def findUnit (l : List CascUnit) (rid unit : Nat) : Option CascUnit :=
  l.find? fun u => u.rid == rid && u.unit == unit && !u.used

/-- Unit 0 of the exchange that a later unit belongs to: the one combined last, or the one that still waits. -/
def headUnit (l : List CascUnit) (rid : Nat) : Option CascUnit :=
  match l.find? fun u => u.rid == rid && u.unit == 0 && u.used with
  | some u => some u
  | none => findUnit l rid 0

/-- A unit is spent: unit 0 stays for the units that follow, in place of the one before it. -/
def spendUnit (l : List CascUnit) (u : CascUnit) : List CascUnit :=
  let l := l.erase u
  if u.unit = 0 then (l.filter fun x => !(x.rid == u.rid && x.used)) ++ [{ u with used := true }] else l

/-- A unit enters the mesh at its quad's router on the leg that its entry names, so that it arrives in its cycle; where the unit
never came, its poison is at the destination in that cycle (R424 to R426). -/
def injectUnit (s : State) (p e unit : Nat) (quad : Option Nat) (due : Nat) (data : List PWord) : State :=
  let dst := (bf e 54 48, bf e 47 42)
  let xy := match quad with
    | some q => quadXY p q
    | none => dst
  let r : RouteHead := { wpv := false, ord1 := tb e 55, ord2 := false, wx := 0, wy := 0, dx := dst.1, dy := dst.2 }
  let n := bf e 34 21 + unit
  let head := routeHeadBits r + bf e 41 38 * 2 ^ 18 + bf e 37 35 * 2 ^ 15 + n % 2 ^ 14 * 2
  let len := routeLen xy.1 xy.2 r
  let f : Flit := {
    bits := flitMake data (bf e 57 56) 0 head, x := xy.1, y := xy.2, leg := 0, plane := bf e 59 58, out := 4
    enter := due - routeLat xy.1 xy.2 r + 1, due := due, home := len.1 == 0, beyond := n / 2 ^ 14 }
  { s with flits := s.flits ++ [f] }

/-- A unit is late: delivered poisoned and counted, code 0x91 (R424). -/
def unitLate (s : State) (p rid : Nat) : State :=
  raiseModule ((ckErr s p 2).modCasc p fun c => { c with late := satAdd c.late 1 }) 1 0x91 (detail := rid)

/-- Budget time of now. -/
def budgetNow (s : State) : Nat :=
  budgetBase s + cycleAt s (boardTime s - (s.time.epochStart + s.time.stroke * s.time.period))

end Sys2Proof.Machine
end

