-- ==== Sys2Proof/Machine/FieldLoss.lean ====
section
/-! DEFINITION. Commands of a lost field: the mark at stroke s + 2 and the staging of its hole variant (R260, R262, R268, R297,
R299, R415). -/

namespace Sys2Proof.Machine

/-- The board goes on from the loss of field f of position w: with a hole variant its staging begins, and the data path stays stopped;
without one the loss is final (R297, R299). -/
def loseField (s : State) (w : BitVec 2) (f : Field) (whole : Bool) : State :=
  if variantFor s w f.val && whole then
    let s := stopDataPath s
    holdBarrier { s with
      plan := { s.plan with staging := some (.holeVariant w f) }, board := { s.board with staged := 0 } } .fieldLoss
  else noVariant s

/-- Fields that had lost EPOCH behind a lost field count with the board again, once their spines are switched and deskewed
(R262, R265, R268). -/
def deskew (s : State) (cut : List Nat) : State :=
  cut.foldl (fun s f => s.modField f fun fs => { fs with epochSeen := s.time.epoch, epochGot := 0 }) s

/-- FIELD_HOLE_MARK (R268, R297, R299): from stroke s + 2 on. Routes and spines are set again around a hole, a pending plan is
discarded on every module of the board, and with a hole variant its staging begins. A field that the new hole cuts off is lost with
it. -/
def execFieldHoleMark (f : Field) (s : State) : Host.Outcome State Fault Refusal :=
  match (s.field f.val).lostStroke with
  | none => done s
  | some n =>
    if s.time.running && decide (strokeNo s < n.toNat + 2) then done s
    else
      let before := allFields.filter (isHole s)
      let dim := allFields.filter (cutOff s)
      let s := if isHole s f.val then settleHoles s else s
      let cut := allFields.filter fun g => isHole s g && !before.contains g
      let s := cut.foldl (fun s g => raiseModule s 3 0x8C g 0 2) s
      let s := s.modField f.val fun fs => { fs with lostStroke := none }
      let s := discardPending (deskew s dim) stDiscarded
      let s := tellMaster (boardTell s (.fieldLost s.board.position f)) (.fieldLost s.board.position f)
      if s.plan.active.isNone then done s else done (loseField s s.board.position f cut.isEmpty)

/-- A module hears of a field that another module lost (R297): its pending plan is discarded, requests that touch the field end, and it
stages the hole variant, its data path stopped where the modules run one plan. -/
def fieldLostThere (s : State) (w : BitVec 2) (f : Field) : State :=
  let s := endWhere (discardPending s stDiscarded) (fun i _ => touches s w.toNat f.val i) stFieldLost
  if s.plan.active.isNone then s
  else if boardRuns s then loseField s w f true
  else if variantFor s w f.val then
    holdBarrier { s with
      plan := { s.plan with staging := some (.holeVariant w f) }, board := { s.board with staged := 0 } } .fieldLoss
  else s

/-- On a board the master names the epoch of a hole variant once every module has staged it, at least 4 epochs ahead (R297). -/
def nameVariant (s : State) : State :=
  match s.plan.staging with
  | some k =>
    if s.board.admittedMask &&& ~~~ s.board.staged = 0 then
      nameOwn { s with plan := { s.plan with staging := none }, board := { s.board with staged := 0 } } k (s.time.epoch + 4)
    else s
  | none => s

/-- A module of the board has staged the hole variant (R297). -/
def noteStaged (s : State) (w : BitVec 2) : State :=
  nameVariant { s with board := { s.board with staged := s.board.staged ||| BitVec.ofNat 8 (2 ^ w.toNat) } }

/-- HOLE_VARIANT_STAGED (R297): on a single module the variant takes effect at the second curb stroke from now; on a board a follower
reports, and the master names the epoch when the last module has reported. -/
def execHoleVariantStaged (s : State) : Host.Outcome State Fault Refusal :=
  match s.plan.staging with
  | some k =>
    if follows s then done (tellMaster s .variantStaged)
    else if onBoard s then done (noteStaged s s.board.position)
    else done (nameOwn { s with plan := { s.plan with staging := none } } k (s.time.epoch + 2))
  | none => done s

end Sys2Proof.Machine
end

