-- ==== Sys2Proof/Machine/Kv.lean ====
section
/-! DEFINITION. The far tier: stored conversations, their copies and returns (R346 to R353, R411). -/

namespace Sys2Proof.Machine

/-- Zeros up to a multiple of 64 bytes. -/
def pad64 (b : Bytes) : Bytes := b ++ List.replicate ((64 - b.length % 64) % 64) 0

/-- The header of a stored conversation (R350). -/
def convHeader (conv : BitVec 64) (layout version : Word) (c sets perSet : Nat) (fmt4 pages : Bool) (histCrc : Nat) : Bytes :=
  let b := leBytes 8 conv.toNat ++ leBytes 4 layout.toNat ++ leBytes 4 version.toNat ++ leBytes 4 c ++ leBytes 4 sets ++
    leBytes 4 perSet ++ leBytes 1 (b2n fmt4) ++ leBytes 1 (b2n pages) ++ leBytes 2 0 ++ leBytes 4 histCrc ++ leBytes 24 0
  b ++ leBytes 4 (crc32c b)

/-- First line of a pool's slot (R330). -/
def slotLine (s : State) (pl : PagePool) (slot : Nat) : Nat :=
  (match s.plan.active with | some p => baseOf p.bases pl.symbol | none => 0) * 16384 + slot * pl.stride

/-- The four runs of the committed rows of a page, as byte offset and length (R328, R350). -/
def pageRuns (fmt4 : Bool) (r : Nat) : List (Nat × Nat) :=
  if fmt4 then [(0, 64 * r), (8192, 64 * r), (16384, 4 * r), (16896, 4 * r)]
  else [(0, 128 * r), (16384, 128 * r), (32768, 4 * r), (33280, 4 * r)]

/-- Site key of a logical cluster of a field. -/
def clusterKey (s : State) (f : Nat) (cl : Nat) : Option Nat :=
  (clusterSite s s.faults.applied f (homeOf cl)).map fun i => f * 74 + i

/-- The pages of a conversation of c rows that a list of page sets holds, in the order of R350. -/
def pagesOf (s : State) (t : ServingTables) (sets : List PageSet) (c : Nat) : List PagePlace :=
  (List.range ((c + 127) / 128)).flatMap fun j =>
    let here := t.pools.zipIdx.flatMap fun (pl, n) =>
      match sets.find? fun p => p.pool == n && p.j == j with
      | some p => (pl.pages.filter fun g => g.lane == p.lane).map fun g => (pl, p, g)
      | none => []
    here.zipIdx.map fun (q, i) =>
      { j := j, idx := i, site := (clusterKey s q.2.2.field.val q.2.2.cl.val).getD 0, line := slotLine s q.1 q.2.1.slot
        fmt4 := q.1.fmt4, rows := min 128 (c - 128 * j) }

/-- The committed bytes of a page (R350). -/
def pageBytes (s : State) (p : PagePlace) : Bytes :=
  (pageRuns p.fmt4 p.rows).flatMap fun r => tgetMany 0 (s.site p.site).mem (p.line * 64 + r.1) r.2

/-- A page with its trailer (R350). -/
def sealedPage (s : State) (p : PagePlace) : Bytes :=
  let b := pageBytes s p
  pad64 b ++ leBytes 4 (crc32c b) ++ leBytes 4 p.rows ++ leBytes 4 p.j ++ leBytes 4 p.idx ++ leBytes 48 0

/-- Lines that a copy of a page reads. -/
def pageLines (p : PagePlace) : List Nat :=
  (pageRuns p.fmt4 p.rows).flatMap fun r => (List.range ((r.2 + 63) / 64)).map fun i => p.line + r.1 / 64 + i

/-- Site and first line of a request index's token history (R340). -/
def historyPlace (s : State) (t : ServingTables) (i : Nat) : Option (Nat × Nat) :=
  match t.history.find? fun h => h.index == i with
  | some h => (clusterKey s h.field.val h.cl.val).map fun k => (k, h.line)
  | none => none

/-- The token history of positions 0 to c (R340). -/
def historyBytes (s : State) (t : ServingTables) (i c : Nat) : Bytes :=
  match historyPlace s t i with
  | some (k, line) => tgetMany 0 (s.site k).mem (line * 64) (4 * (c + 1))
  | none => leBytes (4 * (c + 1)) 0

/-- The sets of a request that come back from the far tier (R351). -/
def returningSets (s : State) (i : Nat) : List PageSet := (ownSets s i).filter fun p => p.state == .returning

/-- The outgoing sets of a move. -/
def outSets (s : State) (m : FarMove) : List PageSet :=
  s.kv.sets.filter fun p => p.owner == m.owner && p.state == .outgoing && p.conv == m.conv

/-- The sets of a list that hold rows below C: a set bound for rows that no step committed is no part of a copy (R339, R350). -/
def committedSets (sets : List PageSet) (c : Nat) : List PageSet := sets.filter fun p => decide (p.j * 128 < c)

/-- Page sets of a copy: every set of the conversation, or of a copy in part those that were read (R350, R353). -/
def moveSets (m : FarMove) : Nat :=
  if m.part then ((m.places.map (·.j)).eraseDups).length else (m.c + 127) / 128

/-- The outgoing sets of a move go back to their free lists, and the move ends. -/
def endMove (s : State) (m : FarMove) : State :=
  { s with kv := { s.kv with
    sets := s.kv.sets.filter fun p => !(p.owner == m.owner && p.state == .outgoing && p.conv == m.conv)
    moves := s.kv.moves.filter fun q => !(q.conv == m.conv && q.owner == m.owner) } }

/-- The lowest run of free blocks in the far tier (R346); the conversation of the same handle is replaced (R348). -/
def lowestBlocks (s : State) (conv : BitVec 64) (n : Nat) : Option Nat :=
  let total := s.ep.ftLen.toNat / 65536
  (List.range (total + 1 - n)).find? fun b =>
    decide (b + n ≤ total) &&
      !(s.kv.stored.any fun v => v.conv != conv && decide (b < v.block + v.blocks ∧ v.block < b + n))

/-- The bulk class of the service port can send (R395, R415). -/
def bulkOpen (s : State) : Bool :=
  let p := s.port (svcPort s)
  portCarries s (svcPort s) && !(tb p.ctrl.toNat 5 && tb p.paused.toNat (bf p.prio.toNat 14 12))

/-- A conversation is stored from now on, its time to live running (R347). -/
def storeConv (s : State) (m : FarMove) (pages : Bool) : State :=
  { s with kv := { s.kv with
    stored := (s.kv.stored.filter fun v => v.conv != m.conv) ++ [{
      conv := m.conv, block := m.block, blocks := m.blocks, kvLayout := m.layout, version := m.version, c := m.c, pages := pages
      expires := some (boardTime s + s.ep.ftTtl.toNat * 100000000), sets := moveSets m, part := m.part }] } }

/-- A stored conversation is forgotten and its blocks are free (R352). -/
def forgetConv (s : State) (conv : BitVec 64) : State :=
  { s with kv := { s.kv with stored := s.kv.stored.filter fun v => v.conv != conv } }

/-- Bytes of a stored conversation with or without its pages. -/
def convSize (s : State) (t : ServingTables) (sets : List PageSet) (c : Nat) (pages : Bool) : Nat :=
  64 + ((4 * (c + 1) + 63) / 64) * 64 +
    if pages then ((pagesOf s t sets c).map fun p =>
      ((((pageRuns p.fmt4 p.rows).foldl (fun n r => n + r.2) 0) + 63) / 64) * 64 + 64).foldl (· + ·) 0 else 0

/-- Tokens go to the mailboxes in parcels of TYPE 2 of at most 480 tokens; a token of 2^24 or more is written as 0 (R312). -/
def tokenParcels (s : State) (t : ServingTables) (i first : Nat) (toks : List Word) : State :=
  (List.range ((toks.length + 479) / 480)).foldl (fun s n =>
    let part := ((toks.drop (480 * n)).take 480).map fun w => if w.toNat < 2 ^ 24 then w.toNat else 0
    addParcel s t 2 i (pad64 (leBytes 4 i ++ leBytes 4 (first + 480 * n)) ++ part.flatMap (leBytes 4))) s

/-- The conversation of a request is held, and its history and pages are asked for: the pages only where they match the layout
and the version in force and their sets can be bound; else the request recomputes (R351). -/
def beginReturn (s : State) (t : ServingTables) (i : Nat) (r : Request) (v : StoredConv) : State :=
  let s : State := { s with kv := { s.kv with
    stored := s.kv.stored.map fun (w : StoredConv) => if w.conv == v.conv then { w with expires := none } else w } }
  let layout := match s.plan.active with | some p => p.header.kvLayout | none => 0
  let fit := v.pages && v.kvLayout == layout && v.version == versionNow s && r.replica == 0
  let r := { r with c0 := v.c, commit := v.c, tail := v.c, returning := true, arrived := false, history := false }
  let ask (s : State) (n : Nat) : State :=
    sendHost s (bulkVia s) (.read (BitVec.ofNat 64 (s.ep.ftAddr.toNat + v.block * 65536)) s.ep.ftKey n)
  let plain : State := ask ((freeSets s i).setRequest i (some { r with chunk := .fresh })) (convSize s t [] v.c false)
  if !fit then plain
  else
    match makeRoom t (setsNeeded s t i v.c) (victims s (r.priority, r.tAdmit)) s with
    | none => plain
    | some s =>
      let s := bindSets s t i (setsNeeded s t i v.c) .returning
      ask (s.setRequest i (some { r with chunk := .resume })) (convSize s t (returningSets s i) v.c true)

/-- A live request that waits for the copy of its conversation to be written (R353). -/
def waiterOf (s : State) (conv : BitVec 64) : Option (Nat × Request) :=
  (liveRequests s).find? fun q => q.2.resume && q.2.conv == conv && q.2.returning && !q.2.arrived

/-- A request that has ended while its pages returned: the sets are freed, the copy stays (R353). -/
def endReturn (s : State) (i : Nat) (r : Request) : State :=
  let s := releaseConv (freeSets s i) r.conv
  s.setRequest i (some { r with returning := false, arrived := false })

/-- The requests that wait for the copy of a conversation learn of its end: a live one gets it back where it is stored and ends where
it is not, one that has ended frees what it holds (R346, R353). -/
def settleWaiters (s : State) (t : ServingTables) (conv : BitVec 64) : State :=
  let s := s.serve.table.foldl (fun (s : State) (q : Nat × Option Request) =>
    match q.2 with
    | some r =>
      if r.state == .ended && r.resume && r.conv == conv && r.returning && !r.arrived then endReturn s q.1 r else s
    | none => s) s
  match waiterOf s conv, s.kv.stored.find? fun v => v.conv == conv with
  | some (i, r), some v => beginReturn s t i r v
  | some (i, r), none => endRequest (s.setRequest i (some { r with returning := false })) i stConvExpired
  | none, _ => s

/-- The reads of a page's committed rows (R349). -/
def pageReads (p : PagePlace) : List Transfer := (pageRuns p.fmt4 p.rows).map fun r => .farRead (p.line + r.1 / 64) ((r.2 + 63) / 64)

/-- A transfer reads committed rows of a page. -/
def readsPage (p : PagePlace) : Transfer → Bool
  | .farRead x _ => (pageRuns p.fmt4 p.rows).any fun r => decide (p.line + r.1 / 64 ≤ x ∧ x < p.line + r.1 / 64 + (r.2 + 63) / 64)
  | _ => false

/-- Rows of a page have still to be read (R349, R353); those in a hole never are. -/
def unread (s : State) (p : PagePlace) : Bool :=
  (s.field (p.site / 74)).domain != .hole && (s.site p.site).transfers.any (readsPage p)

/-- The stored conversation of a handle is held by an admitted request (R351, R353). -/
def convHeld (s : State) (conv : BitVec 64) : Bool := s.kv.stored.any fun v => v.conv == conv && v.expires.isNone

/-- Reads of pages that no copy needs any more are dropped (R353). -/
def dropReads (s : State) (ps : List PagePlace) : State :=
  ps.foldl (fun s p => s.modSite p.site fun st => { st with transfers := st.transfers.filter fun x => !readsPage p x }) s

/-- The history's lines hold a poisoned one. -/
def historyPoison (s : State) (t : ServingTables) (m : FarMove) : Bool :=
  match historyPlace s t m.owner with
  | some (k, line) => (List.range ((4 * (m.c + 1) + 63) / 64)).any fun i => tget false (s.site k).linePoison (line + i)
  | none => false

/-- The history lies in a field that is a hole. -/
def historyLost (s : State) (t : ServingTables) (m : FarMove) : Bool :=
  match historyPlace s t m.owner with
  | some (k, _) => (s.field (k / 74)).domain == .hole
  | none => false

/-- A page can no longer be read whole: its field is a hole, or a line of it is poisoned (R349, R353). -/
def pageLost (s : State) (p : PagePlace) : Bool :=
  (s.field (p.site / 74)).domain == .hole || (pageLines p).any fun x => tget false (s.site p.site).linePoison x

/-- The bytes of a stored conversation: header, history and, when present, its pages (R350). -/
def convBytes (s : State) (m : FarMove) (pages : Bool) : Bytes :=
  convHeader m.conv m.layout m.version m.c (moveSets m) m.perSet m.fmt4 pages (crc32c m.history) ++
    (pad64 m.history ++ if pages then m.places.flatMap (sealedPage s) else [])

/-- The copy in progress whose pages have all been read is written to the lowest run of free blocks; one with a page lost, or whose payload
fails its check twice, without its pages; one that finds no room is not stored, and a copy of before under its handle is
forgotten (R346, R348, R349, R410). -/
def finishCopy (s : State) : State :=
  match s.kv.moves, servingTables s with
  | m :: rest, some t =>
    if !m.started || m.written || !bulkOpen s || convHeld s m.conv || m.places.any (unread s) then s
    else
      let pages := m.pages && !m.places.any (pageLost s) && decide (m.fails < 2)
      let data := convBytes s m pages
      let blocks := ceilDiv data.length 65536
      match lowestBlocks s m.conv blocks with
      | none => settleWaiters (forgetConv (endMove s m) m.conv) t m.conv
      | some b =>
        let s := forgetConv s m.conv
        let s : State := { s with kv := { s.kv with
          moves := { m with written := true, pages := pages, block := b, blocks := blocks } :: rest } }
        sendHost s (bulkVia s) (.write (BitVec.ofNat 64 (s.ep.ftAddr.toNat + b * 65536)) s.ep.ftKey data)
  | _, _ => s

/-- A line of the copy in progress arrived poisoned: its pages are abandoned (R349). -/
def abandonPages (s : State) : State :=
  match s.kv.moves with
  | m :: rest =>
    if !m.started || m.written then s
    else dropReads { s with kv := { s.kv with moves := { m with pages := false, places := [] } :: rest } } m.places
  | [] => s

/-- FAR_TIER_COPY (R346, R349, R350, R410): the first conversation that waits begins: its history is read, and the committed rows of its
pages are read by the cistern controllers as far-tier moves. A poisoned line leaves it without pages, and one whose history lies
in a hole is not stored. A conversation of the same handle that a request holds is waited for. -/
def execFarTierCopy (poisonedPages : Bool) (egressFails : Nat) (s : State) : Host.Outcome State Fault Refusal :=
  match s.kv.moves, servingTables s with
  | m :: rest, some t =>
    if m.started then done (finishCopy s)
    else if !bulkOpen s || !(s.power.ladder == .running || s.power.ladder == .poised) || convHeld s m.conv then done s
    else if historyLost s t m then done (forgetConv (endMove s m) m.conv)
    else
      let sets := outSets s m
      let pages := m.pages && !poisonedPages && !historyPoison s t m &&
        decide ((committedSets sets m.c).length = t.pools.length * ((m.c + 127) / 128))
      let places := if pages then pagesOf s t sets m.c else []
      let s := if egressFails = 0 then s else svcErr s 2
      let s : State := { s with kv := { s.kv with moves := { m with
        started := true, pages := pages, history := historyBytes s t m.owner m.c, places := places, fails := egressFails
        perSet := (t.pools.map fun pl => (pl.pages.filter fun g => g.lane == 0).length).sum
        fmt4 := t.pools.any (·.fmt4) } :: rest } }
      done (finishCopy (places.foldl (fun s p =>
        s.modSite p.site fun st => { st with transfers := st.transfers ++ pageReads p }) s))
  | _, _ => done s

/-- FAR_TIER_WRITE_COMPLETE (R347, R349, R353, R411): the conversation is stored and its sets are free; after an error it is stored
without pages if its header and history are written, else not at all. A request that waits for it then gets it back; the pages
of a copy in part serve that request alone. -/
def execFarTierWriteComplete (ok headerDone : Bool) (s : State) : Host.Outcome State Fault Refusal :=
  match s.kv.moves, servingTables s with
  | m :: _, some t =>
    if !m.written then done s
    else
      let s := endMove s m
      let pages := m.pages && ok && (!m.part || (waiterOf s m.conv).isSome)
      let s := if ok || headerDone then storeConv s m pages else s
      done (settleWaiters s t m.conv)
  | _, _ => done s

/-- The recompute path: every returning set is freed and the whole sequence is computed again (R351, R352). -/
def recomputePath (s : State) (i : Nat) (r : Request) : State :=
  let s := forgetConv (freeSets s i) r.conv
  s.setRequest i (some { r with chunk := .fresh, returning := false, arrived := false, readyAt := s.time.work })

/-- The runs of a returned page in its bytes (R350). -/
def pageWrites (p : PagePlace) (b : Bytes) : List Transfer :=
  ((pageRuns p.fmt4 p.rows).foldl (fun (q : Nat × List Transfer) r =>
    (q.1 + r.2, q.2 ++ [.farTier (p.line + r.1 / 64) (bytesAt b q.1 r.2)])) (0, [])).2

/-- A returned page passes its check: its rows, its place and its seal (R350, R352). -/
def pageGood (p : PagePlace) (b : Bytes) : Bool :=
  let n := (pageRuns p.fmt4 p.rows).foldl (fun n r => n + r.2) 0
  let at_ := (n + 63) / 64 * 64
  decide (b.length = at_ + 64) && fieldAt b at_ 4 == crc32c (bytesAt b 0 n) && fieldAt b (at_ + 4) 4 == p.rows &&
    fieldAt b (at_ + 8) 4 == p.j && fieldAt b (at_ + 12) 4 == p.idx

/-- FAR_TIER_READ_COMPLETE (R351 to R353, R411): a header or history that fails its CRC ends the request; pages that fail, or an
error completion, take the recompute path; good pages are written into their slices. -/
def execFarTierReadComplete (index : Nat) (data : Option FarTierData) (s : State) : Host.Outcome State Fault Refusal :=
  match s.request index, servingTables s with
  | some r, some t =>
    match s.kv.stored.find? fun v => v.conv == r.conv && v.expires.isNone with
    | none => done s
    | some v =>
      if !r.returning || r.arrived then done s
      else if r.state = .ended then done (endReturn s index r)
      else
        match data with
        | none =>
          let s := if r.delivered = r.promptLen then tokenParcels s t index (v.c + 1) r.tokens else s
          done (recomputePath s index { r with history := true, tokens := [] })
        | some d =>
          let hist := bytesAt d.history 0 (4 * (v.c + 1))
          let good := decide (d.header.length = 64) && fieldAt d.header 60 4 == crc32c (bytesAt d.header 0 60) &&
            fieldAt d.header 32 4 == crc32c hist && decide (hist.length = 4 * (v.c + 1))
          if !good then
            done (endRequest (s.setRequest index (some { r with returning := false })) index stDataError)
          else
            let words := (List.range (v.c + 1)).map fun i => BitVec.ofNat 32 (fieldAt hist (4 * i) 4)
            let s := tokenParcels s t index 0 words
            let s := if r.delivered = r.promptLen then tokenParcels s t index (v.c + 1) r.tokens else s
            let r := { r with history := true, tokens := [] }
            if r.chunk = .fresh then done (recomputePath s index r)
            else
              let ps := pagesOf s t (returningSets s index) v.c
              if ps.length = d.pages.length ∧ ((ps.zip d.pages).all fun q => pageGood q.1 q.2) then
                let s := (ps.zip d.pages).foldl (fun (s : State) (q : PagePlace × Bytes) =>
                  let s := (pageWrites q.1 q.2).foldl (fun s t => match t with
                    | .farTier x d => meshSend s (hostRouter (svcPort s)) (siteRouter s q.1.site) x 0 d
                    | _ => s) s
                  s.modSite q.1.site fun st => { st with transfers := st.transfers ++ pageWrites q.1 q.2 }) s
                done (s.setRequest index (some { r with arrived := true }))
              else done (recomputePath s index r)
  | _, _ => done s

/-- The returning sets of a request whose pages are all written become live (R352). -/
def settleReturns (s : State) : State :=
  match servingTables s with
  | none => s
  | some t =>
    s.serve.table.foldl (fun (s : State) (q : Nat × Option Request) =>
      match q.2 with
      | some r =>
        if !r.arrived then s
        else
          let ps := pagesOf s t (returningSets s q.1) r.c0
          let left := ps.any fun p => (s.site p.site).transfers.any fun x => match x with
            | .farTier line _ => (pageRuns p.fmt4 p.rows).any fun u => line == p.line + u.1 / 64
            | _ => false
          if left then s
          else if r.state = .ended then endReturn s q.1 r
          else
            let s : State := { s with kv := { s.kv with
              sets := s.kv.sets.map fun (p : PageSet) => if p.owner == q.1 && p.state == .returning then { p with state := .live } else p } }
            (forgetConv s r.conv).setRequest q.1 (some { r with returning := false, arrived := false, readyAt := s.time.work })
      | none => s) s

/-- TTL_EXPIRY (R347, R353): the handle is forgotten and its blocks are free, after the admission checks of a draw that began before
the time ran out. -/
def execTtlExpiry (conv : BitVec 64) (s : State) : Host.Outcome State Fault Refusal :=
  let due (v : StoredConv) : Bool := v.conv == conv && match v.expires with
    | some t => decide (t ≤ boardTime s) && !(s.serve.draw != .idle && decide (s.serve.drawTime ≤ t))
    | none => false
  done { s with kv := { s.kv with stored := s.kv.stored.filter fun v => !due v } }

end Sys2Proof.Machine
end

