-- ==== Sys2Proof/Machine/Serving.lean ====
section
/-! DEFINITION. Commands of the rings: draws, descriptors, prompts and completion records (R303 to R308, R335, R398 to R403,
R410). -/

namespace Sys2Proof.Machine

/-- Entries of the request ring and of the completion ring; 0 without rings (R416). -/
def rqEntries (s : State) : Nat := if bf s.ep.ringSize.toNat 4 0 = 0 then 0 else 2 ^ bf s.ep.ringSize.toNat 4 0
def cqEntries (s : State) : Nat := if bf s.ep.ringSize.toNat 20 16 = 0 then 0 else 2 ^ bf s.ep.ringSize.toNat 20 16

/-- Reads of the draw before are still outstanding: the index block, descriptors or a prompt (R400). -/
def drawBusy (s : State) : Bool :=
  s.serve.draw != .idle || (liveRequests s).any fun q => decide (q.2.delivered < q.2.promptLen)

/-- Entries of ended requests are free again; one whose pages still return waits for them (R318, R327, R353). -/
def freeEnded (s : State) : State :=
  { s with serve := { s.serve with table := s.serve.table.filter fun q => match q.2 with
    | some r => r.state != .ended || r.returning
    | none => false } }

/-- DRAW (R305, R308, R399, R400): in a stroke whose number is a multiple of the draw interval the module at position 0 frees the
entries of ended requests and reads the index block. -/
def execDraw (s : State) : Host.Outcome State Fault Refusal :=
  let n := bf s.ep.drawInt.toNat 8 0
  if !s.time.running || s.board.position ≠ 0 || strokeNo s % max 1 n ≠ 0 || s.serve.drawAt == some (strokeNo s) ||
      s.power.ladder == .dry then done s
  else
    let s := freeEnded { s with serve := { s.serve with drawAt := some (strokeNo s) } }
    if rqEntries s = 0 then done s
    else if drawBusy s then done { s with serve := { s.serve with drawSkip := satAdd s.serve.drawSkip 1 } }
    else
      let s : State := { s with serve := { s.serve with
        draw := .index, drawTime := s.time.epochStart + s.time.stroke * s.time.period } }
      done (sendHost s (svcVia s) (.read s.ep.idxAddr s.ep.svcKey 16))

/-- A read of a draw ended in an error completion: no descriptor is taken; after 3 failed draws in a row the service moves to the
alternate (R400). -/
def drawFailed (s : State) : State :=
  let s := svcErr { s with serve := { s.serve with draw := .idle, drawFails := s.serve.drawFails + 1 } } 4
  if 3 ≤ s.serve.drawFails ∧ tb s.ep.svcQp.toNat 31 = true then
    { s with serve := { s.serve with useAlt := true, drawFails := 0 } }
  else s

/-- A draw takes no descriptor (R60, R306, R474, R534): a master draws for the board, so a follower's demand above 64 stops it too,
for as long as that demand is in force (log entry 121). -/
def takesNone (s : State) : Bool :=
  s.plan.active.isNone || s.power.noDraw || decide (64 < s.board.demandOld) || decide (64 < s.heat.demandInForce) ||
    s.fw.pauseEpoch == some s.time.epoch

/-- Descriptors are asked for from ring entry n on: a run that wraps takes two reads. -/
def readDescriptors (s : State) (n count : Nat) : State :=
  let size := rqEntries s
  let i := n % size
  let a := min count (size - i)
  let ask (s : State) (j k : Nat) : State :=
    if k = 0 then s else sendHost s (svcVia s) (.read (BitVec.ofNat 64 (s.ep.rqAddr.toNat + 128 * j)) s.ep.svcKey (128 * k))
  ask (ask s i a) 0 (count - a)

/-- INDEX_READ_COMPLETE (R306, R398 to R401): up to 64 descriptors are taken, as many as the table has entries free. -/
def execIndexReadComplete (data : Option Bytes) (s : State) : Host.Outcome State Fault Refusal :=
  if s.serve.draw ≠ .index then done s
  else
    match data with
    | none => done (drawFailed s)
    | some b =>
      let s := drainPort s (svcPort s) false
      let producer := fieldAt b 0 8
      let s : State := { s with serve := { s.serve with cqSeen := BitVec.ofNat 64 (fieldAt b 8 8) } }
      let diff := (producer + 2 ^ 64 - s.serve.reqTaken.toNat) % 2 ^ 64
      let idle : State := { s with serve := { s.serve with draw := .idle, drawFails := 0 } }
      if rqEntries s < diff then done (svcErr idle 3)
      else
        let count := if takesNone s then 0 else min (min 64 diff) (8192 - s.serve.table.length)
        if count = 0 then done idle
        else
          done (readDescriptors { s with serve := { s.serve with draw := .descriptors count } } s.serve.reqTaken.toNat count)

/-- The positions of a request need more sets of some lane than it has slots (R335). -/
def neverFits (t : ServingTables) (rows : Nat) : Bool :=
  t.pools.any fun pl =>
    let n := (rows + 127) / 128
    decide (pl.slots < ceilDiv n (max 1 pl.lanes))

/-- A conversation that a RESUME may name: stored, not held and not expired before the stroke of the draw, or still on its way out
(R307, R347, R353); its C. -/
def convKnown (s : State) (conv : BitVec 64) : Option Nat :=
  match s.kv.stored.find? fun v => v.conv == conv with
  | some v => match v.expires with
    | some t => if s.serve.drawTime ≤ t then some v.c else none
    | none => none
  | none =>
    if (waiterOf s conv).isSome then none
    else (s.kv.moves.find? fun m => m.conv == conv).map (·.c)

/-- FP32 patterns that TOP_P and INV_TEMP may hold (R307). -/
def topPOk (w : Nat) : Bool := decide (1 ≤ w ∧ w ≤ 0x3F800000)
def invTempOk (w : Nat) : Bool := decide (w = 0x80000000 ∨ w < 0x7F800000)

/-- The first check of R307 and R335 that a request descriptor fails. -/
def descriptorRefused (s : State) (t : ServingTables) (d : Bytes) : Option Nat :=
  let kind := fieldAt d 8 1
  let flags := fieldAt d 10 1
  let drafts := fieldAt d 11 1
  let len := fieldAt d 12 4
  let new := fieldAt d 16 4
  let conv := BitVec.ofNat 64 (fieldAt d 80 8)
  let resume := tb flags 1
  let c0 := if resume then convKnown s conv else some 0
  let rows := len + new + drafts + if resume then c0.getD 0 + 1 else 0
  if 2 ≤ kind ∨ 8 ≤ flags ∨ fieldAt d 76 4 ≠ 0 ∨ fieldAt d 88 40 ≠ 0 then some stBadParameter
  else if len = 0 ∨ 131072 < len ∨ new = 0 ∨ (tb flags 0 = true ∧ (drafts = 0 ∨ 8 < drafts)) ∨ (tb flags 0 = false ∧ drafts ≠ 0) ∨
      t.vocab < fieldAt d 32 4 ∨ topPOk (fieldAt d 36 4) = false ∨ invTempOk (fieldAt d 28 4) = false then some stBadParameter
  else if c0.isNone then some stConvExpired
  else if largestBucket t < rows ∨ neverFits t rows = true then some stPromptTooLong
  else if tb flags 0 = true ∧ t.contSet = false then some stNoSpeculation
  else if (liveRequests s).any fun q => q.2.handle.toNat == fieldAt d 0 8 then some stHandleInUse
  else none

/-- The lowest free entry of the request table. -/
def freeIndex (s : State) : Nat := ((List.range 8192).find? fun i => (s.request i).isNone).getD 0

/-- A request is cancelled: at once, or at the end of its chunk or step (R307). -/
def cancelRequest (s : State) (handle : Nat) : State :=
  match (liveRequests s).find? fun q => q.2.handle.toNat == handle with
  | none => s
  | some (i, r) =>
    if r.state = .prefill ∨ inProgress s i = true then s.setRequest i (some { r with cancel := true })
    else endRequest s i stCancelled

/-- A sets-not-yet-read conversation becomes live again under its new owner, at once (R353). -/
def reviveMove (s : State) (i : Nat) (m : FarMove) : State :=
  { s with kv := { s.kv with
    sets := s.kv.sets.map fun (p : PageSet) =>
      if p.owner == m.owner && p.state == .outgoing && p.conv == m.conv then { p with owner := i, state := .live } else p
    moves := s.kv.moves.filter fun q => !(q.conv == m.conv && q.owner == m.owner) } }

/-- Logical sets of a copy in progress all of whose pages have been read (R353). -/
def readSets (s : State) (m : FarMove) : List Nat :=
  ((m.places.map (·.j)).eraseDups).filter fun j => !(m.places.any fun p => p.j == j && unread s p)

/-- The sets of a copy that have not been read whole become live under a new owner at once; the copy goes on with the others (R353). -/
def takeUnread (s : State) (i : Nat) (m : FarMove) : State :=
  let read := readSets s m
  let keep := m.places.filter fun p => read.contains p.j
  let s := dropReads s (m.places.filter fun p => !read.contains p.j)
  let m' := { m with places := keep, part := decide (keep ≠ m.places) }
  { s with kv := { s.kv with
    sets := s.kv.sets.map fun (p : PageSet) =>
      if p.owner == m.owner && p.state == .outgoing && p.conv == m.conv && !read.contains p.j then { p with owner := i, state := .live }
      else p
    moves := s.kv.moves.map fun q => if q.conv == m.conv && q.owner == m.owner then m' else q } }

/-- An admitted request resumes its conversation (R351, R353). -/
def resumeRequest (s : State) (t : ServingTables) (i : Nat) (r : Request) : State :=
  match s.kv.stored.find? fun v => v.conv == r.conv with
  | some v => beginReturn s t i r v
  | none =>
    match s.kv.moves.find? fun m => m.conv == r.conv with
    | none => s
    | some m =>
      let r := { r with c0 := m.c, commit := m.c, tail := m.c }
      let layout := match s.plan.active with | some p => p.header.kvLayout | none => 0
      let fit := m.pages && m.layout == layout && r.replica == 0 && ((outSets s m).all fun p => p.version == versionNow s)
      if m.started && (m.written || !fit || (readSets s m) ≠ []) then
        let s := if !m.written && fit then
            let s := takeUnread s i m
            pageMaps s t i (ownSets s i)
          else s
        finishCopy (s.setRequest i (some { r with returning := true, history := false }))
      else
        let hist := if m.started then m.history else historyBytes s t m.owner m.c
        let words := (List.range (m.c + 1)).map fun n => BitVec.ofNat 32 (fieldAt hist (4 * n) 4)
        let whole := fit
        let s := dropReads (if whole then reviveMove s i m else endMove s m) m.places
        let s := s.setRequest i (some { r with chunk := if whole then .resume else .fresh, history := true })
        let s := if whole then pageMaps s t i (ownSets s i) else s
        tokenParcels s t i 0 words

/-- The replica that an admitted request is assigned to: of those that run the one with the fewest requests decoding, the lowest position
winning ties (R428). -/
def pickReplica (s : State) : Nat :=
  if !multiplies s then 0
  else
    let load (w : Nat) : Nat := ((liveRequests s).filter fun q => q.2.replica == w && q.2.state == .decoding).length
    let runs := (List.range 4).filter fun w =>
      if w = 0 then !s.faults.restart else (followers s).contains w && !tb s.board.stopped.toNat w
    match sortBy (fun a b => decide (load a < load b ∨ (load a = load b ∧ a ≤ b))) runs with
    | w :: _ => w
    | [] => 0

/-- A request is admitted (R303, R308, R318): its parameters go to the mailboxes, its prompt is asked for, and an admission leaves
Poised, Held and Banked (R459, R460). -/
def takeIn (s : State) (t : ServingTables) (d : Bytes) : State :=
  let i := freeIndex s
  let flags : BitVec 8 := BitVec.ofNat 8 (fieldAt d 10 1)
  let len := fieldAt d 12 4
  let resume := tb flags.toNat 1
  let word (o : Nat) : Word := BitVec.ofNat 32 (fieldAt d o 4)
  let r : Request := {
    handle := BitVec.ofNat 64 (fieldAt d 0 8), priority := fieldAt d 9 1, flags := flags, drafts := fieldAt d 11 1
    promptLen := len, maxNew := fieldAt d 16 4, seed := BitVec.ofNat 64 (fieldAt d 20 8), invTemp := word 28
    topK := word 32, topP := word 36, ttft := fieldAt d 40 4, tbt := fieldAt d 44 4
    stop := (List.range 4).map fun n => word (48 + 4 * n), promptAddr := BitVec.ofNat 64 (fieldAt d 64 8)
    promptKey := word 72, conv := BitVec.ofNat 64 (fieldAt d 80 8), state := if resume then .waiting else .intake
    tAdmit := s.serve.drawTime, version := versionNow s, readyAt := s.time.work, replica := pickReplica s }
  let s := s.setRequest i (some r)
  let s := addParcel s t 1 i (leBytes 4 i ++ leBytes 8 r.seed.toNat ++ leBytes 4 r.invTemp.toNat ++ leBytes 4 r.topK.toNat ++
    leBytes 4 r.topP.toNat ++ (r.stop.flatMap fun w => leBytes 4 w.toNat) ++ leBytes 4 r.drafts)
  let s := sendHost s (svcVia s) (.read r.promptAddr r.promptKey (4 * len))
  let s := if resume then resumeRequest s t i r else s
  let low := match s.power.ladder with
    | .poised => !s.heat.forced
    | .held => true
    | .banked => !s.power.bankedReady
    | _ => false
  if low then askLeave s else s

/-- One descriptor (R304, R307). -/
def takeDescriptor (s : State) (d : Bytes) : State :=
  let handle := BitVec.ofNat 64 (fieldAt d 0 8)
  if fieldAt d 8 1 = 1 then
    if fieldAt d 9 119 = 0 then cancelRequest s handle.toNat else s
  else
    match servingTables s with
    | none => refusalRecord s handle stBadParameter
    | some t =>
      match descriptorRefused s t d with
      | some status => refusalRecord s handle status
      | none => takeIn s t d

/-- DESCRIPTOR_READ_COMPLETE (R307, R399, R400): the descriptors are taken in ring order, and the new request consumer is
written; the descriptors cross the mesh as service flits (R247). -/
def execDescriptorReadComplete (data : Option (List Bytes)) (s : State) : Host.Outcome State Fault Refusal :=
  match s.serve.draw with
  | .descriptors count =>
    match data with
    | none => done (drawFailed s)
    | some ds =>
      let s := drainPort s (svcPort s) false
      let s := meshSend s (hostRouter (svcPort s)) managerRouter s.serve.reqTaken.toNat 3 (ds.take count).flatten
      let s : State := { s with serve := { s.serve with
        draw := .idle, drawFails := 0, reqTaken := s.serve.reqTaken + BitVec.ofNat 64 count } }
      let s := sendHost s (svcVia s) (.write (BitVec.ofNat 64 (s.ep.idxAddr.toNat + 16)) s.ep.svcKey (leBytes 8 s.serve.reqTaken.toNat))
      done ((ds.take count).foldl takeDescriptor s)
  | _ => done s

/-- PROMPT_READ_COMPLETE (R303, R312, R351, R399): the tokens of a request's prompt wait for the mailboxes, behind the history of a
conversation that is resumed. -/
def execPromptReadComplete (index : Nat) (tokens : List Word) (s : State) : Host.Outcome State Fault Refusal :=
  match s.request index, servingTables s with
  | some r, some t =>
    if r.state = .ended ∨ r.promptLen ≤ r.delivered ∨ tokens.length < r.promptLen then done s
    else
      let s := drainPort s (svcPort s) false
      let toks := tokens.take r.promptLen
      let bad := toks.any fun w => decide (2 ^ 24 ≤ w.toNat)
      let first := if r.resume then r.c0 + 1 else 0
      let s := if r.history then tokenParcels s t index first toks else s
      match s.request index with
      | some r => done (s.setRequest index (some { r with
          delivered := r.promptLen, badToken := bad, tokens := if r.history then [] else toks }))
      | none => done s
  | _, _ => done s

/-- PROMPT_READ_FAILURE (R402): tried again up to 3 times, the last ones on the alternate; then the request ends. -/
def execPromptReadFailure (index : Nat) (s : State) : Host.Outcome State Fault Refusal :=
  match s.request index with
  | some r =>
    if r.state = .ended ∨ r.promptLen ≤ r.delivered then done s
    else if r.readFails < 3 then
      let s := s.setRequest index (some { r with readFails := r.readFails + 1 })
      done (sendHost s (retryVia s r.readFails) (.read r.promptAddr r.promptKey (4 * r.promptLen)))
    else done (endRequest (svcErr s 6) index stDataError)
  | none => done s

/-- The service class of the service port can send (R395, R415). -/
def serviceOpen (s : State) : Bool :=
  let p := s.port (svcPort s)
  portCarries s (svcPort s) && !(tb p.ctrl.toNat 5 && tb p.paused.toNat (bf p.prio.toNat 2 0))

/-- COMPLETION_RECORD_WRITE (R403, R410): the first record that waits goes into a free entry, and the producer after it; a record
that fails its check twice is not sent and makes a record of code 0x93. It crosses the mesh to its port as a service flit (R247). -/
def execCompletionRecordWrite (egressFails : Nat) (s : State) : Host.Outcome State Fault Refusal :=
  match s.serve.buffer with
  | [] => done s
  | c :: rest =>
    let n := cqEntries s
    let used := (s.serve.cqMade.toNat + 2 ^ 64 - s.serve.cqSeen.toNat) % 2 ^ 64
    if n ≤ used ∨ serviceOpen s = false then done s
    else
      let s := if egressFails = 0 then s else svcErr s 2
      let s : State := { s with serve := { s.serve with buffer := rest } }
      if 2 ≤ egressFails then
        done (ringPush s {
          severity := 2, stroke := BitVec.ofNat 60 (strokeNo s), location := locWord s 1 0 0 0 0 0 0 0x93
          handle := BitVec.ofNat 64 (fieldAt c.bytes 0 8) })
      else
        let at_ := s.ep.cqAddr.toNat + 64 * (s.serve.cqMade.toNat % n)
        let s := meshSend s managerRouter (hostRouter (svcPort s)) s.serve.cqMade.toNat 3 c.bytes
        let s := sendHost s (svcVia s) (.write (BitVec.ofNat 64 at_) s.ep.svcKey c.bytes)
        let s : State := { s with serve := { s.serve with cqMade := s.serve.cqMade + 1 } }
        done (sendHost s (svcVia s) (.write (BitVec.ofNat 64 (s.ep.idxAddr.toNat + 24)) s.ep.svcKey (leBytes 8 s.serve.cqMade.toNat)))

end Sys2Proof.Machine
end

