-- ==== Sys2Proof/Machine/LoadOps.lean ====
section
/-! DEFINITION. Weight-set loads: the manifest and its checks (R372 to R375), the fetch of its shards (R377 to R379), and where
a load leaves the fetching state (R377, R380). -/

namespace Sys2Proof.Machine

/-- Bytes of a range are all zero. -/
def zeroAt (b : Bytes) (o n : Nat) : Bool := (bytesAt b o n).all (· == 0)

/-- Two runs share a line. -/
def runsMeet (a n b m : Nat) : Bool := decide (a < b + m ∧ b < a + n)

/-- A layer record at an offset (R372). -/
def manLayer (b : Bytes) (o : Nat) : ManLayer :=
  { layer := fieldAt b o 2, shadow := tb (fieldAt b (o + 2) 1) 0, wideFmt := BitVec.ofNat 3 (fieldAt b (o + 3) 1)
    first := fieldAt b (o + 4) 4, count := fieldAt b (o + 8) 4 }

/-- An extent record at an offset (R372). -/
def manExtent (b : Bytes) (o : Nat) : ManExtent :=
  { kind := fieldAt b o 1, positions := BitVec.ofNat 8 (fieldAt b (o + 1) 1), fields := BitVec.ofNat 48 (fieldAt b (o + 2) 6)
    master := fieldAt b (o + 8) 4, staging := fieldAt b (o + 12) 4, lines := fieldAt b (o + 16) 4 }

/-- A shard record at an offset (R372). -/
def manShard (b : Bytes) (o : Nat) : ManShard :=
  { addr := BitVec.ofNat 64 (fieldAt b o 8), rkey := BitVec.ofNat 32 (fieldAt b (o + 8) 4), length := fieldAt b (o + 12) 4
    crc := BitVec.ofNat 32 (fieldAt b (o + 16) 4) }

/-- Offsets of the parts of a manifest (R372). -/
def manLayersAt : Nat := 0x1380
def manExtentsAt (b : Bytes) : Nat := manLayersAt + fieldAt b 6 2 * 16
def manShardsAt (b : Bytes) : Nat := manExtentsAt b + fieldAt b 20 4 * 32
def manEnd (b : Bytes) : Nat := manShardsAt b + fieldAt b 24 4 * 32

/-- The records of a manifest, its key still to be unwrapped. -/
def manifestSet (b : Bytes) : WeightSet :=
  { setId := BitVec.ofNat 64 (fieldAt b 8 8), version := BitVec.ofNat 32 (fieldAt b 16 4), layout := BitVec.ofNat 256 (fieldAt b 32 32)
    positions := BitVec.ofNat 8 (fieldAt b 28 1)
    layers := (List.range (fieldAt b 6 2)).map fun i => manLayer b (manLayersAt + 16 * i)
    extents := (List.range (fieldAt b 20 4)).map fun i => manExtent b (manExtentsAt b + 32 * i)
    shards := (List.range (fieldAt b 24 4)).map fun i => manShard b (manShardsAt b + 32 * i)
    key := 0 }

/-- The header holds what R372 lays down. -/
def headerOk (b : Bytes) : Bool :=
  fieldAt b 0 4 == 0x53575A57 && fieldAt b 4 2 == 1 && decide (1 ≤ fieldAt b 6 2 ∧ fieldAt b 6 2 ≤ 1024) && fieldAt b 16 4 != 0 &&
    decide (1 ≤ fieldAt b 20 4 ∧ fieldAt b 20 4 ≤ 65536) && decide (1 ≤ fieldAt b 24 4 ∧ fieldAt b 24 4 ≤ 65536) &&
    zeroAt b 29 3 && zeroAt b 64 64 && decide (manEnd b + 4 ≤ 8388608)

/-- The records hold what R372 lays down: reserved bytes 0, layers ascending, extents counted, an unused wrap record zero, the
layout digest and the CRC right. -/
def recordsOk (b : Bytes) : Bool :=
  let w := manifestSet b
  let la (i : Nat) : Nat := manLayersAt + 16 * i
  let xa (i : Nat) : Nat := manExtentsAt b + 32 * i
  let sa (i : Nat) : Nat := manShardsAt b + 32 * i
  ((List.range 4).all fun p => if tb w.positions.toNat p then zeroAt b (0x80 + 1216 * p + 1192) 24 else zeroAt b (0x80 + 1216 * p) 1216) &&
    (w.layers.zipIdx.all fun (r, i) =>
      decide (fieldAt b (la i + 2) 1 < 2 ∧ fieldAt b (la i + 3) 1 < 8) && (r.shadow || r.wideFmt == 0) &&
        decide (1 ≤ r.count ∧ r.first + r.count ≤ w.extents.length) && zeroAt b (la i + 12) 4) &&
    ((w.layers.zip (w.layers.drop 1)).all fun q => decide (q.1.layer < q.2.layer)) &&
    (w.extents.zipIdx.all fun (x, i) =>
      (x.kind == 0 || x.kind == 4) && (x.positions &&& ~~~w.positions) == 0 && zeroAt b (xa i + 20) 12) &&
    (w.shards.zipIdx.all fun (r, i) => decide (r.length % 4096 = 0) && zeroAt b (sa i + 20) 12) &&
    w.layout == sha3_256 (bytesAt b manLayersAt (manShardsAt b - manLayersAt)) &&
    fieldAt b (manEnd b) 4 == crc32c (bytesAt b 0 (manEnd b))

/-- Shard lengths: 64 MiB each but for the last, and the padded image in all (R372, R373). -/
def shardsOk (w : WeightSet) : Bool :=
  (w.shards.dropLast.all fun r => r.length == shardSize) && (w.shards.all fun r => decide (r.length ≤ shardSize)) &&
    (w.shards.foldl (fun n r => n + r.length) 0) == imageSize w

/-- Extents of one slice overlap neither in master nor in staging lines (R373). -/
def extentsApart (w : WeightSet) : Bool :=
  let xs := w.extents.zipIdx
  xs.all fun (x, i) => xs.all fun (y, j) =>
    decide (j ≤ i) || (x.positions &&& y.positions) == 0 || (x.fields &&& y.fields) == 0 ||
      (!runsMeet x.master x.lines y.master y.lines && !runsMeet x.staging x.lines y.staging y.lines)

/-- A run of lines of a field lies in a fixed region of a kind. -/
def inRegion (rs : List RegionRec) (kind f a n : Nat) : Bool :=
  rs.any fun r => r.kind == kind && r.place == 0 && tb r.fields.toNat f &&
    decide (r.base * 16384 ≤ a ∧ a + n ≤ (r.base + r.length) * 16384)

/-- The plan whose fixed regions govern a manifest: a staged one that has its layout where the active one has not, else the
active one (R373). -/
def governingPlan (s : State) (w : WeightSet) : Option Plan :=
  match s.plan.active, s.plan.pending with
  | some a, some p =>
    if a.header.weightLayout ≠ w.layout ∧ s.plan.stage = some .staged ∧ p.header.weightLayout = w.layout then some p else some a
  | some a, none => some a
  | none, some p => if s.plan.stage = some .staged ∧ p.header.weightLayout = w.layout then some p else none
  | none, none => none

/-- The whole MiB that runs of lines use: first and length. -/
def mibSpan (l : List (Nat × Nat)) : Option (Nat × Nat) :=
  match l.filter fun q => q.2 ≠ 0 with
  | [] => none
  | q :: qs =>
    let lo := qs.foldl (fun m r => min m (r.1 / 16384)) (q.1 / 16384)
    let hi := qs.foldl (fun m r => max m ((r.1 + r.2 + 16383) / 16384)) ((q.1 + q.2 + 16383) / 16384)
    some (lo, hi - lo)

/-- The provisional regions of a slice of a field at a position: kind, base and length in MiB (R373). -/
def provisionalRegions (w : WeightSet) (pos f : Nat) : List (Nat × Nat × Nat) :=
  let xs := w.extents.filter fun x => extentIn x pos f
  let of (kind : Nat) : List (Nat × Nat × Nat) :=
    match mibSpan ((xs.filter (·.kind == kind)).map fun x => (x.master, x.lines)) with
    | some q => [(kind, q)]
    | none => []
  of 0 ++ of 4 ++ match mibSpan (xs.map fun x => (x.staging, x.lines)) with
    | some q => [(3, q)]
    | none => []

/-- Provisional regions overlap neither one another nor the device region (R231, R373). -/
def provisionalOk (w : WeightSet) : Bool :=
  (bitList 4 w.positions.toNat).all fun p => allFields.all fun f =>
    let rs := (provisionalRegions w p f).zipIdx
    rs.all fun (a, i) => decide (a.2.1 + a.2.2 ≤ 1020) &&
      rs.all fun (b, j) => decide (j ≤ i) || !runsMeet a.2.1 a.2.2 b.2.1 b.2.2

/-- The data key of a set from the wrap record of this module (R375). -/
def unwrapSet (s : State) (b : Bytes) : Option (BitVec 512) :=
  let rec_ := bytesAt b (0x80 + 1216 * s.board.position.toNat) 1216
  if bytesAt rec_ 0 32 ≠ leBytes 32 (sha3_256 Config.kemKey).toNat then none
  else
    let secret := leBytes 32 (Config.decapsulate (bytesAt rec_ 32 1088)).toNat
    Config.keyUnwrap (sha3_256 (secret ++ bytesAt b 8 12)) (bytesAt rec_ 1120 72)

/-- The checks of a manifest, in order: layout and places, staging space, key wrap (R372 to R375). -/
def checkManifest (s : State) (b : Bytes) : Except Nat WeightSet :=
  let w := manifestSet b
  if !headerOk b || !recordsOk b || !shardsOk w || !extentsApart w then .error stBadManifest
  else if (w.positions &&& ~~~s.board.admittedMask) ≠ 0 then .error stBadManifest
  else
    let places : Except Nat Unit := match governingPlan s w with
      | none => if provisionalOk w then .ok () else .error stBadManifest
      | some p =>
        let all (q : ManExtent → List RegionRec → Nat → Bool) : Bool := w.extents.all fun x =>
          (bitList 4 x.positions.toNat).all fun pos => (bitList 48 x.fields.toNat).all (q x (p.regionsAt.getD pos []))
        if !all (fun x rs f => inRegion rs x.kind f x.master x.lines) then .error stBadManifest
        else if !all (fun x rs f => inRegion rs 3 f x.staging x.lines) then .error stStagingSpace
        else .ok ()
    match places with
    | .error e => .error e
    | .ok () => match unwrapSet s b with
      | none => .error stKeyWrap
      | some k => .ok { w with key := k }

/-- Provisional regions are placed in every slice that the manifest names (R373). -/
def placeProvisional (s : State) (w : WeightSet) : State :=
  allFields.foldl (fun (s : State) (f : Nat) =>
    match provisionalRegions w s.board.position.toNat f with
    | [] => s
    | rs =>
      let regs := rs.zipIdx.foldl (fun (q : Tbl (BitVec 32) × Tbl (BitVec 32)) (r, n) =>
        (tset 0 q.1 n (BitVec.ofNat 32 r.2.1), tset 0 q.2 n (BitVec.ofNat 32 (2 ^ 31 + r.1 * 2 ^ 24 + r.2.2)))) ([], [])
      (fieldSlices s f).foldl (fun (s : State) (k : Nat) => s.modSite k fun st => { st with
        provisional := true, active := { st.active with regionBase := regs.1, regionCtrl := regs.2 } }) s) s

/-- Ask the host for a shard (R378). -/
def askShard (s : State) (w : WeightSet) (i : Nat) : State :=
  match w.shards[i]? with
  | none => s
  | some r =>
    let s : State := { s with weights := { s.weights with
      requested := (s.weights.requested.filter fun (q : Nat × Nat) => q.1 != i) ++ [(i, boardTime s)] } }
    sendHost s (bulkVia s) (.read r.addr r.rkey r.length)

/-- Shards are requested in ascending index, at most 4 outstanding (R378). -/
def requestShards (s : State) (w : WeightSet) : State :=
  let left := (List.range w.shards.length).filter fun i =>
    !s.weights.arrived.contains i && !(s.weights.requested.any fun (q : Nat × Nat) => q.1 == i)
  (left.take (4 - s.weights.requested.length)).foldl (fun s i => askShard s w i) s

/-- A load begins on a module, in provisional regions where no plan governs (R373, R377). -/
def beginLoad (s : State) (w : WeightSet) : State :=
  let s := if (governingPlan s w).isNone then placeProvisional s w else s
  { s with weights := { s.weights with
    loading := some w, state := some .fetching, arrived := [], requested := [], crcFails := [], retries := []
    lastStatus := stAccepted } }

/-- A load starts from a manifest that passed its checks, on every module that holds slices of the set (R373, R377, R378). -/
def startLoad (s : State) (w : WeightSet) (manifest : Bytes) : State :=
  requestShards ((setFollowers s w).foldl (fun s p =>
    sendVc s { src := 0, dst := BitVec.ofNat 2 p, content := .manifest manifest }) (beginLoad s w)) w

/-- A follower takes the manifest of its master's load, with the key of its own wrap record (R375, R378). -/
def followLoad (s : State) (b : Bytes) : State :=
  beginLoad s { manifestSet b with key := (unwrapSet s b).getD 0 }

/-- Bytes of a load still wait to be written into staging. -/
def stagePending (s : State) : Bool := s.sites.any fun q => q.2.transfers.any fun t => match t with
  | .stage .. => true
  | _ => false

/-- A load whose shards are all in staging is staged; with no active plan its install starts at once (R377, R380). -/
def settleLoad (s : State) : State :=
  match s.weights.loading with
  | none => s
  | some w =>
    if s.weights.state = some .fetching ∧ w.shards.length ≤ s.weights.arrived.length ∧ stagePending s = false then
      let s : State := { s with weights := { s.weights with state := some .staged } }
      if s.plan.active.isNone && !(s.events.any fun v => v.kind == .install) then startInstall s else s
    else s

/-- The plaintext of a shard (R374). -/
def shardPlain (w : WeightSet) (i : Nat) (c : Bytes) : Bytes :=
  (List.range (c.length / 4096)).flatMap fun j =>
    bytesAt (Config.xtsDecrypt w.key (i * 16384 + j) (bytesAt c (4096 * j) 4096)) 0 4096

/-- Pieces of a shard for this module's slices set out over the mesh from a router and join their transfers into staging, the damaged
segments with their marks (R236, R373, R378, R409). -/
def stagePieces (s : State) (w : WeightSet) (origin : Nat × Nat) (pieces : List (Nat × Bytes)) (damaged : List Nat) : State :=
  (imageSlices s w).foldl (fun (s : State) (q : Nat × ManExtent × Nat) =>
    match pieces.find? fun p => decide (q.1 ≤ p.1 ∧ p.1 < q.1 + q.2.1.lines * 64) with
    | none => s
    | some (lo, data) =>
      let x := q.2.1.staging + (lo - q.1) / 64
      let s := meshSend s origin (siteRouter s q.2.2) x 0 data
      let bad := (List.range (data.length / 64)).filterMap fun i =>
        let seg := (lo + 64 * i) / 4096
        if damaged.contains seg then some (x + i, seg) else none
      s.modSite q.2.2 fun st => { st with
        transfers := st.transfers ++ [.stage x data]
        stageBad := (st.stageBad.filter fun r => !(decide (x ≤ r.1 ∧ r.1 < x + data.length / 64))) ++ bad }) s

/-- The bytes of a shard go into this module's staging, and those for other positions to the followers (R378). -/
def stageShard (s : State) (w : WeightSet) (i : Nat) (plain : Bytes) (damaged : List Nat) : State :=
  let a := i * shardSize
  let s := stagePieces s w (hostRouter (svcPort s)) (imagePieces w s.board.position.toNat a plain) (damaged.map (a / 4096 + ·))
  (setFollowers s w).foldl (fun s p =>
    sendVc s { src := 0, dst := BitVec.ofNat 2 p, content := .shard i (imagePieces w p a plain) }) s

/-- A follower takes its bytes of a shard from its master (R378). -/
def followShard (s : State) (origin : Nat × Nat) (i : Nat) (pieces : List (Nat × Bytes)) : State :=
  match s.weights.loading with
  | none => s
  | some w =>
    if s.weights.state ≠ some .fetching then s
    else
      let s := stagePieces s w origin pieces []
      settleLoad { s with weights := { s.weights with arrived := s.weights.arrived.filter (· != i) ++ [i] } }

/-- A shard that did not arrive is asked for again, at most 3 times (R379). -/
def retryShard (s : State) (w : WeightSet) (i : Nat) : State :=
  let n := tget 0 s.weights.retries i
  if 3 ≤ n then dropLoad s stShardMissing
  else askShard { s with weights := { s.weights with retries := tset 0 s.weights.retries i (n + 1) } } w i

end Sys2Proof.Machine
end

