-- ==== Sys2Proof/Machine/Thermal.lean ====
section
/-! DEFINITION. Commands of heat protection: the on-wafer and tray rounds, trips, the grace, the flow stop, shutdown, ageing
(R465 to R483, R513, R518). -/

namespace Sys2Proof.Machine

/-- A reading is plausible: not below inlet − 2 °C, not above 150 °C (R467). -/
def plausible (inlet x : Nat) : Bool := decide (inlet ≤ x + 16 ∧ x ≤ 1200)

/-- Governing reading of a pair with a plausible reading (R467). -/
def governing (inlet a b : Nat) : Option Nat :=
  match plausible inlet a, plausible inlet b with
  | true, true => some (max a b)
  | true, false => some (a + 40)
  | false, true => some (b + 40)
  | false, false => none

/-- Implausible readings of a pair. -/
def implausibles (inlet a b : Nat) : Nat := b2n (!plausible inlet a) + b2n (!plausible inlet b)

/-- The highest governing reading of the pairs of a kind and the pair that sets it (R467): a pair without a plausible reading
counts as the highest of the others + 5 °C; `none` where no pair has one. -/
def highest (inlet : Nat) (pairs : List (Nat × Nat)) : Option (Nat × Nat) :=
  let g := pairs.map fun p => governing inlet p.1 p.2
  let top := g.zipIdx.foldl (fun (m : Option (Nat × Nat)) q =>
    match q.1, m with
    | some v, some w => if w.1 < v then some (v, q.2) else m
    | some v, none => some (v, q.2)
    | none, _ => m) none
  match top with
  | some (v, i) => match g.findIdx? fun x => x.isNone with
    | some j => some (v + 40, j)
    | none => some (v, i)
  | none => none

/-- Counters of a pair after a round: disagreement, agreement, suspect, and whether it has become suspect (R467). -/
def pairStep (inlet a b disagree agree : Nat) (suspect : Bool) : Nat × Nat × Bool × Bool :=
  if plausible inlet a && plausible inlet b then
    if 48 < dist a b then
      let d := disagree + 1
      (d, 0, suspect || decide (3 ≤ d), !suspect && decide (3 ≤ d))
    else
      let g := agree + 1
      (0, g, suspect && decide (g < 16), false)
  else (0, 0, suspect, false)

/-- A field leaves the over state under its lower limits (R472). -/
def overNow (hot : Bool) (tL tD : Nat) : Bool :=
  if hot then !decide (tL < 720 ∧ tD < 640) else decide (760 ≤ tL ∨ 680 ≤ tD)

/-- A temperature of a field whose pairs of a kind have no plausible reading at all is a free value (R467, log entry 5). -/
def orFree (s : State) (h : Option (Nat × Nat)) (n : Nat) : State × (Nat × Nat) :=
  match h with
  | some q => (s, q)
  | none =>
    let (v, s) := takeFree s
    (s, (v.toNat % 2 ^ 16, v.toNat / 2 ^ 16 % n))

/-- A pair became suspect (R467). -/
def noteSuspect (s : State) : State := raiseAlert (thErr s 1) alThermal

/-- The readings of one field in a round (R467, R472, R475, R483). -/
def fieldRound (s : State) (r : FieldSensors) : State :=
  let f := r.field.val
  if isHole s f then s
  else
    let inlet := s.heat.inlet
    let logic := r.diode.zip r.ring
    let dram := r.dram1.zip r.dram3
    let n := (logic ++ dram).foldl (fun n p => n + implausibles inlet p.1 p.2) 0
    let s := if n = 0 then s else thErr (s.modField f fun fs => { fs with implausible := fs.implausible + n }) 0
    let s := (logic.take 74).zipIdx.foldl (fun (s : State) (q : (Nat × Nat) × Nat) =>
      let k := f * 74 + q.2
      let st := s.site k
      let p := pairStep inlet q.1.1 q.1.2 st.disagree st.agree st.suspect
      let s := s.setSite k { st with disagree := p.1, agree := p.2.1, suspect := p.2.2.1 }
      if p.2.2.2 then noteSuspect s else s) s
    let s := (dram.take 6).zipIdx.foldl (fun (s : State) (q : (Nat × Nat) × Nat) =>
      let fs := s.field f
      let p := pairStep inlet q.1.1 q.1.2 (tget 0 fs.dramDisagree q.2) (tget 0 fs.dramAgree q.2) (tget false fs.dramSuspect q.2)
      let s := s.setField f { fs with
        dramDisagree := tset 0 fs.dramDisagree q.2 p.1, dramAgree := tset 0 fs.dramAgree q.2 p.2.1
        dramSuspect := tset false fs.dramSuspect q.2 p.2.2.1 }
      if p.2.2.2 then noteSuspect s else s) s
    let (s, l) := orFree s (highest inlet (logic.take 74)) 74
    let (s, d) := orFree s (highest inlet (dram.take 6)) 6
    let running := s.power.ladder == .running
    s.modField f fun fs => { fs with
      tL := l.1, tLSite := l.2, tD := d.1, tDPos := d.2, hot := overNow fs.hot l.1 d.1
      history := (l.1 :: fs.history).take 4, means := if running then (l.1 :: fs.means).take 16 else []
      tripLogic := fs.tripLogic || (fs.tripWasLogic && decide (680 ≤ l.1 ∨ 600 ≤ d.1))
      tripDram := fs.tripDram || (fs.tripWasDram && decide (680 ≤ l.1 ∨ 600 ≤ d.1))
      coolRounds := if fs.offHeat && decide (l.1 < 640) then fs.coolRounds + 1 else 0 }

/-- The grace starts unless one runs or enforcement is on; floor load stops, and the host is asked to cut admission (R472,
R477). -/
def startGrace (s : State) : State :=
  let s := raiseAlert { s with power := { s.power with floorLoad := 0 }, heat := { s.heat with req := true } } alThermal
  if s.heat.graceEnd ≠ 0 ∨ s.heat.enforce = true then s
  else { s with heat := { s.heat with graceEnd := boardTime s + 50000000 } }

/-- The field with the highest governing reading, and that reading (R480). -/
def hottest (s : State) : Nat × Nat :=
  allFields.foldl (fun m f =>
    let v := max (s.field f).tL (s.field f).tD
    if m.2 < v then (f, v) else m) (0, 0)

/-- Shutdown (R479, R480): the record in OTP, THERM_TRIP_N, and a forced entry to Dry. -/
def shutDown (s : State) (cause : Nat) : State :=
  if s.heat.shutdown then s
  else
    let h := hottest s
    let rec_ : Bytes := leBytes 8 (boardTime s) ++ [BitVec.ofNat 8 cause, BitVec.ofNat 8 h.1] ++ leBytes 2 h.2 ++
      [BitVec.ofNat 8 (s.heat.inlet / 8), BitVec.ofNat 8 (s.heat.flow / 4)] ++ leBytes 2 0
    let s : State := if s.otp.shutdowns.length < 64 then { s with otp := { s.otp with shutdowns := s.otp.shutdowns ++ [rec_] } }
      else thErr s 4
    forceLadder { haltOthers s with heat := { s.heat with
      shutdown := true, tripPin := true, graceEnd := 0, enforce := false, firstEnforce := false, req := false, demand := 0
      forceDue := false, forced := false } } enterDry

/-- The shutdown tests of a round (R479). -/
def shutdownTest (s : State) : State :=
  let fs := s.fields.map (·.2)
  if fs.any fun q => decide (960 ≤ q.tL ∨ 880 ≤ q.tD) then shutDown s 2
  else if s.heat.flowStop && fs.any fun q =>
      decide (760 ≤ q.tL) || (match q.history[3]? with | some o => decide (o + 8 < q.tL) | none => false) then shutDown s 1
  else s

/-- The spread of the fields over 16 rounds at Running (R469). -/
def spreadTest (s : State) : State :=
  let sums := s.fields.filterMap fun q => if q.2.means.length = 16 then some (sumNat q.2.means) else none
  match sums with
  | [] => s
  | x :: xs =>
    if xs.foldl min x + 1024 < xs.foldl max x then raiseAlert (thErr s 2) alThermal else s

/-- Fields that return: one tripped whose bits the host has cleared and that has cooled down, and one switched off for heat
that has stayed cool while no other field is over (R471, R475). A field without a variant in force is free for the next
activation. -/
def heatReturns (s : State) : State :=
  allFields.foldl (fun s f =>
    let fs := s.field f
    let cooled := fs.tripped && decide (fs.tL < 680 ∧ fs.tD < 600) && !fs.tripLogic && !fs.tripDram && fs.lostStroke.isNone
    let cold := fs.offHeat && decide (16 ≤ fs.coolRounds) && !(s.fields.any fun q => q.1 != f && q.2.hot)
    if (cooled || cold) && !isHole s f then
      let s := s.modField f fun fs => { fs with tripWasLogic := false, tripWasDram := false }
      match s.plan.holeVariant with
      | some g =>
        if g.1 = s.board.position ∧ g.2.val = f ∧ s.plan.heatRetryAt ≤ boardTime s then nameOwn s (.heatReturn g.1 g.2) (heatEpoch s)
        else s
      | none => s.modField f fun fs => { fs with tripped := false }
    else s) s

/-- Polls of the field controllers: the second missed in a row restarts one, and it is back with the next poll it answers
(R513). -/
def pollControllers (s : State) (missed : List Field) : State :=
  let m := missed.map (·.val)
  { s with fields := allFields.foldl (fun t f => tmod {} t f fun fs =>
      if m.contains f then { fs with missed := fs.missed + 1, restarting := fs.restarting || decide (2 ≤ fs.missed + 1) }
      else { fs with missed := 0, restarting := false }) s.fields }

/-- ON_WAFER_ROUND (R466 to R475, R479, R513), once in 8 ms: from the start of epoch 0 on. -/
def execOnWaferRound (readings : List FieldSensors) (missedPolls : List Field) (s : State) :
    Host.Outcome State Fault Refusal :=
  let now := s.time.localTicks.toNat / 800000
  if !s.mgmt.ready || !s.time.established || s.heat.round == some now then done s
  else
    let s := { s with heat := { s.heat with round := some now } }
    let before := s.fields.any fun q => q.2.hot
    let s := readings.foldl fieldRound s
    let now := s.fields.any fun q => q.2.hot
    let s := if now && !before && !s.heat.shutdown then startGrace s else s
    let s := spreadTest s
    let s := shutdownTest s
    let s := heatReturns s
    done (pollControllers s missedPolls)

/-- GRACE_END (R473). -/
def execGraceEnd (s : State) : Host.Outcome State Fault Refusal :=
  if s.heat.graceEnd = 0 ∨ boardTime s < s.heat.graceEnd then done s
  else
    let s : State := { s with heat := { s.heat with graceEnd := 0 } }
    if (s.fields.any fun q => q.2.hot) || s.heat.flowWarn then
      done { s with heat := { s.heat with enforce := true, firstEnforce := true } }
    else done { s with heat := { s.heat with req := false } }

/-- TH_CLEAR_SHUTDOWN (R481). -/
def execThClearShutdown (s : State) : Host.Outcome State Fault Refusal := done (clearShutdown s).1

/-- A tray channel: the reading, or the last one, or after 3 missing rounds the value of R468. -/
def channel (r : Option Nat) (last miss absent : Nat) : Nat × Nat :=
  match r with
  | some v => (v, 0)
  | none => (if 3 ≤ miss + 1 then absent else last, miss + 1)

/-- The readings of a tray round (R466, R468). -/
def trayReadings (s : State) (r : TrayReading) : State :=
  let h := s.heat
  let i := channel r.inlet h.inlet h.inletMiss 320
  let o := channel r.outlet h.outlet h.outletMiss h.outlet
  let f := channel r.flow h.flow h.flowMiss 0
  let s : State := { s with heat := { h with
    inlet := i.1, inletMiss := i.2, outlet := o.1, outletMiss := o.2, flow := f.1, flowMiss := f.2 } }
  if 3 ≤ i.2 ∨ 3 ≤ o.2 ∨ 3 ≤ f.2 then thErr s 3 else s

/-- Flow warning (R476, R477). -/
def flowWarning (s : State) : State :=
  let h := s.heat
  let bad := decide (h.flow < h.minFlow ∨ h.maxInlet < h.inlet)
  if bad then
    let s : State := { s with heat := { h with flowWarn := true, flowGood := 0 } }
    if h.flowWarn then s else startGrace s
  else
    let n := h.flowGood + 1
    { s with heat := { h with flowGood := n, flowWarn := h.flowWarn && decide (n < 3) } }

/-- Flow stop (R478): enforcement at once, no grace, Poised is to be forced, and a wake in progress stops. -/
def flowStopTest (s : State) : State :=
  let h := s.heat
  if 48 ≤ h.flow then { s with heat := { h with flowStop := false } }
  else if h.flowStop then s
  else raiseAlert { s with
    heat := { h with
      flowStop := true, enforce := true, firstEnforce := !h.enforce, req := true, graceEnd := 0, forceDue := true }
    fields := tmapAll {} (fun _ fs => { fs with wake := false, wakeStep := 0 }) s.fields } alThermal

/-- HOST_CMD of the sideband (R518). -/
def hostCmd (s : State) (c : Byte) : State :=
  let answer (s : State) (n : Byte) : State := { s with heat := { s.heat with cmdStatus := n } }
  if c = 0 then answer s 0
  else if c = 1 then
    if s.power.ladder = .dry ∧ s.heat.shutdown = false then answer { s with power := { s.power with leaving := true } } 1
    else answer s 2
  else if c = 2 then
    let q := clearShutdown s
    answer q.1 (if q.2 then 1 else 2)
  else answer s 3

/-- What a tray round does once the module stands at Banked-ready or above. -/
def trayStep (s : State) (r : TrayReading) : State :=
  let s := trayReadings s r
  let s := if s.heat.inlet < 160 then raiseAlert s alThermal else s
  let s := flowStopTest (flowWarning s)
  let h := s.heat
  let calm := s.fields.all fun q => decide (q.2.tL ≤ 360 ∧ q.2.tD ≤ 360)
  let s : State := { s with heat := { h with
    hotInlet := if 360 < h.inlet then h.hotInlet + 1 else 0
    clearGood := if 144 ≤ h.flow ∧ 160 ≤ h.inlet ∧ h.inlet ≤ 320 ∧ calm = true then h.clearGood + 1 else 0 } }
  let s := if 3 ≤ s.heat.hotInlet then shutDown s 3 else s
  hostCmd s r.hostCmd

/-- FORCED_POISE (R478): within one round of a flow stop the module is forced into Poised. -/
def execForcedPoise (s : State) : Host.Outcome State Fault Refusal :=
  if !s.heat.forceDue then done s
  else
    let s : State := { s with heat := { s.heat with forceDue := false } }
    if s.power.ladder = .running ∨ s.power.ladder = .poised then
      done (haltOthers (forceLadder { s with heat := { s.heat with forced := true } } enterPoised))
    else done s

/-- ANALOG_TRIP (R470, R471): the field goes dark mid-stroke; its record is code 0x8C. -/
def execAnalogTrip (f : Field) (dram : Bool) (s : State) : Host.Outcome State Fault Refusal :=
  if isHole s f.val then done s
  else
    let s := s.modField f.val fun fs => { fs with
      tripLogic := fs.tripLogic || !dram, tripDram := fs.tripDram || dram
      tripWasLogic := fs.tripWasLogic || !dram, tripWasDram := fs.tripWasDram || dram, tripped := true
      wake := false, wakeStep := 0 }
    if (s.field f.val).domain = .running then
      done (ringPush (fieldDark s f.val) {
        severity := 3, stroke := BitVec.ofNat 60 (strokeNo s), location := locWord s 2 0 0 0 0 0 f.val 0x8C })
    else done s

/-- Number of a monitor in the field's table of end-of-life figures. -/
def monitorKey : AgeMonitor → Nat
  | .ring => 0
  | .duty => 1
  | .bond => 2
  | .dram => 3

/-- AGEING_MEASUREMENT (R438, R482): the figure of the monitor and of the field; a slowdown of 1.0 % + 0.5 % for each step taken
asks for one step of V1. -/
def execAgeingMeasurement (f : Field) (m : AgeMonitor) (value months : Nat) (s : State) :
    Host.Outcome State Fault Refusal :=
  if !tb s.heat.ctrl.toNat 0 || isHole s f.val then done s
  else
    let s := s.modField f.val fun fs =>
      let eols := tset 1023 fs.eols (monitorKey m) (min 1023 months)
      { fs with
        eols := eols, eol := (List.range 4).foldl (fun n i => min n (tget 1023 eols i)) 1023
        slow := match m with | .ring => min 255 value | _ => fs.slow
        margin := match m with | .dram => min 255 value | _ => fs.margin
        v1Call := match m with
          | .ring => fs.v1Call || (decide (10 + 5 * fs.v1Steps ≤ value) && decide (fs.v1 < 740))
          | _ => fs.v1Call }
    if (s.field f.val).eol < bf s.heat.ctrl.toNat 23 16 then done (raiseAlert s alAgeing) else done s

end Sys2Proof.Machine
end

