-- ==== Sys2Proof/Machine/Startup.lean ====
section
/-! DEFINITION. Contacts and start-up: PWR_EN, MOD_RESET_N, the bus, the steps of R519 with their holds, ROM recovery (R36, R417,
R442, R450, R502, R504, R519 to R521, R532, R533, R552 to R554). -/

namespace Sys2Proof.Machine

/-- The bus is within 48 to 56 V. -/
def busGood (s : State) : Bool := decide (4800 ≤ s.power.busCv.toNat ∧ s.power.busCv.toNat ≤ 5600)

/-- The firmware set that boots: the booting bank's, or the other bank's with the images accepted into it (R531, R532). -/
def bootSet (fw : FwState) (bank : Bool) : FwState :=
  if bank = fw.bankB then { inForce := fw.inForce, previous := fw.previous, bankB := bank }
  else
    let new := if fw.ready.isEmpty then fw.previous.getD fw.inForce
      else (List.range 4).map fun c => (tget none fw.ready c).getD (fw.inForce.getD c {})
    { inForce := new, previous := some fw.inForce, bankB := bank }

/-- What keeps start-up in step 2: tray identity, reference or coolant (R519, R521); 0 where nothing does. -/
def holdCause (e : StartupEnv) (minFlow maxInlet : Nat) : Nat :=
  let good (r : TrayReading) : Bool := match r.flow, r.inlet with
    | some f, some i => decide (minFlow ≤ f ∧ i ≤ maxInlet)
    | _, _ => false
  let last := e.rounds.drop (e.rounds.length - 3)
  if !e.trayOk then 2
  else if !(e.refclkFlag && e.refclk) then 3
  else if !(decide (3 ≤ last.length) && last.all good) then 1
  else 0

/-- Step 3 (R519): IR-MAIN and the links domains; a field with both converters failed or its fuse open is a hole. -/
def startFields (s : State) (e : StartupEnv) : State :=
  let s := e.badConverters.foldl (fun (s : State) (q : Field × Fin 2) =>
    s.modField q.1.val fun fs => { fs with convBad := if fs.convBad.contains q.2.val then fs.convBad else fs.convBad ++ [q.2.val] }) s
  allFields.foldl (fun s f =>
    s.modField f fun fs => { fs with domain := if fs.convBad.length = 2 ∨ fs.fuseOpen = true then .hole else .dark }) s

/-- Step 4 (R234, R502 to R504): the slices trained and cleared, the map built, the fields it leaves unmapped holes. -/
def startMap (s : State) (e : StartupEnv) : State :=
  let t := boardTime s
  let found : List Amendment := e.badChannels.map fun q =>
    { kind := 2, field := q.1.field, index := q.1.site.val, phys := 0, time := t, code := 0x82 }
  let tested : List Amendment := if s.mgmt.compat then
      (e.testCells.map fun c =>
        { kind := 1, field := c.field, index := c.site.val, phys := c.phys.val, time := t, code := 0 }) ++
        e.testSites.map fun q => { kind := 2, field := q.field, index := q.site.val, phys := 0, time := t, code := 0 }
    else []
  let s : State := { s with faults := { s.faults with withdrawals := s.faults.withdrawals ++ tested ++ found } }
  let s := applyDefects s
  let bad (k : Nat) (b : Bool) : Bool := e.badChannels.any fun q => siteKey q.1 == k && q.2 == b
  let s : State := { s with
    sites := (List.range (48 * 74)).foldl (fun t k => tmod {} t k fun st =>
      if isHole s (k / 74) then st
      else if bad k false || bad k true then
        { csError st csTrain 0 0 with chaOk := !bad k false, chbOk := !bad k true, cisState := .training }
      else clearSlice st) s.sites }
  settleHoles (allFields.foldl (fun s f => if !isHole s f && fieldUnmapped s s.faults.applied f then makeHole s f else s) s)

/-- Steps 2 to 5 (R519 to R521): the module holds in step 2, or comes up to Banked-ready. A position that the straps and the tray
identity give differently keeps it out of the board (R417). -/
def startSteps (s : State) (e : StartupEnv) : State :=
  let s : State := { s with
    mgmt := { s.mgmt with step := 2, startup := some e, pgOut := true }
    heat := { s.heat with minFlow := max 144 e.minFlow, maxInlet := min 320 e.maxInlet }
    board := { s.board with position := e.straps } }
  let h := holdCause e s.heat.minFlow s.heat.maxInlet
  if h ≠ 0 then { s with mgmt := { s.mgmt with hold := h } }
  else
    let g := (s.otp.settings.foldl (fun (m : Settings) q => if m.gen < q.gen then q else m) { gen := 0, compat := false, allow := [] })
    let s : State := { s with mgmt := { s.mgmt with
      hold := if e.trayPosition ≠ e.straps then 4 else 0, gen := g.gen, compat := g.compat } }
    let s := if e.plateOk then s else raiseAlert s alIdentity
    let s := startMap (startFields s e) e
    let s : State := { s with
      mgmt := { s.mgmt with
        hold := if s.mgmt.hold = 0 ∧ s.otp.mapOk = false ∧ s.mgmt.compat = false then 5 else s.mgmt.hold
        step := 5, ready := true }
      power := { s.power with
        ladder := .banked, bankedReady := true, floorBase := e.floorBase, floorBoost := e.floorBoost
        auxBad := s.power.auxBad ++ (e.badAux.map (·.val)).filter fun i => !s.power.auxBad.contains i }
      board := { s.board with
        admitted := false, admittedMask := if e.straps = 0 then 1 else 0
        reason := if e.trayPosition ≠ e.straps then 1 else 0 } }
    let last := (e.rounds.drop (e.rounds.length - 3))
    let s := last.foldl trayReadings s
    let s := if (s.fields.any fun q => q.2.convBad.length == 1) || !s.power.auxBad.isEmpty then raiseAlert s alPower else s
    if 2 ≤ s.power.auxBad.length then forceLadder (raiseModule s 4 0x96) enterDry else s

/-- Step 1 (R519, R532, R533): VAON up and the boot set verified; without one the ROM serves J-HOST0 alone. -/
def startUp (s : State) (e : StartupEnv) : State :=
  match e.bootSet with
  | none =>
    let s : State := { s with mgmt := { s.mgmt with step := 1, hold := 6, startup := some e, pgOut := true } }
    s.modPort 0 fun p => { p with link := true, fecLock := true }
  | some bank => startSteps { s with fw := bootSet s.fw bank, mgmt := { s.mgmt with step := 1, hold := 0 } } e

/-- MOD_RESET_RELEASE (R519, R552): start-up begins at step 1; with the bus out of range it waits for the bus (R554). -/
def execModResetRelease (env : StartupEnv) (s : State) : Host.Outcome State Fault Refusal :=
  let s : State := { s with power := { s.power with resetN := true } }
  if !s.power.pwrEn || s.mgmt.step ≠ 0 then done s
  else if s.power.busWait || !busGood s then
    done { s with power := { s.power with busWait := true }, mgmt := { s.mgmt with startup := some env } }
  else done (startUp s env)

/-- BUS_RISE (R552, R554): the bus stands within 48 to 56 V, and after 10 ms the converters may run; a start-up that waited for it
begins. -/
def execBusRise (s : State) : Host.Outcome State Fault Refusal :=
  let s : State := { s with power := { s.power with busCv := if busGood s then s.power.busCv else 5200, busWait := false } }
  match s.mgmt.startup with
  | some e => if s.power.pwrEn && s.power.resetN && s.mgmt.step == 0 then done (startUp s e) else done s
  | none => done s

/-- PWR_EN_HIGH (R552, R554): the converters are permitted; with the bus out of range they wait. -/
def execPwrEnHigh (s : State) : Host.Outcome State Fault Refusal :=
  done { s with power := { s.power with pwrEn := true, busWait := !busGood s } }

/-- PWR_EN_LOW (R554): every converter stops and VAON is lost; no completion record is written. -/
def execPwrEnLow (s : State) : Host.Outcome State Fault Refusal :=
  let t := vaonLost s
  done { t with power := { t.power with pwrEn := false } }

/-- MOD_RESET_ASSERT (R554): with PWR_EN high everything but OTP, the firmware in flash, and the withdrawals is cleared; open fuses
re-arm; IR-AUX stays up. -/
def execModResetAssert (s : State) : Host.Outcome State Fault Refusal :=
  if !s.power.pwrEn then done { s with power := { s.power with resetN := false } }
  else
    let t := vaonLost s
    done { t with
      power := { t.power with resetN := false }
      faults := { t.faults with withdrawals := s.faults.withdrawals }
      mgmt := { t.mgmt with pgOut := s.mgmt.pgOut } }

/-- TRAY_ROUND, once in 100 ms (R465, R466, R468, R476 to R479, R518, R519): a start-up held in step 2 tries its checks again; once the module is
ready, the coolant is judged and HOST_CMD is taken. -/
def execTrayRound (r : TrayReading) (s : State) : Host.Outcome State Fault Refusal :=
  let now := s.time.localTicks.toNat / 10000000
  if s.mgmt.ready then
    if s.heat.trayRound == some now then done s else done (trayStep { s with heat := { s.heat with trayRound := some now } } r)
  else
    match s.mgmt.startup with
    | some e => if s.mgmt.step = 2 then done (startSteps s { e with rounds := e.rounds ++ [r] }) else done s
    | none => done s

end Sys2Proof.Machine
end

