-- ==== Sys2Proof/Machine/Images.lean ====
section
/-! DEFINITION. Firmware images and test packs: layout and checks (R508, R530, R531, R533). -/

namespace Sys2Proof.Machine

/-- Parts of an image (R530). -/
def imgBlocks (b : Bytes) : Nat := fieldAt b 68 4
def imgLength (b : Bytes) : Nat := fieldAt b 64 4
def imgKeyAt (b : Bytes) : Nat := 128 + 32 * imgBlocks b
def imgSigAt (b : Bytes) : Nat := imgKeyAt b + 1312
def imgTextAt (b : Bytes) : Nat := imgSigAt b + 2420
def imgEnd (b : Bytes) : Nat := imgTextAt b + imgLength b

/-- The header holds what R530 lays down, the class is one the window takes, and the image fits the window. -/
def imgLayoutOk (b : Bytes) (pack : Bool) (size : Nat) : Bool :=
  fieldAt b 0 4 == 0x46575A57 && (if pack then fieldAt b 4 1 == 4 else decide (fieldAt b 4 1 < 4)) && fieldAt b 5 1 == 1 &&
    fieldAt b 6 2 == 0 && decide (fieldAt b 12 4 ≤ 255) && zeroAt b 72 56 && imgBlocks b == (imgLength b + 65535) / 65536 &&
    decide (imgEnd b ≤ size)

/-- The public key matches a vendor slot that is not revoked, and the signature verifies (R531). -/
def imgSigned (b : Bytes) : Bool :=
  let key := bytesAt b (imgKeyAt b) 1312
  (Config.vendorSlots.any fun v => v.1 == sha3_256 key && !v.2) &&
    Config.signatureOk key (bytesAt b 0 (imgSigAt b)) (bytesAt b (imgSigAt b) 2420)

/-- Every decrypted block matches its table entry (R531). -/
def imgBlocksOk (b : Bytes) : Bool :=
  let plain := Config.firmwareDecrypt (bytesAt b 48 16) (bytesAt b (imgTextAt b) (imgLength b))
  (List.range (imgBlocks b)).all fun i =>
    BitVec.ofNat 256 (fieldAt b (128 + 32 * i) 32) == sha3_256 (bytesAt plain (65536 * i) (min 65536 (imgLength b - 65536 * i)))

/-- The image a header describes; its measurement is the SHA3-256 of the image as it is stored (R528, R530). -/
def imgOf (b : Bytes) : FwImage :=
  { version := BitVec.ofNat 32 (fieldAt b 8 4), counter := fieldAt b 12 4
    compat := (List.range 4).map fun c => (BitVec.ofNat 32 (fieldAt b (16 + 8 * c) 4), BitVec.ofNat 32 (fieldAt b (20 + 8 * c) 4))
    digest := sha3_256 (bytesAt b 0 (imgEnd b)) }

/-- An image works with a version of a class; one whose ranges are not known works with any. -/
def worksWith (i : FwImage) (c : Nat) (v : Word) : Bool :=
  match i.compat[c]? with
  | some r => decide (r.1.toNat ≤ v.toNat ∧ v.toNat ≤ r.2.toNat)
  | none => true

/-- A new image and the images of the other classes in force admit each other (R531); in recovery those accepted so far stand
for the ones in force. -/
def imgCompatible (s : State) (cls : Nat) (i : FwImage) : Bool :=
  (List.range 4).all fun c =>
    if c = cls then true
    else
      let other : Option FwImage := if s.mgmt.hold = 6 then tget none s.fw.ready c else some (s.fw.inForce.getD c {})
      match other with
      | some o => worksWith i c o.version && worksWith o cls i.version
      | none => true

/-- The checks of a firmware image in their order (R531). -/
def checkImage (s : State) (b : Bytes) : Except Nat (Nat × FwImage) :=
  let cls := fieldAt b 4 1
  let i := imgOf b
  if !imgLayoutOk b false 268435456 then .error stImageFormat
  else if !imgSigned b then .error stBadSignature
  else if i.counter < s.otp.counters.getD cls 0 then .error stRollback
  else if !imgCompatible s cls i then .error stIncompatible
  else if !imgBlocksOk b then .error stBlockCheck
  else .ok (cls, i)

/-- The checks of a test pack (R508, R531): its counter is at or above the counter of class 4 in OTP; the content is as decoded,
with kernels of at most 256 bundles and 64 KiB of input. -/
def checkPack (s : State) (b : Bytes) (pack : Option TestPack) : Except Nat (TestPack × BitVec 256) :=
  if !imgLayoutOk b true 67108864 then .error stPackFormat
  else if !imgSigned b then .error stBadSignature
  else if fieldAt b 12 4 < s.otp.counters.getD 4 0 then .error stRollback
  else if !imgBlocksOk b then .error stPackFormat
  else
    match pack with
    | none => .error stPackFormat
    | some p =>
      if (p.kernels.all fun k => decide (k.bundles.length ≤ 256 ∧ k.input.length ≤ 65536)) &&
          p.table.all fun q => p.kernels.any fun k => k.number == q.2.2 then .ok (p, sha3_256 (bytesAt b 0 (imgEnd b)))
      else .error stPackFormat

/-- A class's image is ready (R531); in recovery the module restarts once every class has one (R533). -/
def acceptImage (s : State) (cls : Nat) (i : FwImage) : State :=
  let s : State := { s with fw := { s.fw with ready := tset none s.fw.ready cls (some i), status := stAccepted } }
  if s.mgmt.hold = 6 ∧ ((List.range 4).all fun c => (tget none s.fw.ready c).isSome) then
    match s.mgmt.startup with
    | some e => startUp s { e with bootSet := some (!s.fw.bankB) }
    | none => s
  else s

/-- An accepted test pack takes over at the next curb stroke, and the counter of class 4 advances (R508). -/
def acceptPack (s : State) (p : TestPack) (d : BitVec 256) (counter : Nat) : State :=
  { s with
    faults := { s.faults with packNext := some (p, d) }
    otp := { s.otp with counters := s.otp.counters.set 4 (max (s.otp.counters.getD 4 0) counter) } }

end Sys2Proof.Machine
end

