-- ==== Sys2Proof/Machine/WalkPath.lean ====
section
/-! DEFINITION. The loader's walk of a segment (R48, R133, R143, R152, R178, R282): the bundles that issue from its entry to the
stroke-end with every loop body expanded, and what the walk finds in them. -/

namespace Sys2Proof.Machine

/-- An entry of a segment table as a plan gives it: number, value, and the layer and form that write it, if a form does
(R277). -/
structure PlanEnt where
  num  : Nat
  val  : Nat
  form : Option (Nat × Bool) := none
deriving DecidableEq, Repr

/-- The entries of a cell under a plan's key: those of its segment table, then those the two forms of each layer write over them
(R87, R277). -/
def planEnts (p : Plan) (f : Nat) (m : LogCell) : List PlanEnt :=
  let own := match (p.segs f).find? fun r => r.place == m with
    | some r => r.entries.map fun e => ({ num := e.1, val := e.2.toNat } : PlanEnt)
    | none => []
  let form (l : LayerRec) (wide : Bool) : List PlanEnt :=
    ((if wide then l.wide else l.narrow).filter fun e => e.field.val == f && e.place == m).map fun e =>
      { num := e.entry, val := e.value.toNat, form := some (l.layer, wide) }
  own ++ p.precision.flatMap fun l => form l false ++ form l true

/-- Layers whose narrow, or wide, form writes an entry number. -/
def entLayers (ents : List PlanEnt) (n : Nat) (wide : Bool) : List Nat :=
  ents.filterMap fun e => match e.form with
    | some (k, w) => if e.num = n ∧ w = wide then some k else none
    | none => none

/-- Under every recipe some form writes an entry number: one layer writes it in both. -/
def entForms (ents : List PlanEnt) (n : Nat) : Bool := (entLayers ents n true).any fun k => (entLayers ents n false).contains k

/-- An entry number is valid under every recipe: each value that may stand there is (R87, R277). -/
def entValid (ents : List PlanEnt) (n : Nat) : Bool :=
  let l := ents.filter fun e => e.num == n
  (entForms ents n || l.any fun e => e.form.isNone) &&
    (l.filter fun e => e.form.isSome || !entForms ents n).all fun e => tb e.val 127

/-- What the walk finds: cause, the cell among those walked, segment entry, task, bundle, DETAIL and SCOPE (R300, R301). -/
structure WFind where
  cause  : Nat
  cell   : Nat
  seg    : Nat := 0
  task   : Nat := 0
  bundle : Nat := 0
  detail : Nat := 0
  scope  : Nat := 6
deriving DecidableEq, Repr

/-- One issue of a segment: address, bundle and what the four loop counters read where the segment has set them (R141). -/
structure WIssue where
  addr : Nat
  bits : Nat
  lcs  : Tbl (Option Nat)
deriving DecidableEq, Repr

/-- A logical cell as the walk sees it under one variant: its board position and record, patched code, segment entries in both
forms of every layer (R277), segment section, routes, the regions of its slice and its router (R239). -/
structure WCell where
  pos    : Nat
  field  : Nat
  m      : CellMapRec
  code   : List (BitVec 128)
  ents   : List PlanEnt
  seg    : SegRec
  routes : List (Nat × BitVec 64)
  regions : List (RegionRec × Nat)
  x      : Nat
  y      : Nat
  /-- CBASE of the eight tasks. -/
  cbases : List Nat
  /-- zone-relative addresses of the bundles that relocation patches (R290). -/
  fixed  : List Nat := []
  /-- the issues of each of `ents`; none where the path does not reach a stroke-end (R48, R143). -/
  paths  : List (Option (List WIssue)) := []
deriving DecidableEq, Repr

def WCell.p (w : WCell) : Bool := fieldIsP w.field

/-- Fields of a segment entry (R87). -/
def entTask (e : Nat) : Nat := bf e 126 124
def entAddr (e : Nat) : Nat := bf e 123 112
def entCount (e : Nat) : Nat := if tb e 87 then (if bf e 82 79 = 0 then 16 else bf e 82 79) else 1

/-- The entry numbers that may follow an entry (R87, R88). -/
def entNext (e : Nat) : List Nat := (List.range (entCount e)).map (bf e 95 88 + ·)

/-- The task record an entry names, if it is valid. -/
def WCell.task (w : WCell) (t : Nat) : Option TaskRec :=
  match w.m.tasks[t]? with
  | some r => if r.valid then some r else none
  | none => none

/-- The bundle at a task-relative address. -/
def WCell.bundle (w : WCell) (t : TaskRec) (a : Nat) : Nat := (w.code.getD (t.ibase + a) 0).toNat

/-- A loop instruction breaks a rule of R143. -/
def loopBad (get : Nat → Nat) (ibound a lc len : Nat) (open_ : List LoopFrame) : Bool :=
  decide (ibound ≤ a + len) || decide (4 ≤ open_.length) ||
    (open_.any fun f => f.lc == lc || decide (a + 1 ≤ f.last ∧ f.last < a + len)) ||
    bEnd (get a) || (List.range len).any fun i => bEnd (get (a + 1 + i))

/-- The issues from an address on, at most `fuel` of them, and the cause and address that cut the path short (R48, R141 to
R144); with `once` every loop body is gone through once only. -/
def walkPath (p : Bool) (get : Nat → Nat) (ibound : Nat) (once : Bool) :
    Nat → Nat → List LoopFrame → Tbl (Option Nat) → List WIssue × Option (Nat × Nat)
  | fuel, a, open_, lcs =>
    if ibound ≤ a then ([], some (0x01, a))
    else
      match fuel with
      | 0 => ([], some (0x22, a))
      | fuel + 1 =>
        let b := get a
        let here : WIssue := { addr := a, bits := b, lcs := lcs }
        match vDecode p b with
        | .loop lc count len =>
          if loopBad get ibound a lc len open_ then ([here], some (0x21, a))
          else
            let r := walkPath p get ibound once fuel (a + 1) (openLoop a lc (if once then 1 else count) len open_)
              (tset none lcs lc (some 0))
            (here :: r.1, r.2)
        | _ =>
          if bEnd b then ([here], none)
          else
            let (pc, open_, adv) := advance a open_
            let lcs := match adv with
              | some l => tmod none lcs l (·.map (· + 1))
              | none => lcs
            let r := walkPath p get ibound once fuel pc open_ lcs
            (here :: r.1, r.2)

/-- The path of a segment entry, when its task is valid. -/
def WCell.path (w : WCell) (e : Nat) : List WIssue × Option (Nat × Nat) :=
  match w.task (entTask e) with
  | some t => walkPath w.p (w.bundle t) t.ibound false 512 (entAddr e) [] []
  | none => ([], some (0x23, 0))

/-- What cuts a path short: more than 512 bundles, a loop that breaks a rule, an address at or beyond IBOUND. The last two are
sought along the whole path, beyond its 512 bundles too, each loop body gone through once (R48, R143). -/
def WCell.pathCuts (w : WCell) (e : Nat) : List (Nat × Nat) :=
  match w.task (entTask e) with
  | some t =>
    let full := (w.path e).2
    let rest := (walkPath w.p (w.bundle t) t.ibound true 3072 (entAddr e) [] []).2
    match full with
    | some (0x22, a) => (0x22, a) :: rest.toList
    | some c => [c]
    | none => []
  | none => []

/-- DETAIL of a router: its coordinate, an output and a cycle (R301). -/
def routerDetail (x y out cycle : Nat) : Nat := x % 128 + y % 64 * 2 ^ 7 + out % 8 * 2 ^ 13 + cycle % 65536 * 2 ^ 16

/-- The entry a route instruction names is one it may name (R178). -/
def routeNamed (w : WCell) (rid : Nat) (get : Bool) : Bool :=
  match w.routes.find? fun q => q.1 == rid with
  | some q => tb q.2.toNat 63 && tb q.2.toNat 62 == get
  | none => false

/-- What the path of an entry shows by itself: where it is cut short, reserved encodings, reads through a cache the task has
not, routes that are no routes (R48, R133, R143, R152, R178). -/
def pathFinds (w : WCell) (i : Nat) (ent : PlanEnt) : List WFind :=
  let e := ent.val
  if !tb e 127 || (w.task (entTask e)).isNone then []
  else
    let mk (cause bundle detail : Nat) : WFind :=
      { cause := cause, cell := i, seg := ent.num, task := entTask e, bundle := bundle, detail := detail }
    let cut := (w.pathCuts e).map fun (c, a) => mk c a (if c = 0x01 then a else 0)
    let seen := ((w.path e).1.zipIdx).flatMap fun (q : WIssue × Nat) =>
      let b := q.1.bits
      (if bundleOk w.p b then [] else [mk 0x20 q.1.addr 0]) ++
        (match xDecode w.p b with
          | .cchLd .. => if w.m.parts.any fun x => x.1 == entTask e && decide (0 < x.2) then [] else [mk 0x27 q.1.addr 0]
          | _ => []) ++
        match nDecode w.p b with
        | .routePut _ rid _ => if routeNamed w rid false then [] else [mk 0x40 q.1.addr (routerDetail w.x w.y 4 q.2)]
        | .routeGet _ _ rid _ => if routeNamed w rid true then [] else [mk 0x40 q.1.addr (routerDetail w.x w.y 4 q.2)]
        | _ => []
    -- one record for one bundle and cause
    cut ++ (seen.foldl (fun acc x => if acc.any fun y => y.cause == x.cause && y.bundle == x.bundle then acc else x :: acc) []).reverse

end Sys2Proof.Machine
end

