-- ==== Sys2Proof/Machine/WalkCell.lean ====
section
/-! DEFINITION. The walk of one cell through one working stroke (R52, R72 to R76, R116, R119, R122, R147, R159, R162, R164 to
R166, R190 to R192, R196): what is delivered when, what holds which port, and every address that can be derived. Cycles count
from the segment entry; those of earlier strokes are negative, those of later ones 512 and more. -/

namespace Sys2Proof.Machine

/-- Bytes of a bank word: the index of a row of a D-cell or of a unit of a P-cell, and the bytes [lo, hi) in it (R187). -/
structure BankBytes where
  word : Nat
  lo   : Nat
  hi   : Nat
deriving DecidableEq, Repr

/-- What a delivery does to what the walk tracks; a scalar says whether a patched value is in it (R291). A leaf or a load of the
root says what kind it gives the column, where it gives one (R119). -/
inductive WEff where
  | scalar (sd : Nat) (v : Option Nat) (fixed : Bool := false)
  | vector (vd : Nat)
  | slot (ws fmt : Nat)
  | leaf (t c : Nat) (kind : Option Bool)
  | root (t c : Nat) (kind : Option Bool)
  | drain (t c : Nat)
deriving DecidableEq, Repr

/-- A delivery to come. -/
structure WPend where
  due    : Int
  bundle : Nat
  eff    : WEff
deriving DecidableEq, Repr

/-- What the issues so far make of a tile column (R119): its accumulation kind, and the mode and kind of the leaves of the tree
it carries, if it carries any. -/
structure WKind where
  int  : Option Bool := none
  mode : Option Bool := none
  tree : Option Bool := none
deriving DecidableEq, Repr

/-- A read of the banks: its path (0 column, 1 vector, 2 network, 3 block), the cycle it is scheduled, its reference cycle and
its bytes; `real = false` reserves the banks only (R189, R193, R195, R200). -/
structure WRead where
  path  : Nat
  sched : Int
  ref   : Int
  /-- issue cycle of its instruction: within a port the earlier-issued goes first (R193). -/
  issue : Int
  bytes : List BankBytes
  real  : Bool := true
  src   : WFind
deriving DecidableEq, Repr

/-- A write to the banks: its path (0 block, 1 vector, 2 network, 3 fill), the cycle it takes the bank, the cycle it counts as
delivered, and its bytes (R194, R195, R197, R200). -/
structure WWrite where
  path  : Nat
  sched : Int
  due   : Int
  bytes : List BankBytes
  real  : Bool := true
  /-- a unit that arrives from another cell (R181). -/
  far   : Bool := false
  src   : WFind
deriving DecidableEq, Repr

/-- A use of the network port (R196). -/
structure WPort where
  sched : Int
  src   : WFind
deriving DecidableEq, Repr

/-- What one cell carries from stroke to stroke. -/
structure WAbs where
  slots  : Tbl (Option Nat) := []
  kinds  : Tbl WKind := []
  /-- the accumulation kind each column has by what was delivered to it (R119, R164). -/
  ints   : Tbl (Option Bool) := []
  /-- columns that hold a leaf since their last drain: t * 64 + c. -/
  dirty  : List Nat := []
  pend   : List WPend := []
  /-- the last delivery to a column: cycle and bundle. -/
  last   : Tbl (Option (Int × Nat)) := []
  engine : Int := 0
  mport  : Int := 0
  vport  : Int := 0
  /-- the first cycle in which a tile may be drained (R122). -/
  floor  : Tbl Int := []
  reads  : List WRead := []
  writes : List WWrite := []
  ports  : List WPort := []
  /-- writes waiting in the buffers, by bank (R194). -/
  bufs   : Tbl Nat := []
deriving DecidableEq, Repr

/-- A unit of a route or reduction at another cell (R179 to R182, R196): the cell, the task and relative unit, or a read. -/
structure WArrive where
  pos   : Nat
  field : Nat
  cl    : Nat
  cell  : Nat
  task  : Nat
  unit  : Option Nat
  read  : Bool
  ref   : Int
  issue : Int
  sched : Int
  src   : WFind
deriving DecidableEq, Repr

/-- A plan flit that enters a link (R244), or with `dir` above 4 a plan unit that enters a quad (R426). -/
structure WLink where
  pos    : Nat
  x      : Nat
  y      : Nat
  dir    : Nat
  plane  : Nat
  tenant : Nat
  at_    : Int
  src    : WFind
deriving DecidableEq, Repr

/-- A contribution to a reduction tree (R182). -/
structure WRed where
  tid : Nat
  n   : Nat
  op  : Nat
  at_ : Int
  src : WFind
deriving DecidableEq, Repr

/-- Units that leave through a cascade port (R426): board position, EXIT code, router of the quad, rid, count, issue cycle of unit
0, and how many working strokes ago. -/
structure WSend where
  pos  : Nat
  exit : Nat
  x    : Nat
  y    : Nat
  rid  : Nat
  n    : Nat
  at_  : Int
  age  : Nat := 0
  src  : WFind
deriving DecidableEq, Repr

/-- A burst access of the cistern map with what the walk knows of its request (R216 to R222): issue cycle, channel, activation
slot, the lines where they can be derived, and how many strokes ago it was issued. -/
structure WCis where
  pos     : Nat
  field   : Nat
  cl      : Nat
  cell    : Nat
  issue   : Int
  age     : Nat := 0
  chanB   : Bool
  slot    : Nat
  write   : Bool
  cache   : Bool
  wild    : Bool
  /-- bank group and bank, as derived or declared. -/
  bank    : Option (Nat × Nat)
  lines   : Option (List Nat)
  count   : Nat
  landing : List Nat
  src     : WFind
deriving DecidableEq, Repr

/-- What one cell does in one stroke of the walk. -/
structure WOut where
  abs    : WAbs
  finds  : List WFind := []
  sregs  : Tbl (Option Nat) := []
  /-- scalar registers that hold a value made from a patched one (R291). -/
  fixed  : List Nat := []
  arrive : List WArrive := []
  links  : List WLink := []
  reds   : List WRed := []
  sends  : List WSend := []
  cis    : List WCis := []
  posts  : Bool := false
  /-- pages that are appended to, where the walk knows their base, and whether at 4 bits (R329). -/
  pages  : List (Nat × Bool × WFind) := []
deriving DecidableEq, Repr

/-- What an issue of the walk knows: the cell and its index, the task, the entry, the cycle. -/
structure WCtx where
  w     : WCell
  t     : TaskRec
  cbase : Nat
  ent   : Nat
  cycle : Int
  lcs   : Tbl (Option Nat)
  /-- the bundle is patched (R290). -/
  fixed : Bool
  src   : WFind

/-- Record a finding at this issue; `other` is the bundle of the other party (R301). -/
def WOut.find (o : WOut) (k : WCtx) (cause : Nat) (other : Nat := 0) : WOut :=
  { o with finds := o.finds ++ [{ k.src with cause := cause, detail := k.cycle.toNat % 65536 + other % 4096 * 2 ^ 16 }] }

/-- Two deliveries to one register or slot, or to one tile column (R73, R162). -/
def sameTarget : WEff → WEff → Bool
  | .scalar a _ _, .scalar b _ _ => a == b
  | .vector a, .vector b => a == b
  | .slot a _, .slot b _ => a == b
  | _, _ => false

/-- Queue a delivery, with the checks of R73 and R162; s0 takes none (R79). -/
def WOut.deliver (o : WOut) (k : WCtx) (lat : Int) (eff : WEff) : WOut :=
  let due := k.cycle + lat
  let put (o : WOut) : WOut :=
    { o with abs := { o.abs with pend := o.abs.pend ++ [{ due := due, bundle := k.src.bundle, eff := eff }] } }
  let column (t c : Nat) : WOut :=
    let key := t * 64 + c
    let o := match tget none o.abs.last key with
      | some (d, b) => if due = d then o.find k 0x30 b else if due < d then o.find k 0x37 b else o
      | none => o
    put { o with abs := { o.abs with last := tset none o.abs.last key (some (due, k.src.bundle)) } }
  match eff with
  | .scalar 0 _ _ => o
  | .leaf t c _ => column t c
  | .root t c _ => column t c
  | .drain t c => column t c
  | e =>
    match o.abs.pend.find? fun q => decide (q.due = due) && sameTarget q.eff e with
    | some q => put (o.find k 0x30 q.bundle)
    | none => put o

/-- Deliveries due by a cycle take effect (R72). A column has received a leaf from the leaf's delivery on, and its last drain
counts from the drain's delivery: R116 names no cycle (DESIGN CHOICE, log entry 96). -/
def WOut.settle (o : WOut) (now : Int) : WOut :=
  let ready := sortBy (fun a b : WPend => decide (a.due ≤ b.due)) (o.abs.pend.filter fun q => decide (q.due ≤ now))
  let o : WOut := { o with abs := { o.abs with pend := o.abs.pend.filter fun q => decide (now < q.due) } }
  let kind (o : WOut) (t c : Nat) (k : Option Bool) : WOut :=
    if k.isSome then { o with abs := { o.abs with ints := tset none o.abs.ints (t * 64 + c) k } } else o
  ready.foldl (fun o q =>
    match q.eff with
    | .scalar sd v x => { o with
        sregs := tset none o.sregs sd v, fixed := if x then sd :: o.fixed else o.fixed.filter (· != sd) }
    | .vector _ => o
    | .slot ws f => { o with abs := { o.abs with slots := tset none o.abs.slots ws (some f) } }
    | .leaf t c k => kind { o with abs := { o.abs with dirty := (t * 64 + c) :: o.abs.dirty.filter (· != t * 64 + c) } } t c k
    | .root t c k => kind o t c k
    | .drain t c => { o with abs := { o.abs with dirty := o.abs.dirty.filter (· != t * 64 + c) } }) o

/-- What a scalar register holds, where the walk knows it (R79, R192). -/
def WOut.sreg (o : WOut) (n : Nat) : Option Nat := if n = 0 then some 0 else tget none o.sregs n

/-- What a source operand reads, where the walk knows it (R136, R192). -/
def WOut.source (o : WOut) (k : WCtx) (n : Nat) : Option Nat := if n < 32 then o.sreg n else tget none k.lcs (n - 32)

/-- Some source operand holds a value made from a patched one (R291). -/
def WOut.tainted (o : WOut) (l : List Nat) : Bool := l.any o.fixed.contains

/-- A scratchpad address; one that cannot be derived is dynamic (R192), one that a patched value reaches is refused (R291). -/
def WOut.spAddr (o : WOut) (k : WCtx) (r off : Nat) : WOut × Option Nat :=
  match o.sreg r with
  | some v =>
    (if o.fixed.contains r then { o with finds := o.finds ++ [{ k.src with cause := 0x1B }] } else o, some ((v + off) % 2 ^ 32))
  | none => (o.find k 0x38, none)

/-- A run of n units whose address the walk knows reaches beyond SBOUND: the first such unit is the DETAIL (R85, R282, R301; that
the loader refuses what it can derive is DEDUCED, log entry 99). -/
def WOut.spBound (o : WOut) (k : WCtx) (addr : Option Nat) (n : Nat) : WOut :=
  match addr with
  | some a => if k.t.sbound < a + n then { o with finds := o.finds ++ [{ k.src with cause := 0x02, detail := max a k.t.sbound % 2 ^ 32 }] } else o
  | none => o

/-- A run of n lines whose relative address the walk knows reaches beyond CBOUND (R85, R151, R282, R301; log entry 99). -/
def WOut.cisBound (o : WOut) (k : WCtx) (addr : Option Nat) (n : Nat) : WOut :=
  match addr with
  | some a => if k.t.cbound < a + n then { o with finds := o.finds ++ [{ k.src with cause := 0x03, detail := max a k.t.cbound % 2 ^ 32 }] } else o
  | none => o

/-- Units that n bytes from byte `o` of a unit on touch. -/
def unitsOf (o n : Nat) : Nat := (o + n + 63) / 64

/-- Bank words of n bytes from a physical byte on (R187). -/
def bankBytes (p : Bool) (b n : Nat) : List BankBytes :=
  let sz := if p then 64 else 32
  if n = 0 then []
  else (List.range ((b + n - 1) / sz - b / sz + 1)).map fun i =>
    let w := b / sz + i
    { word := w, lo := b - w * sz, hi := min sz (b + n - w * sz) }

/-- Bank words of n bytes from byte `o` of a task-relative unit on, as far as its units are in bound (R85, R137). -/
def WCtx.bytes (k : WCtx) (unit o n : Nat) : List BankBytes :=
  (bankBytes k.w.p ((k.t.sbase + unit) * 64 + o) n).filter fun q =>
    decide (q.word * (if k.w.p then 64 else 32) / 64 < k.t.sbase + k.t.sbound)

/-- Cut bank words into j consecutive pieces as equal as possible, the earlier the larger (R190). -/
def pieces (l : List BankBytes) (j : Nat) : List (List BankBytes) :=
  let n := l.length
  (List.range j).map fun i => (l.drop (i * (n / j) + min i (n % j))).take (n / j + (if i < n % j then 1 else 0))

def WOut.read (o : WOut) (k : WCtx) (path : Nat) (sched : Int) (bytes : List BankBytes) (real : Bool := true) : WOut :=
  { o with abs := { o.abs with
      reads := o.abs.reads ++
        [{ path := path, sched := sched, ref := k.cycle, issue := k.cycle, bytes := bytes, real := real, src := k.src }] } }

def WOut.write (o : WOut) (k : WCtx) (path : Nat) (sched due : Int) (bytes : List BankBytes) (real : Bool := true) : WOut :=
  { o with abs := { o.abs with
      writes := o.abs.writes ++ [{ path := path, sched := sched, due := due, bytes := bytes, real := real, src := k.src }] } }

def WOut.port (o : WOut) (k : WCtx) (sched : Int) : WOut :=
  { o with abs := { o.abs with ports := o.abs.ports ++ [{ sched := sched, src := k.src }] } }

/-- The block path holds the matrix port for j cycles; a holder before it that still does is refused (R166). -/
def WOut.holdM (o : WOut) (k : WCtx) (j : Nat) : WOut :=
  let o := if k.cycle < o.abs.mport then o.find k 0x32 else o
  { o with abs := { o.abs with mport := k.cycle + j } }

/-- The vector port is held by a cmpcnt (R147). -/
def WOut.useV (o : WOut) (k : WCtx) : WOut := if k.cycle < o.abs.vport then o.find k 0x32 else o

/-- The block path reads a run of bytes in j pieces from issue on (R190). -/
def WOut.blockRead (o : WOut) (k : WCtx) (addr : Option Nat) (off n j : Nat) : WOut :=
  let o := o.spBound k addr (unitsOf off n)
  match addr with
  | none => o
  | some u => (pieces (k.bytes u off n) j).zipIdx.foldl (fun o q => o.read k 3 (k.cycle + q.2) q.1) o

/-- The block path writes a run of bytes in j pieces, each seen in the cycle after it moves (R163, R190). -/
def WOut.blockWrite (o : WOut) (k : WCtx) (addr : Option Nat) (n j : Nat) : WOut :=
  let o := o.spBound k addr (unitsOf 0 n)
  match addr with
  | none => o
  | some u => (pieces (k.bytes u 0 n) j).zipIdx.foldl (fun o q => o.write k 0 (k.cycle + q.2 + 1) (k.cycle + q.2 + 1) q.1) o

/-- The network port reads n units from issue on (R196). -/
def WOut.portReads (o : WOut) (k : WCtx) (addr : Option Nat) (n : Nat) : WOut :=
  (List.range n).foldl (fun (o : WOut) (i : Nat) =>
    let o := o.port k (k.cycle + i)
    match addr with
    | some u => o.read k 2 (k.cycle + i) (k.bytes (u + i) 0 64)
    | none => o) (o.spBound k addr n)

/-- Tile columns c0 to c0 + n - 1. -/
def columns (c0 n : Nat) : List Nat := (List.range n).map (c0 + ·)

/-- acc.ld and acc.restore: the roots of columns are loaded and take a kind; undrained leaves of the other kind would be added to
them (R119). -/
def WOut.loadRoots (o : WOut) (k : WCtx) (t : Nat) (cols : List Nat) (lat : Int) (kind : Nat → Bool) : WOut :=
  let bad := cols.any fun c => (tget ({} : WKind) o.abs.kinds (t * 64 + c)).tree == some (!kind c)
  cols.foldl (fun (o : WOut) (c : Nat) =>
    let o := o.deliver k lat (.root t c (some (kind c)))
    let kinds := tmod ({} : WKind) o.abs.kinds (t * 64 + c) (fun (q : WKind) => { q with int := some (kind c) })
    { o with abs := { o.abs with kinds := kinds } }) (if bad then o.find k 0x35 else o)

/-- The M slot of the walk. An mma that is not FIRST on a column of unknown kind breaks R119, since nothing has set the kind it
must not change (DESIGN CHOICE, log entry 96). (R74 to R76, R116, R118 to R120, R122, R158 to R166, R190, R191). -/
def walkM (k : WCtx) (o : WOut) : MOp → WOut
  | .nop | .reserved => o
  | .wld ws fmt sB h off =>
    let j := wldCycles k.w.p fmt
    let o := o.holdM k j
    let (o, a) := o.spAddr k sB off
    let o := o.blockRead k a (if h then 32 else 0) (rowBytes fmt (cellKb k.w.p) (cellRows k.w.p)) j
    o.deliver k (j + 3) (.slot ws fmt)
  | .accLd int t c0 n sB =>
    let b := 4 * cellRows k.w.p * n
    let j := accCycles b
    let o := o.holdM k j
    let (o, a) := o.spAddr k sB 0
    let o := o.blockRead k a 0 b j
    o.loadRoots k t (columns c0 n) (j + 3) fun _ => int
  | .accSt t c0 n sB =>
    let o := if (columns c0 n).any fun c => o.abs.dirty.contains (t * 64 + c) then o.find k 0x34 else o
    let flag := (columns c0 n).any fun c => tget none o.abs.ints (t * 64 + c) == some true
    let b := 4 * cellRows k.w.p * n + (if flag then 64 else 0)
    let j := accCycles b
    let o := o.holdM k j
    let (o, a) := o.spAddr k sB 0
    o.blockWrite k a b j
  | .accSave t sB off =>
    let cols := columns 0 (cellCols k.w.p)
    let o := if cols.any fun c => o.abs.dirty.contains (t * 64 + c) then o.find k 0x34 else o
    let b := 5 * cellRows k.w.p * cellCols k.w.p
    let j := accCycles b
    let o := o.holdM k j
    let (o, a) := o.spAddr k sB off
    o.blockWrite k a b j
  | .accRestore t sB off =>
    let b := 5 * cellRows k.w.p * cellCols k.w.p
    let j := accCycles b
    let o := o.holdM k j
    let (o, a) := o.spAddr k sB off
    let o := o.blockRead k a 0 b j
    let mask := match k.w.seg.restore.find? fun q => q.1 == k.src.bundle with
      | some q => q.2.toNat
      | none => 0
    o.loadRoots k t (columns 0 (cellCols k.w.p)) (j + 3) (tb mask)
  | .mma ws t c0 n sA fa first ref int =>
    let o := if k.cycle < o.abs.engine then o.find k 0x31 else o
    let slot := tget none o.abs.slots ws
    let o := match slot with
      | none => o.find k 0x36
      | some f => if int && !fmtIntOk f then o.find k 0x36 else o
    let cyc := mmaCycles (slot.getD fa) fa n ref
    let mixed := !first && (columns c0 n).any fun c =>
      let q := tget ({} : WKind) o.abs.kinds (t * 64 + c)
      q.int != some int || q.mode == some (!ref) || q.tree == some (!int)
    let o := if mixed then o.find k 0x35 else o
    let o := (columns c0 n).foldl (fun (o : WOut) (c : Nat) =>
      let o := o.deliver k (cyc + 11) (.leaf t c (if first then some int else none))
      let kinds := tmod ({} : WKind) o.abs.kinds (t * 64 + c)
        (fun (q : WKind) => { int := if first then some int else q.int, mode := some ref, tree := some int })
      { o with abs := { o.abs with kinds := kinds } }) o
    let o : WOut := { o with abs := { o.abs with
      engine := k.cycle + cyc
      floor := tset 0 o.abs.floor t (max (tget 0 o.abs.floor t) (k.cycle + cyc + 3)) } }
    let (o, a) := o.spAddr k sA 0
    match a with
    | none => o
    | some u =>
      let nb := rowBytes fa (cellKb k.w.p) 1
      let o := (List.range n).foldl (fun (o : WOut) (j : Nat) => o.spBound k (some (u + 2 * j)) (unitsOf 0 nb)) o
      let col (j : Nat) : List BankBytes := k.bytes (u + 2 * j) 0 nb
      let group := if k.w.p then 4 else 8
      (List.range ((n + group - 1) / group)).foldl (fun (o : WOut) (g : Nat) =>
        o.read k 0 (k.cycle + g) (((List.range n).filter fun (j : Nat) => j / group == g).flatMap col)) o

/-- The V slot of the walk (R79, R140, R141, R168, R192). -/
def walkV (k : WCtx) (o : WOut) : VOp → WOut
  | .nop | .reserved | .loop .. => o
  | .alu op sd a b c =>
    let v := match o.source k a, o.source k b, (if op = 0x0E then o.source k c else some 0) with
      | some x, some y, some z => some (aluR op x y z)
      | _, _, _ => none
    o.deliver k 6 (.scalar sd v (o.tainted (if op = 0x0E then [a, b, c] else [a, b])))
  | .getv sd _ _ => o.deliver k 6 (.scalar sd none)
  | .imm op sd a im => o.deliver k 6 (.scalar sd ((o.source k a).map fun x => aluI op x im) (k.fixed || o.tainted [a]))
  | .upper lui sd im => o.deliver k 6 (.scalar sd (some (aluU lui im)) k.fixed)
  | .post .. => { o with posts := true }
  | .v3 op vd _ _ _ => o.deliver k (latV3 op) (.vector vd)
  | .vs _ vd _ _ => o.deliver k 6 (.vector vd)
  | .vquant vd _ _ _ => o.deliver k 6 (.vector vd)
  | .vdeq vd _ _ _ => o.deliver k 6 (.vector vd)
  | .vrng vd _ _ _ _ => o.deliver k 14 (.vector vd)

/-- A tile access whose unit the walk knows reaches a unit out of bound: the first such one, relative to SBASE (R85, R148). -/
def WOut.tileBound (o : WOut) (k : WCtx) (addr : Option Nat) : WOut :=
  match addr with
  | none => o
  | some u =>
    let base := (k.t.sbase + u) / 16 * 16
    match ((List.range 16).map (base + ·)).find? fun x => !decide (k.t.sbase ≤ x ∧ x < k.t.sbase + k.t.sbound) with
    | some x => { o with finds := o.finds ++ [{ k.src with cause := 0x02, detail := (((x : Int) - k.t.sbase) % 2 ^ 32).toNat }] }
    | none => o

/-- The bytes of the tile column of sp.ldc and sp.stc (R148). -/
def WCtx.tileBytes (k : WCtx) (u col : Nat) : List BankBytes :=
  let base := (k.t.sbase + u) / 16 * 16
  (List.range 32).flatMap fun j =>
    let unit := base + j / 2
    if k.t.sbase ≤ unit ∧ unit < k.t.sbase + k.t.sbound then bankBytes k.w.p (base * 64 + 32 * j + 4 * col) 4 else []

/-- The task-relative line of a cistern operand, where it can be derived (R137, R221). -/
def WOut.relLine (o : WOut) (r off : Nat) : Option Nat := (o.sreg r).map fun v => (v + off) % 2 ^ 32

/-- The bursts of n lines from a line on, with the lines of each (R214). -/
def burstsFrom (x n : Nat) : List (List Nat) := burstsOf ((List.range n).map (x + ·))

/-- The region of a line in a field's slices (R230). -/
def lineKind (w : WCell) (x : Nat) : Option Nat :=
  (w.regions.find? fun q => tb q.1.fields.toNat w.field && decide (q.2 ≤ x / 16384 ∧ x / 16384 < q.2 + q.1.length)).map (·.1.kind)

/-- The access that a record of the map lists for a request (R216, R219, R221): a derived line gives channel and bank, else the
map declares them or the access is wild. -/
def WCtx.access (k : WCtx) (write cache : Bool) (groups : Option (List (List Nat))) (r : AccessRec) : WCis :=
  let ls := groups.bind fun g => g[r.burst]?
  let place : Bool × Option (Nat × Nat) × Bool := match ls.bind (·.head?), r.place with
    | some x, _ => (tb x 2, some (bf x 5 3, bf x 7 6), false)
    | none, .declared b g q => (b, some (g.val, q.val), false)
    | none, _ => (r.chanB, none, true)
  { pos := k.w.pos, field := k.w.field, cl := k.w.m.place.cl.val, cell := k.w.m.place.cell.val, issue := k.cycle
    chanB := place.1, slot := r.slot, write := write, cache := cache, wild := place.2.2, bank := place.2.1
    lines := ls, count := match ls with | some l => l.length | none => 4
    landing := r.landing, src := k.src }

/-- The accesses the map lists for a request of n lines (R216, R217, R219, R221, R230). It lists one access for each burst the
request touches, where the line is known each of its bursts in order, else as many as its lines may touch, from `lo` to `hi`; for each line of a
read but cch.ld's it names a landing cycle. A list that does not is refused with the cause of R216 and R217. A line that is
known must lie in a region that permits the access, listed or not. -/
def WOut.listed (o : WOut) (k : WCtx) (write cache : Bool) (n lo hi : Nat) (groups : Option (List (List Nat))) : WOut :=
  let recs := sortBy (fun a b : AccessRec => decide (a.burst ≤ b.burst)) (k.w.seg.map.filter fun r =>
    r.entry == k.ent && decide ((r.issue : Int) = k.cycle) && r.write == write)
  let lands := recs.map (·.landing.length)
  let whole : Bool := match groups with
    | some g => decide (recs.map (·.burst) = List.range g.length) && (write || cache || decide (lands = g.map (·.length))) &&
        (recs.zip g).all fun q => q.1.chanB == tb (q.2.headD 0) 2
    | none => decide (lo ≤ recs.length ∧ recs.length ≤ hi) &&
        decide (recs.map (·.burst) = List.range recs.length) && (write || cache || decide (lands.foldl (· + ·) 0 = n))
  let bad := match groups with
    | some g => (g.flatMap id).find? fun x => !regionAllows write (lineKind k.w x)
    | none => none
  let at_ := match groups with | some ((x :: _) :: _) => x | _ => 0
  { o with
    cis := o.cis ++ recs.map (k.access write cache groups)
    finds := o.finds ++ (if whole then [] else [{ k.src with cause := 0x50, detail := at_ }]) ++
      match bad with | some x => [{ k.src with cause := 0x53, detail := x }] | none => [] }

/-- The X slot of the walk (R85, R146 to R154, R192, R196, R200). -/
def walkX (k : WCtx) (o : WOut) : XOp → WOut
  | .nop | .reserved => o
  | .spLdr vd sB off =>
    let o := o.useV k
    let (o, a) := o.spAddr k sB off
    let o := o.spBound k a 2
    let o := match a with | some u => o.read k 1 k.cycle (k.bytes u 0 128) | none => o
    o.deliver k 4 (.vector vd)
  | .spStr _ sB off =>
    let o := o.useV k
    let (o, a) := o.spAddr k sB off
    let o := o.spBound k a 2
    match a with | some u => o.write k 1 (k.cycle + 1) (k.cycle + 1) (k.bytes u 0 128) | none => o
  | .spLdc vd sB off col =>
    let o := o.useV k
    let (o, a) := o.spAddr k sB off
    let o := o.tileBound k a
    let o := match a with | some u => o.read k 1 k.cycle (k.tileBytes u col) | none => o
    o.deliver k 4 (.vector vd)
  | .spStc _ sB off col =>
    let o := o.useV k
    let (o, a) := o.spAddr k sB off
    let o := o.tileBound k a
    match a with | some u => o.write k 1 (k.cycle + 1) (k.cycle + 1) (k.tileBytes u col) | none => o
  | .cchLd vd sC off =>
    let o := o.useV k
    let every := bankBytes k.w.p 0 1024
    let o := o.read k 1 k.cycle every false
    let o := o.write k 3 (k.cycle + 179) (k.cycle + 179) every false
    -- the aligned pair of lines holds the line addressed (R151, R152)
    let pair := (o.relLine sC off).map fun v => (k.cbase + v) / 2 * 2
    let o := match pair with
      | some x => if x < k.cbase ∨ k.cbase + k.t.cbound < x + 2 then
          { o with finds := o.finds ++ [{ k.src with
              cause := 0x03, detail := (((if x < k.cbase then (x : Int) else max x (k.cbase + k.t.cbound)) - k.cbase) % 2 ^ 32).toNat }] }
        else o
      | none => o
    let o := o.listed k false true 2 1 1 (pair.map fun x => [[x, x + 1]])
    o.deliver k 180 (.vector vd)
  | .cisGet sS sC soff n =>
    let (o, a) := o.spAddr k sS soff
    let o := o.spBound k a n
    let line := o.relLine sC 0
    let o := o.cisBound k line n
    let n0 := o.cis.length
    let o := o.listed k false false n ((n + 3) / 4) ((n + 6) / 4) (line.map fun x => burstsFrom (k.cbase + x) n)
    -- the lines of each access in order land in consecutive units (R149, R217)
    let land (o : WOut) (i : Nat) (c : Nat) : WOut :=
      let o := o.port k c
      match a with
      | some u => o.write k 2 c (k.cycle + 180) (k.bytes (u + i) 0 64)
      | none => o
    let q := (o.cis.drop n0).foldl (fun (q : WOut × Nat) (r : WCis) =>
      (r.landing.zipIdx.foldl (fun o (y : Nat × Nat) => land o (q.2 + y.2) y.1) q.1, q.2 + r.landing.length)) (o, 0)
    q.1
  | .cisPut sS sC soff n =>
    let (o, a) := o.spAddr k sS soff
    let line := o.relLine sC 0
    let o := o.cisBound k line n
    (o.listed k true false n ((n + 3) / 4) ((n + 6) / 4) (line.map fun x => burstsFrom (k.cbase + x) n)).portReads k a n
  | .kvAppend sS sP sQ v f4 =>
    let e := if f4 then 64 else 128
    let (o, a) := o.spAddr k sS 0
    let page := o.relLine sP 0
    let lines := match page, o.sreg sQ with
      | some x, some t =>
        let eo := (if v then 128 * e else 0) + e * t
        let so := 256 * e + (if v then 512 else 0) + 4 * t
        some (x + eo / 64, x + so / 64)
      | _, _ => none
    let o := o.cisBound k (lines.map (·.1)) (e / 64)
    let o := o.cisBound k (lines.map (·.2)) 1
    let o := o.listed k true false (e / 64 + 1) 2 (e / 64 + 1)
      (lines.map fun q => burstsFrom (k.cbase + q.1) (e / 64) ++ [[k.cbase + q.2]])
    let o : WOut := match page with
      | some x => { o with pages := o.pages ++ [(k.cbase + x, f4, k.src)] }
      | none => o
    o.portReads k a (if f4 then 2 else 3)
  | .cmpcnt sd sB _ len _ _ =>
    let o := o.useV k
    let o : WOut := { o with abs := { o.abs with vport := k.cycle + 8 * len } }
    let (o, a) := o.spAddr k sB 0
    let o := o.spBound k a (16 * len)
    let o := match a with
      | some u => (List.range (8 * len)).foldl (fun (o : WOut) (i : Nat) => o.read k 1 (k.cycle + i) (k.bytes (u + 2 * i) 0 128)) o
      | none => o
    o.deliver k (8 * len + 9) (.scalar sd none)

/-- The links of one leg, each with the stitch lines crossed before it (R242, R244), and the coordinate it ends at. -/
def legPath (yx : Bool) (tx ty : Nat) : Nat → Nat → Nat → Nat → List (Nat × Nat × Nat × Nat)
  | 0, _, _, _ => []
  | n + 1, x, y, s =>
    let d := legDir yx x y tx ty
    if d = 4 then []
    else
      let q := stepXY x y d
      (x, y, d, s) :: legPath yx tx ty n q.1 q.2 (s + legStitch x y q.1 q.2)

/-- The links of a route from a router: coordinate, direction and stitch lines crossed before (R242, R244). -/
def routePath (x y : Nat) (r : RouteHead) : List (Nat × Nat × Nat × Nat) :=
  if r.wpv then
    legPath r.ord1 r.wx r.wy 256 x y 0 ++ legPath r.ord2 r.dx r.dy 256 r.wx r.wy (legStitch x y r.wx r.wy)
  else legPath r.ord1 r.dx r.dy 256 x y 0

/-- The link entries of n units of a route whose unit 0 would issue at a cycle (R244). -/
def linkEvents (pos : Nat) (path : List (Nat × Nat × Nat × Nat)) (plane tenant n : Nat) (c : Int) (src : WFind) : List WLink :=
  path.zipIdx.flatMap fun (q : (Nat × Nat × Nat × Nat) × Nat) => (List.range n).map fun (u : Nat) =>
    { pos := pos, x := q.1.1, y := q.1.2.1, dir := q.1.2.2.1, plane := plane, tenant := tenant
      at_ := c + u + 2 * (q.2 + 1 : Nat) - 1 + 8 * q.1.2.2.2, src := src }

/-- The cluster index of a router coordinate. -/
def clAt (x y : Nat) : Nat := y % 8 * 9 + x % 9

/-- The N slot of the walk. A drain counts a matrix instruction of its own bundle into T as issued before it: the bundle's slots
take effect in the order of R138 (DESIGN CHOICE, log entry 96). (R122, R176 to R185, R196, R244, R245, R423, R426). -/
def walkN (k : WCtx) (o : WOut) : NOp → WOut
  | .nop | .reserved => o
  | .drain t =>
    let o := if k.cycle < tget 0 o.abs.floor t then o.find k 0x33 else o
    let cols := columns 0 (cellCols k.w.p)
    -- a tree of the other kind than the root it would be added to (R119)
    let mixed := cols.any fun c =>
      let q := tget ({} : WKind) o.abs.kinds (t * 64 + c)
      q.tree.isSome && q.tree != q.int
    let o := if mixed then o.find k 0x35 else o
    cols.foldl (fun (o : WOut) (c : Nat) =>
      let o := o.deliver k 9 (.drain t c)
      let kinds := tmod ({} : WKind) o.abs.kinds (t * 64 + c) (fun (q : WKind) => { q with mode := none, tree := none })
      { o with abs := { o.abs with kinds := kinds } }) o
  | .routePut sS rid n =>
    let (o, a) := o.spAddr k sS 0
    let o := o.portReads k a n
    match k.w.routes.find? fun q => q.1 == rid && routeNamed k.w rid false with
    | none => o
    | some q =>
      let e := q.2.toNat
      let r := entryRoute e
      let o : WOut := { o with
        links := o.links ++ linkEvents k.w.pos (routePath k.w.x k.w.y r) (bf e 61 60) (bf e 59 58) n k.cycle k.src }
      if bf e 7 5 ≠ 0 then { o with
        sends := o.sends ++ [{ pos := k.w.pos, exit := bf e 7 5, x := r.dx, y := r.dy, rid := rid, n := n, at_ := k.cycle, src := k.src }]
        links := o.links ++ (List.range n).map fun (u : Nat) =>
          { pos := k.w.pos, x := r.dx, y := r.dy, dir := 4 + bf e 7 5, plane := 0, tenant := 0
            at_ := k.cycle + u + routeLat k.w.x k.w.y r, src := k.src } }
      else { o with
        arrive := o.arrive ++ (List.range n).map fun (u : Nat) =>
        { pos := k.w.pos, field := fieldAtXY r.dx r.dy, cl := clAt r.dx r.dy, cell := bf e 28 25, task := bf e 24 22
          unit := some (bf e 21 8 + u), read := false, ref := 0, issue := k.cycle
          sched := k.cycle + u + routeLat k.w.x k.w.y r, src := k.src } }
  | .routeGet sD sR rid n =>
    let (o, dst) := o.spAddr k sD 0
    let o := o.spBound k dst n
    let (o, far) := o.spAddr k sR 0
    match k.w.routes.find? fun q => q.1 == rid && routeNamed k.w rid true with
    | none => o
    | some q =>
      let e := q.2.toNat
      let r := entryRoute e
      let lat : Int := routeLat k.w.x k.w.y r
      let back := backRoute r k.w.x k.w.y
      let o : WOut := { o with
        links := o.links ++ linkEvents k.w.pos (routePath k.w.x k.w.y r) (bf e 61 60) (bf e 59 58) 1 k.cycle k.src ++
          linkEvents k.w.pos (routePath r.dx r.dy back) (bf e 61 60) (bf e 59 58) n (k.cycle + lat + 4) k.src
        arrive := o.arrive ++ (List.range n).map fun (u : Nat) =>
          { pos := k.w.pos, field := fieldAtXY r.dx r.dy, cl := clAt r.dx r.dy, cell := bf e 28 25, task := bf e 24 22
            unit := far.map (· + u), read := true, ref := k.cycle + lat, issue := k.cycle
            sched := k.cycle + lat + u, src := k.src } }
      { o with
        arrive := o.arrive ++ (List.range n).map fun (u : Nat) =>
          { pos := k.w.pos, field := k.w.field, cl := k.w.m.place.cl.val, cell := k.w.m.place.cell.val, task := k.src.task
            unit := dst.map (· + u), read := false, ref := 0, issue := k.cycle
            sched := k.cycle + 2 * lat + 4 + u, src := k.src } }
  | .redAdd sS tid n op =>
    let (o, a) := o.spAddr k sS 0
    let o := o.portReads k a n
    { o with reds := o.reds ++ [{ tid := tid, n := n, op := op, at_ := k.cycle, src := k.src }] }
  | .bar sd _ => o.deliver k (512 - k.cycle) (.scalar sd none)

/-- One issue of the walk: results due are delivered, then the four slots issue (R72, R128). The scalar sources of every slot
are those before any slot of the bundle delivers, since no latency is 0. -/
def walkIssue (w : WCell) (i : Nat) (t : TaskRec) (cbase ent task : Nat) (o : WOut) (q : WIssue × Nat) : WOut :=
  let k : WCtx := { w := w, t := t, cbase := cbase, ent := ent, cycle := q.2, lcs := q.1.lcs
                    fixed := w.fixed.contains (t.ibase + q.1.addr)
                    src := { cause := 0, cell := i, seg := ent, task := task, bundle := q.1.addr } }
  let o := o.settle q.2
  let o := walkM k o (mDecode w.p q.1.bits)
  let o := walkV k o (vDecode w.p q.1.bits)
  let o := walkX k o (xDecode w.p q.1.bits)
  walkN k o (nDecode w.p q.1.bits)

/-- One working stroke of one cell from what it carries (R52, R192): the scalar registers begin at the values the plan
records for the entry. -/
def walkStroke (w : WCell) (i ei : Nat) (abs : WAbs) : WOut :=
  match w.ents[ei]?, w.paths.getD ei none with
  | some ent, some issues =>
    match w.task (entTask ent.val) with
    | none => { abs := abs }
    | some t =>
      let regs : Tbl (Option Nat) := (w.seg.regs.filter fun r => r.1 == ent.num).foldl
        (fun m r => tset none m r.2.1 (some r.2.2.toNat)) []
      let o : WOut := issues.zipIdx.foldl (walkIssue w i t (w.cbases.getD (entTask ent.val) 0) ent.num (entTask ent.val))
        { abs := abs, sregs := regs }
      let o := o.settle 511
      -- every entry that may follow finds the values recorded for it (R192)
      let bad := (entNext ent.val).any fun n => w.seg.regs.any fun r =>
        r.1 == n && o.sreg r.2.1 != some r.2.2.toNat
      -- none of those values is made from a patched one (R291)
      let patched := (entNext ent.val).any fun n => w.seg.regs.any fun r => r.1 == n && o.fixed.contains r.2.1
      match issues.getLast? with
      | some l =>
        let mk (cause detail : Nat) : WFind :=
          { cause := cause, cell := i, seg := ent.num, task := entTask ent.val, bundle := l.addr, detail := detail }
        { o with finds := o.finds ++ (if bad then [mk 0x38 (issues.length - 1)] else []) ++ (if patched then [mk 0x1B 0] else []) }
      | none => o
  | _, _ => { abs := abs }

end Sys2Proof.Machine
end

