-- ==== Sys2Proof/Machine/WalkBank.lean ====
section
/-! DEFINITION. The banks and the network port of one cell in one stroke of the walk (R181, R187, R193 to R197, R200). -/

namespace Sys2Proof.Machine

/-- Bank of a row of a D-cell or a unit of a P-cell (R187). -/
def bankOf (p : Bool) (w : Nat) : Nat := if p then (w + w / 16) % 16 else (w + w / 32) % 32

/-- Two runs of bytes share a byte. -/
def bytesMeet (a b : List BankBytes) : Bool :=
  a.any fun x => b.any fun y => x.word == y.word && decide (x.lo < y.hi ∧ y.lo < x.hi)

/-- A finding at a cycle with the bundle of the other party (R301). -/
def atCycle (f : WFind) (cause : Nat) (c : Int) (other : Nat) : WFind :=
  { f with cause := cause, detail := (c % 65536).toNat + other % 4096 * 2 ^ 16 }

/-- A read that waits for banks: the bank words still to be served (R193). -/
structure BankWait where
  req  : WRead
  left : List Nat
deriving DecidableEq, Repr

/-- The reads of one cycle: what waits after it, and what was served (request, words, cycle). -/
structure BankTurn where
  wait   : List BankWait := []
  served : List (WRead × List Nat × Int) := []
  taken  : List Nat := []
  finds  : List WFind := []

/-- Each bank serves one second read a cycle: column path, vector port, network port, the earlier-issued first; a request not
served within two cycles of its scheduled cycle is refused (R193). -/
def bankReads (p : Bool) (t : Int) (ws : List BankWait) : BankTurn :=
  (sortBy (fun a b : BankWait => decide (a.req.path < b.req.path ∨ (a.req.path = b.req.path ∧ a.req.issue ≤ b.req.issue))) ws).foldl (fun (q : BankTurn) w =>
    let free := w.left.filter fun x => !q.taken.contains (bankOf p x)
    let left := w.left.filter fun x => q.taken.contains (bankOf p x)
    let q := { q with
      taken := q.taken ++ free.map (bankOf p)
      served := if free.isEmpty then q.served else q.served ++ [(w.req, free, t)] }
    if left.isEmpty then q
    else if w.req.sched + 2 ≤ t then { q with finds := q.finds ++ [atCycle w.req.src 0x39 t 0] }
    else { q with wait := q.wait ++ [{ w with left := left }] }) {}

/-- The writes of one cycle: each bank applies one, the others wait in its buffer of two entries (R194). -/
def bankWrites (p : Bool) (t : Int) (bufs : Tbl Nat) (ws : List WWrite) : Tbl Nat × List WFind :=
  let news := ws.flatMap fun w => ((w.bytes.map fun b => bankOf p b.word).eraseDups).map fun b => (b, w)
  let banks := (bufs.map (·.1) ++ news.map (·.1)).eraseDups
  banks.foldl (fun (q : Tbl Nat × List WFind) b =>
    let mine := news.filter fun x => x.1 == b
    let n := tget 0 q.1 b + mine.length - 1
    let late := match mine.getLast? with
      | some x => if 2 < n then [atCycle x.2.src 0x39 t 0] else []
      | none => []
    (tset 0 q.1 b (min n 2), q.2 ++ late)) (bufs, [])

/-- What the banks do from one cycle on. -/
structure BankRun where
  wait   : List BankWait := []
  bufs   : Tbl Nat := []
  served : List (WRead × List Nat × Int) := []
  finds  : List WFind := []

/-- One cycle of the banks. -/
def bankCycle (p : Bool) (reads : List WRead) (writes : List WWrite) (q : BankRun) (t : Int) : BankRun :=
  let new := (reads.filter fun r => decide (r.sched = t) && r.path != 3).map fun r =>
    ({ req := r, left := (r.bytes.map (·.word)).eraseDups } : BankWait)
  let turn := bankReads p t (q.wait ++ new)
  let w := bankWrites p t q.bufs (writes.filter fun w => decide (w.sched = t))
  { wait := turn.wait, bufs := w.1, served := q.served ++ turn.served, finds := q.finds ++ turn.finds ++ w.2 }

/-- A write that reaches a byte of a read after its reference cycle and no later than it is served (R195). -/
def staleReads (served : List (WRead × List Nat × Int)) (writes : List WWrite) : List WFind :=
  served.flatMap fun (r, ws, t) =>
    if !r.real || r.path == 3 || decide (t ≤ r.ref) then []
    else
      let bytes := r.bytes.filter fun b => ws.contains b.word
      (writes.filter fun w => w.real && decide (r.ref < w.due ∧ w.due ≤ t) && bytesMeet bytes w.bytes).map fun w =>
        atCycle w.src 0x30 w.due r.src.bundle

/-- A landed line whose bytes are read for an issue before its delivery, or written again, between its landing and its
delivery (R197). -/
def landedLines (served : List (WRead × List Nat × Int)) (writes : List WWrite) : List WFind :=
  (writes.filter fun w => w.real && decide (w.sched < w.due)).flatMap fun w =>
    (served.filterMap fun (r, ws, t) =>
      if r.real && decide (r.ref < w.due ∧ w.sched ≤ t) && bytesMeet (r.bytes.filter fun b => ws.contains b.word) w.bytes then
        some (atCycle r.src 0x30 r.ref w.src.bundle)
      else none) ++
    (writes.filterMap fun v =>
      if v.real && v != w && decide (w.sched ≤ v.due ∧ v.due ≤ w.due) && bytesMeet v.bytes w.bytes then
        some (atCycle v.src 0x30 v.due w.src.bundle)
      else none)

/-- Two uses of the network port in one cycle (R196). -/
def portMeets : List WPort → List WFind
  | [] => []
  | a :: t => (t.filter fun b => decide (a.sched = b.sched)).map (fun b => atCycle b.src 0x32 b.sched a.src.bundle) ++ portMeets t

/-- Two arrivals that reach one byte in one cycle (R181). -/
def arrivalsMeet : List WWrite → List WFind
  | [] => []
  | a :: t => (t.filter fun b => decide (a.due = b.due) && bytesMeet a.bytes b.bytes).map
      (fun b => atCycle b.src 0x30 b.due a.src.bundle) ++ arrivalsMeet t

/-- Shift what a cell carries to the next stroke (R52): what lies behind is dropped, the rest counts from the next entry. -/
def nextAbs (a : WAbs) (wait : List BankWait) (bufs : Tbl Nat) : WAbs :=
  let z (x : Int) : Int := max 0 (x - 512)
  let reads := (a.reads.filter fun r => decide (512 ≤ r.sched)) ++
    wait.map fun w => { w.req with bytes := w.req.bytes.filter fun b => w.left.contains b.word }
  { slots := a.slots, kinds := a.kinds, ints := a.ints, dirty := a.dirty
    pend := a.pend.map fun q => { q with due := q.due - 512 }
    last := a.last.filterMap fun q => match q.2 with
      | some (d, b) => if 512 ≤ d then some (q.1, some (d - 512, b)) else none
      | none => none
    engine := z a.engine, mport := z a.mport, vport := z a.vport
    floor := a.floor.filterMap fun q => if 512 < q.2 then some (q.1, q.2 - 512) else none
    reads := reads.map fun r => { r with sched := r.sched - 512, ref := r.ref - 512, issue := r.issue - 512 }
    writes := (a.writes.filter fun w => decide (512 ≤ w.sched ∨ 512 ≤ w.due) || reads.any fun r => decide (r.ref < w.due)).map
      fun w => { w with sched := w.sched - 512, due := w.due - 512 }
    ports := (a.ports.filter fun q => decide (512 ≤ q.sched)).map fun q => { q with sched := q.sched - 512 }
    bufs := bufs }

/-- The banks and the port of one cell through one stroke: what they find, and what the cell carries on (R193 to R197). -/
def bankStroke (p : Bool) (a : WAbs) : List WFind × WAbs :=
  -- waiting reads of the stroke before have scheduled cycles below 0 and are taken up in cycle 0
  let old := (a.reads.filter fun r => decide (r.sched < 0) && r.path != 3).map fun r =>
    ({ req := r, left := (r.bytes.map (·.word)).eraseDups } : BankWait)
  let run := (List.range 512).foldl (fun (q : BankRun) (t : Nat) => bankCycle p a.reads a.writes q t) { wait := old, bufs := a.bufs }
  let served := run.served ++ (a.reads.filter fun r => r.path == 3 && decide (r.sched < 512)).map fun r =>
    (r, r.bytes.map (·.word), r.sched)
  let ports := a.ports.filter fun q => decide (q.sched < 512)
  let far := a.writes.filter fun w => w.far && decide (w.due < 512)
  -- a pair whose later delivery lies in a later stroke is found there
  let here := a.writes.filter fun w => decide (w.sched < 512)
  (run.finds ++ staleReads served a.writes ++ landedLines served here ++ portMeets ports ++ arrivalsMeet far,
   nextAbs a run.wait run.bufs)

end Sys2Proof.Machine
end

