-- ==== Sys2Proof/Machine/WalkNet.lean ====
section
/-! DEFINITION. Routes, trees and weirs in the loader's walk (R178, R182, R243, R244, R249, R252 to R254, R397, R420). -/

namespace Sys2Proof.Machine

/-- What the walk knows of one board position of a plan under one variant. -/
structure WBoard where
  reds    : List (Nat × RedRec) := []
  weirs   : List (Nat × WeirRec) := []
  casc    : List (CascPort × Nat × BitVec 64) := []
  holes   : Nat := 0
deriving DecidableEq, Repr

/-- What the walk knows of a plan under one variant: the cells of all its positions, and each position's tables. -/
structure WPlan where
  cells   : List WCell
  boards  : List WBoard
  /-- the layers of the precision tables, and by position what they hold (R277, R358). -/
  layers  : List Nat
  precision : List (List LayerRec)
  boost   : Bool
  /-- the shortest period of the variant's timing, in ticks (R217, R278). -/
  period  : Nat
  /-- channels 14 and 15 are published alike on every wafer (R429). -/
  shared  : Bool
deriving DecidableEq, Repr

def WPlan.board (w : WPlan) (pos : Nat) : WBoard := w.boards.getD pos {}

/-- Router coordinate of a logical cluster of a field. -/
def recXY (f : Nat) (cl : Fin 72) : Nat × Nat := clusterXY f (cl.val % 9) (cl.val / 9)

/-- The quad routers of a cascade port by its EXIT code (R243, R420). -/
def exitQuad (exit x y : Nat) : Bool :=
  let xs := [11, 15, 20, 24, 47, 51, 56, 60]
  let ys := [17, 19, 21, 23, 25, 27, 29, 31]
  match exit with
  | 1 => y == 47 && xs.contains x
  | 2 => x == 71 && ys.contains y
  | 3 => y == 0 && xs.contains x
  | 4 => x == 0 && ys.contains y
  | _ => false

/-- The routers a path passes, with the one it ends at. -/
def pathRouters (x y : Nat) (path : List (Nat × Nat × Nat × Nat)) : List (Nat × Nat) :=
  (x, y) :: path.map fun q => stepXY q.1 q.2.1 q.2.2.1

/-- A route entry with a reserved value, a coordinate out of range, or a path through a router of a hole; the router to name
(R243, R420). -/
def routeBad (holes x y e : Nat) : Option (Nat × Nat) :=
  if !tb e 63 then none
  else
    let r := entryRoute e
    let tenant := bf e 59 58
    let exit := bf e 7 5
    let odd := tenant == 0 || tenant == 3 || (!r.wpv && r.ord2) || decide (72 ≤ r.dx ∨ 48 ≤ r.dy) ||
      (r.wpv && decide (72 ≤ r.wx ∨ 48 ≤ r.wy)) || decide (4 < exit) || bf e 4 0 != 0 ||
      (tb e 62 && bf e 21 8 != 0) ||
      (exit != 0 && (tb e 62 || bf e 28 8 != 0 || !exitQuad exit r.dx r.dy))
    if odd then some (x, y)
    else (pathRouters x y (routePath x y r)).find? fun q => tb holes (fieldAtXY q.1 q.2)

/-- The findings in the route table of a cell. -/
def routeFinds (holes i : Nat) (w : WCell) : List WFind :=
  w.routes.filterMap fun q => (routeBad holes w.x w.y q.2.toNat).map fun r =>
    { cause := 0x40, cell := i, scope := 4, detail := routerDetail r.1 r.2 4 0 }

/-- Tenant that a weir's slot holds; what no table names is background (R247, R251). -/
def weirTenant (w : WPlan) (pos x y dir plane slot : Nat) : Nat :=
  match (w.board pos).weirs.find? fun q => q.1 == fieldAtXY x y && recXY q.1 q.2.cl == (x, y) with
  | some q => match q.2.weirs.find? fun t => t.1.val == dir && t.2.1.val == plane with
    | some t => (t.2.2.getD slot 0).toNat
    | none => 0
  | none => 0

/-- DETAIL of a link entry (R301). -/
def linkDetail (l : WLink) : Nat := routerDetail l.x l.y (min l.dir 4) (l.at_ % 65536).toNat

/-- A flit that enters a link in a slot its tenant does not hold (R248, R249). -/
def weirFinds (w : WPlan) (ls : List WLink) : List WFind :=
  (ls.filter fun l => decide (l.dir ≤ 4) && weirTenant w l.pos l.x l.y l.dir l.plane (l.at_ % 64).toNat != l.tenant).map fun l =>
    { l.src with cause := 0x43, detail := linkDetail l }

/-- Two flits on one plane of one link direction in one cycle (R244), or two plan units at one quad (R426). -/
def linkMeets : List WLink → List WFind
  | [] => []
  | a :: t => (t.filter fun b => a.pos == b.pos && a.x == b.x && a.y == b.y && a.dir == b.dir && a.plane == b.plane && decide (a.at_ = b.at_)).map
      (fun b => { b.src with cause := if 4 < b.dir then 0x40 else 0x42, detail := linkDetail b }) ++ linkMeets t

/-- The routers of a port block's field, unless it is a hole, that have fewer service slots than R397 lays down on some mesh
output and plane; a weir that the plan does not list holds background only (R251). -/
def serviceFinds (w : WPlan) : List (Nat × Nat × Nat) :=
  w.boards.zipIdx.flatMap fun (b, pos) =>
    ([3, 4, 43, 44].filter fun f => !tb b.holes f).flatMap fun f => (List.finRange 72).filterMap fun cl =>
      let (x, y) := recXY f cl
      let few := (List.range 4).any fun d => linkInside x y d && (List.range 4).any fun plane =>
        decide (((List.range 64).filter fun n => weirTenant w pos x y d plane n == 3).length < 2)
      if few then some (pos, x, y) else none

/-- An input of a node: when it would enter the next link, when it would reach a cell of the node's cluster, and its OP (R254). -/
structure TreeIn where
  x    : Nat
  y    : Nat
  port : Nat
  time : Int
  home : Int
  op   : Nat
deriving DecidableEq, Repr

/-- What the evaluation of a tree has so far: inputs, nodes still to act, links, arrivals, findings. -/
structure TreeRun where
  ins    : List TreeIn
  links  : List WLink := []
  arrive : List WArrive := []
  finds  : List WFind := []

/-- The node entries of a tree on one wafer: router and entry, in entry order. -/
def treeNodes (w : WPlan) (pos tid : Nat) : List (Nat × Nat × Nat) :=
  (w.board pos).reds.flatMap fun q => (sortBy (fun a b => decide (a.1 ≤ b.1)) q.2.nodes).filterMap fun n =>
    let e := n.2.toNat
    if tb e 63 && bf e 62 53 == tid then some ((recXY q.1 q.2.cl).1, (recXY q.1 q.2.cl).2, e) else none

/-- The inputs that a node entry takes: LEFT and RIGHT, or LEFT alone where RIGHT is none (R253). -/
def nodeInputs (e : Nat) : List Nat := if bf e 49 47 = 7 then [bf e 52 50] else [bf e 52 50, bf e 49 47]

/-- One node acts on its inputs (R253, R254): the later input sets the time; a hold above 64 cycles or different OPs are
refused. -/
def treeNode (pos n : Nat) (src : WFind) (node : Nat × Nat × Nat) (q : TreeRun) : Option TreeRun :=
  let (x, y, e) := node
  let input (code : Nat) : Option TreeIn := q.ins.find? fun i => i.x == x && i.y == y && i.port == code
  match (nodeInputs e).map input with
  | some a :: rest =>
    if rest.any (·.isNone) then none
    else
      let b := (rest.head?.bind id).getD a
      let time := max a.time b.time
      let home := max a.home b.home
      let bad := decide (64 < a.time - b.time ∨ 64 < b.time - a.time) || a.op != b.op
      let q : TreeRun := if bad then
          { q with finds := q.finds ++ [{ src with cause := 0x41, detail := routerDetail x y 4 (time % 65536).toNat }] }
        else q
      let out := bf e 46 42
      if out = 0 then
        let five : TreeIn := { x := x, y := y, port := 5, time := time, home := home, op := a.op }
        some { q with ins := five :: q.ins.filter (fun i => !(i.x == x && i.y == y && i.port == 5)) }
      else
        let dirs := (List.range 4).filter fun d => tb out d && linkInside x y d
        let next (d : Nat) : TreeIn :=
          let z := stepXY x y d
          let t := time + 2 + 8 * (legStitch x y z.1 z.2 : Nat)
          { x := z.1, y := z.2, port := (d + 2) % 4, time := t, home := t - 1, op := a.op }
        let link (d u : Nat) : WLink :=
          { pos := pos, x := x, y := y, dir := d, plane := bf e 41 40, tenant := bf e 39 38, at_ := time + u, src := src }
        let unit (i u : Nat) : WArrive :=
          { pos := pos, field := fieldAtXY x y, cl := clAt x y, cell := i, task := bf e 21 19, unit := some (bf e 18 5 + u)
            read := false, ref := 0, issue := home + u, sched := home + u, src := src }
        let cells := if tb out 4 then (List.range 16).filter fun i => tb (bf e 37 22) i else []
        some { q with
          ins := q.ins ++ dirs.map next
          links := q.links ++ dirs.flatMap (fun (d : Nat) => (List.range n).map (link d))
          arrive := q.arrive ++ cells.flatMap (fun (i : Nat) => (List.range n).map (unit i)) }
  | _ => none

/-- Passes over the nodes of a tree until none is left that can act; what is left then, and what it holds of its inputs. -/
def treePass (pos n : Nat) (src : WFind) : Nat → List (Nat × Nat × Nat) → TreeRun → TreeRun × List (Nat × Nat × Nat)
  | 0, nodes, q => (q, nodes)
  | fuel + 1, nodes, q =>
    let r := nodes.foldl (fun (r : TreeRun × List (Nat × Nat × Nat)) node =>
      match treeNode pos n src node r.1 with
      | some q => (q, r.2)
      | none => (r.1, r.2 ++ [node])) (q, [])
    if r.2.length = nodes.length then r else treePass pos n src fuel r.2 r.1

/-- Nodes left with one input there and the other never coming: they would hold it beyond 64 cycles (R254). -/
def treeHeld (src : WFind) (q : TreeRun × List (Nat × Nat × Nat)) : List WFind :=
  q.2.filterMap fun (x, y, e) =>
    match (nodeInputs e).findSome? fun code => q.1.ins.find? fun i => i.x == x && i.y == y && i.port == code with
    | some i => some { src with cause := 0x41, detail := routerDetail x y 4 (i.time % 65536).toNat }
    | none => none

/-- A tree of one wafer in one stroke (R182, R252, R254): every contributor issues in the same cycle with the same OP and count;
then the nodes act. -/
def treeStroke (w : WPlan) (pos : Nat) (cs : List WRed) : TreeRun :=
  match cs with
  | [] => { ins := [] }
  | c :: _ =>
    let at_ (r : WRed) : Option (Nat × Nat × Nat) :=
      (w.cells[r.src.cell]?).map fun q => (q.field, q.m.place.cl.val, q.m.place.cell.val)
    let here := cs.filterMap at_
    let missing := (w.board pos).reds.any fun q => q.2.masks.any fun m => m.1 == c.tid &&
      (List.range 16).any fun i => tb m.2.toNat i && !here.contains (q.1, q.2.cl.val, i)
    let odd := (cs.filter fun r => decide (r.at_ ≠ c.at_) || r.n != c.n || r.op != c.op).map fun r =>
      (w.cells[r.src.cell]?).map fun q => { r.src with cause := 0x41, detail := routerDetail q.x q.y 4 (r.at_ % 65536).toNat }
    let finds := odd.filterMap id ++ if missing then
        match w.cells[c.src.cell]? with
        | some q => [{ c.src with cause := 0x41, detail := routerDetail q.x q.y 4 (c.at_ % 65536).toNat }]
        | none => []
      else []
    let sites := (cs.filterMap fun r => (w.cells[r.src.cell]?).map fun q => (q.x, q.y)).eraseDups
    let ins : List TreeIn := sites.map fun z =>
      { x := z.1, y := z.2, port := 4, time := c.at_ + 1, home := c.at_ + 2, op := c.op }
    let nodes := treeNodes w pos c.tid
    let q := treePass pos c.n c.src (nodes.length + 1) nodes { ins := ins }
    { q.1 with finds := finds ++ q.1.finds ++ treeHeld c.src q }

/-- Every tree that is contributed to in a stroke, on every wafer. -/
def treesStroke (w : WPlan) (cs : List WRed) : List TreeRun :=
  (List.range w.boards.length).flatMap fun pos =>
    let mine := cs.filter fun r => (w.cells[r.src.cell]?).map (·.pos) == some pos
    ((mine.map (·.tid)).eraseDups).map fun t => treeStroke w pos (mine.filter fun r => r.tid == t)

/-- The far end of a port: the partner's position and port, by EXIT codes 1 N, 2 E, 3 S, 4 W (R243, R418). -/
def farPort (m pos exit : Nat) : Nat × Nat :=
  match exit with
  | 1 => ((pos + 1) % m, 3)
  | 2 => ((pos + 1) % m, 4)
  | 3 => ((pos + m - 1) % m, 1)
  | _ => ((pos + m - 1) % m, 2)

/-- The router of the partner quad (R418, R420). -/
def farQuad (exit x y : Nat) : Nat × Nat :=
  match exit with
  | 1 => (x, 0)
  | 2 => (0, y)
  | 3 => (x, 47)
  | _ => (71, y)

/-- EXIT code of a cascade port (R243). -/
def portExit (p : CascPort) : Nat := p.val + 1

/-- What the far wafer does with units that were sent 4 working strokes before (R426, R427): the port injects them so that they
arrive in the cycle of their issue, an exchange only where the partner sent the same. -/
def sendStroke (w : WPlan) (all : List WSend) (q : WSend) : TreeRun :=
  let none_ : TreeRun := { ins := [] }
  let m := w.boards.length
  if m < 2 then none_
  else
    let far := farPort m q.pos q.exit
    match ((w.board far.1).casc.find? fun e => portExit e.1 == far.2 && e.2.1 == q.rid && tb e.2.2.toNat 63).map (·.2.2.toNat) with
    | none => none_
    | some e =>
      let z := farQuad q.exit q.x q.y
      let r : RouteHead := { dx := bf e 54 48, dy := bf e 47 42, wx := 0, wy := 0, ord1 := tb e 55, ord2 := false, wpv := false }
      let lat : Int := routeLat z.1 z.2 r
      let late : List WFind := if q.at_ < lat then
          [{ q.src with cause := 0x40, detail := routerDetail q.x q.y 4 (q.at_ % 65536).toNat }] else []
      let lone : List WFind := if tb e 62 && !(all.any fun p => p.pos == far.1 && p.exit == far.2 && p.rid == q.rid &&
          decide (p.at_ = q.at_) && p.n == q.n) then
          [{ q.src with cause := 0x41, detail := routerDetail q.x q.y 4 (q.at_ % 65536).toNat }] else []
      { ins := [], finds := late ++ lone
        links := linkEvents far.1 (routePath z.1 z.2 r) (bf e 59 58) (bf e 57 56) q.n (q.at_ - lat) q.src
        arrive := (List.range q.n).map fun (u : Nat) =>
          { pos := far.1, field := fieldAtXY r.dx r.dy, cl := clAt r.dx r.dy, cell := bf e 41 38, task := bf e 37 35
            unit := some (bf e 34 21 + u), read := false, ref := 0, issue := q.at_ + u, sched := q.at_ + u, src := q.src } }

/-- The cascade's part of one stroke: what arrives, and the sends that are still under way. -/
def sendsStroke (w : WPlan) (old new : List WSend) : List TreeRun × List WSend :=
  let due := old.filter fun q => q.age == 4
  (due.map (sendStroke w due), ((old.filter fun q => decide (q.age < 4)) ++ new).map fun q => { q with age := q.age + 1 })

/-- A cascade-table entry with a reserved value, an OP on a put or none of R183 on an exchange, a destination out of range, or a
path through a router of a hole (R243, R425). -/
def cascBad (holes : Nat) (q : CascPort × Nat × BitVec 64) : Bool :=
  let e := q.2.2.toNat
  tb e 63 && (decide (1023 < q.2.1) || bf e 57 56 == 0 || bf e 57 56 == 3 || decide (72 ≤ bf e 54 48 ∨ 48 ≤ bf e 47 42) ||
    bf e 20 0 != 0 || (!tb e 62 && bf e 61 60 != 0) || tb holes (fieldAtXY (bf e 54 48) (bf e 47 42)))

/-- An arrival takes its place among the reads, writes and port uses of its cell (R179 to R182, R196); a unit known to be out of
bound is refused (R85, R282). -/
def addArrival (w : WCell) (q : WAbs × List WFind) (r : WArrive) : WAbs × List WFind :=
  let a : WAbs := { q.1 with ports := q.1.ports ++ [{ sched := r.sched, src := r.src }] }
  match w.task r.task, r.unit with
  | some t, some u =>
    if u < t.sbound then
      let bytes := bankBytes w.p ((t.sbase + u) * 64) 64
      if r.read then
        ({ a with reads := a.reads ++
            [{ path := 2, sched := r.sched, ref := r.ref, issue := r.issue, bytes := bytes, src := r.src }] }, q.2)
      else
        ({ a with writes := a.writes ++
            [{ path := 2, sched := r.sched, due := r.sched, bytes := bytes, far := true, src := r.src }] }, q.2)
    else (a, q.2 ++ [{ r.src with cause := 0x02, detail := u }])
  | none, some u => (a, q.2 ++ [{ r.src with cause := 0x02, detail := u }])
  | _, none => (a, q.2)

end Sys2Proof.Machine
end

