-- ==== Sys2Proof/Machine/WalkCistern.lean ====
section
/-! DEFINITION. The cistern map in the loader's walk (R215 to R219, R221, R222, R224, R229, R230). -/

namespace Sys2Proof.Machine

/-- Time of a budget cycle from the stroke's start at a period of P ticks, in units of 10/171 ns at 1.9 GHz and of 10/369 ns
at 2.05 GHz, in which a cycle, a slot and a tick are whole (R215, R217). -/
def cycleTime (boost : Bool) (P : Nat) (y : Int) : Int :=
  if boost then y / 512 * (P * 369) + y % 512 * 18 else y / 512 * (P * 171) + y % 512 * 9

/-- Start time of a slot in the same units (R215). -/
def slotTime (boost : Bool) (n : Int) : Int := if boost then n * 41 else n * 19

/-- Periods a variant is checked at (R217, R278). -/
def WPlan.periods (w : WPlan) : List Nat := (List.range (65 - w.period)).map (w.period + ·)

/-- Slot of an access counted from the current stroke's start. -/
def WCis.slotAt (a : WCis) (P : Nat) : Int := (a.slot : Int) - 9 * P * a.age

/-- DETAIL: the line, or the index in the channel list where none is derived (R301). -/
def WCis.detail (a : WCis) (i : Nat) : Nat :=
  match a.lines with
  | some (x :: _) => x
  | _ => i

/-- The timing of one access at one period (R217, R224). -/
def accessLate (boost : Bool) (P : Nat) (a : WCis) : Bool :=
  let time := cycleTime boost P
  let slot := slotTime boost
  let s : Int := a.slot
  let lands := if a.cache then [a.issue + 179] else a.landing.map fun (c : Nat) => (c : Int)
  decide (slot s < time (a.issue + 6)) ||
    (if a.write then decide (slot (s + 28) < time (a.issue + 180))
     else lands.any fun c => decide (time (c - 4) < slot (s + 33)) ||
        (!a.cache && decide (c < a.issue + 64 ∨ a.issue + 180 < c))) ||
    -- an access carried over the end of stroke 4,095; a carried write falls into the next epoch
    decide ((9 * P : Nat) ≤ s ∧ (9 * P + 84 : Nat) < s ∧ ¬ (a.write = true ∧ 512 ≤ a.issue + 180))

/-- Two accesses, the first listed ahead, too close for R216, or for the room a wild access takes (R221). -/
def accessesClose (P : Nat) (a b : WCis) : Bool :=
  let d := b.slotAt P - a.slotAt P
  if a.wild || b.wild then decide (-42 < d ∧ d < 42)
  else if a.chanB != b.chanB then false
  else
    let group := match a.bank, b.bank with
      | some x, some y => x.1 == y.1
      | _, _ => false
    decide (d < 2) || (group && decide (d < 4)) || (group && a.bank == b.bank && decide (d < 42)) ||
      (!a.write && b.write && decide (d < 3)) || (a.write && !b.write && decide (d < 5))

/-- A read issued before a write's delivery whose data slot on one of its lines falls after the write's (R222). -/
def readsLate (P : Nat) (r w : WCis) : Bool :=
  !r.write && w.write && decide (r.issue < w.issue + 180) && decide (w.slotAt P < r.slotAt P) &&
    match r.lines, w.lines with
    | some x, some y => x.any y.contains
    | _, _ => false

/-- Lines of writes that hold a guard entry when a write arrives (R222). -/
def guardHeld (boost : Bool) (P : Nat) (l : List WCis) (at_ : WCis) : Nat :=
  let t := cycleTime boost P (at_.issue + 6)
  (l.filter fun a => a.write && decide (cycleTime boost P (a.issue + 6) ≤ t ∧ t < slotTime boost (a.slotAt P + 28))).foldl
    (fun n a => n + a.count) 0

/-- Burst positions of a channel that accesses use in a stroke of P ticks: those whose data slots fall in it; a wild access
reserves its position on both channels (R221, R229). -/
def burstsUsed (P : Nat) (b : Bool) (l : List WCis) : Nat :=
  (l.filter fun (a : WCis) =>
    let d : Int := a.slotAt P + 28
    (a.wild || a.chanB == b) && decide (0 ≤ d ∧ d < 9 * P)).length

/-- What one slice's merged list finds in one stroke (R216 to R218, R221, R222, R224, R229). `old` are the accesses of earlier
strokes that still matter, `new` those of this one in list order. -/
def sliceFinds (w : WPlan) (old new : List WCis) : List WFind :=
  let mk (a : WCis) (i cause : Nat) : WFind := { a.src with cause := cause, detail := a.detail i }
  let ps := w.periods
  let l := new.zipIdx
  let timing := l.filterMap fun (a, i) => if ps.any fun P => accessLate w.boost P a then some (mk a i 0x50) else none
  let close := l.flatMap fun (b, j) =>
    if (l.any fun (a, i) => decide (i < j) && accessesClose w.period a b) ||
        (old.any fun a => ps.any fun P => accessesClose P a b) then [mk b j 0x50] else []
  let order := l.flatMap fun (r, j) =>
    if (old ++ new).any fun v => ps.any fun P => readsLate P r v then [mk r j 0x51] else []
  let order' := old.flatMap fun r =>
    if new.any fun v => ps.any fun P => readsLate P r v then [mk r 0 0x51] else []
  let many := [false, true].any (fun b => ps.any fun P => decide (9 * P / 2 < burstsUsed P b (old ++ new) + 8)) ||
    l.any fun (a, _) => a.write && ps.any fun P => decide (512 < guardHeld w.boost P (old ++ new) a)
  let size := match (old ++ new).getLast? with
    | some a => if many then [mk a (new.length - 1) 0x52] else []
    | none => []
  timing ++ close ++ order ++ order' ++ size

/-- An access carried on still matters: at the shortest period, where the strokes after it begin earliest in its slots, its
banks may still be busy (R216, R221). -/
def WCis.matters (a : WCis) (P : Nat) : Bool := decide ((-84 : Int) < a.slotAt P)

/-- The cistern's part of one stroke of the walk: slices one by one, each list merged by issue cycle and logical cell (R218,
R219); and the accesses that still matter in the next strokes. -/
def cisternStroke (w : WPlan) (old new : List WCis) : List WFind × List WCis :=
  let sites := ((old ++ new).map fun a => (a.pos, a.field, a.cl)).eraseDups
  let finds := sites.flatMap fun z =>
    let mine (l : List WCis) := l.filter fun a => a.pos == z.1 && a.field == z.2.1 && a.cl == z.2.2
    sliceFinds w (mine old) (sortBy (fun a b => decide (a.issue < b.issue ∨ (a.issue = b.issue ∧ a.cell ≤ b.cell))) (mine new))
  (finds, ((old ++ new).map fun a => { a with age := a.age + 1, issue := a.issue - 512 }).filter (·.matters w.period))

/-- The list of an entry on one channel in nondecreasing order of issue (R218). -/
def mapFinds (i : Nat) (w : WCell) : List WFind :=
  let rec go (n : Nat) : List AccessRec → List WFind
    | [] => []
    | a :: t =>
      (match t.find? fun b => b.entry == a.entry && b.chanB == a.chanB with
        | some b => if b.issue < a.issue then
            [{ cause := 0x51, cell := i, seg := b.entry, scope := 5, detail := n
               task := match w.ents.find? fun e => e.num == b.entry with | some e => entTask e.val | none => 0 }]
          else []
        | none => []) ++ go (n + 1) t
  go 0 w.seg.map

/-- Slices whose controller would have to store more than 8,192 accesses for all the entries of its cells (R219). -/
def memoryFinds (w : WPlan) : List WFind :=
  let at_ (c : WCell) : Nat × Nat × Nat := (c.pos, c.field, c.m.place.cl.val)
  ((w.cells.map at_).eraseDups).filterMap fun z =>
    if 8192 < (w.cells.filter fun c => at_ c == z).foldl (fun n c => n + c.seg.map.length) 0 then
      (w.cells.findIdx? fun c => at_ c == z).map fun i => { cause := 0x52, cell := i, scope := 3 }
    else none

end Sys2Proof.Machine
end

