-- ==== Sys2Proof/Machine/WalkPlan.lean ====
section
/-! DEFINITION. The loader walks a plan (R88, R89, R192, R219, R244, R258, R277, R281, R282, R329, R358): every stroke that its segment
chains can bring together, from the start of every running cell on. -/

namespace Sys2Proof.Machine

/-- Bases under which a check derives addresses: fixed regions where they are, the others at the lowest base that is free among
the plan's own; no step of relocation changes what the check finds (R283, R289). -/
def checkBases (rs : List RegionRec) : List (RegionRec × Nat) :=
  let fixed := (rs.filter fun r => r.place == 0).map fun r => (r, r.base)
  (rs.filter fun r => r.place != 0).foldl (fun l r => l ++ [(r, (lowestBase l r).getD 0)]) fixed

/-- A logical cell of a position under a variant, with the paths of its entries. -/
def walkCell (p : Plan) (regions : List (RegionRec × Nat)) (pos f : Nat) (m : CellMapRec) : WCell :=
  let seg := ((p.segs f).find? fun r => r.place == m.place).getD
    { place := m.place, entries := [], map := [], regs := [], restore := [] }
  let rt := (p.routes f).find? fun r => r.place == m.place
  let xy := recXY f m.place.cl
  let w : WCell :=
    { pos := pos, field := f, m := m, code := patchedBlock p f m, ents := planEnts p f m.place
      seg := seg, routes := match rt with | some r => r.entries | none => [], regions := regions, x := xy.1, y := xy.2
      cbases := m.tasks.zipIdx.map fun (t, i) => taskCbase p f m i t
      fixed := (p.relocs.filter fun q => decide (q.type < 4) && q.target.toNat == m.block).map (·.addr) }
  { w with paths := w.ents.map fun e =>
      if tb e.val 127 then (match w.path e.val with
        | (l, none) => some l
        | _ => none)
      else none }

/-- A plan under a variant at all its positions (R217, R269, R278, R289). -/
def walkPlanOf (s : State) (plans : List Plan) (key : Nat) : WPlan :=
  let at_ (q : Plan × Nat) : List WCell × WBoard :=
    let bases := checkBases q.1.body.regions
    let p := { withKey q.1 key with bases := bases.map fun (b : RegionRec × Nat) => (b.1.symbol, b.2) }
    let holes := (p.holes { s with board := { s.board with position := BitVec.ofNat 2 q.2 } }).toNat
    let fields := allFields.filter fun f => !tb holes f
    (fields.flatMap fun f => (p.cellMap f).map (walkCell p bases q.2 f),
     { reds := fields.flatMap fun f => (p.reds f).map fun r => (f, r)
       weirs := fields.flatMap fun f => (p.weirs f).map fun r => (f, r), casc := p.cascade, holes := holes })
  let all := plans.zipIdx.map at_
  let precision := plans.map fun p => (withKey p key).precision
  let head := plans.head?.map (·.header)
  { cells := all.flatMap (·.1), boards := all.map (·.2), precision := precision
    layers := ((precision.flatMap id).map (·.layer)).eraseDups, boost := keyBoost key
    period := if keyBoost key then 30 else match head with | some h => h.periodFloor | none => 32
    shared := match head with | some h => h.cascade == 1 || h.cascade == 2 | none => false }

/-- The wld instructions that a form of an entry issues, every loop iteration counted (R358). -/
def WCell.wlds (w : WCell) (e : FormEntry) : Nat :=
  match (w.ents.zip w.paths).find? fun q => q.1.num == e.entry && q.1.val == e.value.toNat with
  | some (_, some l) => (l.filter fun q => match mDecode w.p q.bits with
      | .wld .. => true
      | _ => false).length
  | _ => 0

/-- Shadow blocks outside the region that the precision table names for them, or outside a kind 4 region (R277, R358). -/
def shadowFinds (w : WPlan) : List WFind :=
  w.cells.zipIdx.flatMap fun (c, i) => (w.precision.getD c.pos []).flatMap fun l =>
    match l.shadow.find? (fun r => r.field.val == c.field && r.place == c.m.place),
        l.narrow.filter (fun e => e.field.val == c.field && e.place == c.m.place) with
    | some r, e :: es =>
      let t := entTask e.value.toNat
      let cb := c.cbases.getD t 0
      let lines := (List.range ((e :: es).foldl (fun n x => n + c.wlds x) 0)).flatMap fun k => shadowLines c.p cb r l.wideFmt k
      let named (x : Nat) : Bool := c.regions.any fun q => q.1.symbol == r.symbol && q.1.kind == 4 && tb q.1.fields.toNat c.field &&
        decide (q.2 ≤ x / 16384 ∧ x / 16384 < q.2 + q.1.length)
      match lines.find? fun x => !named x with
      | some x => [{ cause := 0x53, cell := i, seg := e.entry, task := t, scope := 5, detail := x }]
      | none => []
    | _, _ => []

/-- A page of a slice that some entry appends to at 8 bits and some entry at 4 (R329). -/
def pageFinds (w : WPlan) : List WFind :=
  let all : List ((Nat × Nat × Nat × Nat) × Bool × WFind) := w.cells.zipIdx.flatMap fun (c, i) =>
    (List.range c.ents.length).flatMap fun e =>
      (walkStroke c i e {}).pages.map fun p => ((c.pos, c.field, c.m.place.cl.val, p.1), p.2)
  (all.filter fun a => a.2.1 && all.any fun b => !b.2.1 && a.1 == b.1).map fun a => { a.2.2 with cause := 0x53, detail := a.1.2.2.2 }

/-- One stroke of the walk: the recipe in force, the entry each cell runs, as an index into its entries, what each carries, and
what the links, the cisterns and the cascade carry. -/
structure WStroke where
  wide  : List Nat
  /-- one cell by itself, from an entry that no chain reaches: what other cells contribute to is left aside. -/
  lone  : Bool := false
  ents  : List (Option Nat)
  abs   : List WAbs
  links : List WLink := []
  cis   : List WCis := []
  sends : List WSend := []
deriving DecidableEq, Repr

/-- The entry that stands at a number under a recipe: the last that the table and the forms in force write there; none where it
is not valid (R277). -/
def WCell.current (w : WCell) (wide : List Nat) (n : Nat) : Option Nat :=
  let l := w.ents.zipIdx.filter fun (e, _) => e.num == n && match e.form with
    | some (k, x) => wide.contains k == x
    | none => true
  l.getLast?.bind fun q => if tb q.1.val 127 then some q.2 else none

/-- Every way to choose one of each list. -/
def choices {α : Type} : List (List α) → List (List α)
  | [] => [[]]
  | l :: t =>
    let r := choices t
    l.flatMap fun x => r.map (x :: ·)

/-- The channel that chooses after an entry: its wafer, its scope, a field or the wafer, and its number; channels 14 and 15 of
wafers that run one step together are one (R89, R429). -/
def entChannel (shared : Bool) (w : WCell) (e : Nat) : Option (Nat × Nat × Nat) :=
  let ch := bf e 86 83
  if !tb e 87 then none
  else if shared && decide (14 ≤ ch) then some (4, 48, ch)
  else some (w.pos, if 12 ≤ ch then 48 else w.field, ch)

/-- The entry number that follows under the latched values of the channels; a value at or beyond the continuation count runs
continuation 0 (R88, R91). -/
def entFollow (shared : Bool) (w : WCell) (e : Nat) (vals : List ((Nat × Nat × Nat) × Nat)) : Nat :=
  match entChannel shared w e with
  | none => bf e 95 88
  | some ch =>
    let v := ((vals.find? fun q => q.1 == ch).map (·.2)).getD 0
    if v < entCount e then bf e 95 88 + v else bf e 95 88

/-- The entries that all cells may run in the next stroke: one value for each channel that chooses, the same for every cell
that it reaches (R88, R89), under one recipe (R277); a cell whose path is cut short runs on no further. -/
def nextEntries (w : WPlan) (wide : List Nat) (ents : List (Option Nat)) : List (List (Option Nat)) :=
  let now : List (WCell × Option Nat) := w.cells.zip (ents.map id)
  let entry (q : WCell × Option Nat) : Option Nat :=
    q.2.bind fun i => match q.1.paths.getD i none with
      | some _ => (q.1.ents[i]?).map (·.val)
      | none => none
  let chan (q : WCell × Option Nat) : Option (Nat × Nat × Nat) := (entry q).bind (entChannel w.shared q.1)
  let chans := (now.filterMap chan).eraseDups
  let width (ch : Nat × Nat × Nat) : Nat := now.foldl (fun n q => match entry q with
    | some e => if chan q == some ch then max n (entCount e) else n
    | none => n) 1
  (choices (chans.map fun ch => (List.range (width ch)).map fun v => (ch, v))).map fun vals =>
    now.map fun q => (entry q).bind fun e => q.1.current wide (entFollow w.shared q.1 e vals)

/-- What one stroke finds, and the stroke that follows but for its entries. -/
structure StrokeWalk where
  finds : List WFind
  abs   : List WAbs
  links : List WLink
  cis   : List WCis
  sends : List WSend

/-- One stroke of all cells together: what it finds, and what is carried on. -/
def strokeFinds (w : WPlan) (j : WStroke) : StrokeWalk :=
  let outs : List WOut := (w.cells.zip (j.ents.zip j.abs)).zipIdx.map
    fun (q : (WCell × Option Nat × WAbs) × Nat) =>
      match q.1.2.1 with
      | some e => walkStroke q.1.1 q.2 e q.1.2.2
      | none => { abs := q.1.2.2 }
  let casc := sendsStroke w j.sends (outs.flatMap (·.sends))
  let far := if j.lone then [] else treesStroke w (outs.flatMap (·.reds)) ++ casc.1
  let links := outs.flatMap (·.links) ++ far.flatMap (·.links)
  let all := j.links ++ links
  let arrive := outs.flatMap (·.arrive) ++ far.flatMap (·.arrive)
  let banks := (w.cells.zip outs).map fun (q : WCell × WOut) =>
    let mine := arrive.filter fun r =>
      r.pos == q.1.pos && r.field == q.1.field && r.cl == q.1.m.place.cl.val && r.cell == q.1.m.place.cell.val
    let a := mine.foldl (addArrival q.1) (q.2.abs, [])
    let b := if a.1.reads.isEmpty && a.1.writes.isEmpty && a.1.ports.isEmpty && a.1.bufs.isEmpty then ([], nextAbs a.1 [] [])
      else bankStroke q.1.p a.1
    (a.2 ++ b.1, b.2)
  let cis := cisternStroke w j.cis (outs.flatMap (·.cis))
  -- more than 64 cells of one field that post in one stroke (R258)
  let posting := (w.cells.zip outs).zipIdx.filter fun q => q.1.2.posts
  let loads := posting.filterMap fun q =>
    let mine := posting.filter fun r => r.1.1.pos == q.1.1.pos && r.1.1.field == q.1.1.field
    if 64 < mine.length ∧ (mine.map (·.2)).head? = some q.2 then
      some ({ cause := 0x44, cell := q.2, scope := 2 } : WFind)
    else none
  { finds := outs.flatMap (·.finds) ++ far.flatMap (·.finds) ++ weirFinds w links ++ linkMeets (all.filter fun l => decide (l.at_ < 512)) ++
      banks.flatMap (·.1) ++ cis.1 ++ loads
    abs := banks.map (·.2), links := (all.filter fun l => decide (512 ≤ l.at_)).map fun l => { l with at_ := l.at_ - 512 }
    cis := cis.2, sends := casc.2 }

/-- A walk under way: strokes still to look at, those looked at, what they found. -/
structure WalkRun where
  todo  : List WStroke
  seen  : List WStroke := []
  finds : List WFind := []

/-- Look at one stroke; it leads to every combination that may follow it. -/
def walkOne (w : WPlan) (q : WalkRun) : WalkRun :=
  match q.todo with
  | [] => q
  | j :: rest =>
    if q.seen.contains j then { q with todo := rest }
    else
      let r := strokeFinds w j
      let next := (nextEntries w j.wide j.ents).map fun e =>
        { wide := j.wide, lone := j.lone, ents := e, abs := r.abs, links := r.links, cis := r.cis, sends := r.sends : WStroke }
      { todo := next ++ rest, seen := j :: q.seen, finds := q.finds ++ (r.finds.filter fun x => !q.finds.contains x).eraseDups }

/-- Go on until nothing is left to look at, at most a number of times. -/
def walkRepeat (f : WalkRun → WalkRun) : Nat → WalkRun → WalkRun
  | 0, q => q
  | n + 1, q => if q.todo.isEmpty then q else walkRepeat f n (f q)

/-- Walk to the end: repetitions nested as deep as the plan has cells, each of them 2^65536 times, which is more than the strokes
that there can be (log entry 96). -/
def walkDeep (w : WPlan) : Nat → WalkRun → WalkRun
  | 0 => walkOne w
  | n + 1 => walkRepeat (walkDeep w n) (2 ^ 65536)

def walkOn (w : WPlan) (todo seen : List WStroke) (finds : List WFind) : WalkRun :=
  walkDeep w (w.cells.length + 1) { todo := todo, seen := seen, finds := finds }

/-- The recipes a host can select: any set of layers wide (R277). -/
def recipes : List Nat → List (List Nat)
  | [] => [[]]
  | l :: t => (recipes t) ++ (recipes t).map (l :: ·)

/-- The strokes a walk begins with: every running cell at START_SEG, under every recipe (R88, R277). -/
def walkStart (w : WPlan) : List WStroke :=
  (recipes w.layers).map fun r =>
    { wide := r, ents := w.cells.map fun c => if c.m.run then c.current r c.m.startSeg else none, abs := w.cells.map fun _ => {} }

/-- The strokes that begin the walk of the entries no chain has reached, each by its own cell (R73, R282): the forms of every layer
are treated as reachable (R277). -/
def walkLone (w : WPlan) (seen : List WStroke) : List WStroke :=
  w.cells.zipIdx.flatMap fun (c, i) => c.ents.zipIdx.filterMap fun (e, k) =>
    if tb e.val 127 = false ∨ seen.any (fun j => (j.ents.getD i none) == some k) = true then none
    else
      let wide := match e.form with
        | some (l, true) => [l]
        | _ => []
      some { wide := wide, lone := true, ents := (List.range w.cells.length).map fun n => if n = i then some k else none, abs := w.cells.map fun _ => {} }

/-- What the walk of a variant finds (R282): the path of every entry, the tables and the maps by themselves, then every
stroke. -/
def walkFinds (w : WPlan) : List WFind :=
  let cells := w.cells.zipIdx
  let first := walkOn w (walkStart w) [] []
  let casc : List WFind := w.boards.zipIdx.flatMap fun (b, pos) => (b.casc.filter (cascBad b.holes)).map fun q =>
    let i := (w.cells.findIdx? fun c => c.pos == pos).getD 0
    { cause := 0x40, cell := i, scope := 1, detail := routerDetail (bf q.2.2.toNat 54 48) (bf q.2.2.toNat 47 42) 4 0 }
  (cells.flatMap fun (c, i) => c.ents.flatMap (pathFinds c i)) ++
    (cells.flatMap fun (c, i) => routeFinds (w.board c.pos).holes i c) ++ casc ++ (cells.flatMap fun (c, i) => mapFinds i c) ++
    memoryFinds w ++ (walkOn w (walkLone w first.seen) first.seen first.finds).finds

end Sys2Proof.Machine
end

