-- ==== Sys2Proof/Machine/PlanCheck.lean ====
section
/-! DEFINITION. The checks of a plan (R269 to R292, R21, R70, R84, R87, R98, R134, R165, R198, R204, R235), those of the walk of
its segments (WalkPlan.lean) among them, over every board position that the file serves. Only a mismatch of the weight layout
comes with the check (log entry 16). -/

namespace Sys2Proof.Machine

/-- A finding: cause, variant key, location word, DETAIL (R300). -/
structure Finding where
  cause  : Nat
  key    : Nat := 0
  loc    : BitVec 64
  detail : Word := 0
deriving DecidableEq, Repr

/-- Bytes of a window; what the host has not written reads as zero (R405). -/
def winBytes (s : State) (w o n : Nat) : Bytes := tgetMany 0 (s.window w).bytes o n

/-- The header of a plan file (R270). -/
def planHeader (b : Bytes) : PlanHeader :=
  { isaLevel := fieldAt b 0x06 1, latClass := fieldAt b 0x07 1, budget := fieldAt b 0x08 2, periodFloor := fieldAt b 0x0A 1
    boost := tb (fieldAt b 0x0B 1) 0, regions := tb (fieldAt b 0x0B 1) 1, wafers := fieldAt b 0x0C 1
    cascade := fieldAt b 0x0D 1, rotations := fieldAt b 0x0E 1
    holeMask := (List.range 4).map fun w => BitVec.ofNat 48 (fieldAt b (0x10 + 8 * w) 8)
    holeVariants := (List.range 4).map fun w => BitVec.ofNat 48 (fieldAt b (0x30 + 8 * w) 8)
    weightLayout := BitVec.ofNat 256 (fieldAt b 0x50 32), digest := BitVec.ofNat 256 (fieldAt b 0x70 32)
    drain := fieldAt b 0x90 4, prologue := fieldAt b 0x94 2, kvLayout := BitVec.ofNat 32 (fieldAt b 0x98 4)
    sections := fieldAt b 0x9C 4, length := fieldAt b 0xA0 8 }

/-- The header holds what R270 lays down, and the file is whole (R407). -/
def planHeaderOk (b : Bytes) (top : Nat) : Bool :=
  let h := planHeader b
  fieldAt b 0 4 == 0x4C50575A && fieldAt b 4 2 == 1 && h.budget == 512 && decide (32 ≤ h.periodFloor ∧ h.periodFloor ≤ 64) &&
    decide (fieldAt b 0x0B 1 < 4) && decide (1 ≤ h.wafers ∧ h.wafers ≤ 4 ∧ h.cascade ≤ 3 ∧ 1 ≤ h.rotations ∧ h.rotations ≤ 4) &&
    zeroBytes (bytesAt b 0x0F 1) && decide (h.prologue ≤ 64) && zeroBytes (bytesAt b 0x96 2) &&
    zeroBytes (bytesAt b 0xA8 88) && decide (h.length ≤ 2 ^ 31 ∧ h.length ≤ top ∧ 0x100 + 32 * h.sections ≤ h.length)
where
  /-- Reserved bytes are zero. -/
  zeroBytes (l : Bytes) : Bool := l.all (· == 0)

/-- A directory entry (R272): type, key, position, field, offset and length. -/
structure DirEntry where
  type   : Nat
  key    : Nat
  pos    : Nat
  field  : Nat
  offset : Nat
  length : Nat
deriving DecidableEq, Repr

def dirEntry (b : Bytes) (i : Nat) : DirEntry :=
  let o := 32 * i
  { type := fieldAt b o 2, key := fieldAt b (o + 2) 2, pos := fieldAt b (o + 4) 1, field := fieldAt b (o + 5) 1
    offset := fieldAt b (o + 8) 8, length := fieldAt b (o + 16) 8 }

/-- A section type that is one per field (R273). -/
def perField (t : Nat) : Bool := decide (2 ≤ t ∧ t ≤ 6)

/-- The entries of the directory, as many as the file can hold (R270, R272). -/
def dirEntries (h : PlanHeader) (file : Bytes) : List DirEntry :=
  (List.range (min h.sections ((file.length - 0x100) / 32))).map (dirEntry (file.drop 0x100))

/-- The directory holds what R272 lays down, with the key 0 for a region table (R289) and no boost form but of types 3 to 6
(R278). -/
def directoryOk (h : PlanHeader) (b : Bytes) (es : List DirEntry) : Bool :=
  let fits (e : DirEntry) (i : Nat) : Bool :=
    decide (1 ≤ e.type ∧ e.type ≤ 12 ∧ e.pos < h.wafers ∧ e.offset % 64 = 0 ∧ 0x100 + 32 * h.sections ≤ e.offset ∧
      e.offset + e.length ≤ h.length) && fieldAt b (32 * i + 6) 2 == 0 && fieldAt b (32 * i + 24) 8 == 0 &&
    (if perField e.type then decide (e.field < 48) && !tb (h.holeMask.getD e.pos 0).toNat e.field else e.field == 255) &&
    (e.type != 7 || e.key == 0) && (!tb e.key 6 || decide (3 ≤ e.type ∧ e.type ≤ 6))
  (es.zipIdx.all fun q => fits q.1 q.2) &&
    es.zipIdx.all fun (x, i) => es.zipIdx.all fun (y, j) =>
      decide (j ≤ i) || ((decide (x.offset + x.length ≤ y.offset ∨ y.offset + y.length ≤ x.offset)) &&
        !(x.type == y.type && x.key == y.key && x.pos == y.pos && x.field == y.field))

/-- A region record of 24 bytes (R289). -/
def regionRec (b : Bytes) : RegionRec :=
  { symbol := fieldAt b 0 1, kind := fieldAt b 1 1, place := fieldAt b 2 1, length := fieldAt b 4 2, base := fieldAt b 6 2
    fields := BitVec.ofNat 48 (fieldAt b 8 6), tag := BitVec.ofNat 32 (fieldAt b 16 4) }

/-- A relocation record of 16 bytes; its ADDEND is signed (R290). -/
def relocRec (b : Bytes) : RelocRec :=
  { type := fieldAt b 0 1, symbol := fieldAt b 1 1, task := fieldAt b 2 1, target := BitVec.ofNat 32 (fieldAt b 4 4)
    addr := fieldAt b 8 2, addend := (BitVec.ofNat 32 (fieldAt b 12 4)).toInt }

/-- The bytes of the sections of a type at a position, with their keys. -/
def sectionBytes (es : List DirEntry) (file : Bytes) (type pos : Nat) : List (Nat × Bytes) :=
  (es.filter fun e => e.type == type && e.pos == pos).map fun e => (e.key, bytesAt file e.offset (min e.length (file.length - e.offset)))

/-- Region tables and relocation records are whole records with their reserved bytes 0 (R289, R290). -/
def recordsWhole (es : List DirEntry) (file : Bytes) (pos : Nat) : Bool :=
  let zero (b : Bytes) (o n : Nat) : Bool := (bytesAt b o n).all (· == 0)
  ((sectionBytes es file 7 pos).all fun q => decide (q.2.length % 24 = 0) &&
      (piecesOf 24 q.2).all fun b => zero b 3 1 && zero b 14 2 && zero b 20 4) &&
    (sectionBytes es file 11 pos).all fun q => decide (q.2.length % 16 = 0) &&
      (piecesOf 16 q.2).all fun b => zero b 3 1 && zero b 10 2

/-- The sections of an operand that the directory lists at a position (R272, R273). -/
def keepListed {α : Type} (es : List DirEntry) (type pos : Nat) (l : List (Keyed α)) : List (Keyed α) :=
  l.filter fun k => es.any fun e => e.type == type && e.pos == pos && e.key == k.key.toNat && e.field == k.field

/-- A section that the directory lists has content. -/
def hasContent {α : Type} (es : List DirEntry) (type pos : Nat) (l : List (Keyed α)) : Bool :=
  es.all fun e => e.type != type || e.pos != pos || l.any fun k => k.key.toNat == e.key && k.field == e.field

/-- Every listed section of a position has content, and a code block is whole 16-byte images (R127, R273). -/
def sectionsWhole (es : List DirEntry) (pos : Nat) (q : PlanSections) : Bool :=
  hasContent es 1 pos q.blocks && hasContent es 2 pos q.cells && hasContent es 3 pos q.segs && hasContent es 4 pos q.routes &&
    hasContent es 5 pos q.reds && hasContent es 6 pos q.weirs && hasContent es 8 pos q.power && hasContent es 9 pos q.serving &&
    hasContent es 10 pos q.precision && hasContent es 12 pos q.cascade &&
    q.blocks.all fun k => k.content.all fun b => decide (b.length % 16 = 0)

/-- What the file holds for one position (R269, R273). -/
def bodyAt (es : List DirEntry) (file : Bytes) (pos : Nat) (q : PlanSections) : PlanBody :=
  { blocks := keepListed es 1 pos q.blocks, cells := keepListed es 2 pos q.cells, segs := keepListed es 3 pos q.segs
    routes := keepListed es 4 pos q.routes, reds := keepListed es 5 pos q.reds, weirs := keepListed es 6 pos q.weirs
    power := keepListed es 8 pos q.power, serving := keepListed es 9 pos q.serving
    precision := keepListed es 10 pos q.precision, cascade := keepListed es 12 pos q.cascade, layoutWrong := q.layoutWrong
    regions := (sectionBytes es file 7 pos).flatMap fun x => (piecesOf 24 x.2).map regionRec
    relocs := (sectionBytes es file 11 pos).map fun x =>
      { key := BitVec.ofNat 16 x.1, field := perPosition, content := (piecesOf 16 x.2).map relocRec } }

/-- The plan of each board position that the file serves (R269). -/
def filePlans (h : PlanHeader) (file : Bytes) (files : List PlanSections) : List Plan :=
  let es := dirEntries h file
  let bodies := (List.range (min 4 h.wafers)).map fun w => bodyAt es file w (files.getD w {})
  bodies.map fun b => { header := h, body := b, bases := [], key := 0, regionsAt := bodies.map (·.regions) }

/-- PLAN_DIGEST over the file with its own bytes taken as zero (R271). -/
def planDigest (b : Bytes) : BitVec 256 := sha3_256 (b.take 0x70 ++ List.replicate 32 0 ++ b.drop 0x90)

/-- The variants of a plan (R275). -/
def variantKeys (h : PlanHeader) : List Nat :=
  let base := (List.range h.rotations).map (· * 2 ^ 14) ++
    (List.range h.wafers).flatMap fun w =>
      ((List.range 48).filter fun f => tb (h.holeVariants.getD w 0).toNat f).map fun f => 2 ^ 13 + f * 2 ^ 7 + w * 2 ^ 4
  if h.boost then base ++ base.map (· + 2 ^ 6) else base

/-- The region table holds what R289 lays down. A TAG names an inherited region, and the region it matches carries it too: only
a fixed record's TAG is 0 (DEDUCED from the worked example of R291, log entry 6). -/
def regionsOk (rs : List RegionRec) : Bool :=
  decide (rs.length ≤ 8) && (rs.all fun r => decide (r.symbol < 8 ∧ r.place < 3) &&
      (if r.kind == 0 || r.kind == 3 || r.kind == 4 then r.place == 0 else r.place != 0) && (r.place != 0 || r.tag == 0)) &&
    decide ((rs.map (·.symbol)).eraseDups.length = rs.length)

/-- A region without length, of a reserved kind, beyond the slice, or over another in a slice (R235). -/
def regionWrong (rs : List RegionRec) : Bool :=
  (rs.any fun r => decide (r.length = 0 ∨ 6 ≤ r.kind ∨ 1020 < r.length ∨ (r.place = 0 ∧ 1020 < r.base + r.length))) ||
    let fixed := (rs.filter fun r => r.place == 0).map fun r => (r, r.base)
    fixed.zipIdx.any fun (x, i) => fixed.zipIdx.any fun (y, j) => decide (i < j) && regionsMeet x y

/-- Location word of a plan as a whole, of a field, and of a task of a logical cell (R300). -/
def locPlan (s : State) (cause : Nat) : BitVec 64 := locWord s 0 0 0 0 0 0 0 cause
def locField (s : State) (f cause : Nat) : BitVec 64 := locWord s 2 0 0 0 0 0 f cause
def locTask (s : State) (f : Nat) (m : LogCell) (seg bundle task cause : Nat) : BitVec 64 :=
  locWord s (if bundle = 0 then 5 else 6) seg bundle task m.cell.val m.cl.val f cause

/-- Checks of one task record (R84, R98, R198, R204, R288): its bases and bounds whether it is valid or not. -/
def taskFinds (s : State) (f key : Nat) (m : CellMapRec) (t : TaskRec) (i : Nat) : List Finding :=
  let p := fieldIsP f
  let n := cellUnits p
  let on (u : Nat) : Bool := tb m.segMask.toNat (u / (if p then 256 else 1024))
  let bad (c : Bool) (cause : Nat) : List Finding :=
    if c then [{ cause := cause, key := key, loc := locTask s f m.place 0 0 i cause }] else []
  bad (decide (3072 < t.ibase + t.ibound ∨ n < t.sbase + t.sbound ∨ 2 ^ 24 < t.cbase + t.cbound)) 0x24 ++
    bad (t.valid && decide (1536 < t.ibase + t.ibound)) 0x16 ++
    bad (t.valid && !p && decide (16384 - 1024 * m.cacheZ < t.sbase + t.sbound)) 0x25 ++
    bad (t.valid && decide (0 < t.sbound) && !((List.range 16).all fun g =>
      let u := g * (if p then 256 else 1024)
      on u || decide (u + (if p then 256 else 1024) ≤ t.sbase ∨ t.sbase + t.sbound ≤ u))) 0x26

/-- Checks of one entry of a cell's segment table (R87): a continuation set within the table and a COUNT of 0 without a choice
are asked of every entry, the rest of a valid one. -/
def entryFinds (s : State) (f key : Nat) (m : CellMapRec) (ents : List PlanEnt) (q : PlanEnt) : List Finding :=
  let e := q.val
  let task := (match m.tasks[entTask e]? with | some r => !r.valid || decide (r.ibound ≤ entAddr e) | none => true) ||
    !((entNext e).all (entValid ents))
  let form := decide (256 < bf e 95 88 + entCount e) || (!tb e 87 && bf e 82 79 != 0)
  if (tb e 127 && task) || form then
    [{ cause := 0x23, key := key, loc := locTask s f m.place q.num 0 (entTask e) 0x23 }]
  else []

/-- Checks of one logical cell under a key (R21, R87, R165, R198, R204). -/
def cellFinds (s : State) (p : Plan) (f key : Nat) (m : CellMapRec) : List Finding :=
  let mk (cause : Nat) : Finding := { cause := cause, key := key, loc := locWord s 4 0 0 0 m.place.cell.val m.place.cl.val f cause }
  let cols := cellCols (fieldIsP f)
  let seg := (p.segs f).find? fun r => r.place == m.place
  let ents := planEnts p f m.place
  let steps := m.parts.foldl (fun n q => n + q.2) 0
  (if m.pKind = fieldIsP f then [] else [mk 0x14]) ++
    (if m.cacheZ < steps ∨ 4 < m.cacheZ ∨ (fieldIsP f = true ∧ m.cacheZ ≠ 0) then [mk 0x25] else []) ++
    (if fieldIsP f = false ∧ m.cacheZ ≤ 4 ∧ ((List.range m.cacheZ).all fun i => tb m.segMask.toNat (15 - i)) = false then [mk 0x26]
      else []) ++
    (if m.run ∧ (entValid ents m.startSeg = false ∨ entValid ents m.idle = false) then [mk 0x23] else []) ++
    (m.tasks.zipIdx.flatMap fun (t, i) => taskFinds s f key m t i) ++
    (if (match seg with | some r => r.restore.any fun q => decide (2 ^ cols ≤ q.2.toNat) | none => false) then [mk 0x10] else []) ++
    ents.flatMap (entryFinds s f key m ents)

/-- A code block is a program of one cell kind; the P-cells of a variant that share a block with a D-cell (R21, R273). -/
def sharedFinds (s : State) (p : Plan) (key : Nat) : List Finding :=
  let all := allFields.flatMap fun f => (p.cellMap f).map fun m => (f, m)
  (all.filter fun q => fieldIsP q.1 && all.any fun r => !fieldIsP r.1 && r.2.block == q.2.block).map fun q =>
    { cause := 0x14, key := key, loc := locWord s 4 0 0 0 q.2.place.cell.val q.2.place.cl.val q.1 0x14 }

/-- The directory has a section that a variant resolves a type, position and field to (R275, R278). -/
def resolves (es : List DirEntry) (t pos f key : Nat) : Bool :=
  let key := if 3 ≤ t ∧ t ≤ 6 then key else keyNoBoost key
  [key, keyNoRot key, keyNoHole key, keyNoHole (keyNoRot key)].any fun k =>
    es.any fun e => e.type == t && e.pos == pos && e.field == f && e.key == k

/-- The sections of a position that a variant leaves unresolved though a field in use needs them (R275): the code blocks and the
power map, the cell map and the segment tables of a field in use, and any other section that the plan has for that place
under some key (DESIGN CHOICE, log entry 6). -/
def variantShort (es : List DirEntry) (s : State) (p : Plan) (pos : Nat) : Bool :=
  let key := p.key.toNat
  let has (t f : Nat) : Bool := es.any fun e => e.type == t && e.pos == pos && e.field == f
  let need (t f : Nat) : Bool := !resolves es t pos f key && ([1, 2, 3, 8].contains t || has t f)
  let fields := allFields.filter fun f => tb p.onFields.toNat f && !tb (p.holes s).toNat f
  ([1, 8, 9, 10, 11, 12].any fun t => need t perPosition) || fields.any fun f => [2, 3, 4, 5, 6].any fun t => need t f

/-- Opcode that a patch record's type names: s.lui, s.ori, s.li (R290). -/
def patchOp : Nat → Nat
  | 1 => 0x16
  | 2 => 0x11
  | _ => 0x17

/-- A record addresses an instruction other than its TYPE names (R291), or its SYMBOL names no region of the table. -/
def patchWrong (p : Plan) (q : RelocRec) : Bool :=
  if !(p.body.regions.any fun r => r.symbol == q.symbol) || decide (7 < q.task) then true
  else if q.type = 4 then false
  else if 1 ≤ q.type ∧ q.type ≤ 3 then
    match (p.blocks.getD q.target.toNat [])[q.addr]? with
    | some b => bOpV b.toNat != patchOp q.type
    | none => true
  else true

/-- The state as the loader reads it for another board position (R269): only the position differs. -/
def atPosition (s : State) (w : Nat) : State := { s with board := { s.board with position := BitVec.ofNat 2 w } }

/-- A finding of the walk as a finding of the plan (R300). -/
def walkFinding (s : State) (w : WPlan) (key : Nat) (x : WFind) : Finding :=
  match w.cells[x.cell]? with
  | some c =>
    let fine (n : Nat) (v : Nat) : Nat := if n ≤ x.scope then v else 0
    { cause := x.cause, key := key, detail := BitVec.ofNat 32 x.detail
      loc := locWord (atPosition s c.pos) x.scope (fine 5 x.seg) (fine 6 x.bundle) (fine 5 x.task) (fine 4 c.m.place.cell.val)
        (fine 3 c.m.place.cl.val) c.field x.cause }
  | none => { cause := x.cause, key := key, loc := locPlan s x.cause }

/-- What the walk of a variant finds on all its positions, the pages of R329, the shadow blocks of R358 and the weirs of
R397. -/
def variantFinds (s : State) (plans : List Plan) (key : Nat) : List Finding :=
  let w := walkPlanOf s plans key
  (walkFinds w ++ pageFinds w ++ shadowFinds w).map (walkFinding s w key) ++
    (serviceFinds w).map fun (pos, x, y) =>
      { cause := 0x43, key := key, detail := BitVec.ofNat 32 (routerDetail x y 4 0)
        loc := locWord (atPosition s pos) 3 0 0 0 0 (clAt x y) (fieldAtXY x y) 0x43 }

/-- What the checks find in the sections of one position, over every variant (R269, R275, R282). -/
def positionFinds (s : State) (es : List DirEntry) (file : Bytes) (keys : List Nat) (p : Plan) (pos : Nat) : List Finding :=
  let s := atPosition s pos
  let whole (c : Bool) (cause : Nat) : List Finding := if c then [{ cause := cause, loc := locWord s 1 0 0 0 0 0 0 cause }] else []
  let blocks := p.body.blocks.flatMap fun k => k.content.map fun b => (k.key.toNat, blockBundles b)
  whole (!recordsWhole es file pos || !regionsOk p.body.regions) 0x10 ++
    (blocks.filter fun q => q.2.any fun b => bLevel b.toNat != p.header.isaLevel).map
      (fun q => { cause := 0x12, key := q.1, loc := locWord s 1 0 0 0 0 0 0 0x12 }) ++
    (blocks.filter fun q => decide (1536 < q.2.length)).map
      (fun q => { cause := 0x16, key := q.1, loc := locWord s 1 0 0 0 0 0 0 0x16 }) ++
    whole (regionWrong p.body.regions) 0x53 ++ whole p.body.layoutWrong 0x18 ++
    keys.flatMap fun k =>
      let p := withKey p k
      (if variantShort es s p pos then [{ cause := 0x17, key := k, loc := locWord s 1 0 0 0 0 0 0 0x17 }] else []) ++
        sharedFinds s p k ++ (allFields.flatMap fun f => (p.cellMap f).flatMap (cellFinds s p f k)) ++
        (p.relocs.filter (patchWrong p)).map fun _ => { cause := 0x1B, key := k, loc := locWord s 1 0 0 0 0 0 0 0x1B }

/-- Everything the checks find, in check order: R271 first (R282, R285). Every check runs, whatever the ones before it found. -/
def planFinds (s : State) (head file : Bytes) (top : Nat) (files : List PlanSections) : List Finding :=
  let h := planHeader head
  let es := dirEntries h file
  let whole (c : Bool) (cause : Nat) : List Finding := if c then [{ cause := cause, loc := locPlan s cause }] else []
  let keys := variantKeys h
  let plans := filePlans h file files
  let holes := h.holeMask.getD s.board.position.toNat 0
  whole (decide (planDigest file ≠ h.digest)) 0x11 ++ whole (!planHeaderOk head top) 0x10 ++
    whole (!directoryOk h (file.drop 0x100) es || !((List.range (min 4 h.wafers)).all fun w => sectionsWhole es w (files.getD w {}))) 0x10 ++
    whole (decide (h.isaLevel ≠ 1)) 0x12 ++ whole (decide (h.latClass ≠ 1)) 0x13 ++
    ((allFields.filter fun f => isHole s f && !tb holes.toNat f).map fun f => { cause := 0x15, loc := locField s f 0x15 }) ++
    whole (es.any fun e => !keys.contains e.key) 0x17 ++
    (plans.zipIdx.flatMap fun (p, w) => positionFinds s es file keys p w) ++ keys.flatMap (variantFinds s plans)

/-- The plan fault record of a finding (R300). -/
def findWords (s : State) (p : Plan) (x : Finding) : BitVec 64 × BitVec 64 × BitVec 64 × BitVec 64 :=
  (BitVec.ofNat 64 (2 ^ 63 + strokeNo s % 2 ^ 60), x.loc, BitVec.ofNat 64 (x.key % 2 ^ 16 * 2 ^ 48 + x.detail.toNat),
   BitVec.ofNat 64 p.header.digest.toNat)

/-- Findings are kept and logged, the first 16 of them (R285, R300, R535). -/
def keepFinds (s : State) (p : Plan) (l : List Finding) : State :=
  let recs := (l.take 16).map (findWords s p)
  let s : State := { s with plan := { s.plan with loadStatus := stPlanRefused, findings := recs, findingCount := l.length } }
  recs.foldl (fun s r => logAdd s 2 [r.1, r.2.1, r.2.2.1, r.2.2.2]) s

/-- The cells that run one code block hold different CB for a patched task, or a value is negative or does not fit (R291). -/
def patchUnfit (p : Plan) (q : RelocRec) : Bool :=
  decide (1 ≤ q.type ∧ q.type ≤ 3) &&
    let cbs := allFields.flatMap fun f => (p.cellMap f).filterMap fun m =>
      if m.block = q.target.toNat then (m.tasks[q.task]?).map fun t => taskCbase p f m q.task t else none
    match cbs with
    | [] => false
    | c :: cs =>
      let v := relocValue p q c
      (cs.any (· != c)) || decide (v < 0 ∨ (2 ^ 32 : Int) ≤ v) || (q.type == 3 && decide ((2 ^ 19 : Int) ≤ v))

/-- Tasks of a variant whose CBASE, as relocation sets it, is negative or exceeds the limit with its bound (R98, R290). -/
def basesUnfit (s : State) (p : Plan) : List Finding :=
  let key := p.key.toNat
  allFields.flatMap fun f => (p.cellMap f).flatMap fun m => (m.tasks.zipIdx.filter fun q =>
      let x := taskLine p f m q.2 q.1
      decide (x ≠ q.1.cbase ∧ (x < 0 ∨ (2 ^ 24 : Int) < x + q.1.cbound))).map fun q =>
    { cause := 0x24, key := key, loc := locTask s f m.place 0 0 q.2 0x24 }

/-- What a relocation finds: regions that cannot be placed, and, under every key, values that do not fit and bases beyond their
limit (R98, R283, R289, R291). -/
def stagingFinds (s : State) (p : Plan) (causes : List Nat) : List Finding :=
  (causes.map fun c => ({ cause := c, loc := locWord s 1 0 0 0 0 0 0 c } : Finding)) ++ (variantKeys p.header).flatMap fun k =>
    let p := withKey p k
    ((p.relocs.filter (patchUnfit p)).map fun _ => ({ cause := 0x1B, key := k, loc := locWord s 1 0 0 0 0 0 0 0x1B } : Finding)) ++
      basesUnfit s p

end Sys2Proof.Machine
end

