-- ==== Sys2Proof/Machine/Plans.lean ====
section
/-! DEFINITION. Commands of plans: the end of a check, staging, placement rotation (R285, R286, R293, R296). -/

namespace Sys2Proof.Machine

/-- The close of a window is answered, if it has not been (R405). -/
def answerWin (s : State) (w status : Nat) (body : List (BitVec 64) := []) : State :=
  match (s.window w).answer with
  | some tag => respond (s.setWindow w { s.window w with answer := none }) 0x08 tag status body
  | none => s

/-- A consumer finds a segment whose check value does not match (R409). -/
def segmentCorrupt (s : State) (p : HostPort) : State :=
  s.modPort p.val fun q => { q with crcFail := satAdd q.crcFail 1, errStatus := q.errStatus ||| 2 }

/-- The plan in the window leaves the pending states (R293, R405). -/
def dropPlanFile (s : State) : State :=
  closeWin { s with plan := { s.plan with pending := none, stage := none } } 1

/-- PLAN_CHECK_COMPLETE (R269, R282, R285, R293, R409): the checks of a file have run over every board position: it is checked,
or refused with its records; a segment that does not match its check value fails it as corrupt. The module keeps the sections of
its own position. -/
def execPlanCheckComplete (files : List PlanSections) (corrupt : Option HostPort) (s : State) : Host.Outcome State Fault Refusal :=
  if s.plan.stage ≠ some .checking then done s
  else
    match corrupt with
    | some p =>
      let s := answerWin (segmentCorrupt s p) 1 stWindowCorrupt
      done (dropPlanFile { s with plan := { s.plan with loadStatus := stWindowCorrupt } })
    | none =>
      let head := winBytes s 1 0 256
      let h := planHeader head
      let top := (s.window 1).top
      let file := winBytes s 1 0 (min h.length top)
      let own := ((filePlans h file files)[s.board.position.toNat]?).getD { header := h, body := {}, bases := [], key := 0 }
      match planFinds s head file top files with
      | [] =>
        let s := answerWin s 1 stAccepted
        done { s with plan := { s.plan with
          pending := some own, stage := some .checked, loadStatus := stAccepted, findings := [], findingCount := 0
          checkEpoch := s.time.epoch } }
      | l =>
        let s := keepFinds s own l
        let words := s.plan.findings.flatMap fun r => [r.1, r.2.1, r.2.2.1, r.2.2.2]
        done (dropPlanFile (answerWin s 1 stPlanRefused (BitVec.ofNat 64 l.length :: words)))

/-- Interval of rotation in ticks; an hour (R296). -/
def rotateTicks (s : State) : Nat := bf s.mgmt.wmCtrl.toNat 23 16 * 360000000000
def hourTicks : Nat := 360000000000

/-- A rotation waits while a pending plan holds the free zones, while a swap is in progress and while a hole variant runs
(R296). -/
def rotationWaits (s : State) : Bool :=
  s.plan.stage == some .staged || swapping s || s.plan.holeVariant.isSome || s.plan.staging.isSome ||
    !(s.power.ladder == .running || s.power.ladder == .poised)

/-- The active plan rotates, and this module names its rotations: a master names them to its followers (R296). -/
def rotates (s : State) : Bool :=
  !follows s && bf s.mgmt.wmCtrl.toNat 23 16 != 0 && match s.plan.active with | some p => decide (1 < p.header.rotations) | none => false

/-- The free zones hold the copies of the active plan's next key: of an activation of the wafer manager's own that is named or whose
variant is being staged, or of the next rotation in the hour before it falls due (R293, R296, R297). -/
def zonesHeld (s : State) : Bool :=
  !s.own.isEmpty || s.plan.staging.isSome ||
    (rotates s && !rotationWaits s && !s.plan.rotationRetry &&
      decide (s.plan.rotationFrom + rotateTicks s ≤ boardTime s + hourTicks))

/-- PLAN_STAGING_COMPLETE (R286, R288 to R291, R293): once every cell has a free zone, regions are placed, and the staged copies and
restore images are written under the defect map as amended by now, a mapping that the plan keeps. A placement or a patch that fails
leaves the plan checked, with its records. -/
def execPlanStagingComplete (s : State) : Host.Outcome State Fault Refusal :=
  match s.plan.pending with
  | none => done s
  | some p =>
    let am := knownDefects s
    let t := { s with faults := { s.faults with applied := am } }
    let placed := placeRegions s p.body.regions
    let p := { p with bases := placed.1, mapped := am }
    let full := (servedCells t p).any fun q => (zoneFor (s.cell q.1) (patchedBlock p q.2.1 q.2.2)).isNone
    if s.plan.stage ≠ some .checked ∨ zonesHeld s = true ∨ full = true then done s
    else
      match stagingFinds t p placed.2 with
      | [] =>
        let t := stageUnder s am p []
        done { t with plan := { s.plan with pending := some p, stage := some .staged, loadStatus := stAccepted } }
      | l => done (keepFinds s p l)

/-- The wafer manager names the epoch b at which the barrier closes; the rotation takes effect at b + d + 1 (R296). -/
def nameRotation (s : State) : State :=
  let s : State := { s with plan := { s.plan with rotationDue := true } }
  if rotationWaits s || (s.own.any fun o => o.kind == .rotation) then s
  else
    let s := nameOwn s .rotation (s.time.epoch + curbLead s + drainEpochs s + 1)
    { s with plan := { s.plan with
      rotationDue := false, rotationAt := (s.own.find? fun o => o.kind == .rotation).map (·.epoch) } }

/-- ROTATION_DUE (R296): the interval has passed, or a rotation that fell due still waits. -/
def execRotationDue (s : State) : Host.Outcome State Fault Refusal :=
  if rotates s && !s.plan.rotationRetry && (s.plan.rotationDue || decide (s.plan.rotationFrom + rotateTicks s ≤ boardTime s)) then
    done (nameRotation s)
  else done s

/-- A cell is on its idle entry, or on its partner of the other parity (R296, R314). -/
def onIdle (c : CellState) : Bool :=
  c.seg == c.active.idle || c.seg == bf (tget 0 c.active.segtab c.active.idle).toNat 95 88

/-- An activation that follows the table of R296: a rotation, and what switches a field off for heat or brings it back (R298). -/
def drains (k : OwnKind) : Bool :=
  match k with
  | .rotation | .heatOff .. | .heatReturn .. => true
  | _ => false

/-- An abandoned activation is tried again 1 h later, a rotation by the module that names it (R296, R298). -/
def retryOwn (s : State) (k : OwnKind) : State :=
  match k with
  | .rotation => { s with plan := { s.plan with
      rotationRetry := !follows s, rotationAt := none, rotationFrom := boardTime s } }
  | _ => { s with plan := { s.plan with heatRetryAt := boardTime s + hourTicks } }

/-- An activation that follows the table of R296 is abandoned; the barrier reopens at the next curb stroke (R296, R298). -/
def abandonOwn (s : State) (o : OwnEvent) : State := retryOwn (unnameOwn s o) o.kind

/-- ROTATION_IDLE_CHECK (R296, R298): at stroke 4,095 before an activation that follows its table, a cell that is not on its idle
entry makes it abandoned. -/
def execRotationIdleCheck (s : State) : Host.Outcome State Fault Refusal :=
  let near := s.own.filter fun o => drains o.kind && o.epoch == s.time.epoch + 1
  if s.time.stroke = 4095 ∧ (s.cells.all fun q => !cellRuns q.2 || onIdle q.2) = false then done (near.foldl abandonOwn s)
  else done s

/-- ROTATION_RETRY (R296): 1 h after an abandoned rotation. -/
def execRotationRetry (s : State) : Host.Outcome State Fault Refusal :=
  if rotates s && s.plan.rotationRetry && decide (s.plan.rotationFrom + hourTicks ≤ boardTime s) then
    done (nameRotation { s with plan := { s.plan with rotationRetry := false } })
  else done s

end Sys2Proof.Machine
end

