-- ==== Sys2Proof/Machine/WindowOps.lean ====
section
/-! DEFINITION. Device windows: open, close, and what takes their content (R293, R377, R404 to R409, R508, R531). -/

namespace Sys2Proof.Machine

/-- Bytes of a window (R404). -/
def winSize (w : Nat) : Nat := [8388608, 2147483648, 268435456, 67108864, 268435456].getD w 0

/-- The rkey of a window's current generation (R405). -/
def winKey (w : Nat) (gen : BitVec 16) : Word := BitVec.ofNat 32 ((0x80 + w) * 2 ^ 24 + gen.toNat * 2 ^ 8)

/-- The next generation, skipping 0 (R405). -/
def nextGen (g : BitVec 16) : BitVec 16 := if g = 0xFFFF then 1 else g + 1

/-- A window is opened, or opened anew, its bytes gone; with window 1 a plan is being received (R293, R405). -/
def openWin (s : State) (w : Nat) : State :=
  let s := s.setWindow w { state := .open_, gen := nextGen (s.window w).gen }
  if w = 1 then { s with plan := { s.plan with pending := none, stage := some .receiving } } else s

/-- The manifest in window 0 is checked and its load starts, or the window closes (R372 to R377, R405). -/
def takeManifest (s : State) : State :=
  let head := winBytes s 0 0 128
  let b := winBytes s 0 0 (min 8388608 (manEnd head + 4))
  if s.weights.loading.isSome then closeWin (answerWin s 0 stLoadBusy) 0
  else
    match checkManifest s b with
    | .error e => closeWin (answerWin { s with weights := { s.weights with lastStatus := e } } 0 e) 0
    | .ok w => startLoad (answerWin s 0 stAccepted) w b

/-- The image in window 2 is checked; the window closes (R531). -/
def takeImage (s : State) : State :=
  let head := winBytes s 2 0 128
  let b := winBytes s 2 0 (min 268435456 (imgEnd head))
  match checkImage s b with
  | .error e => closeWin (answerWin { s with fw := { s.fw with status := e } } 2 e) 2
  | .ok (cls, i) => acceptImage (closeWin (answerWin s 2 stAccepted) 2) cls i

/-- The test pack in window 3 is checked; the window closes (R508). -/
def takePack (s : State) (pack : Option TestPack) : State :=
  let head := winBytes s 3 0 128
  let b := winBytes s 3 0 (min 67108864 (imgEnd head))
  match checkPack s b pack with
  | .error e => closeWin (answerWin s 3 e) 3
  | .ok (p, d) => acceptPack (closeWin (answerWin s 3 stAccepted) 3) p d (fieldAt b 12 4)

/-- The status that a corrupt segment leaves in the register of the operation that took the window (R409). -/
def corruptStatus (s : State) (w : Nat) : State :=
  match w with
  | 0 => { s with weights := { s.weights with lastStatus := stWindowCorrupt } }
  | 1 => { s with plan := { s.plan with pending := none, stage := none, loadStatus := stWindowCorrupt } }
  | 2 => { s with fw := { s.fw with status := stWindowCorrupt } }
  | _ => s

/-- A close takes effect: the window is held, and the operation that takes its content runs (R405, R407, R409). -/
def takeClose (s : State) (w : Nat) : State :=
  let win := s.window w
  match win.closing with
  | none => s
  | some r =>
    let s := s.setWindow w { win with state := .held, closing := none, partials := [], answer := some r.tag }
    match r.corrupt with
    | some p => closeWin (answerWin (corruptStatus (segmentCorrupt s p) w) w stWindowCorrupt) w
    | none =>
      match w with
      | 0 => takeManifest s
      | 1 => { s with plan := { s.plan with stage := some .checking } }
      | 2 => takeImage s
      | 3 => takePack s r.pack
      | _ => closeWin s w

/-- A close that waits takes effect once no message to the window is partly received (R407). -/
def settleClose (s : State) (w : Nat) : State :=
  if (s.window w).closing.isSome ∧ (s.window w).partials.isEmpty = true then takeClose s w else s

end Sys2Proof.Machine
end

