-- ==== Sys2Proof/Machine/Ports.lean ====
section
/-! DEFINITION. Commands of the host ports: frames, flow control, congestion, connections, windows, PTP and links (R389 to R396,
R404 to R407, R412 to R415). -/

namespace Sys2Proof.Machine

/-- A connected QP of a port; one in the error state is not (R391, R415). -/
def qpOf (s : State) (p : Nat) (qp : Nat) : Option Qp :=
  match tget none (s.port p).qps qp with
  | some q => if q.error then none else some q
  | none => none

def modQp (s : State) (p qp : Nat) (g : Qp → Qp) : State :=
  s.modPort p fun x => { x with qps := tmod none x.qps qp fun o => o.map g }

/-- RoCE packets pass the port (R415). -/
def roceOpen (s : State) (p : Nat) : Bool := portCarries s p

/-- A frame of a class enters its ingress buffer of 1 MiB: XOFF above 768 KiB with PFC, else a full buffer drops it (R395). -/
def ingress (s : State) (p : Nat) (bulk : Bool) (n : Nat) : State :=
  let q := s.port p
  let pfc := tb q.ctrl.toNat 5
  let fill := if bulk then q.fillBulk else q.fillSvc
  let sent := if bulk then q.xoffBulk else q.xoffSvc
  if 1048576 < fill + n then s.setPort p { q with dropped := q.dropped + 1 }
  else
    let off := pfc && !sent && decide (786432 < fill + n)
    let q := if bulk then { q with fillBulk := fill + n, xoffBulk := sent || off }
      else { q with fillSvc := fill + n, xoffSvc := sent || off }
    let s := s.setPort p q
    if off then s.emit (.pfc p (BitVec.ofNat 3 (if bulk then bulkPcp q else svcPcp q)) true) else s

/-- A CNP goes to the sending QP, at most one per QP in 50 µs (R396). -/
def sendCnp (s : State) (p qp : Nat) : State :=
  match qpOf s p qp with
  | none => s
  | some q =>
    let t := boardTime s
    if (match q.sentCnp with | some u => decide (t < u + 5000) | none => false) then s
    else sendHost (modQp s p qp fun x => { x with sentCnp := some t }) (viaOf s p qp .cnp) .cnp

/-- ETHERNET_FRAME_RECEIVE (R389 to R391, R394 to R396, R415): an unsupported request is answered with an invalid-request NAK. -/
def execEthernetFrameReceive (p : HostPort) (frame : Frame) (s : State) : Host.Outcome State Fault Refusal :=
  let q := s.port p.val
  if !q.link then done s
  else
    let s := s.setPort p.val { q with fecCorr := satAdd q.fecCorr frame.corrected }
    if 0 < frame.uncorrectable then
      done (s.modPort p.val fun x => { x with fecUncorr := satAdd x.fecUncorr frame.uncorrectable, errStatus := x.errStatus ||| 0x100 })
    else if 9216 < frame.length then done s
    else if frame.roce.isSome && !portCarries s p.val then done s
    else
      let pcp := frame.pcp.toNat
      let s := if pcp = svcPcp q then ingress s p.val false frame.length
        else if pcp = cnpPcp q ∧ pcp ≠ bulkPcp q then s
        else ingress s p.val true frame.length
      match frame.roce with
      | some qp =>
        let s := if frame.ce && tb q.ctrl.toNat 6 then sendCnp s p.val qp else s
        done (if frame.unsupported && (qpOf s p.val qp).isSome then sendHost s (viaOf s p.val qp .bulk) (.nak true) else s)
      | none => done s

/-- PFC_PAUSE_RECEIVE (R395): the service or the bulk priority is paused, or resumed with what was held of it; the CNP priority never
is. -/
def execPfcPauseReceive (p : HostPort) (pcp : BitVec 3) (pause : Bool) (s : State) : Host.Outcome State Fault Refusal :=
  let q := s.port p.val
  let n := pcp.toNat
  if q.link && tb q.ctrl.toNat 5 && (n == svcPcp q || n == bulkPcp q) && n != cnpPcp q then
    let bit := BitVec.ofNat 8 (2 ^ n)
    done (releaseHeld (s.setPort p.val { q with paused := if pause then q.paused ||| bit else q.paused &&& ~~~bit }) p.val)
  else done s

/-- A QP that the service uses (R396, R399). -/
def isServiceQp (s : State) (p qp : Nat) : Bool :=
  let v := s.ep.svcQp.toNat
  (bf v 13 12 == p && bf v 8 0 == qp) || (tb v 31 && bf v 29 28 == p && bf v 24 16 == qp)

/-- Three quarters of a rate, not below 1/64 of the line rate (R396). -/
def cutRate (r : Nat × Nat) : Nat × Nat := if 3 * r.1 < 4 ^ (r.2 + 1) then (1, 0) else (3 * r.1, r.2 + 1)

/-- A sixteenth of the line rate more, at most the line rate (R396). -/
def raiseRate (r : Nat × Nat) : Nat × Nat :=
  if 64 * 4 ^ r.2 ≤ r.1 + 4 * 4 ^ r.2 then (64, 0) else (r.1 + 4 * 4 ^ r.2, r.2)

/-- CNP_RECEIVE (R396): counted; the rate of a bulk QP falls, at most once in 50 µs. -/
def execCnpReceive (p : HostPort) (qp : Fin 512) (s : State) : Host.Outcome State Fault Refusal :=
  if !roceOpen s p.val then done s
  else
    let s := s.modPort p.val fun x => { x with cnpRx := satAdd x.cnpRx 1 }
    let t := boardTime s
    match qpOf s p.val qp.val with
    | none => done s
    | some q =>
      if isServiceQp s p.val qp.val || !tb (s.port p.val).ctrl.toNat 6 then done s
      else
        let again := match q.lastCut with | some u => decide (u + 5000 ≤ t) | none => true
        done (modQp s p.val qp.val fun x =>
          if again then { x with rate := cutRate x.rate, lastCut := some t, lastCnp := some t } else { x with lastCnp := some t })

/-- RATE_RECOVERY (R396): after each 200 µs with no CNP the rate rises; the time of the rise begins the next 200 µs. -/
def execRateRecovery (p : HostPort) (qp : Fin 512) (s : State) : Host.Outcome State Fault Refusal :=
  let t := boardTime s
  match qpOf s p.val qp.val with
  | none => done s
  | some q =>
    if isServiceQp s p.val qp.val || !tb (s.port p.val).ctrl.toNat 6 || q.rate == (64, 0) ||
        (match q.lastCnp with | some u => decide (t < u + 20000) | none => false) then done s
    else done (modQp s p.val qp.val fun x => { x with rate := raiseRate x.rate, lastCnp := some t })

/-- The host allow list of the settings in force; empty = any (R392, R523). -/
def allowList (s : State) : List (BitVec 128) :=
  match s.otp.settings.find? fun q => q.gen == s.mgmt.gen with
  | some q => q.allow
  | none => []

/-- CONNECTION_REQUEST (R391, R392): accepted from a GID of the allow list while fewer than 512 QPs are connected. -/
def execConnectionRequest (p : HostPort) (gid : BitVec 128) (mtu : Nat) (s : State) : Host.Outcome State Fault Refusal :=
  if !roceOpen s p.val then done s
  else
    let allow := allowList s
    let free := (List.range 512).find? fun i => (qpOf s p.val i).isNone
    if (allow.isEmpty || allow.contains gid) && (mtu == 1024 || mtu == 2048 || mtu == 4096) then
      match free with
      | some i =>
        let s := s.modPort p.val fun x => { x with qps := tset none x.qps i (some { gid := gid, mtu := mtu }) }
        done (s.emit (.connection p.val true i))
      | none => done (s.emit (.noResources p.val))
    else done (s.emit (.connection p.val false 0))

/-- A late WRITE packet goes to the sump and is answered with a NAK; its message is at an end (R406). -/
def latePacket (s : State) (p qp w : Nat) : State :=
  let s := s.modPort p fun x => { x with sump := satAdd x.sump 1, errStatus := x.errStatus ||| 1 }
  let s := sendHost s (viaOf s p qp .bulk) (.nak false)
  let win := s.window w
  settleClose (s.setWindow w { win with partials := win.partials.filter (· != (p, qp)) }) w

/-- RDMA_WRITE_PACKET (R393, R404 to R407): a packet with the rkey of an open window's generation is written into it; any other is
late, or names no window. -/
def execRdmaWritePacket (p : HostPort) (qp : Fin 512) (rkey : Word) (offset : Nat) (data : Bytes) (_first last : Bool) (s : State) :
    Host.Outcome State Fault Refusal :=
  if !roceOpen s p.val || (qpOf s p.val qp.val).isNone then done s
  else
    let s := drainPort s p.val true
    let k := rkey.toNat
    let w := bf k 31 24 - 0x80
    if bf k 31 24 < 0x80 ∨ 0x84 < bf k 31 24 ∨ bf k 7 0 ≠ 0 then done (sendHost s (viaOf s p.val qp.val .bulk) (.nak false))
    else
      let win := s.window w
      if win.state ≠ .open_ ∨ win.gen.toNat ≠ bf k 23 8 ∨ w = 4 ∨ winSize w < offset + data.length then
        done (latePacket s p.val qp.val w)
      else
        let rest := win.partials.filter (· != (p.val, qp.val))
        let win := { win with
          bytes := tsetMany 0 win.bytes offset data, top := max win.top (offset + data.length)
          partials := if last then rest else rest ++ [(p.val, qp.val)] }
        done (settleClose (s.setWindow w win) w)

/-- RDMA_READ_WINDOW (R393, R404): only the open dump window is read; any other request is answered with a NAK. -/
def execRdmaReadWindow (p : HostPort) (qp : Fin 512) (rkey : Word) (offset length : Nat) (s : State) :
    Host.Outcome State Fault Refusal :=
  if !roceOpen s p.val || (qpOf s p.val qp.val).isNone then done s
  else
    let win := s.window 4
    if win.state = .open_ ∧ rkey = winKey 4 win.gen ∧ offset + length ≤ winSize 4 then
      done (sendHost s (viaOf s p.val qp.val .bulk) (.reply (winBytes s 4 offset length)))
    else done (sendHost s (viaOf s p.val qp.val .bulk) (.nak false))

/-- WINDOW_CLOSE_TIMEOUT (R407): 100 ms after the request the close takes effect. -/
def execWindowCloseTimeout (w : Fin 4) (s : State) : Host.Outcome State Fault Refusal :=
  if (s.window w.val).closing.isSome ∧ (s.window w.val).closeAt + 10000000 ≤ boardTime s then done (takeClose s w.val) else done s

/-- LINK_DOWN (R412, R415): the port behaves as isolated. -/
def execLinkDown (p : HostPort) (s : State) : Host.Outcome State Fault Refusal :=
  if !(s.port p.val).link then done s
  else done (portDown s p.val)

/-- LINK_UP (R389, R415, R458, R533): an enabled port with a link partner comes up in the mode selected, on copper by auto-negotiation
and link training where AN_EN allows it; in recovery J-HOST0 alone,
at 100GbE; a port whose field is a hole is isolated. -/
def execLinkUp (p : HostPort) (assembly copper : Bool) (s : State) : Host.Outcome State Fault Refusal :=
  let q := s.port p.val
  let recovery := s.mgmt.hold == 6
  if q.link || !assembly || !tb q.ctrl.toNat 0 || s.power.ladder == .dry || s.mgmt.step == 0 || (recovery && p.val != 0) then done s
  else done (s.setPort p.val { q with
    link := true, autoNeg := copper && tb q.ctrl.toNat 4, fecLock := true, copper := copper, isolated := isHole s (hostField p.val)
    speed := if recovery then 2 else BitVec.ofNat 2 (bf q.ctrl.toNat 2 1) })

/-- PTP_SYNC_EXCHANGE (R412, R413): the active port takes the exchange; 16 within ±50 ns lock it, 4 outside ±200 ns unlock it. -/
def execPtpSyncExchange (seconds nanoseconds : Nat) (offsetNs : Int) (s : State) : Host.Outcome State Fault Refusal :=
  match ptpPort s with
  | none => done s
  | some p =>
    let near := decide (-50 ≤ offsetNs ∧ offsetNs ≤ 50)
    let far := decide (offsetNs < -200 ∨ 200 < offsetNs)
    let s := s.modPort p fun q =>
      let i := if near then min 16 (q.inLock + 1) else 0
      let o := if far then min 4 (q.outLock + 1) else 0
      { q with
        ptpOffset := BitVec.ofInt 32 offsetNs, inLock := i, outLock := o
        ptpLock := if 16 ≤ i then true else if 4 ≤ o then false else q.ptpLock }
    let ticks := seconds * 100000000 + nanoseconds / 10
    done { s with ptp := {
      sum := s.ptp.sum + ((boardTime s : Int) - ticks), count := s.ptp.count + 1, last := some s.time.localTicks.toNat } }

/-- PTP_SYNC_TIMEOUT (R413): 3 s without Sync. -/
def execPtpSyncTimeout (s : State) : Host.Outcome State Fault Refusal :=
  match ptpPort s with
  | none => done s
  | some p =>
    if (match s.ptp.last with | some t => decide (s.time.localTicks.toNat < t + 300000000) | none => false) then done s
    else done (s.modPort p fun q => { q with ptpLock := false, inLock := 0 })

/-- Nearest integer to n / d, an exact half away from zero (R414). -/
def roundHalfAway (n : Int) (d : Nat) : Int :=
  let q : Int := ((2 * n.natAbs + d) / (2 * d) : Nat)
  if n < 0 then -q else q

/-- The trim of an epoch's exchanges, with the trims named and not yet applied (R414). -/
def servoTrim (sum : Int) (count : Nat) (pending : Int) : Int :=
  max (-2) (min 2 (-(roundHalfAway (sum + pending * count) count)))

/-- PTP_SERVO (R45, R412, R414): once per epoch the master names the trim for epoch e + 2 and sends it to its followers; unlocked
it is 0. -/
def execPtpServo (s : State) : Host.Outcome State Fault Refusal :=
  let e := s.time.epoch + 2
  if s.board.position ≠ 0 ∨ s.time.established = false ∨ (s.time.trims.any fun (q : Nat × Int) => q.1 == e) = true then done s
  else
    let locked := match ptpPort s with | some p => (s.port p).ptpLock | none => false
    let pending := s.time.trims.foldl (fun (n : Int) (q : Nat × Int) => n + q.2) 0
    let t := if locked && s.ptp.count != 0 then servoTrim s.ptp.sum s.ptp.count pending else 0
    let s := if locked then s
      else
        let p := (ptpPort s).getD (((List.range 4).find? fun p => tb (s.port p).ctrl.toNat 7).getD 0)
        s.modPort p fun q => { q with errStatus := q.errStatus ||| 0x80 }
    let s : State := { s with time := { s.time with trims := s.time.trims ++ [(e, t)] }, ptp := { last := s.ptp.last } }
    done (boardTell s (.trim (BitVec.ofNat 48 e) t))

end Sys2Proof.Machine
end

