-- ==== Sys2Proof/Machine/Weights.lean ====
section
/-! DEFINITION. Commands of weight sets: shards, installs, swaps and their digests (R371 to R388, R492, R505, R507). -/

namespace Sys2Proof.Machine

/-- SHARD_ARRIVAL (R374, R378, R379, R409): a shard whose CRC matches is decrypted and written into staging; the eighth mismatch in a
row fails the load; a delivery to a follower that failed counts as a shard that did not arrive. Segments that are damaged on their
way to the cistern are found when the copy from staging reads them. -/
def execShardArrival (index : Nat) (ciphertext : Bytes) (delivery : ShardDelivery) (s : State) :
    Host.Outcome State Fault Refusal :=
  match s.weights.loading with
  | none => done s
  | some w =>
    match w.shards[index]? with
    | none => done s
    | some r =>
      if s.weights.state ≠ some .fetching ∨ (s.weights.requested.any fun (q : Nat × Nat) => q.1 == index) = false then done s
      else if ciphertext.length ≠ r.length ∨ crc32c ciphertext ≠ r.crc.toNat then
        let n := tget 0 s.weights.crcFails index + 1
        if 8 ≤ n then done (dropLoad s stShardCorrupt)
        else done (askShard { s with weights := { s.weights with crcFails := tset 0 s.weights.crcFails index n } } w index)
      else if !delivery.followersDone then
        done (retryShard { s with weights := { s.weights with crcFails := tset 0 s.weights.crcFails index 0 } } w index)
      else
        let s := stageShard s w index (shardPlain w index ciphertext) delivery.damaged
        let s : State := { s with weights := { s.weights with
          arrived := s.weights.arrived ++ [index]
          requested := s.weights.requested.filter fun (q : Nat × Nat) => q.1 != index
          crcFails := tset 0 s.weights.crcFails index 0 } }
        done (settleLoad (requestShards s w))

/-- SHARD_TIMEOUT (R379): a shard that has not arrived 2 s after its request is asked for again. -/
def execShardTimeout (index : Nat) (s : State) : Host.Outcome State Fault Refusal :=
  match s.weights.loading with
  | none => done s
  | some w =>
    if s.weights.state = some .fetching ∧
        (s.weights.requested.any fun (q : Nat × Nat) => q.1 == index && decide (q.2 + 200000000 ≤ boardTime s)) then
      done (retryShard s w index)
    else done s

/-- INSTALL_COMPLETE (R376, R380): the copies of an install with no plan activation named are done, and the set is resident. -/
def execInstallComplete (s : State) : Host.Outcome State Fault Refusal :=
  match s.weights.loading with
  | none => done s
  | some w =>
    if s.weights.state = some .installing ∧ installPending s = false ∧ (s.events.any fun v => v.kind == .install) = false then
      done (becomeResident s w)
    else done s

/-- SWAP_LATE (R384): a layer's rewrite is not complete at the end of its working stroke: fatal-wafer, code 0x94. -/
def execSwapLate (s : State) : Host.Outcome State Fault Refusal :=
  match s.weights.sweep with
  | none => done s
  | some sw => done (raiseModule s 4 0x94 (detail := sw.layer))

/-- SWAP_END (R386, R387): every layer is rewritten, and the new set is resident. A plan in proportional regions runs its prologue,
which a reactivation of its key starts, before the barrier reopens. -/
def execSwapEnd (s : State) : Host.Outcome State Fault Refusal :=
  match s.weights.sweep, s.weights.loading with
  | some sw, some w =>
    if sw.layer < w.layers.length then done s
    else
      let s := becomeResident s w
      let s := if inRegions s then reactivate s else s
      done (freeBarrier s .swap)
  | _, _ => done s

/-- The lead of R55 is met for every event of a kind that stands. -/
def leadMet (s : State) (p : EventKind → Bool) : Bool :=
  s.events.all fun v => !p v.kind || decide (s.time.epoch + curbLead s ≤ v.epoch)

/-- DISCARD_SET (R377, R514): the host discards a staged set until the lead of its swap or install is no longer met. -/
def execDiscardSet (tag : BitVec 16) (s : State) : Host.Outcome State Fault Refusal :=
  let uses (k : EventKind) : Bool := k == .swap || k == .install
  if s.weights.state ≠ some .staged then done (respond s 0x10 tag stNotStaged)
  else if !leadMet s uses then done (respond s 0x10 tag stTooLate)
  else
    let s := dropEvents s fun v => uses v.kind
    let s := dropLoad (freeBarrier s .install) stDiscarded
    done (respond s 0x10 tag stAccepted)

/-- REFILL_COMPLETE (R492): the bytes of a line that waits, from another module or as the host's data unit, are written back; with
no source left the record is code 0x8F. -/
def execRefillComplete (site : SiteAddr) (line : Nat) (data : Option Bytes) (s : State) : Host.Outcome State Fault Refusal :=
  let k := siteKey site
  if !s.weights.refills.contains (k, line) then done s
  else
    match data with
    | none => done (raiseModule s 4 0x8F (field := site.field.val) (detail := line) (scope := 2))
    | some b =>
      let plain : Bytes :=
        if b.length ≠ 4096 then bytesAt b 0 64
        else
          let w := match s.weights.state, s.weights.loading with
            | some .swapping, some w => some w
            | some .installing, some w => some w
            | _, _ => s.weights.resident
          match w with
          | none => bytesAt b 0 64
          | some w => match lineOffset s w k line with
            | none => bytesAt b 0 64
            | some o => bytesAt (Config.xtsDecrypt w.key (o / 4096) b) (o % 4096) 64
      let s := meshSend s (hostRouter (svcPort s)) (siteRouter s k) line 0 plain
      done (s.modSite k fun st => { st with transfers := st.transfers ++ [.refill line plain] })

/-- Slice extents that a digest pass compares: during a swap not those of layers that are being rewritten (R505). -/
def passRefs (s : State) : List (Nat × Nat × BitVec 256) :=
  match s.weights.resident, s.weights.sweep with
  | some w, some sw => s.weights.refs.filter fun r =>
      !((w.layers.take (sw.layer + 1)).any fun l => decide (l.first ≤ r.2.1 ∧ r.2.1 < l.first + l.count))
  | _, _ => s.weights.refs

/-- Digest interval D in ticks (R505). -/
def digestTicks (s : State) : Nat := bf s.mgmt.wmCtrl.toNat 15 8 * 100000000

/-- A transfer reads for a digest. -/
def isDigest : Transfer → Bool
  | .digest .. => true
  | _ => false

/-- DIGEST_PASS_START (R505): a pass starts every D/2; one not complete by then is late and raises the alert. -/
def execDigestPassStart (s : State) : Host.Outcome State Fault Refusal :=
  match s.weights.resident with
  | none => done s
  | some w =>
    if boardTime s < s.weights.passStart + digestTicks s / 2 then done s
    else
      let late := s.weights.pass.isSome
      let s := if late then raiseAlert s alDigest else s
      let s : State := { s with
        weights := { s.weights with pass := some (boardTime s), passStart := boardTime s, passLate := late }
        sites := tmapAll {} (fun _ st => { st with transfers := st.transfers.filter fun t => !isDigest t }) s.sites }
      done ((passRefs s).foldl (fun (s : State) (r : Nat × Nat × BitVec 256) =>
        match w.extents[r.2.1]? with
        | some x => s.modSite r.1 fun st => { st with transfers := st.transfers ++ [.digest x.master x.lines] }
        | none => s) s)

/-- A slice extent diverges: its record, and its lines wait to be refilled (R507). -/
def diverge (s : State) (w : WeightSet) (r : Nat × Nat) : State :=
  match w.extents[r.2]? with
  | none => s
  | some x =>
    let f := r.1 / 74
    let cl := ((List.range 72).find? fun c => clusterSite s s.faults.applied f (homeOf c) == some (r.1 % 74)).getD 0
    let s := raiseField s f {
      severity := 2, stroke := BitVec.ofNat 60 (strokeNo s), detail := BitVec.ofNat 32 r.2
      location := locWord s 3 0 0 0 0 cl f 0x8E, times := some (s.weights.lastMatch, boardTime s) }
    let s : State := { s with weights := { s.weights with recheck := s.weights.recheck.filter (· != r) ++ [r] } }
    (List.range x.lines).foldl (fun s i => askRefill s r.1 (x.master + i)) s

/-- The slice extents that diverged and have no line left to refill are digested again; one that still differs diverges again
(R507). -/
def recheckExtents (s : State) : State :=
  match s.weights.resident with
  | none => s
  | some w =>
    let waits (r : Nat × Nat) : Bool := match w.extents[r.2]? with
      | some x => s.weights.refills.any fun q => q.1 == r.1 && decide (x.master ≤ q.2 ∧ q.2 < x.master + x.lines)
      | none => false
    let due := s.weights.recheck.filter fun r => !waits r
    let s : State := { s with weights := { s.weights with recheck := s.weights.recheck.filter waits } }
    let differs (r : Nat × Nat) : Bool := match w.extents[r.2]?, s.weights.refs.find? fun q => q.1 == r.1 && q.2.1 == r.2 with
      | some x, some q => decide (extentDigest s x r.1 ≠ q.2.2)
      | _, _ => false
    (due.filter differs).foldl (fun s r => diverge s w r) s

/-- DIGEST_PASS_COMPLETE (R505, R507): every slice extent of the pass has been read; one whose digest is not its reference, or that
the pass found divergent, is refilled and ends the requests since the last matching pass. -/
def execDigestPassComplete (diverged : List (SiteAddr × Nat)) (s : State) : Host.Outcome State Fault Refusal :=
  match s.weights.pass, s.weights.resident with
  | some _, some w =>
    if s.sites.any fun q => q.2.transfers.any isDigest then done s
    else
      let differs (r : Nat × Nat × BitVec 256) : Bool :=
        (diverged.any fun d => siteKey d.1 == r.1 && d.2 == r.2.1) ||
          match w.extents[r.2.1]? with
          | some x => decide (extentDigest s x r.1 ≠ r.2.2)
          | none => false
      let bad := ((passRefs s).filter differs).map fun r => (r.1, r.2.1)
      let s : State := bad.foldl (fun s r => diverge s w r) s
      done { s with weights := { s.weights with
        pass := none, passLate := false, lastMatch := if bad.isEmpty then boardTime s else s.weights.lastMatch } }
  | _, _ => done s

end Sys2Proof.Machine
end

