-- ==== Sys2Proof/Machine/ManageOps.lean ====
section
/-! DEFINITION. What management works with: who is served, the checks of an event's epoch, the ranges of settings, bodies of
responses, the attestation report and the content of a dump (R55 to R57, R294, R367, R380, R381, R416, R464, R483, R514, R520,
R523, R528, R533, R536 to R538). -/

namespace Sys2Proof.Machine

/-- The status that recovery answers with (R516, R533). -/
def stRecovery : Nat := 51

/-- Management is served once the ports may be up, in recovery over J-HOST0, and not in Dry, where they are down (R458, R518,
R519, R533). -/
def served (s : State) : Bool := (s.mgmt.ready || s.mgmt.hold == 6) && s.power.ladder != .dry

/-- An operation of R514; ROM recovery answers all but what R533 names with "recovery". -/
def serve (s : State) (op : Nat) (tag : BitVec 16) (f : State → State) : State :=
  if !served s then s
  else if s.mgmt.hold = 6 then respond s op tag stRecovery
  else f s

/-- The wafer is Held or Banked, and not Banked-ready: no event is scheduled (R460, R520). -/
def eventsShut (s : State) : Bool := s.power.ladder == .held || (s.power.ladder == .banked && !s.power.bankedReady) || s.power.ladder == .dry

/-- What the epoch of a request is refused with (R55, R56, R57, R460): `more` is a lead beyond that of R55, `occupies` says that
R56 applies. -/
def epochRefusal (s : State) (epoch more : Nat) (occupies : Bool) : Option Nat :=
  if eventsShut s then some stNotRunning
  else if epoch < s.time.epoch + max (curbLead s) more then some stTooLate
  else if occupies && epochTaken s epoch then some stOccupied
  else if eventsFull s then some stQueueFull
  else none

/-- An accepted event: the response carries its number (R57). -/
def acceptEvent (s : State) (tag : BitVec 16) (epoch : Nat) (k : EventKind) (more : List (BitVec 64) := []) : State :=
  respond (addEvent s epoch k) 6 tag stAccepted (BitVec.ofNat 64 s.mgmt.nextEvent :: more)

/-- An event is scheduled unless its epoch is refused. -/
def scheduleEvent (s : State) (tag : BitVec 16) (epoch more : Nat) (occupies : Bool) (k : EventKind) : State :=
  match epochRefusal s epoch more occupies with
  | some st => respond s 6 tag st
  | none => acceptEvent s tag epoch k

/-- What a recipe is refused with, and the layers that lack a shadow (R367). -/
def recipeRefusal (s : State) (table : List LayerRec) (layers : List Nat) : Option (Nat × List (BitVec 64)) :=
  if layers.any fun l => !(table.any fun r => r.layer == l) then some (stBadRecipe, [])
  else
    match layers.filter fun l => !shadowPresent s l with
    | [] => none
    | bad => some (stNoWide, (bad.take 16).map (BitVec.ofNat 64))

/-- An activation is pending. -/
def activationPending (s : State) : Bool := s.events.any fun v => match v.kind with
  | .activation _ => true
  | _ => false

/-- Bytes of a response as 64-bit values, the last one filled with zeros. -/
def packWords (b : Bytes) : List (BitVec 64) :=
  (List.range (ceilDiv b.length 8)).map fun i => BitVec.ofNat 64 (fieldAt b (8 * i) 8)

/-- A ledger record's 32 bytes (R364). -/
def ledgerWords (r : LedgerRec) : List (BitVec 64) :=
  packWords (leBytes 2 r.layer ++ leBytes 1 (b2n r.wide) ++ leBytes 1 r.flag.toNat ++ leBytes 4 r.samples.toNat ++
    leBytes 4 r.exceeds.toNat ++ leBytes 4 r.abandoned.toNat ++ leBytes 4 r.dmax.toNat ++ leBytes 8 r.stroke.toNat ++
    leBytes 4 r.loc.toNat)

/-- The place that a register address names exists, and the block lists the offset (R515). -/
def regExists (s : State) (a : RegAddr) : Bool :=
  match blockRows s a with
  | some rows => rows.any fun r => r.1 == a.off
  | none => false

/-- A stage write is taken for the host-settable registers, one site or every site of a CL_ or CS_ control, and for registers
that its access code makes it act on or be ignored by; a field that the loader sets is a bad address (R515, R525). -/
def stageable (s : State) (a : RegAddr) : Bool :=
  let loader := (a.block == 6 && decide (0x1000 ≤ a.off)) || (a.block == 8 && decide (0x040 ≤ a.off)) || a.block == 9
  if loader then false
  else if a.block = 7 ∨ a.block = 8 then
    (a.field == 63 && a.site == 127 && (clFind a.block a.off).isSome) || regExists s a
  else regExists s a

/-- A value lies in the range of its register (R416, R435, R464, R483, R537, R538). -/
def settingOk (s : State) (r : ClReg) (v : Nat) : Bool :=
  let within (lo hi x : Nat) : Bool := decide (lo ≤ x ∧ x ≤ hi)
  match r with
  | .wmCtrl => within 1 60 (bf v 15 8)
  | .fcCtrl => within 1 255 (bf v 7 0)
  | .pwCtrl => within 30 64 (bf v 23 16) && within 1 255 (bf v 15 8)
  | .pwCap => within 5000 30000 v
  | .pwRamp => within 1000 30000 v
  | .pwMargin => within 0 10000 v
  | .thCtrl => within 1 255 (bf v 23 16)
  | .epCtrl => bf v 2 1 != 3
  | .epPrio => true
  | .epPtp => bf v 9 8 != 3
  | .epIdx => true
  | .epRq => true
  | .epCq => true
  | .epSvcKey => true
  | .epRing =>
    let c := bf v 20 16
    let q := bf v 4 0
    (c == 0 && q == 0) || (within 6 16 c && within 6 16 q)
  | .epSvcQp => (qpOf s (bf v 13 12) (bf v 8 0)).isSome && (!tb v 31 || (qpOf s (bf v 29 28) (bf v 24 16)).isSome)
  | .epFtAddr => true
  | .epFtLen => true
  | .epFtKey => true
  | .epFtTtl => within 1 86400 v
  | .epDraw => within 1 256 v
  | .ckCtrl => true
  | .clAssay => true
  | .csCtrl => true

/-- Two areas of host memory overlap. -/
def overlaps (a la b lb : Nat) : Bool := decide (a < b + lb ∧ b < a + la ∧ 0 < la ∧ 0 < lb)

/-- The rings and the index block overlap (R398, R416). -/
def ringsOverlap (e : EpShared) : Bool :=
  let n := e.ringSize.toNat
  let rq := if bf n 4 0 = 0 then 0 else 128 * 2 ^ bf n 4 0
  let cq := if bf n 20 16 = 0 then 0 else 64 * 2 ^ bf n 20 16
  if n = 0 then false
  else overlaps e.rqAddr.toNat rq e.cqAddr.toNat cq || overlaps e.rqAddr.toNat rq e.idxAddr.toNat 32 ||
    overlaps e.cqAddr.toNat cq e.idxAddr.toNat 32

/-- A staged write of the rings, their sizes or the index block. -/
def ringWrite (q : BitVec 64 × BitVec 64) : Bool :=
  let a := regAddr q.1
  a.block == 5 && (a.off == 0x100 || a.off == 0x108 || a.off == 0x110 || a.off == 0x11C)

/-- Every field of a transaction lies in its range (R525). -/
def txnOk (s : State) : Bool :=
  (s.txn.writes.all fun q =>
    let a := regAddr q.1
    match clFind a.block a.off with
    | some (m, r) => settingOk s r (q.2.toNat &&& m)
    | none => true) &&
    !((s.txn.writes.any ringWrite) && ringsOverlap (s.txn.writes.foldl (fun t q =>
      let a := regAddr q.1
      writeCl t a q.2.toNat) s).ep)

/-- A transaction is open: it has neither committed nor aborted (R525). -/
def txnOpen (s : State) : Bool :=
  match s.txn.state with
  | .opened | .requested | .staging | .staged => true
  | .none | .committed | .aborted => false

/-- The commit event of the transaction is withdrawn. -/
def dropCommit (s : State) : State := dropEvents s fun v => v.kind == .commit s.txn.id

/-- A transaction is at an end without a commit (R525). -/
def endTxn (s : State) (status : Nat) : State := dropCommit (abortTxn s status)

/-- A settings record's bytes, its CRC among them (R523). -/
def settingsRecord (gen : Nat) (host : Bytes) : Bytes :=
  let b := leBytes 4 0x53455447 ++ leBytes 1 gen ++ bytesAt host 5 503
  b ++ leBytes 4 (crc32c b)

/-- SHA3-256 of the settings record in force; that of generation 1 as the factory writes it (R523, R528). -/
def settingsDigest (s : State) : BitVec 256 :=
  if s.mgmt.gen = 1 then sha3_256 (settingsRecord 1 [])
  else match s.otp.settings.find? fun q => q.gen == s.mgmt.gen with
    | some q => q.digest
    | none => 0

/-- Bytes 0 to 327 of an attestation report (R528). -/
def attestBody (s : State) (nonce : BitVec 256) : Bytes :=
  leBytes 4 0x41545354 ++ leBytes 2 1 ++ leBytes 1 s.board.position.toNat ++ leBytes 1 0 ++ leBytes 8 (boardTime s) ++
    leBytes 32 nonce.toNat ++ leBytes 16 Config.serial.toNat ++ leBytes 4 0xA1 ++ leBytes 4 s.mgmt.gen ++
    leBytes 32 (settingsDigest s).toNat ++ ((List.range 4).flatMap fun c => leBytes 32 (s.fw.inForce.getD c {}).digest.toNat) ++
    leBytes 32 (match s.plan.active with | some p => p.header.digest.toNat | none => 0) ++
    leBytes 32 s.faults.packDigest.toNat ++ leBytes 32 (sha3_256 Config.kemKey).toNat

/-- Address of a register (R515). -/
def regWord (block field site phys port off : Nat) : Nat :=
  block * 2 ^ 56 + field * 2 ^ 50 + site * 2 ^ 43 + phys * 2 ^ 38 + port * 2 ^ 36 + off

/-- The entries of a dump for the registers of one block: an address and a value of 8 bytes; a register of 16 bytes gives two, a
write-only window none, and a place that answers dark none (R259, R536). -/
def dumpBlock (s : State) (block field site phys port : Nat) : Bytes :=
  let addr := regWord block field site phys port 0
  let a := regAddr (BitVec.ofNat 64 addr)
  if regDark s a then []
  else
    match blockRows s a with
    | none => []
    | some rows => rows.flatMap fun r =>
      if block = 9 ∧ 0x10000 ≤ r.1 then []
      else leBytes 8 (addr + r.1) ++ leBytes 8 (r.2.2 % 2 ^ 64) ++
        (if r.2.1 = 16 then leBytes 8 (addr + r.1 + 8) ++ leBytes 8 (r.2.2 / 2 ^ 64) else [])

/-- The registers of a cell, of a site with its cells, of a field with its sites. -/
def dumpCell (s : State) (c : CellAddr) : Bytes := dumpBlock s 9 c.field.val c.site.val c.phys.val 0
def dumpSite (s : State) (f i : Nat) : Bytes :=
  dumpBlock s 7 f i 0 0 ++ dumpBlock s 8 f i 0 0 ++ (List.range 18).flatMap fun p => dumpBlock s 9 f i p 0
def dumpField (s : State) (f : Nat) : Bytes := dumpBlock s 2 f 0 0 0 ++ (List.range 74).flatMap fun i => dumpSite s f i

/-- The entries of a dump by its scope (R536). -/
def dumpEntries (s : State) (d : DumpScope) : Bytes :=
  match d with
  | .module =>
    dumpBlock s 1 0 0 0 0 ++ dumpBlock s 3 0 0 0 0 ++ dumpBlock s 4 0 0 0 0 ++
      ((List.range 4).flatMap fun p => dumpBlock s 5 0 0 0 p ++ dumpBlock s 6 0 0 0 p) ++ allFields.flatMap fun f => dumpField s f
  | .field f => dumpField s f.val
  | .site x => dumpSite s x.field.val x.site.val
  | .cells cs => cs.flatMap fun c => dumpCell s c

/-- The 64-byte header of a dump, whose content the manual does not give: free values (R536, log entry 5). -/
def dumpHeader (s : State) : Bytes :=
  (List.range 8).flatMap fun i => leBytes 8 (Config.freeValue (s.freeCount + i)).toNat

/-- An install whose copies have begun goes back to a staged set. -/
def stopInstall (s : State) : State :=
  if s.weights.state = some .installing then
    { s with
      weights := { s.weights with state := some .staged }
      sites := tmapAll {} (fun _ st => { st with transfers := st.transfers.filter fun t => match t with
        | .sweep .. => false
        | _ => true }) s.sites }
  else s

/-- What the cancelling of an event undoes (R57): the barrier that it closed, what it staged or begun. -/
def undoEvent (s : State) (k : EventKind) : State :=
  match k with
  | .activation _ => freeBarrier s .activation
  | .recipe _ => freeBarrier { s with plan := { s.plan with recipeStaged := none } } .recipe
  | .install => freeBarrier (stopInstall s) .install
  | .commit _ => abortTxn s stDiscarded
  | .firmware => { s with fw := { s.fw with pending := 0 } }
  | .swap => s
  | .proof => s
  | .testPack => s
  | .ladder _ => s

end Sys2Proof.Machine
end

