-- ==== Sys2Proof/Machine/Manage.lean ====
section
/-! DEFINITION. The management operations and what the wafer manager does beside them (R39, R40, R54 to R57, R294, R364, R367,
R380, R381, R405, R498, R508, R509, R511 to R536). -/

namespace Sys2Proof.Machine

/-- The values of up to n registers of a list from an offset on; none where the list has no register there (R514). -/
def readRows (rows : List (Nat × Nat × Nat)) (off n : Nat) : Option (List (BitVec 64)) :=
  if rows.any fun r => r.1 == off then
    some (((rows.filter fun r => decide (off ≤ r.1)).take n).map fun r => BitVec.ofNat 64 r.2.2)
  else none

/-- READ_REGISTERS (R259, R514, R515, R533): block 9 is reached through dumps only. -/
def execReadRegisters (tag : BitVec 16) (addr : BitVec 64) (count : Nat) (s : State) : Host.Outcome State Fault Refusal :=
  let a := regAddr addr
  if !served s then done s
  else if s.mgmt.hold = 6 ∧ ¬ (a.block = 1 ∧ a.off = 0x004 ∧ count = 1) then done (respond s 1 tag stRecovery)
  else if a.block = 9 then done (respond s 1 tag stBadAddress)
  else
    match blockRows s a with
    | none => done (respond s 1 tag stBadAddress)
    | some rows =>
      match readRows rows a.off count with
      | none => done (respond s 1 tag stBadAddress)
      | some vs =>
        if regDark s a then done (respond (noteDark s a) 1 tag stDark)
        else done (respond s 1 tag stAccepted vs)

/-- STAGE_WRITE (R525): a write is collected in the open transaction. -/
def execStageWrite (tag txn : BitVec 16) (addr value : BitVec 64) (s : State) : Host.Outcome State Fault Refusal :=
  done (serve s 2 tag fun s =>
    if s.txn.id ≠ txn ∨ s.txn.state ≠ .opened then respond s 2 tag stNotFound
    else if !stageable s (regAddr addr) then respond s 2 tag stBadAddress
    else respond { s with txn := { s.txn with writes := s.txn.writes ++ [(addr, value)] } } 2 tag stAccepted)

/-- OPEN_TRANSACTION (R525): one at a time; the response returns TXN. -/
def execOpenTransaction (tag : BitVec 16) (s : State) : Host.Outcome State Fault Refusal :=
  done (serve s 3 tag fun s =>
    if txnOpen s then respond s 3 tag stCommitBusy
    else
      let id := s.txn.id + 1
      respond { s with txn := { id := id, state := .opened } } 3 tag stAccepted [id.setWidth 64])

/-- WM_COMMIT.STATUS shows why a commit was refused, while the transaction stays open (R516, R525). -/
def txnStatus (s : State) (st : Nat) : State := { s with txn := { s.txn with status := st } }

/-- COMMIT_TRANSACTION (R55, R57, R525): the ranges and the epoch are checked, and the shadows are staged from then on. -/
def execCommitTransaction (tag txn : BitVec 16) (epoch : BitVec 48) (board : Bool) (s : State) :
    Host.Outcome State Fault Refusal :=
  done (serve s 4 tag fun s =>
    if s.txn.id ≠ txn ∨ s.txn.state ≠ .opened then respond s 4 tag stNotFound
    else if !txnOk s then respond (txnStatus s stBadSetting) 4 tag stBadSetting
    else
      match epochRefusal s epoch.toNat 0 false with
      | some st => respond (txnStatus s st) 4 tag st
      | none =>
        let n := s.mgmt.nextEvent
        let s := addEvent s epoch.toNat (.commit txn)
        respond { s with txn := { s.txn with
          state := .staging, status := 0, epoch := epoch.toNat, board := board, decided := none } } 4 tag
          stAccepted [BitVec.ofNat 64 n])

/-- ABORT_TRANSACTION (R57, R525): an open transaction is abandoned; one that is committing, while its lead is met. -/
def execAbortTransaction (tag txn : BitVec 16) (s : State) : Host.Outcome State Fault Refusal :=
  done (serve s 5 tag fun s =>
    if s.txn.id ≠ txn || !txnOpen s then respond s 5 tag stNotFound
    else if s.txn.state ≠ .opened ∧ s.txn.epoch < s.time.epoch + curbLead s then respond s 5 tag stTooLate
    else respond (endTxn s stDiscarded) 5 tag stAccepted)

/-- COMMIT_DEADLINE (R525): at stroke 2,048 of e − 1 every CRC is in hand, or the transaction aborts; with BOARD set the outcome
is reported to the master. -/
def execCommitDeadline (allMatch : Bool) (s : State) : Host.Outcome State Fault Refusal :=
  if s.txn.state = .staging ∧ s.txn.epoch = s.time.epoch + 1 ∧ 2048 ≤ s.time.stroke then
    let t := if allMatch then { s with txn := { s.txn with state := .staged } } else endTxn s stStageFailed
    done (if s.txn.board && s.board.admitted then
        sendVc t { src := s.board.position, dst := 0, content := .commitReport s.txn.id allMatch }
      else t)
  else done s

/-- BOARD_COMMIT_DECISION (R525): go, or an abort that cancels the transaction on every module; the master sends it. -/
def execBoardCommitDecision (go : Bool) (s : State) : Host.Outcome State Fault Refusal :=
  if s.txn.board && (s.txn.state == .staging || s.txn.state == .staged) then
    let t := if go then { s with txn := { s.txn with decided := some true } } else endTxn s stStageFailed
    done (boardTell t (.commitReport s.txn.id go))
  else done s

/-- SCHEDULE_PLAN_ACTIVATION (R294, R367, R502): a staged plan, with the recipe that takes effect with it. -/
def execSchedulePlanActivation (tag : BitVec 16) (epoch : BitVec 48) (recipe : Option (List Nat)) (s : State) :
    Host.Outcome State Fault Refusal :=
  done (serve s 6 tag fun s =>
    match s.plan.pending with
    | none => respond s 6 tag (if s.mgmt.hold = 5 then stDefectMap else stNotStaged)
    | some p =>
      if s.mgmt.hold = 5 then respond s 6 tag stDefectMap
      else if s.plan.stage ≠ some .staged then respond s 6 tag stNotStaged
      else if activationPending s then respond s 6 tag stPlanPending
      else if swapping s then respond s 6 tag stSwap
      else
        match recipeRefusal s p.precision (recipe.getD []) with
        | some (st, body) => respond s 6 tag st body
        | none => scheduleEvent s tag epoch.toNat (drainEpochs s + 2) true (.activation recipe))

/-- SCHEDULE_RECIPE (R367): the checks in their order; an accepted recipe is staged. -/
def execScheduleRecipe (tag : BitVec 16) (epoch : BitVec 48) (recipe : List Nat) (s : State) :
    Host.Outcome State Fault Refusal :=
  done (serve s 6 tag fun s =>
    let table := match s.plan.active with
      | some p => p.precision
      | none => []
    match recipeRefusal s table recipe with
    | some (st, body) => respond s 6 tag st body
    | none =>
      match epochRefusal s epoch.toNat (drainEpochs s + 2) true with
      | some st => respond s 6 tag st
      | none => acceptEvent { s with plan := { s.plan with recipeStaged := some recipe } } tag epoch.toNat (.recipe recipe))

/-- SCHEDULE_SWAP (R56, R381): the checks in their order. -/
def execScheduleSwap (tag : BitVec 16) (epoch : BitVec 48) (s : State) : Host.Outcome State Fault Refusal :=
  done (serve s 6 tag fun s =>
    match s.weights.loading with
    | none => respond s 6 tag stNotStaged
    | some w =>
      let version := match s.weights.resident with
        | some r => some r.version
        | none => none
      let narrow := s.plan.recipe.any fun l => w.layers.any fun r => r.layer == l && !r.shadow
      if s.weights.state ≠ some .staged then respond s 6 tag stNotStaged
      else if (match s.plan.active with | some p => p.header.weightLayout != w.layout | none => true) then
        respond s 6 tag stWeightLayout
      else if version = some w.version then respond s 6 tag stSameVersion
      else if narrow then respond s 6 tag stNoWide
      else if activationPending s then respond s 6 tag stPlanPending
      else scheduleEvent s tag epoch.toNat 0 true .swap)

/-- SCHEDULE_INSTALL (R380): of a staged set, with d + I + 2 epochs ahead; the response states I. -/
def execScheduleInstall (tag : BitVec 16) (epoch : BitVec 48) (s : State) : Host.Outcome State Fault Refusal :=
  done (serve s 6 tag fun s =>
    match s.weights.loading with
    | none => respond s 6 tag stNotStaged
    | some w =>
      let i := installEpochs w
      if s.weights.state ≠ some .staged then respond s 6 tag stNotStaged
      else
        match epochRefusal s epoch.toNat (drainEpochs s + i + 2) false with
        | some st => respond s 6 tag st
        | none =>
          acceptEvent { s with weights := { s.weights with installEpochs := i } } tag epoch.toNat .install [BitVec.ofNat 64 i])

/-- SCHEDULE_FIRMWARE (R534): every class that is READY is to switch. -/
def execScheduleFirmware (tag : BitVec 16) (epoch : BitVec 48) (s : State) : Host.Outcome State Fault Refusal :=
  done (serve s 6 tag fun s =>
    let classes := bitsOf 4 fun c => (tget none s.fw.ready c).isSome
    if classes = 0 then respond s 6 tag stNotReady
    else
      match epochRefusal s epoch.toNat 0 false with
      | some st => respond s 6 tag st
      | none => acceptEvent { s with fw := { s.fw with pending := BitVec.ofNat 4 classes } } tag epoch.toNat .firmware)

/-- SCHEDULE_PROOF_WINDOW (R509). -/
def execScheduleProofWindow (tag : BitVec 16) (epoch : BitVec 48) (s : State) : Host.Outcome State Fault Refusal :=
  done (serve s 6 tag fun s => scheduleEvent s tag epoch.toNat 0 false .proof)

/-- A pending event is cancelled on every module of the board (R54, R57). -/
def cancelEvent (s : State) (v : Event) : State :=
  boardTell (undoEvent (dropEvents s fun u => u.number == v.number) v.kind)
    (.cancelName (eventCode v.kind).1 (eventCode v.kind).2 (BitVec.ofNat 48 v.epoch))

/-- CANCEL_EVENT (R57): a pending event, until the lead is no longer met for it. -/
def execCancelEvent (tag : BitVec 16) (number : Nat) (s : State) : Host.Outcome State Fault Refusal :=
  done (serve s 7 tag fun s =>
    match s.events.find? fun v => v.number == number with
    | none => respond s 7 tag stNotFound
    | some v =>
      if v.epoch < s.time.epoch + curbLead s then respond s 7 tag stTooLate
      else respond (cancelEvent s v) 7 tag stAccepted)

/-- What a window operation is refused with whatever the window's state (R404, R405, R520, R533). -/
def windowRefusal (s : State) (w : Nat) : Option Nat :=
  if s.mgmt.hold = 6 ∧ w ≠ 2 then some stRecovery
  else if 5 ≤ w then some stBadAddress
  else if w = 4 then some stNotReady
  else if s.power.ladder == .banked && !s.power.bankedReady && s.mgmt.hold != 6 then some stNotRunning
  else none

/-- OPEN_WINDOW (R293, R405): the window takes a new generation, and its rkey is returned; a held window, and the plan window
while a plan is pending, stays as it is. -/
def execOpenWindow (tag : BitVec 16) (w : BitVec 8) (s : State) : Host.Outcome State Fault Refusal :=
  let n := w.toNat
  if !served s then done s
  else
    match windowRefusal s n with
    | some st => done (respond s 8 tag st)
    | none =>
      let busy := n == 1 && s.plan.stage.isSome && s.plan.stage != some .receiving
      if (s.window n).state = .held ∨ busy = true then done (respond s 8 tag stLoadBusy)
      else
        let s := openWin s n
        done (respond s 8 tag stAccepted [(winKey n (s.window n).gen).setWidth 64])

/-- CLOSE_WINDOW (R405, R407, R409): the close takes effect once no message is partly received. -/
def execCloseWindow (tag : BitVec 16) (w : BitVec 8) (pack : Option TestPack) (corrupt : Option HostPort) (s : State) :
    Host.Outcome State Fault Refusal :=
  let n := w.toNat
  if !served s then done s
  else
    match windowRefusal s n with
    | some st => done (respond s 8 tag st)
    | none =>
      let win := s.window n
      if win.state ≠ .open_ ∨ win.closing.isSome = true then done (respond s 8 tag stNotReady)
      else
        done (settleClose (s.setWindow n { win with
          closing := some { tag := tag, pack := pack, corrupt := corrupt }, closeAt := boardTime s }) n)

/-- READ_LOG (R514, R535): the entries from a sequence number on that are still held, five words each. -/
def execReadLog (tag : BitVec 16) (first : Word) (count : Nat) (s : State) : Host.Outcome State Fault Refusal :=
  done (serve s 9 tag fun s =>
    let l := s.faults.log.filter fun q => decide ((q.1 - first).toNat < count)
    respond s 9 tag stAccepted (l.flatMap fun q => BitVec.ofNat 64 (q.2.1 * 2 ^ 32 + q.1.toNat) :: q.2.2))

/-- READ_LEDGER (R364, R514): the records of a range of layers; the FLAG bits named are cleared. -/
def execReadLedger (tag : BitVec 16) (first last : Nat) (clear : BitVec 2) (s : State) : Host.Outcome State Fault Refusal :=
  done (serve s 10 tag fun s =>
    let within (r : LedgerRec) : Bool := decide (first ≤ r.layer ∧ r.layer ≤ last)
    let body := (s.ledger.filter within).flatMap ledgerWords
    respond { s with ledger := s.ledger.map fun r => if within r then { r with flag := r.flag &&& ~~~clear } else r } 10 tag
      stAccepted body)

/-- ATTEST (R527, R528): the report over a nonce, signed with the identity key. -/
def execAttest (tag : BitVec 16) (nonce : BitVec 256) (s : State) : Host.Outcome State Fault Refusal :=
  done (serve s 11 tag fun s =>
    let b := attestBody s nonce
    respond s 11 tag stAccepted (packWords (b ++ bytesAt (Config.sign b) 0 2420)))

/-- IDENTITY (R529): the public keys and the factory certificate. -/
def execIdentity (tag : BitVec 16) (s : State) : Host.Outcome State Fault Refusal :=
  done (serve s 12 tag fun s =>
    respond s 12 tag stAccepted (packWords (bytesAt Config.identityKey 0 1312 ++ bytesAt Config.kemKey 0 1184 ++ Config.certificate)))

/-- DUMP (R536): a dump begins unless one is made or held. -/
def execDump (tag : BitVec 16) (scope : DumpScope) (s : State) : Host.Outcome State Fault Refusal :=
  done (serve s 13 tag fun s =>
    if s.mgmt.dumpHeld || s.mgmt.dumpScope.isSome then respond s 13 tag stDumpBusy
    else { s with mgmt := { s.mgmt with dumpScope := some (tag, scope) } })

/-- DUMP_READY (R405, R536): header and entries lie in window 4, as far as it holds them; it opens, and the response carries its
rkey. -/
def execDumpReady (s : State) : Host.Outcome State Fault Refusal :=
  match s.mgmt.dumpScope with
  | none => done s
  | some (tag, scope) =>
    let b := (dumpHeader s ++ dumpEntries s scope).take (winSize 4)
    let gen := nextGen (s.window 4).gen
    let s := s.setWindow 4 { state := .open_, gen := gen, bytes := tsetMany 0 [] 0 b, top := b.length }
    let s : State := { s with
      mgmt := { s.mgmt with dumpScope := none, dumpHeld := true }
      freeCount := s.freeCount + 8 }
    done (respond s 13 tag stAccepted [(winKey 4 gen).setWidth 64])

/-- ACKNOWLEDGE_DUMP (R536): window 4 closes. -/
def execAcknowledgeDump (tag : BitVec 16) (s : State) : Host.Outcome State Fault Refusal :=
  done (serve s 14 tag fun s =>
    if s.mgmt.dumpHeld then
      respond (closeWin { s with mgmt := { s.mgmt with dumpHeld := false } } 4) 14 tag stAccepted
    else respond s 14 tag stNotReady)

/-- BURN_SETTINGS (R523, R524): the host's record goes into the next empty generation; it is in force from the next start-up on. -/
def execBurnSettings (tag : BitVec 16) (record : Bytes) (s : State) : Host.Outcome State Fault Refusal :=
  done (serve s 15 tag fun s =>
    let n := s.otp.settings.length
    let count := fieldAt record 6 1
    if 4 ≤ n then respond s 15 tag stExhausted
    else if record.length ≠ 512 ∨ 2 ≤ fieldAt record 5 1 ∨ 16 < count ∨ fieldAt record 7 1 ≠ 0 ∨ zeroAt record 264 244 = false then
      respond s 15 tag stBadSetting
    else
      let g : Settings := {
        gen := n + 1, compat := tb (fieldAt record 5 1) 0
        allow := (List.range count).map fun i => BitVec.ofNat 128 (fieldAt record (8 + 16 * i) 16)
        digest := sha3_256 (settingsRecord (n + 1) record) }
      respond { s with otp := { s.otp with settings := s.otp.settings ++ [g] } } 15 tag stAccepted)

/-- DISCARD_PLAN (R293, R514): the pending plan, before its activation is within the lead. -/
def execDiscardPlan (tag : BitVec 16) (s : State) : Host.Outcome State Fault Refusal :=
  let act (k : EventKind) : Bool := match k with
    | .activation _ => true
    | _ => false
  done (serve s 16 tag fun s =>
    if s.plan.stage.isNone then respond s 16 tag stNotStaged
    else if !leadMet s act then respond s 16 tag stTooLate
    else respond (discardPending (dropEvents s fun v => act v.kind) stDiscarded) 16 tag stAccepted)

/-- ALERT_MESSAGE (R517): on the primary service QP, at most once in any 10 ms, with WM_ALERT as it stands. -/
def execAlertMessage (s : State) : Host.Outcome State Fault Refusal :=
  let port := bf s.ep.svcQp.toNat 13 12
  let wait := match s.mgmt.alertSent with
    | some t => decide (boardTime s < t + 1000000)
    | none => false
  if s.mgmt.alertDue && !wait && roceOpen s port && (qpOf s port (bf s.ep.svcQp.toNat 8 0)).isSome then
    let s : State := { s with mgmt := { s.mgmt with alertDue := false, alertSent := some (boardTime s) } }
    done (s.emit (.alert (s.mgmt.alert.setWidth 32)))
  else done s

/-- REGISTER_WRITE (R10, R11): a write acts by the access code of its register: a W1C bit is cleared, a WO register triggers its
action; one to a dark place has no effect, and a CL field changes by a commit only. -/
def execRegisterWrite (addr value : BitVec 64) (s : State) : Host.Outcome State Fault Refusal :=
  let a := regAddr addr
  if regDark s a then done (noteDark s a)
  else done (writeWo (writeW1c s a value.toNat) a value.toNat)

/-- FIRMWARE_REVERT (R534): a failure in the first 64 epochs, and every class goes back at the next curb stroke; a confirmation
missing in the epoch before cancels the activation; both on every module of the board. -/
def execFirmwareRevert (s : State) : Host.Outcome State Fault Refusal := done (firmwareOff s)

/-- OTP_COUNTER_ADVANCE (R534): at e + 64 the counters take the images' values. -/
def execOtpCounterAdvance (s : State) : Host.Outcome State Fault Refusal :=
  match s.fw.activated with
  | none => done s
  | some e =>
    if s.time.epoch < e + 64 ∨ s.fw.revert = true then done s
    else done { s with
      otp := { s.otp with counters := s.otp.counters.zipIdx.map fun q =>
        if q.2 < 4 then max q.1 (s.fw.inForce.getD q.2 {}).counter else q.1 }
      fw := { s.fw with activated := none, previous := none } }

/-- WATCHDOG_EXPIRY (R486, R513, R534): the core restarts from its image, the shared memory stays. -/
def execWatchdogExpiry (core : Fin 4) (s : State) : Host.Outcome State Fault Refusal :=
  if s.mgmt.step = 0 then done s
  else done (coreEvent { s with mgmt := { s.mgmt with restarts := satAdd s.mgmt.restarts 1 } } core.val)

/-- MANAGEMENT_CLEAR (R39, R40, R498): the host clears what keeps the module out of Running; Held may be left, and a restart that
waited names its reactivation. -/
def execManagementClear (s : State) : Host.Outcome State Fault Refusal :=
  if !served s then done s
  else
    done (nameRestart { s with
      faults := { s.faults with waitClear := false }
      time := { s.time with timeFault := false }
      power := { s.power with leaving := s.power.leaving || s.power.ladder == .held } })

/-- The operations of R514. -/
def knownOp (op : Nat) : Bool := decide (1 ≤ op ∧ op ≤ 16) || op == 0x40

/-- UNASSIGNED_OP (R514). -/
def execUnassignedOp (tag op : BitVec 16) (s : State) : Host.Outcome State Fault Refusal :=
  if knownOp op.toNat then done s
  else done (serve s op.toNat tag fun s => respond s op.toNat tag stUnknownOp)

end Sys2Proof.Machine
end

