-- ==== Sys2Proof/Machine/Cascade.lean ====
section
/-! DEFINITION. Commands of the cascade ports (R417 to R434). -/

namespace Sys2Proof.Machine

/-- YELZIA_FLIT_RECEIVE (R421 to R424, R433): a flit that fails its CRC or FEC is asked for again, the eighth time the quad goes
down; the units of a good VC0 flit wait for their cycle on an admitted port. -/
def execYelziaFlitReceive (p : CascPort) (q : Quad) (flit : Bytes) (fec : FecCount) (s : State) :
    Host.Outcome State Fault Refusal :=
  let x := tget {} (s.cascPort p.val).quads q.val
  let fecOk := fec.uncorrectable == 0
  let s := if !quadCarries s p.val q.val then s else s.modCasc p.val fun c => { c with
    fecCorr := satAdd c.fecCorr fec.corrected, fecUncorr := satAdd c.fecUncorr fec.uncorrectable }
  if !quadCarries s p.val q.val then done s
  else if !fecOk || crc32Yelzia (bytesAt flit 0 252) != fieldAt flit 252 4 then
    let s := s.modCasc p.val fun c => { c with
      replay := satAdd c.replay 1, errStatus := if fecOk then c.errStatus ||| 1 else c.errStatus }
    if 8 ≤ x.replays then done (quadDown s p.val q.val)
    else
      let s := modQuad s p.val q.val fun x => { x with replays := x.replays + 1 }
      done (s.emit (.replayRequest p.val q.val x.expect))
  else
    let hdr := fieldAt flit 0 2
    if bf hdr 11 0 ≠ x.expect.toNat then done s
    else
      let s := modQuad s p.val q.val fun x => { x with expect := x.expect + 1, replays := 0 }
      if bf hdr 15 14 = 0 ∧ (s.cascPort p.val).prime = .admitted ∧ s.board.halted = none then
        done (s.modCasc p.val fun c => { c with received := c.received ++ flitUnits s q.val x.latency flit })
      else done s

/-- LANE_LOCK_LOSS (R424). -/
def execLaneLockLoss (p : CascPort) (q : Quad) (s : State) : Host.Outcome State Fault Refusal :=
  if (tget {} (s.cascPort p.val).quads q.val).up then done (quadDown s p.val q.val) else done s

/-- QUAD_TRAINING_COMPLETE (R421, R432): a latency above 40 ticks keeps the quad down; with a quad that returns the link primes. -/
def execQuadTrainingComplete (p : CascPort) (q : Quad) (latency : Nat) (s : State) : Host.Outcome State Fault Refusal :=
  if !quadMay s p.val q.val || (tget {} (s.cascPort p.val).quads q.val).up then done s
  else if 40 < latency then done (ckErr s p.val 3)
  else
    let s := modQuad s p.val q.val fun _ => { up := true, latency := latency }
    done (primeAgain s p.val .untrained)

/-- CASCADE_UNIT_INJECT (R424 to R426): a plan unit is injected so that it arrives in its cycle; one that has not come is delivered
poisoned. -/
def execCascadeUnitInject (p : CascPort) (rid : Fin 1024) (unit : Fin 64) (s : State) : Host.Outcome State Fault Refusal :=
  let c := s.cascPort p.val
  let e := (tget 0 c.table rid.val).toNat
  if !(working s && c.prime == .admitted && tb e 63 && !tb e 62) then done s
  else
    match findUnit c.received rid.val unit.val with
    | some u =>
      let s := s.modCasc p.val fun c => { c with received := c.received.erase u }
      let due := u.work * 512 + u.dcyc
      if u.work < s.time.work then
        done (injectUnit (unitLate s p.val rid.val) p.val e unit.val none (budgetNow s) (deadWords rid.val))
      else done (injectUnit s p.val e unit.val (some u.quad) due u.data)
    | none =>
      done (injectUnit (unitLate s p.val rid.val) p.val e unit.val none (budgetNow s) (deadWords rid.val))

/-- EXCHANGE_ADD_COMBINE (R183, R184, R427): the port's own unit and its partner's are combined, the lower position on the left, and
delivered; a leg that is missing poisons the result. -/
def execExchangeAddCombine (p : CascPort) (rid : Fin 1024) (unit : Fin 64) (s : State) : Host.Outcome State Fault Refusal :=
  let c := s.cascPort p.val
  let e := (tget 0 c.table rid.val).toNat
  if !(working s && c.prime == .admitted && tb e 63 && tb e 62) then done s
  else
    let mine := findUnit c.kept rid.val unit.val
    let theirs := findUnit c.received rid.val unit.val
    let words (u : Option CascUnit) : List PWord := match u with
      | some u => u.data
      | none => deadWords rid.val
    let leg (l : List CascUnit) (u : Option CascUnit) : RedLeg :=
      { u0 := words (headUnit l rid.val), u := words u }
    let own := leg c.kept mine
    let far := leg c.received theirs
    let sum := if s.board.position.toNat < c.partner.toNat then combineLeg (bf e 61 60) unit.val own far
      else combineLeg (bf e 61 60) unit.val far own
    let spend (l : List CascUnit) (u : Option CascUnit) : List CascUnit := match u with
      | some u => spendUnit l u
      | none => l
    let s := s.modCasc p.val fun c => { c with kept := spend c.kept mine, received := spend c.received theirs }
    let s := if theirs.isNone then unitLate s p.val rid.val else s
    match mine, theirs with
    | some u, _ => done (injectUnit s p.val e unit.val (some u.quad) (u.work * 512 + u.dcyc) sum.u)
    | none, some u => done (injectUnit s p.val e unit.val (some u.quad) (u.work * 512 + u.dcyc) sum.u)
    | none, none => done (injectUnit s p.val e unit.val none (budgetNow s) sum.u)

/-- The event of an epoch name's code and data (R54, R423); `none` for an activation of the wafer manager's own. -/
def namedEvent (kind : Nat) (data : List Nat) : Option EventKind :=
  match kind with
  | 1 => some (.commit (BitVec.ofNat 16 (data.headD 0)))
  | 2 => some .firmware
  | 3 => some (.activation none)
  | 4 => some (.activation (some data))
  | 5 => some (.recipe data)
  | 6 => some .swap
  | 7 => some .install
  | 8 => some .proof
  | 9 => some (.ladder (data.headD 0))
  | 16 => some .testPack
  | _ => none

/-- The wafer manager's own activation of an epoch name (R296 to R298, R496, R557). -/
def namedOwn (kind : Nat) (data : List Nat) : Option OwnKind :=
  let w := BitVec.ofNat 2 (data.headD 0)
  let f := Fin.ofNat 48 (data.getD 1 0)
  match kind with
  | 10 => some .rotation
  | 11 => some .reactivate
  | 12 => some .rePlace
  | 13 => some (.holeVariant w f)
  | 14 => some (.heatOff w f)
  | 15 => some (.heatReturn w f)
  | _ => none

/-- A follower takes an epoch that its master named (R54, R419, R432): an activation, or an install, stands once, so that a new name
takes the place of the old (R448). A module that still primes takes only what falls after its admission (R434). -/
def takeName (s : State) (kind : Nat) (data : List Nat) (e : Nat) : State :=
  if kind = 0 then { s with board := { s.board with admitEpoch := some e } }
  else if !s.board.admitted && decide (e ≤ s.board.admitEpoch.getD 0) then s
  else
    match namedEvent kind data, namedOwn kind data with
    | some k, _ =>
      let once : Bool := match k with
        | .activation _ | .install => true
        | _ => false
      addEvent { s with events := s.events.filter fun v => !(once && eventCode v.kind == (kind, data)) } e k
    | none, some k =>
      let s : State := { s with own := s.own.filter (fun o => o.kind != k) ++ [{ kind := k, epoch := e }] }
      if k = .reactivate then holdBarrier (settleRestart s e) .reactivation
      else if k = .rePlace then holdBarrier s .rePlacement
      else s
    | none, none => s

/-- An event or activation named before no longer stands for its epoch (R57, R296, R298); a master tells the others. -/
def takeCancel (s : State) (kind : Nat) (data : List Nat) (e : Nat) : State :=
  let mine (o : OwnEvent) : Bool := ownCode o.kind == (kind, data) && o.epoch == e
  let here (v : Event) : Bool := eventCode v.kind == (kind, data) && v.epoch == e
  let own := s.own.filter mine
  let gone := s.events.filter here
  let s := own.foldl (fun s o => retryOwn s o.kind) { s with own := s.own.filter fun o => !mine o }
  let s := gone.foldl (fun s v => undoEvent s v.kind) (dropEvents s here)
  if own.isEmpty && gone.isEmpty then s else boardTell s (.cancelName kind data (BitVec.ofNat 48 e))

/-- A follower asks its master to name an activation of the wafer manager's own (R493, R496, R501, R557). -/
def takeDue (s : State) (kind : Nat) (data : List Nat) : State :=
  match namedOwn kind data with
  | some .reactivate => holdBarrier (nameOwn s .reactivate (s.time.epoch + 4)) .reactivation
  | some .rePlace => holdBarrier (nameOwn s .rePlace (s.time.epoch + 4)) .rePlacement
  | some (.heatOff w f) => nameOwn s (.heatOff w f) (heatEpoch s)
  | some (.heatReturn w f) => nameOwn s (.heatReturn w f) (heatEpoch s)
  | _ => s

/-- The step of boost of a period name. -/
def boostOf (n : Nat) : BoostStep :=
  match n with
  | 1 => .entering
  | 2 => .inBoost
  | 3 => .leaving
  | _ => .none

/-- The router of a port's first quad that is up (R420). -/
def upQuad (s : State) (p : Nat) : Nat × Nat :=
  quadXY p (((List.range 8).find? fun q => (tget {} (s.cascPort p).quads q).up).getD 0)

/-- A replica has stopped, and its requests end, or it runs again (R428, R430). -/
def takeReplica (s : State) (w : Nat) (runs : Bool) : State :=
  let bit := BitVec.ofNat 4 (2 ^ w)
  if runs then { s with board := { s.board with stopped := s.board.stopped &&& ~~~bit } }
  else { endReplica s w stWaferFault with board := { s.board with stopped := s.board.stopped ||| bit } }

/-- A message for this module (R41, R45, R61, R297, R423, R429, R521, R525, R557). -/
def takeMessage (s : State) (p : Nat) (m : VcMessage) : State :=
  let follower := decide (s.board.position ≠ 0)
  let led := follower && m.src == 0
  match m.content with
  | .trim e t => if led then { s with time := { s.time with trims := s.time.trims ++ [(e.toNat, t)] } } else s
  | .demand d room awake =>
    if follower then s
    else { s with board := { s.board with
      demandIn := max s.board.demandIn d, noBoost := s.board.noBoost || !room, asleep := s.board.asleep || !awake } }
  | .period t b anew e =>
    if led then { s with board := { s.board with named := some { epoch := e.toNat, period := t, boost := boostOf b, anew := anew } } }
    else s
  | .epochName k d e => if led then takeName s k d e.toNat else s
  | .cancelName k d e => if led || !follower then takeCancel s k d e.toNat else s
  | .ownDue k d => if follower then s else takeDue s k d
  | .fieldLost w f =>
    if w = s.board.position then s
    else fieldLostThere (boardTell s (.fieldLost w f)) w f
  | .variantStaged => if follower then s else noteStaged s m.src
  | .primeAgain => if led then loseAdmission s else s
  | .dispatch ch v n =>
    let others := s.board.dispatch.filter fun q => !(q.1 == n && q.2.1 == ch.val)
    if led then { s with board := { s.board with dispatch := others ++ [(n, ch.val, v.toNat)] } } else s
  | .parcel n ty i b => if led then takeParcel s n ty i b else s
  | .manifest b => if led then followLoad s b else s
  | .shard i ps => if led then followShard s (upQuad s p) i ps else s
  | .loadGone st => if led && (s.weights.state == some .fetching || s.weights.state == some .staged) then dropLoad s st else s
  | .parcelTaken n => if follower then s else parcelTaken s m.src.toNat n
  | .outbox o =>
    if follower then s else { s with serve := { s.serve with results := s.serve.results ++ [{ o with src := m.src.toNat }] } }
  | .accepted v => if follower then s else takeAccepted s m.src.toNat v
  | .replica runs => if follower then s else takeReplica s m.src.toNat runs
  | .faultReport sev _ => if led && decide (4 ≤ sev) && s.power.ladder == .running then enterPoised s else s
  | .endWork onP onD n => if follower then s else endStroke s (replicaOf s m.src.toNat) onP onD n.toNat
  | .firmwareOff => if led || !follower then firmwareOff s else s
  | .ladder t => if led then followLadder s t else s
  | .commitReport t ok =>
    if s.txn.id ≠ t ∨ s.txn.board = false then s
    else if !ok then
      let s := endTxn s stStageFailed
      if follower then s else boardTell s (.commitReport t false)
    else if follower then { s with txn := { s.txn with decided := some true } }
    else s
  | .partner serial step => s.modCasc p fun c => { c with partner := m.src, partnerSerial := serial, partnerStep := step }

/-- CASCADE_VC_MESSAGE (R423): a message for another module goes on around the ring; one for this module is taken. -/
def execCascadeVcMessage (p : CascPort) (m : VcMessage) (s : State) : Host.Outcome State Fault Refusal :=
  if !portUp s p.val then done s
  else if m.dst ≠ s.board.position then done (s.emit (.vc m (decide (2 ≤ p.val))))
  else done (takeMessage s p.val m)

/-- HALT_RECEIVE (R430, R496): the next start carries no go; plan units in flight are discarded, the requests end and the board's
restart begins. -/
def execHaltReceive (stroke : BitVec 60) (s : State) : Host.Outcome State Fault Refusal :=
  if !boardRuns s then done s
  else
    let s := discardPending (endAll s stWaferFault) stDiscarded
    done { s with
      board := { s.board with halted := some stroke }
      faults := { s.faults with restart := true }
      casc := tmapAll {} (fun _ c => { c with
        received := [], kept := []
        errStatus := if c.prime = .admitted then c.errStatus ||| 32 else c.errStatus }) s.casc }

/-- A port sends its compact at this beat: trained, not yet answered, and not in the middle of a re-alignment (R432, R433). -/
def sendsCompact (s : State) (p : Nat) : Bool :=
  let c := s.cascPort p
  portUp s p && !c.compactSent && !s.time.realign &&
    (c.prime == .untrained || c.prime == .priming || c.prime == .fenced || c.prime == .reloading)

/-- COMPACT_SEND (R417, R431, R432): at an aligned beat each end of a link that primes sends its compact on VC2. -/
def execCompactSend (s : State) : Host.Outcome State Fault Refusal :=
  if !s.mgmt.ready || s.mgmt.hold == 4 || s.time.localTicks.toNat % 100 != 0 then done s
  else
    done ((List.range 4).foldl (fun s p =>
      if sendsCompact s p then
        (s.modCasc p fun c => { c with prime := .priming, compactSent := true }).emit (.compact p (compactBytes s))
      else s) s)

/-- COMPACT_RECEIVE (R432, R433): a compact that fails its CRC or format is ignored and the exchange repeats, the 16th time the link
goes down; one from a position that the wiring does not lead to is not admitted; any other is judged, where strokes run at the next curb
stroke. -/
def execCompactReceive (p : CascPort) (compact : Bytes) (s : State) : Host.Outcome State Fault Refusal :=
  let c := s.cascPort p.val
  if !portUp s p.val || c.prime != .priming then done s
  else if !compactOk compact then
    if 16 ≤ c.primeFails + 1 then
      done (ckErr (s.modCasc p.val fun c => { c with
        primeFails := 0, prime := .untrained, compactSent := false, quads := tmapAll {} (fun _ _ => {}) c.quads }) p.val 4)
    else done (s.modCasc p.val fun c => { c with primeFails := c.primeFails + 1, compactSent := false })
  else
    let pos := fieldAt compact 0 1
    let s := s.modCasc p.val fun c => { c with primeFails := 0, partner := BitVec.ofNat 2 pos }
    let diff : Int := (fieldAt compact 8 8 : Int) - beatTime s
    if !wiredTo s.board.position.toNat p.val pos then done (notAdmitted s p.val 2)
    else if holdsVerdict s then done (s.modCasc p.val fun c => { c with verdict := some (compact, diff) })
    else done (judgeCompact s p.val compact diff)

end Sys2Proof.Machine
end

