-- ==== Sys2Proof/Machine/Faults.lean ====
section
/-! DEFINITION. Commands that handle error records, classify their elements and re-place the plan (R485, R489, R494 to R501,
R509). -/

namespace Sys2Proof.Machine

/-- A request's work runs or ran in a span that began at a board time (R507). -/
def workedSince (s : State) (t i : Nat) (r : Request) : Bool :=
  inProgress s i || (match r.workedAt with | some u => decide (t ≤ u) | none => false)

/-- The requests that a fatal-request record ends: under codes 0x86 to 0x8A and 0x98 those with work in progress in its stroke
(R494), under 0x8E those with work since the last matching digest pass (R507), under 0x93 the one whose message could not be
sent (R410). -/
def recordRequests (s : State) (r : ErrRec) : List Nat :=
  let code := recCause r
  let n := r.stroke.toNat
  if code = 0x8E then
    let t := match r.times with | some u => u.1 | none => 0
    ((liveRequests s).filter fun q => workedSince s t q.1 q.2).map (·.1)
  else if code = 0x93 then ((liveRequests s).filter fun q => q.2.handle == r.handle && r.handle != 0).map (·.1)
  else if (0x86 ≤ code ∧ code ≤ 0x8A) ∨ code = 0x98 then
    match r.inCell with
    | some c => if r.idleCell then [] else jobAt s 0 (fieldIsP c.field.val) n
    | none => jobAt s 0 true n ++ jobAt s 0 false n
  else []

/-- A fatal-field record: the field goes dark unless it has lost its supply, its requests end, and without a hole variant every
other request too (R495, R299). -/
def handleField (s : State) (f : Nat) : State :=
  let s := if (s.field f).domain = .running then fieldDark s f else s
  let s := endWhere s (fun i _ => touches s s.board.position.toNat f i) stFieldLost
  let w := s.board.position
  let runs := match s.plan.holeVariant with
    | some g => g.1 == w && g.2.val == f
    | none => false
  if variantFor s w f || runs || s.plan.active.isNone then s else noVariant s

/-- Codes whose restart waits for a host clear (R498). -/
def clearCode (code : Nat) : Bool := code == 0x8D || code == 0x8F || code == 0x94

/-- A fatal-wafer record: every request in flight ends, a pending plan is discarded, the data path stops at the next start and
the restart begins (R496, R498). -/
def handleWafer (s : State) (code : Nat) : State :=
  let t := boardTime s
  let times := (s.faults.fatalTimes.filter fun u => decide (t < u + 360000000000)) ++ [t]
  let s := discardPending (stopReplica s) stDiscarded
  { s with faults := { s.faults with
    restart := true, fatalTimes := times
    waitClear := s.faults.waitClear || clearCode code || decide (3 ≤ times.length) } }

/-- The scope of a record that names work in progress covers the board in widen and deepen mode and the module in multiply mode; its
master holds the requests, and a follower tells it what ends (R428, R494). -/
def tellScope (s : State) (r : ErrRec) : State :=
  let code := recCause r
  if !boardServes s || !((decide (0x86 ≤ code ∧ code ≤ 0x8A) || code == 0x98)) then s
  else match r.inCell with
    | some c => if r.idleCell then s else tellMaster s (.endWork (fieldIsP c.field.val) (!fieldIsP c.field.val) r.stroke)
    | none => tellMaster s (.endWork true true r.stroke)

/-- The kernel of a record: the one that failed for code 0x99, else the one of its code. -/
def recKernel (s : State) (r : ErrRec) : Option Nat :=
  if recCause r = 0x99 then some r.detail.toNat else kernelFor s r

/-- The classification of a record begins: with a kernel for it the record waits for its run, without one the event counts as
transient (R499, R500). -/
def classify (s : State) (r : ErrRec) : State :=
  match recElement s r with
  | none => endHandling s
  | some el =>
    if r.severity = 0 || elementBad s el then endHandling s
    else match recKernel s r with
      | some _ => { s with faults := { s.faults with handling := some r } }
      | none => endHandling (transient s el (recCause r))

/-- RECORD_HANDLING (R489): the first record of the wafer ring is handled: the requests it names end, the recovery of its
severity starts, a divergence of an SRAM copy reactivates the key (R493, R507), and its element is classified. -/
def execRecordHandling (s : State) : Host.Outcome State Fault Refusal :=
  match s.faults.handling, s.faults.ring with
  | none, r :: rest =>
    let s : State := { s with faults := { s.faults with ring := rest } }
    let ids : List Nat := match r.severity with
      | 2 => recordRequests s r
      | 3 => ((liveRequests s).filter fun q => touches s s.board.position.toNat (recField r) q.1).map (·.1)
      | 4 => (liveRequests s).map (·.1)
      | _ => []
    let first := (ids.findSome? fun (i : Nat) => match s.request i with
      | some q => if q.state = .ended then none else some q.handle
      | none => none).getD 0
    let kernel : Nat := match recElement s r with
      | some _ => (kernelFor s r).getD 0
      | none => 0
    let r' := { r with
      handle := if r.handle = 0 then first else r.handle
      detail := if r.detail = 0 then BitVec.ofNat 32 kernel else r.detail }
    let s := logFix s r r'
    let s : State := match r.severity with
      | 2 =>
        let s := tellScope (endWhere s (fun i _ => ids.contains i) stDataError) r
        if recCause r = 0x8E ∧ r.inCell.isSome then reactivate s else s
      | 3 => handleField s (recField r)
      | 4 => handleWafer s (recCause r)
      | _ => s
    done (classify s r')
  | _, _ => done s

/-- CLASSIFICATION_WINDOW (R499): once the work in progress has ended, every cell is held as with RUN = 0. -/
def execClassificationWindow (s : State) : Host.Outcome State Fault Refusal :=
  if s.faults.handling.isSome && s.faults.window.isNone && s.time.dataPath && !workNow s then
    done { s with
      cells := tmapAll {} (fun _ c => { c with held := true }) s.cells
      faults := { s.faults with window := some s.time.epoch } }
  else done s

/-- A proof run is a rerun on an element (R499). -/
def elementRun (s : State) (el : Element) (target : ProofTarget) : Bool :=
  match el, target with
  | .cell c, .cell a => c == cellKey a
  | .site t, .cell a => cellSite (cellKey a) == t
  | .site t, .assay a => siteKey a == t
  | .router t, .cell a =>
    let lg := (s.cell (cellKey a)).active.logical.toNat
    a.field.val * 72 + homeOf (bf lg 11 8 * 9 + bf lg 15 12) == t
  | _, .assay _ => false

/-- Cells are free for a proof run: the data path is stopped, the state is Poised or a proof window is open (R509). -/
def proofOpen (s : State) : Bool := !s.time.dataPath || s.power.ladder == .poised || s.faults.proofFrom.isSome

/-- A proof run may take place on a cell, which is free or does not run, or on an assay unit that works on no sample: as floor load
too (R457, R509). -/
def proofMay (s : State) (target : ProofTarget) : Bool :=
  match target with
  | .cell c =>
    let x := s.cell (cellKey c)
    siteRuns s (cellSite (cellKey c)) && (x.held || !cellRuns x || proofOpen s)
  | .assay a =>
    siteRuns s (siteKey a) && (s.site (siteKey a)).sampling.isNone &&
      (decide (0 < s.power.floorLoad) || s.faults.window.isSome || proofOpen s)

/-- The result of a rerun decides the record that is being classified (R500). -/
def decideRecord (s : State) (target : ProofTarget) (kernel : Nat) (pass : Bool) : State :=
  match s.faults.handling with
  | none => s
  | some r =>
    match recElement s r with
    | none => s
    | some el =>
      if elementRun s el target && recKernel s r == some kernel && (s.faults.window.isSome || !s.time.dataPath) then
        endHandling (if pass then transient s el (recCause r) else permanent s el (recCause r))
      else s

/-- What a run leaves: a cell that passes is proved now; a mismatch makes a record at the cell, or at the cluster of the assay unit
(R509). -/
def proofResult (s : State) (target : ProofTarget) (kernel : Nat) (pass : Bool) : State :=
  match target with
  | .cell c =>
    let k := cellKey c
    let x := s.cell k
    let lg := x.active.logical.toNat
    if pass then s.modCell k fun x => { x with proofAt := some (boardTime s) }
    else raiseField s c.field.val {
      severity := 1, stroke := BitVec.ofNat 60 (strokeNo s), detail := BitVec.ofNat 32 kernel
      location := locWord s 4 0 0 0 (cellLogical x) (bf lg 11 8 * 9 + bf lg 15 12) c.field.val 0x99
      inCell := some c, idleCell := true }
  | .assay a => if pass then s else raiseAtSite s (siteKey a) 1 0x99 kernel 1

/-- PROOF_RUN (R509): one kernel runs on one cell or one assay unit, and the digest of its output is compared; the unit's own state is
as before. -/
def execProofRun (c : ProofTarget) (kernel : Nat) (output : BitVec 256) (s : State) : Host.Outcome State Fault Refusal :=
  let f := match c with
    | .cell a => a.field.val
    | .assay a => a.field.val
  match s.faults.pack with
  | none => done s
  | some p =>
    match p.kernels.find? fun q => q.number == kernel && q.pKind == fieldIsP f with
    | none => done s
    | some q =>
      if !proofMay s c then done s
      else
        let pass := decide (output = q.digest)
        done (closeProof (decideRecord (proofResult s c kernel pass) c kernel pass))

/-- RE_PLACEMENT (R501): after a permanent finding the active plan is relocated under the amended map; it takes effect at the
second curb stroke from now, on a board at the epoch that the master names at least 4 epochs ahead (R557), and restarts what a restart waits for. -/
def execRePlacement (s : State) : Host.Outcome State Fault Refusal :=
  if s.faults.rePlace && s.plan.active.isSome && s.faults.handling.isNone && !s.faults.waitClear &&
      (s.power.ladder == .running || s.power.ladder == .poised) && !(s.own.any fun o => o.kind == .rePlace) then
    let e := freeEpoch s (s.time.epoch + (if onBoard s then 4 else 2))
    let s := if s.faults.restart && !follows s then settleRestart s e else s
    let s := freeBarrier { s with own := s.own.filter fun o => o.kind != .reactivate } .reactivation
    done (holdBarrier (nameOwn s .rePlace e) .rePlacement)
  else done s

end Sys2Proof.Machine
end

