-- ==== Sys2Proof/Machine/Starts.lean ====
section
/-! DEFINITION. The start of a working stroke (R47, R51, R88, R258, R264, R265). -/

namespace Sys2Proof.Machine

/-- What waits for a field's control link is served up to now (R257). -/
def ctrlDrain (s : State) : State :=
  (s.fields.filter fun q => !q.2.ctrlQueue.isEmpty).foldl (fun s q =>
    ctrlServe s q.1 ((q.2.ctrlQueue.map (·.words)).foldl (· + ·) 0)) s

/-- STROKE_START (R47, R51): the next working stroke of the epoch begins once board time has reached S(e) + i × P(e). Reports
of the stroke before are taken; START carries no go when that stroke overran or a record stops the data path. With go the
channels are latched, work that was dispatched begins, and every running cell takes its entry. -/
def execStrokeStart (s : State) : Host.Outcome State Fault Refusal :=
  if !s.time.running || decide (4095 ≤ s.time.stroke) ||
      decide (boardTime s < s.time.epochStart + (s.time.stroke + 1) * s.time.period) then done s
  else
    -- the stroke that ends: its call tick, its overrun, its reports
    let s := if working s && !s.time.called then sampleCall s else s
    let s := overrunRecord s
    let s := arrivePosts (takeReports s) true
    let over_ := s.time.overrun
    let s := { s with time := { s.time with
      stroke := s.time.stroke + 1
      w := if s.time.wStart then 0 else s.time.w + 1, wStart := false, droop := 0, called := false, overrun := false } }
    let s := boardTalk (ctrlDrain (carryEpoch s))
    let s := if s.time.stroke = 4047 && epochDisagrees s then timeFault s else s
    let s := if pathStops s || over_ then stopDataPath s else s
    let go := s.time.dataPath && (s.power.ladder == .running || s.power.ladder == .poised)
    let s := { s with time := { s.time with
      inStroke := go, work := if go then s.time.work + 1 else s.time.work
      workTick := if go then strokeTick s else s.time.workTick } }
    -- what serving decides
    let s := (List.range 4).foldl (fun s w => endJob (endJob s w true) w false) s
    let s := endIntake (finishJobs s)
    let s := (List.range 3).foldl (fun s w => (latchJob (latchJob s (w + 1) true).1 (w + 1) false).1) s
    let p := latchJob s 0 true
    let d := latchJob p.1 0 false
    let s := if ledByMaster d.1 && go then noteWork (noteWork d.1 true) false else d.1
    let s := askShadows (sweepAdvance s)
    let all := allFields.map fun f => (List.range 16).map fun ch => latchChan s f ch p.2 d.2
    let chans (f : Nat) : List Latched := all.getD f []
    let c13 := latchChan s ((s.fields.find? fun q => linksUp s q.1).map (·.1) |>.getD 0) 13 0 0
    let s' := if go then latchAccepted s c13.valid c13.conflict c13.value else s
    let resume := s.time.resumeAt == some s.time.work && go
    let s' := if go then { s' with
        cells := tmapAll {} (fun k c => cellStart s true resume (chans (cellField k)) k c) s.cells
        sites := tmapAll {} (fun k st => if siteRuns s k then latchSite (chans (k / 74)) st else { st with late := false }) s.sites
        fields := tmapAll {} (fun _ fs => { fs with pubs := [] }) s.fields
        wafer := [] }
      else { s' with cells := tmapAll {} (fun k c => cellStart s false false [] k c) s.cells }
    let s' := if resume then { s' with time := { s'.time with resumeAt := none } } else s'
    let s' := { s' with board := { s'.board with dispatch := s'.board.dispatch.filter fun q => decide (strokeNo s' < q.1) } }
    let s' := (List.range 4).foldl (fun s w => decideStep (decideChunk s w) w) s'
    let busy := !tableEmpty s' || !(boardJobs s').isEmpty
    done { s' with power := { s'.power with workInEpoch := s'.power.workInEpoch || busy } }

end Sys2Proof.Machine
end

