-- ==== Sys2Proof/Machine/Time.lean ====
section
/-! DEFINITION. Commands of board time: ticks, beats, the loss and the return of the reference (R37 to R42, R46). -/

namespace Sys2Proof.Machine

/-- One local tick; during a hold the trim offset falls by one, so that board time stands still (R37, R44). -/
def tickOnce (t : TimeState) : TimeState :=
  if 0 < t.hold then { t with localTicks := t.localTicks + 1, trim := t.trim - 1, hold := t.hold - 1 }
  else { t with localTicks := t.localTicks + 1 }

/-- REFCLK_TICK (R37): a rising edge of REFCLK_BT counts, unless the reference reads lost (R41). -/
def execRefclkTick (s : State) : Host.Outcome State Fault Refusal :=
  if s.time.refLost then done s else done { s with time := tickOnce s.time }

/-- ALWAYS_ON_OSCILLATOR_TICK (R41): while the reference is lost the always-on oscillator drives the count. -/
def execAlwaysOnOscillatorTick (s : State) : Host.Outcome State Fault Refusal :=
  if s.time.refLost then
    let t := tickOnce s.time
    done { s with time := { t with lostTicks := t.lostTicks + 1 } }
  else done s

/-- Ticks from a count to the next multiple of 100. -/
def toBeat (n : Nat) : Nat := (100 - n % 100) % 100

/-- The beat samples at 0 modulo 100 within one tick (R38). -/
def beatAligned (n : Nat) : Bool := n % 100 == 0 || n % 100 == 1 || n % 100 == 99

/-- Board time is set, and epoch 0 begins (R42): locked PTP time rounded down to 100 ticks, else 0. -/
def establish (s : State) : State :=
  let v : Nat := match s.mgmt.startup with
    | some e => match e.ptpTicks with
      | some p => p / 100 * 100
      | none => 0
    | none => 0
  { s with
    time := { s.time with
      trim := (v : Int) - s.time.localTicks.toNat, established := true, running := true, epoch := 0, stroke := 0
      epochStart := v, period := 32 }
    fields := tmapAll {} (fun _ fs => { fs with epochSeen := 0 }) s.fields
    mgmt := { s.mgmt with startup := none } }

/-- SYNC_BEAT_EDGE (R38, R39, R42, R458): an aligned beat needs no action, and the first one after start-up sets board time on the
module at position 0; a beat 2 or more ticks away is a time fault. After a time fault the count is re-aligned, forward, at the
next beat. -/
def execSyncBeatEdge (s : State) : Host.Outcome State Fault Refusal :=
  let n := s.time.localTicks.toNat
  if s.time.realign then
    done { s with time := { s.time with
      localTicks := s.time.localTicks + BitVec.ofNat 64 (toBeat n), realign := false, missRun := 0 } }
  else
    let s := { s with time := { s.time with missRun := 0 } }
    if beatAligned n then
      if s.mgmt.ready && !s.time.established && s.board.position == 0 && (s.mgmt.hold == 0 || s.mgmt.hold == 5) then done (establish s) else done s
    else if s.mgmt.ready then
      done (timeFault { s with time := { s.time with beatErrors := s.time.beatErrors + 1 } })
    else done { s with time := { s.time with beatErrors := s.time.beatErrors + 1 } }

/-- MISSED_BEAT (R38): counted; the third in a row is a time fault. -/
def execMissedBeat (s : State) : Host.Outcome State Fault Refusal :=
  let s := { s with time := { s.time with missRun := s.time.missRun + 1, missCount := s.time.missCount + 1 } }
  if s.time.missRun = 3 ∧ s.mgmt.ready then done (timeFault s) else done s

/-- REFERENCE_LOSS (R40): the arithmetic clock stops, the wafer enters Held, every request in flight ends, and the restart
waits for a management clear (R498). -/
def execReferenceLoss (s : State) : Host.Outcome State Fault Refusal :=
  if s.time.refLost then done s
  else
    let s := { s with time := { s.time with refLost := true, refReturned := false, lostTicks := 0 } }
    if !s.mgmt.ready then done s
    else
      let s := raiseModule s 4 0x8D
      let s := { s with
        time := { s.time with clock := .base, boost := .none, boostVolts := false }
        faults := { s.faults with waitClear := true, restart := true } }
      if s.power.ladder = .running ∨ s.power.ladder = .poised then done (forceLadder s enterHeld)
      else done (endAll s stWaferFault)

/-- REFERENCE_RETURN (R40, R41): REFCLK_BT has been present for 10 ms; a start-up that holds for want of it finds it at its next
round (R519, R521). -/
def execReferenceReturn (s : State) : Host.Outcome State Fault Refusal :=
  let s : State := { s with mgmt := { s.mgmt with startup := s.mgmt.startup.map fun (e : StartupEnv) => { e with refclk := true } } }
  if s.time.refLost then done { s with time := { s.time with refReturned := true } } else done s

/-- TICK_REALIGN (R41): at the next rising edge of SYNC_BEAT after the reference has returned, the count moves forward by 0 to
99 ticks to a multiple of 100, and REFCLK_BT counts again; step and duration are kept with the record. Followers of the
module prime again, and so does a follower that lost the reference. -/
def execTickRealign (s : State) : Host.Outcome State Fault Refusal :=
  if s.time.refLost && s.time.refReturned then
    let step := toBeat s.time.localTicks.toNat
    let s := { s with time := { s.time with
      localTicks := s.time.localTicks + BitVec.ofNat 64 step, refLost := false, refReturned := false, missRun := 0
      lossStep := step, lossTicks := s.time.lostTicks } }
    done (if onBoard s || s.board.position != 0 then loseAdmission (boardTell s .primeAgain) else s)
  else done s

end Sys2Proof.Machine
end

