-- ==== Sys2Proof/Machine/Transfers.lean ====
section
/-! DEFINITION. The command that carries out a background transfer of a cistern controller (R232, R352, R378, R492). -/

namespace Sys2Proof.Machine

/-- A refilled line no longer withholds dispatch, and a copy that diverged is digested again once its last line is refilled (R492,
R507). -/
def settleRefill (s : State) (k : Nat) (t : Transfer) : State :=
  match t with
  | .refill x _ =>
    recheckExtents { s with weights := { s.weights with refills := s.weights.refills.filter fun q => q != (k, x) } }
  | _ => s

/-- The lines of an install that were copied poisoned wait for their refill from the host (R388, R409, R492). -/
def copiedPoisoned (s : State) (k dst n : Nat) : State :=
  match s.weights.loading with
  | none => s
  | some w =>
    let bad := ((List.range n).map (dst + ·)).filter fun x =>
      tget false (s.site k).linePoison x && !s.weights.refills.contains (k, x)
    bad.foldl (fun s x => askHost s w k x)
      { s with weights := { s.weights with refills := s.weights.refills ++ bad.map fun x => (k, x) } }

/-- The lines of a shadow read come to the assay unit of the site, with the marks they came with (R359). -/
def takeShadow (s : State) (k stroke : Nat) (found : List LineError) (before : SiteState) (x n : Nat) : State :=
  let ls := (List.range n).map (x + ·)
  let r := readLinesOf stroke found false before ls
  match (s.site k).sampling with
  | none => s
  | some ph => s.modCell (k * 18 + ph.val) fun c => { c with
      sample := c.sample.map fun m => { m with
        read := m.read ++ ls.map fun l => (l, tgetMany 0 r.1.mem (l * 64) 64, r.2.contains l) } }

/-- BACKGROUND_TRANSFER (R214, R232): the next burst of the waiting transfer of the highest rank is carried out, in positions that the
lists leave free; the lines of a digest read go on to the wafer manager, those of a far-tier copy to the port (R247, R349, R505). A
copy all of whose pages are read is written (R349). A load all of whose bytes are in staging is staged (R377), and page sets all of whose pages are written become
live (R352). -/
def execBackgroundTransfer (site : SiteAddr) (found : List LineError) (s : State) : Host.Outcome State Fault Refusal :=
  let k := siteKey site
  let st := s.site k
  match sortBy (fun a b => decide (transferRank a ≤ transferRank b)) (readyTransfers s k) with
  | [] => done s
  | t :: _ =>
    let (now, rest) := splitTransfer t
    let (a, b) := (transferCost now false, transferCost now true)
    if ¬ s.time.running ∨ st.cisState ≠ .ready ∨ channelsOpen s = false ∨ freePositions s k false < a ∨ freePositions s k true < b then
      done s
    else
      let left := st.transfers.flatMap fun x => if x == t then rest.toList else [x]
      let s := s.setSite k { spend s (doTransfer (strokeNo s) found st now) a b with transfers := left }
      let s := invalidateLines s k (transferLines now) (siteNow s k)
      let s := match now with
        | .sweep src dst n => copiedPoisoned (countMismatch s (badSegments st ((List.range n).map (src + ·)))) k dst n
        | .farRead x n =>
          let bad := (readLinesOf (strokeNo s) found false st ((List.range n).map (x + ·))).2
          meshSend (if bad.isEmpty then s else abandonPages s) (siteRouter s k) (hostRouter (svcPort s)) x 0 (tgetMany 0 st.mem (x * 64) (n * 64))
        | .shadow x n => takeShadow s k (strokeNo s) found st x n
        | .digest x n => meshSend s (siteRouter s k) managerRouter x 0 (tgetMany 0 st.mem (x * 64) (n * 64))
        | _ => s
      done (if rest.isSome then s else finishCopy (settleReturns (settleLoad (settleRefill s k t))))

end Sys2Proof.Machine
end

