-- ==== Sys2Proof/Machine/Dispatch.lean ====
section
/-! DEFINITION. The meaning of each command: one arm per row of the opcode table. -/

namespace Sys2Proof.Machine

/-- The effect of a command on everything but the queue. -/
def exec (i : Instr) (s : State) : Host.Outcome State Fault Refusal :=
  match i with
  | .refclkTick => Sys2Proof.Machine.execRefclkTick s
  | .syncBeatEdge => Sys2Proof.Machine.execSyncBeatEdge s
  | .missedBeat => Sys2Proof.Machine.execMissedBeat s
  | .referenceLoss => Sys2Proof.Machine.execReferenceLoss s
  | .referenceReturn => Sys2Proof.Machine.execReferenceReturn s
  | .tickRealign => Sys2Proof.Machine.execTickRealign s
  | .strokeStart => Sys2Proof.Machine.execStrokeStart s
  | .curbStroke => Sys2Proof.Machine.execCurbStroke s
  | .callTick => Sys2Proof.Machine.execCallTick s
  | .bundleIssue c env => Sys2Proof.Machine.execBundleIssue c env s
  | .issueDeadline c => Sys2Proof.Machine.execIssueDeadline c s
  | .resultDelivery c cycle => Sys2Proof.Machine.execResultDelivery c cycle s
  | .cacheFill c => Sys2Proof.Machine.execCacheFill c s
  | .slackBackground c cycles found => Sys2Proof.Machine.execSlackBackground c cycles found s
  | .mailboxWrite c slack => Sys2Proof.Machine.execMailboxWrite c slack s
  | .outboxRead c => Sys2Proof.Machine.execOutboxRead c s
  | .cisternAccessStart site chanB found => Sys2Proof.Machine.execCisternAccessStart site chanB found s
  | .lineLanding site index => Sys2Proof.Machine.execLineLanding site index s
  | .refreshCommand site slot => Sys2Proof.Machine.execRefreshCommand site slot s
  | .cisternScrub site chanB found => Sys2Proof.Machine.execCisternScrub site chanB found s
  | .backgroundTransfer site found => Sys2Proof.Machine.execBackgroundTransfer site found s
  | .flitArrival index wire => Sys2Proof.Machine.execFlitArrival index wire s
  | .routeUnitArrival index => Sys2Proof.Machine.execRouteUnitArrival index s
  | .routeGetSourceRead index => Sys2Proof.Machine.execRouteGetSourceRead index s
  | .reductionNodeCombine r entry unit check => Sys2Proof.Machine.execReductionNodeCombine r entry unit check s
  | .selectorPostArrival index => Sys2Proof.Machine.execSelectorPostArrival index s
  | .selectorPublication chan field crcOk => Sys2Proof.Machine.execSelectorPublication chan field crcOk s
  | .fcCommand f cmd crcOk => Sys2Proof.Machine.execFcCommand f cmd crcOk s
  | .controlRegisterAccess addr write => Sys2Proof.Machine.execControlRegisterAccess addr write s
  | .fuseOpen f => Sys2Proof.Machine.execFuseOpen f s
  | .fieldHoleMark f => Sys2Proof.Machine.execFieldHoleMark f s
  | .holeVariantStaged => Sys2Proof.Machine.execHoleVariantStaged s
  | .converterFailure f k => Sys2Proof.Machine.execConverterFailure f k s
  | .auxConverterFailure k => Sys2Proof.Machine.execAuxConverterFailure k s
  | .phaseFailure site array k => Sys2Proof.Machine.execPhaseFailure site array k s
  | .phaseShareTest site logic array => Sys2Proof.Machine.execPhaseShareTest site logic array s
  | .droopStretch site => Sys2Proof.Machine.execDroopStretch site s
  | .inputVoltageExcursion centivolts ticks => Sys2Proof.Machine.execInputVoltageExcursion centivolts ticks s
  | .powerSample main aux amps => Sys2Proof.Machine.execPowerSample main aux amps s
  | .wakeStep f => Sys2Proof.Machine.execWakeStep f s
  | .cappingLatch => Sys2Proof.Machine.execCappingLatch s
  | .ptpServo => Sys2Proof.Machine.execPtpServo s
  | .ptpSyncExchange seconds nanoseconds offsetNs => Sys2Proof.Machine.execPtpSyncExchange seconds nanoseconds offsetNs s
  | .ptpSyncTimeout => Sys2Proof.Machine.execPtpSyncTimeout s
  | .onWaferRound readings missedPolls => Sys2Proof.Machine.execOnWaferRound readings missedPolls s
  | .trayRound r => Sys2Proof.Machine.execTrayRound r s
  | .forcedPoise => Sys2Proof.Machine.execForcedPoise s
  | .graceEnd => Sys2Proof.Machine.execGraceEnd s
  | .analogTrip f dram => Sys2Proof.Machine.execAnalogTrip f dram s
  | .ageingMeasurement f m value months => Sys2Proof.Machine.execAgeingMeasurement f m value months s
  | .thClearShutdown => Sys2Proof.Machine.execThClearShutdown s
  | .pwrEnLow => Sys2Proof.Machine.execPwrEnLow s
  | .modResetAssert => Sys2Proof.Machine.execModResetAssert s
  | .modResetRelease env => Sys2Proof.Machine.execModResetRelease env s
  | .channelTraining site aOk bOk => Sys2Proof.Machine.execChannelTraining site aOk bOk s
  | .poisedExit => Sys2Proof.Machine.execPoisedExit s
  | .ladderLeave tag epoch => Sys2Proof.Machine.execLadderLeave tag epoch s
  | .ladderHeld tag epoch => Sys2Proof.Machine.execLadderHeld tag epoch s
  | .ladderBanked tag epoch => Sys2Proof.Machine.execLadderBanked tag epoch s
  | .ladderDry tag epoch => Sys2Proof.Machine.execLadderDry tag epoch s
  | .heldExit => Sys2Proof.Machine.execHeldExit s
  | .bankedExit => Sys2Proof.Machine.execBankedExit s
  | .dryExit => Sys2Proof.Machine.execDryExit s
  | .draw => Sys2Proof.Machine.execDraw s
  | .indexReadComplete data => Sys2Proof.Machine.execIndexReadComplete data s
  | .descriptorReadComplete data => Sys2Proof.Machine.execDescriptorReadComplete data s
  | .promptReadComplete index tokens => Sys2Proof.Machine.execPromptReadComplete index tokens s
  | .promptReadFailure index => Sys2Proof.Machine.execPromptReadFailure index s
  | .completionRecordWrite egressFails => Sys2Proof.Machine.execCompletionRecordWrite egressFails s
  | .ttlExpiry conv => Sys2Proof.Machine.execTtlExpiry conv s
  | .farTierCopy poisonedPages egressFails => Sys2Proof.Machine.execFarTierCopy poisonedPages egressFails s
  | .farTierWriteComplete ok headerDone => Sys2Proof.Machine.execFarTierWriteComplete ok headerDone s
  | .farTierReadComplete index data => Sys2Proof.Machine.execFarTierReadComplete index data s
  | .wideRecompute site => Sys2Proof.Machine.execWideRecompute site s
  | .sampleAbandon site => Sys2Proof.Machine.execSampleAbandon site s
  | .planCheckComplete files corrupt => Sys2Proof.Machine.execPlanCheckComplete files corrupt s
  | .planStagingComplete => Sys2Proof.Machine.execPlanStagingComplete s
  | .rotationDue => Sys2Proof.Machine.execRotationDue s
  | .rotationIdleCheck => Sys2Proof.Machine.execRotationIdleCheck s
  | .rotationRetry => Sys2Proof.Machine.execRotationRetry s
  | .shardArrival index ciphertext delivery => Sys2Proof.Machine.execShardArrival index ciphertext delivery s
  | .shardTimeout index => Sys2Proof.Machine.execShardTimeout index s
  | .installComplete => Sys2Proof.Machine.execInstallComplete s
  | .swapLate => Sys2Proof.Machine.execSwapLate s
  | .swapEnd => Sys2Proof.Machine.execSwapEnd s
  | .ethernetFrameReceive p frame => Sys2Proof.Machine.execEthernetFrameReceive p frame s
  | .pfcPauseReceive p pcp pause => Sys2Proof.Machine.execPfcPauseReceive p pcp pause s
  | .cnpReceive p qp => Sys2Proof.Machine.execCnpReceive p qp s
  | .rateRecovery p qp => Sys2Proof.Machine.execRateRecovery p qp s
  | .connectionRequest p gid mtu => Sys2Proof.Machine.execConnectionRequest p gid mtu s
  | .rdmaWritePacket p qp rkey offset data first last => Sys2Proof.Machine.execRdmaWritePacket p qp rkey offset data first last s
  | .rdmaReadWindow p qp rkey offset length => Sys2Proof.Machine.execRdmaReadWindow p qp rkey offset length s
  | .windowCloseTimeout w => Sys2Proof.Machine.execWindowCloseTimeout w s
  | .linkDown p => Sys2Proof.Machine.execLinkDown p s
  | .linkUp p assembly copper => Sys2Proof.Machine.execLinkUp p assembly copper s
  | .readRegisters tag addr count => Sys2Proof.Machine.execReadRegisters tag addr count s
  | .stageWrite tag txn addr value => Sys2Proof.Machine.execStageWrite tag txn addr value s
  | .openTransaction tag => Sys2Proof.Machine.execOpenTransaction tag s
  | .commitTransaction tag txn epoch board => Sys2Proof.Machine.execCommitTransaction tag txn epoch board s
  | .abortTransaction tag txn => Sys2Proof.Machine.execAbortTransaction tag txn s
  | .commitDeadline allMatch => Sys2Proof.Machine.execCommitDeadline allMatch s
  | .boardCommitDecision go => Sys2Proof.Machine.execBoardCommitDecision go s
  | .schedulePlanActivation tag epoch recipe => Sys2Proof.Machine.execSchedulePlanActivation tag epoch recipe s
  | .scheduleRecipe tag epoch recipe => Sys2Proof.Machine.execScheduleRecipe tag epoch recipe s
  | .scheduleSwap tag epoch => Sys2Proof.Machine.execScheduleSwap tag epoch s
  | .scheduleInstall tag epoch => Sys2Proof.Machine.execScheduleInstall tag epoch s
  | .scheduleFirmware tag epoch => Sys2Proof.Machine.execScheduleFirmware tag epoch s
  | .scheduleProofWindow tag epoch => Sys2Proof.Machine.execScheduleProofWindow tag epoch s
  | .cancelEvent tag number => Sys2Proof.Machine.execCancelEvent tag number s
  | .openWindow tag w => Sys2Proof.Machine.execOpenWindow tag w s
  | .closeWindow tag w pack corrupt => Sys2Proof.Machine.execCloseWindow tag w pack corrupt s
  | .readLog tag first count => Sys2Proof.Machine.execReadLog tag first count s
  | .readLedger tag first last clear => Sys2Proof.Machine.execReadLedger tag first last clear s
  | .attest tag nonce => Sys2Proof.Machine.execAttest tag nonce s
  | .identity tag => Sys2Proof.Machine.execIdentity tag s
  | .dump tag scope => Sys2Proof.Machine.execDump tag scope s
  | .dumpReady => Sys2Proof.Machine.execDumpReady s
  | .acknowledgeDump tag => Sys2Proof.Machine.execAcknowledgeDump tag s
  | .burnSettings tag record => Sys2Proof.Machine.execBurnSettings tag record s
  | .discardPlan tag => Sys2Proof.Machine.execDiscardPlan tag s
  | .discardSet tag => Sys2Proof.Machine.execDiscardSet tag s
  | .alertMessage => Sys2Proof.Machine.execAlertMessage s
  | .registerWrite addr value => Sys2Proof.Machine.execRegisterWrite addr value s
  | .firmwareRevert => Sys2Proof.Machine.execFirmwareRevert s
  | .otpCounterAdvance => Sys2Proof.Machine.execOtpCounterAdvance s
  | .watchdogExpiry core => Sys2Proof.Machine.execWatchdogExpiry core s
  | .recordHandling => Sys2Proof.Machine.execRecordHandling s
  | .classificationWindow => Sys2Proof.Machine.execClassificationWindow s
  | .proofRun c kernel output => Sys2Proof.Machine.execProofRun c kernel output s
  | .rePlacement => Sys2Proof.Machine.execRePlacement s
  | .refillComplete site line data => Sys2Proof.Machine.execRefillComplete site line data s
  | .digestPassStart => Sys2Proof.Machine.execDigestPassStart s
  | .digestPassComplete diverged => Sys2Proof.Machine.execDigestPassComplete diverged s
  | .yelziaFlitReceive p q flit fec => Sys2Proof.Machine.execYelziaFlitReceive p q flit fec s
  | .laneLockLoss p q => Sys2Proof.Machine.execLaneLockLoss p q s
  | .quadTrainingComplete p q latency => Sys2Proof.Machine.execQuadTrainingComplete p q latency s
  | .cascadeUnitInject p rid unit => Sys2Proof.Machine.execCascadeUnitInject p rid unit s
  | .exchangeAddCombine p rid unit => Sys2Proof.Machine.execExchangeAddCombine p rid unit s
  | .cascadeVcMessage p m => Sys2Proof.Machine.execCascadeVcMessage p m s
  | .haltReceive stroke => Sys2Proof.Machine.execHaltReceive stroke s
  | .compactSend => Sys2Proof.Machine.execCompactSend s
  | .compactReceive p compact => Sys2Proof.Machine.execCompactReceive p compact s
  | .alwaysOnOscillatorTick => Sys2Proof.Machine.execAlwaysOnOscillatorTick s
  | .managementClear => Sys2Proof.Machine.execManagementClear s
  | .unassignedOp tag op => Sys2Proof.Machine.execUnassignedOp tag op s
  | .pwrEnHigh => Sys2Proof.Machine.execPwrEnHigh s
  | .busRise => Sys2Proof.Machine.execBusRise s

end Sys2Proof.Machine
end

