-- ==== Sys2Proof/Safety.lean ====
section
/-! DEFINITION. What counts as a safe state, and the words in which statements speak of states: the tables keep their
canonical form, a record stands on the wafer ring, a request is answered. -/

namespace Sys2Proof.Machine

/-- A memory (a scratchpad, a slice, a window) in canonical form: addresses strictly rising, no byte listed that an unlisted
address reads as, which is 0 (R206, R234, R405). -/
def Memory.wf (m : List Host.Cell) : Bool := tblWf 0 m

/-- The top tables of the state are in canonical form: keys strictly rising, no entry at its default. -/
def State.tablesWf (s : State) : Bool :=
  tblWf {} s.cells && tblWf {} s.sites && tblWf {} s.routers && tblWf {} s.fields &&
  tblWf {} s.windows && tblWf {} s.ports && tblWf {} s.casc && tblWf {} s.wafer && tblWf none s.serve.table

/-- A record of at least a severity and of a code stands on the wafer ring (R489). -/
def onRing (t : State) (sev code : Nat) : Prop := ∃ r ∈ t.faults.ring, sev ≤ r.severity ∧ recCause r = code

/-- A step's answer to a management request: the one thing that left the device is this response (R514). -/
def answers (s t : State) (op : Nat) (tag : BitVec 16) (status : Nat) (body : List (BitVec 64)) : Prop :=
  t.sent = s.sent ++ [.response (BitVec.ofNat 16 (op ||| 0x8000)) tag status body]

/-- As `answers`, but a master may tell its followers before it answers (R423). -/
def answersLast (s t : State) (op : Nat) (tag : BitVec 16) (status : Nat) (body : List (BitVec 64)) : Prop :=
  ∃ vs : List Sent, (∀ m ∈ vs, ∃ v d, m = .vc v d) ∧
    t.sent = s.sent ++ vs ++ [.response (BitVec.ofNat 16 (op ||| 0x8000)) tag status body]

/-- Management is served by the firmware, not by the ROM's recovery (R514, R533). -/
def servedFully (s : State) : Prop := served s = true ∧ s.mgmt.hold ≠ 6

end Sys2Proof.Machine
end

