-- ==== Sys2Proof/Certificates/Slice0/Obligations.lean ====
section
/-! DEFINITION. The statements for the provers: the spec's numbered rules in terms of the model, and for every command
where it completes and what it leaves unchanged. -/

open Sys2Proof Sys2Proof.Machine

/-- Model's own step rule (log entry 9): a step of a state whose queue has a command at its front is that command's meaning on
the state with the queue's rest. -/
def Obligations.StepRunsFrontCommand : Prop :=
  ∀ (c : Instr) (rest : List Instr) (s : State),
    step { s with pending := c :: rest } = exec c { s with pending := rest }

/-- The model's choice of log entry 9: a step on an empty queue changes nothing. -/
def Obligations.EmptyQueueIdles : Prop :=
  ∀ s : State, s.pending = [] → step s = .next s

/-- No command of the block stops: in every state every command answers a next state, so that a step does. (The model's
choice, log entry 1.) -/
def Obligations.EveryCommandAnswersNextState : Prop :=
  (∀ (c : Instr) (s : State), ∃ t, exec c s = .next t) ∧ ∀ s : State, ∃ t, step s = .next t

/-- The queue is taken first in, first out: a command never changes the queue, and a run of as many steps as commands wait
empties it. (The queue is the model's own, log entry 9.) -/
def Obligations.QueueRunsInOrder : Prop :=
  (∀ (c : Instr) (s : State), ∃ t, exec c s = .next t ∧ t.pending = s.pending) ∧
  ∀ (cs : List Instr) (s : State), ∃ t : State,
    core.run cs.length ({ s with pending := cs } : State) = .next t ∧ t.pending = []

/-- Every step keeps the tables of the state in canonical form: keys strictly rising and no entry at its default. -/
def Obligations.StepKeepsTablesCanonical : Prop :=
  ∀ s t : State, s.tablesWf = true → step s = .next t → t.tablesWf = true

/-- The invariant of StepKeepsTablesCanonical holds at reset. -/
def Obligations.ResetTablesCanonical : Prop := State.reset.tablesWf = true ∧ State.reset.pending = []

/-- Values that the register tables give for reset (R98, R99, R235, R416, R435, R464, R483, R537, R538). -/
def Obligations.ResetRegisterValues : Prop :=
  (∀ k : Nat,
    ((State.reset.cell k).active.ctrl = 2 ∧ (State.reset.cell k).active.logical = 0 ∧ (State.reset.cell k).faults.status = 0) ∧
    ((State.reset.site k).assayCtrl = 0x1C ∧ (State.reset.site k).csCtrl = 0x403 ∧ (State.reset.site k).cisState = .off) ∧
    ((State.reset.field k).fcCtrl = 0x40 ∧ (State.reset.field k).v1 = 720) ∧
    ((State.reset.port k).ctrl = 0xF1 ∧ (State.reset.port k).prio = 0x30CD3145) ∧
    (State.reset.cascPort k).ctrl = 0xFF01 ∧
    ((State.reset.window k).state = .closed ∧ (State.reset.window k).gen = 0)) ∧
  State.reset.ep.ftTtl = 0x258 ∧ State.reset.ep.drawInt = 0x10 ∧
  State.reset.power.ctrl = 0x20080E ∧ State.reset.power.cap = 0x7530 ∧ State.reset.power.ramp = 0xFA0 ∧
  State.reset.heat.ctrl = 0x60001 ∧ State.reset.mgmt.wmCtrl = 0x180801 ∧ State.reset.mgmt.alert = 0

/-- R37, R41: a rising edge of REFCLK_BT counts while the reference is present, an edge of the always-on oscillator while it
is lost, the other of the two has no effect; during a hold the trim falls by one with each tick (R44). (Where a command has
nothing to do it changes nothing: the model's choice, log entry 1.) -/
def Obligations.TicksCountOnTheirSource : Prop :=
  ∀ s : State,
    (s.time.refLost = false → exec .refclkTick s = .next { s with time := { s.time with
        localTicks := s.time.localTicks + 1, hold := s.time.hold - 1
        trim := if 0 < s.time.hold then s.time.trim - 1 else s.time.trim } } ∧
      exec .alwaysOnOscillatorTick s = .next s) ∧
    (s.time.refLost = true → exec .refclkTick s = .next s ∧
      exec .alwaysOnOscillatorTick s = .next { s with time := { s.time with
        localTicks := s.time.localTicks + 1, hold := s.time.hold - 1, lostTicks := s.time.lostTicks + 1
        trim := if 0 < s.time.hold then s.time.trim - 1 else s.time.trim } })

/-- R37, R44: with a tick board time moves by one, and during a hold it stands still. -/
def Obligations.BoardTimeFollowsTicks : Prop :=
  ∀ s : State, s.time.refLost = false → s.time.localTicks.toNat + 1 < 2 ^ 64 →
    1 ≤ (s.time.localTicks.toNat : Int) + s.time.trim →
    ∃ t, exec .refclkTick s = .next t ∧ boardTime t = boardTime s + (if s.time.hold = 0 then 1 else 0)

/-- R46: the alignment of a beat is checked against the local tick count: whatever two trims are, the beat finds the same, and an
aligned beat is no error whatever the trim. -/
def Obligations.TrimCausesNoBeatError : Prop :=
  (∀ (s : State) (u v : Int), ∃ t w,
    exec .syncBeatEdge { s with time := { s.time with trim := u } } = .next t ∧
    exec .syncBeatEdge { s with time := { s.time with trim := v } } = .next w ∧
    t.time.beatErrors = w.time.beatErrors ∧ t.time.timeFault = w.time.timeFault ∧ t.time.localTicks = w.time.localTicks) ∧
  ∀ (s : State) (trim : Int), s.time.realign = false → s.time.established = true →
    beatAligned s.time.localTicks.toNat = true →
    ∃ t, exec .syncBeatEdge { s with time := { s.time with trim := trim } } = .next t ∧
      t.time.beatErrors = s.time.beatErrors ∧ t.time.timeFault = s.time.timeFault ∧ t.faults = s.faults

/-- R38, R39, R42: what an edge of SYNC_BEAT does: nothing but the end of a run of missed beats where it is aligned; a time
fault where it is 2 or more ticks off on a module that runs; re-alignment forward to a multiple of 100 after a time fault;
and the first aligned beat after start-up sets board time at position 0 to the locked PTP time rounded down to 100 ticks,
or to 0, and begins epoch 0. -/
def Obligations.BeatEdgeOutcomes : Prop :=
  ∀ s : State,
    (s.time.realign = false → beatAligned s.time.localTicks.toNat = true → s.time.established = true →
      exec .syncBeatEdge s = .next { s with time := { s.time with missRun := 0 } }) ∧
    (s.time.realign = false → beatAligned s.time.localTicks.toNat = false → s.mgmt.ready = true →
      ∃ t, exec .syncBeatEdge s = .next t ∧ t.time.timeFault = true ∧ t.time.realign = true ∧
        t.time.beatErrors = s.time.beatErrors + 1 ∧ onRing t 4 0x8D) ∧
    (s.time.realign = true → s.time.localTicks.toNat + 100 < 2 ^ 64 →
      ∃ t, exec .syncBeatEdge s = .next t ∧ t.time.localTicks.toNat % 100 = 0 ∧
        s.time.localTicks.toNat ≤ t.time.localTicks.toNat ∧ t.time.localTicks.toNat < s.time.localTicks.toNat + 100 ∧
        t.time.realign = false ∧ t = { s with time := t.time }) ∧
    (s.time.realign = false → beatAligned s.time.localTicks.toNat = true → s.mgmt.ready = true →
      s.time.established = false → s.board.position = 0 → s.mgmt.hold = 0 →
      ∃ t, exec .syncBeatEdge s = .next t ∧ t.time.established = true ∧ t.time.running = true ∧ t.time.epoch = 0 ∧
        t.time.stroke = 0 ∧ t.time.period = 32 ∧ t.time.epochStart = boardTime t ∧
        boardTime t = (match s.mgmt.startup with
          | some e => match e.ptpTicks with
            | some p => p / 100 * 100
            | none => 0
          | none => 0))

/-- R38, R41: a missed beat is counted and the third in a row is a time fault; a reference that has returned is taken at its
beat, the count moving forward to a multiple of 100 with step and duration kept. -/
def Obligations.MissedBeatsAndRealignment : Prop :=
  (∀ s : State, s.mgmt.ready = true →
    ∃ t, exec .missedBeat s = .next t ∧ t.time.missCount = s.time.missCount + 1 ∧ t.time.missRun = s.time.missRun + 1 ∧
      (s.time.missRun = 2 → t.time.timeFault = true ∧ t.time.realign = true ∧ onRing t 4 0x8D) ∧
      (s.time.missRun ≠ 2 → t = { s with time := { s.time with missRun := s.time.missRun + 1, missCount := s.time.missCount + 1 } })) ∧
  (∀ s : State, s.time.refLost = true →
    ∃ t, exec .referenceReturn s = .next t ∧ t.time = { s.time with refReturned := true }) ∧
  (∀ s : State, s.time.refLost = true → s.time.refReturned = true → s.time.localTicks.toNat + 100 < 2 ^ 64 →
    ∃ t, exec .tickRealign s = .next t ∧ t.time.localTicks.toNat % 100 = 0 ∧
      s.time.localTicks.toNat ≤ t.time.localTicks.toNat ∧ t.time.localTicks.toNat < s.time.localTicks.toNat + 100 ∧
      t.time.refLost = false ∧ t.time.lossTicks = s.time.lostTicks ∧
      t.time.lossStep = t.time.localTicks.toNat - s.time.localTicks.toNat ∧
      t = { s with time := t.time, board := t.board, casc := t.casc, sent := t.sent } ∧
      (s.board.position = 0 → s.board.admittedMask = 1 → t = { s with time := t.time }))

/-- R40, R462, R498: the loss of the reference forces a module that runs into Held, ends every request in flight, stops the data
path, and its restart waits for a host clear. -/
def Obligations.ReferenceLossForcesHeld : Prop :=
  ∀ s : State, s.tablesWf = true → s.time.refLost = false → s.mgmt.ready = true →
    (s.power.ladder = .running ∨ s.power.ladder = .poised) →
    ∃ t, exec .referenceLoss s = .next t ∧ t.time.refLost = true ∧ t.time.clock = .base ∧ t.power.ladder = .held ∧
      t.time.dataPath = false ∧ liveRequests t = [] ∧ t.serve.jobP = none ∧ t.serve.jobD = none ∧
      t.faults.restart = true ∧ t.faults.waitClear = true ∧ onRing t 4 0x8D ∧ t.flits = [] ∧ t.kv.stored.length = s.kv.stored.length

/-- R47, R51, R263: at a due stroke start the number of the stroke rises by one and the call tick is open again; a start with
a record that stops the data path carries no go; the call tick, three ticks before the next start and at no other, samples the
clusters, and a cell with RUN = 1 that still issues makes the stroke an overrun. (Where a command has nothing to do it changes nothing: the model's choice, log entry 1.) -/
def Obligations.StrokeStartAndCallTick : Prop :=
  (∀ s : State, s.time.running = true → s.time.stroke < 4095 →
    s.time.epochStart + (s.time.stroke + 1) * s.time.period ≤ boardTime s →
    ∃ t, exec .strokeStart s = .next t ∧ t.time.stroke = s.time.stroke + 1 ∧ t.time.epoch = s.time.epoch ∧
      t.time.called = false ∧ t.time.overrun = false ∧ t.time.droop = 0 ∧
      (t.time.work = s.time.work + 1 ∧ t.time.inStroke = true ∨ t.time.work = s.time.work ∧ t.time.inStroke = false) ∧
      (pathStops s = true → t.time.inStroke = false ∧ t.time.dataPath = false)) ∧
  (∀ s : State, s.time.running = true →
    boardTime s < s.time.epochStart + (s.time.stroke + 1) * s.time.period → exec .strokeStart s = .next s) ∧
  (∀ s : State, working s = true → s.time.called = false →
    boardTime s + 3 = s.time.epochStart + (s.time.stroke + 1) * s.time.period →
    ∃ t, exec .callTick s = .next t ∧ t = { s with time := t.time, posts := t.posts } ∧ t.time.called = true ∧
      ∀ (k p : Nat) (st : SiteState), (k, st) ∈ s.sites → p < 18 → cellRuns (s.cell (k * 18 + p)) = true →
        (s.cell (k * 18 + p)).issue = .running → t.time.overrun = true) ∧
  ∀ s : State, boardTime s + 3 ≠ s.time.epochStart + (s.time.stroke + 1) * s.time.period → exec .callTick s = .next s

/-- R47, R54, R58, R60: at a due curb stroke the next epoch begins at stroke 0, 4,096 periods after the one before, with a
period of at most 64 ticks, and no cell issues; WM_STATUS.SEB reads whether the bound of R510 holds. (Where a command has
nothing to do it changes nothing: the model's choice, log entry 1.) -/
def Obligations.CurbStrokeBeginsEpoch : Prop :=
  (∀ s : State, s.time.running = true → s.time.stroke = 4095 → s.time.epochStart + 4096 * s.time.period ≤ boardTime s →
    ∃ t, exec .curbStroke s = .next t ∧ t.time.epoch = s.time.epoch + 1 ∧ t.time.stroke = 0 ∧
      t.time.epochStart = s.time.epochStart + 4096 * s.time.period ∧ t.time.period ≤ 64 ∧ t.time.inStroke = false ∧
      t.mgmt.seb = boundHolds t) ∧
  (∀ s : State, s.time.stroke < 4095 → exec .curbStroke s = .next s)

/-- R93, R128, R129, R81: a running cell that issues folds the bundle into its tally and advances one cycle; a bundle with
END = 1 ends its issue, and a cell whose issue has ended issues nothing more. Only its site, its mesh and its posts see the
issue. (Where a command has nothing to do it changes nothing: the model's choice, log entry 1.) -/
def Obligations.IssueAdvancesRunningCell : Prop :=
  ∀ (c : CellAddr) (env : IssueEnv) (s : State), s.tablesWf = true →
    let k := cellKey c
    let x := s.cell k
    let r := taskRegs x x.task
    let b := (tget 0 x.istore (r.ibase + x.pc)).toNat
    (working s = true → siteRuns s (cellSite k) = true → x.issue = .running → x.cycle < 512 → x.pc < r.ibound →
      env.fetch ≠ some .uncorrectable →
      ∃ t, exec (.bundleIssue c env) s = .next t ∧ (t.cell k).cycle = x.cycle + 1 ∧ (t.cell k).crc = foldTally x.crc x.pc b ∧
        (bEnd b = true → (t.cell k).issue = .ended) ∧ (bEnd b = false → (t.cell k).issue = .running) ∧
        t = { s with cells := t.cells, sites := t.sites, flits := t.flits, posts := t.posts } ∧
        ∀ j, cellSite j ≠ cellSite k → t.cell j = s.cell j) ∧
    (x.issue ≠ .running → exec (.bundleIssue c env) s = .next s)

/-- R52, R79, R131, R140: a scalar instruction of format R reads its sources as they stand at issue and its result is due six
cycles later, poisoned when a source is. -/
def Obligations.ScalarResultDueSixCyclesOn : Prop :=
  ∀ (c : CellAddr) (s : State) (op sd a b z : Nat), s.tablesWf = true →
    let k := cellKey c
    let x := s.cell k
    let r := taskRegs x x.task
    let p := fieldIsP (cellField k)
    let w := (tget 0 x.istore (r.ibase + x.pc)).toNat
    let now := budgetBase s + x.cycle
    let y := settle p now (strokeNo s) x
    working s = true → siteRuns s (cellSite k) = true → x.issue = .running → x.cycle < 512 → x.pc < r.ibound →
    (s.site (cellSite k)).guard = [] →
    mDecode p w = .nop → vDecode p w = .alu op sd a b z → xDecode p w = .nop → nDecode p w = .nop →
    ∃ t, exec (.bundleIssue c {}) s = .next t ∧ (t.cell k).sp = y.sp ∧ (t.cell k).sreg = y.sreg ∧ (t.cell k).acc = y.acc ∧
      (t.cell k).pend = y.pend ++ [{ due := now + 6, slot := 1, what := .scalar sd {
        val := BitVec.ofNat 32 (aluR op (srcGet y a).val.toNat (srcGet y b).val.toNat (srcGet y z).val.toNat)
        poison := (srcGet y a).poison || (srcGet y b).poison || (srcGet y z).poison }, task := x.task, bundle := x.pc }]

/-- R52, R72, R79: at a delivery cycle every result that is due is delivered and every later one still waits; the one scalar
result due enters its register, and a write to s0 is discarded. -/
def Obligations.DeliveryTakesDueResults : Prop :=
  ∀ (c : CellAddr) (cycle : Fin 512) (s : State), s.tablesWf = true → working s = true →
    siteRuns s (cellSite (cellKey c)) = true → (s.cell (cellKey c)).issue = .ended →
    (∃ t, exec (.resultDelivery c cycle) s = .next t ∧
      (t.cell (cellKey c)).pend = (s.cell (cellKey c)).pend.filter fun q => decide (budgetBase s + cycle.val < q.due)) ∧
    ∀ (due slot sd : Nat) (v : PWord), (s.site (cellSite (cellKey c))).guard = [] →
      tblWf {} (s.cell (cellKey c)).sreg = true →
      (s.cell (cellKey c)).pend = [{ due := due, slot := slot, what := .scalar sd v }] → due ≤ budgetBase s + cycle.val →
      ∃ t, exec (.resultDelivery c cycle) s = .next t ∧ sGet (t.cell (cellKey c)) sd = (if sd = 0 then {} else v) ∧
        (∀ n, n ≠ sd → sGet (t.cell (cellKey c)) n = sGet (s.cell (cellKey c)) n) ∧
        (t.cell (cellKey c)).sp = (s.cell (cellKey c)).sp ∧ (t.cell (cellKey c)).vreg = (s.cell (cellKey c)).vreg

/-- R556, R96, R97: a cell that still issues at the end of budget cycle 511 ends with cause no stroke end (bit 10), the first
capture keeping its task and bundle; R200, R201: a fill that is due, neither stale nor poisoned, whose way still carries its line's
tag, leaves the list and is written at its way, which then holds the line; R217, R220: one whose line is not in the landing buffer by
its fill cycle is LATE and is not written. -/
def Obligations.DeadlineAndCacheFill : Prop :=
  (∀ (c : CellAddr) (s : State), s.tablesWf = true →
    let k := cellKey c
    let x := s.cell k
    working s = true → siteRuns s (cellSite k) = true → x.issue = .running → 512 ≤ x.cycle →
    ∃ t, exec (.issueDeadline c) s = .next t ∧ (t.cell k).issue = .ended ∧
      tb (t.cell k).faults.status.toNat 10 = true ∧
      (x.faults.status = 0 → (t.cell k).faults.task = BitVec.ofNat 3 x.task ∧ (t.cell k).faults.bundle = BitVec.ofNat 12 x.pc) ∧
      (∀ j, j ≠ k → t.cell j = s.cell j) ∧ t = { s with cells := t.cells, sites := t.sites }) ∧
  ∀ (c : CellAddr) (s : State) (f : CacheFillRec), s.tablesWf = true →
    let k := cellKey c
    let x := s.cell k
    let key := f.task * 65536 + f.set
    working s = true → siteRuns s (cellSite k) = true → x.issue = .ended → (s.site (cellSite k)).guard = [] →
    let mine (w : CacheWay) : Bool := w.way == f.way && w.line == f.line && !w.filled
    tblWf [] x.cache = true →
    x.fills = [f] → f.due ≤ budgetBase s + 511 → f.stale = false →
    ((tget [] x.cache key).any mine) = true →
    (∀ r n : Nat, f.readyAt = some r → budgetSlot s false f.due = some n → r ≤ n → (f.data.any (·.poison)) = false →
      ∃ t, exec (.cacheFill c) s = .next t ∧ (t.cell k).fills = [] ∧
        tget [] (t.cell k).cache key =
          ((tget [] x.cache key).map fun w => if mine w then { w with filled := true } else w) ∧
        (t.cell k).sp = spWordsSet x.sp f.word f.data ∧ ∀ j, j ≠ k → t.cell j = s.cell j) ∧
    (f.readyAt = none →
      ∃ t, exec (.cacheFill c) s = .next t ∧ (t.cell k).fills = [] ∧
        tget [] (t.cell k).cache key = ((tget [] x.cache key).filter fun w => !mine w) ∧ (t.cell k).sp = x.sp ∧
        (t.site (cellSite k)).late = true ∧ tb (t.site (cellSite k)).errStatus.toNat 5 = true ∧
        (t.site (cellSite k)).lateCount = satAdd (s.site (cellSite k)).lateCount 1)

/-- R210, R205: of a stroke's 64 slack cycles those not yet used go to waking segments first, one tile of zeros each; R310 to
R312: a mailbox is written once in a working stroke, with COUNT = 0 in the header of its half where no parcel waits and else with the
parcel, its units before its header, and an outbox is read once; R429: a follower tells its master that a parcel is written, and
sends it what it reads. (The messages' form is the model's choice, log entry 135.) (Where a command has nothing to do it changes nothing: the model's choice, log entry 1.) -/
def Obligations.SlackWorkOfACell : Prop :=
  (∀ (c : CellAddr) (n : Fin 65) (found : List (Nat × CodeError)) (s : State), s.tablesWf = true →
    let k := cellKey c
    let x := s.cell k
    let used := if x.slackAt = strokeNo s then x.slackUsed else 0
    s.time.running = true → siteRuns s (cellSite k) = true → s.power.ladder = .running → x.issue ≠ .running →
    ∃ t, exec (.slackBackground c n found) s = .next t ∧ (t.cell k).slackAt = strokeNo s ∧
      (t.cell k).slackUsed = used + min n.val (64 - used) ∧
      (t.cell k).waking = x.waking.drop (min n.val (64 - used)) ∧ t.time = s.time ∧
      ∀ j, j ≠ k → t.cell j = s.cell j) ∧
  (∀ (c : CellAddr) (slack : Nat) (s : State) (tab : ServingTables) (a : IoArea), s.tablesWf = true →
    servingTables s = some tab → areaOf s tab.intake (cellKey c) = some a → working s = true → slack ≠ 0 →
    (s.cell (cellKey c)).mailAt ≠ s.time.work →
    ∃ t, exec (.mailboxWrite c slack) s = .next t ∧ (t.cell (cellKey c)).mailAt = s.time.work ∧
      (s.serve.parcels = [] → (t.cell (cellKey c)).sp =
        spWordsSet (s.cell (cellKey c)).sp (areaUnit (s.cell (cellKey c)) a s.time.w * 16) [{}]) ∧
      (∀ (p : Parcel) (rest : List Parcel), s.serve.parcels = p :: rest → p.left = [cellKey c] → p.others = [] →
        (p.payload.length + 63) / 64 + 1 ≤ slack →
        let u := areaUnit (s.cell (cellKey c)) a s.time.w
        (t.cell (cellKey c)).sp = spWordsSet (spWordsSet (s.cell (cellKey c)).sp (u * 16 + 16) (unitWords p.payload)) (u * 16)
          (unitWords (leBytes 4 ((p.payload.length + 63) / 64) ++ leBytes 4 p.type)) ∧ t.serve.parcels = rest) ∧
      (follows s = false → t.sent = s.sent) ∧
      (∀ (p : Parcel) (rest : List Parcel), s.serve.parcels = p :: rest → p.left = [cellKey c] → p.board = true → follows s = true →
        (p.payload.length + 63) / 64 + 1 ≤ slack → ∃ d, t.sent = s.sent ++
          [.vc { src := s.board.position, dst := 0, content := .parcelTaken p.number } d]) ∧
      t = { s with cells := t.cells, sites := t.sites, serve := { s.serve with parcels := t.serve.parcels }, sent := t.sent }) ∧
  (∀ (c : CellAddr) (slack : Nat) (s : State), (s.cell (cellKey c)).mailAt = s.time.work →
    exec (.mailboxWrite c slack) s = .next s) ∧
  (∀ (c : CellAddr) (s : State), (s.cell (cellKey c)).outAt = s.time.work → exec (.outboxRead c) s = .next s) ∧
  ∀ (c : CellAddr) (s : State) (tab : ServingTables) (a : IoArea), s.tablesWf = true →
    servingTables s = some tab → areaOf s tab.output (cellKey c) = some a → working s = true →
    (s.cell (cellKey c)).outAt ≠ s.time.work →
    ∃ t, exec (.outboxRead c) s = .next t ∧ (t.cell (cellKey c)).outAt = s.time.work ∧
      t = { s with
        cells := t.cells, sites := t.sites, fields := t.fields, serve := { s.serve with results := t.serve.results }, sent := t.sent } ∧
      (follows s = false → t.sent = s.sent) ∧ (follows s = true → boardServes s = true → t.serve.results = s.serve.results)

/-- R216, R218, R222: the first listed access of a channel starts once its moment has come, keeps the distances from the starts before
it and leaves its list; a write not before its delivery cycle. The lines of a read are in the landing buffer 32 slots after its
activation (R217), a write's bytes are in the slice and its lines leave the guard. -/
def Obligations.CisternAccessesStartInOrder : Prop :=
  ∀ (site : SiteAddr) (chanB : Bool) (found : List LineError) (s : State) (a : AccessReq) (rest : List AccessReq) (n : Nat),
    s.tablesWf = true →
    let k := siteKey site
    let st := s.site k
    let starts := if chanB then st.startsB else st.startsA
    st.cisState = .ready → (if chanB then st.queueB else st.queueA) = a :: rest →
    startSlot s starts a = some n → n ≤ slotNow s → a.issued < siteNow s k → (a.kind = .put → a.due ≤ siteNow s k) →
    ∃ t, exec (.cisternAccessStart site chanB found) s = .next t ∧
      (t.site k).queueA.length = (if chanB then st.queueA.length else rest.length) ∧
      (t.site k).queueB.length = (if chanB then rest.length else st.queueB.length) ∧
      (a.denied = none → ∃ p ∈ (if chanB then (t.site k).startsB else (t.site k).startsA), p.slot = n ∧ a.slot ≤ n ∧
        p.write = (a.kind == .put) ∧ ∀ q ∈ starts, q.slot + startGap q p ≤ n) ∧
      (a.kind = .put → ∀ g ∈ (t.site k).guard,
        ¬ (g.cell = a.logical ∧ g.issued = a.issued ∧ g.due = a.due ∧ g.line ∈ a.lines)) ∧
      (∀ g : GuardEntry, a.kind = .put → a.denied = none → st.guard = [g] → g.live = true →
        g.cell = a.logical → g.issued = a.issued → g.due = a.due → g.line ∈ a.lines →
        (t.site k).mem = tsetMany 0 st.mem (g.line * 64 + g.offset) g.data) ∧
      (a.kind ≠ .put → (t.site k).mem = st.mem) ∧
      (∀ (i u j : Nat) (q : Pending) (inb : List Bool) (ms : List LineMove) (m : LineMove), a.kind = .get → a.denied = none →
        (s.cell a.cell).pend[i]? = some q → q.due = a.due → q.what = .cisGet u inb ms → ms[j]? = some m → m.line ∈ a.lines →
        m.started = false →
        ∃ (ms' : List LineMove) (m' : LineMove), (t.cell a.cell).pend[i]? = some { q with what := .cisGet u inb ms' } ∧
          ms'[j]? = some m' ∧ m'.started = true ∧ m'.readyAt = n + 32 ∧ m'.line = m.line) ∧
      t.time = s.time ∧ ∀ j, j ≠ k → cellSite a.cell ≠ j → t.site j = s.site j

/-- R217, R220: at its landing cycle a line that is in the landing buffer lands; one that is not is LATE: counted, CS_ERR_STATUS bit
5 set, and the stroke of its cluster is not done. (The order in which lines wait is the model's choice, log entry 15.) -/
def Obligations.LinesLandOrAreLate : Prop :=
  ∀ (site : SiteAddr) (index ck i j n : Nat) (s : State) (q : Pending) (u : Nat) (inb : List Bool) (ms : List LineMove) (m : LineMove),
    s.tablesWf = true →
    (outstanding s (siteKey site))[index]? = some (ck, i, j) → (s.cell ck).pend[i]? = some q → q.what = .cisGet u inb ms →
    ms[j]? = some m → budgetSlot s false m.landAt = some n → n ≤ slotNow s → m.landAt ≤ siteNow s (siteKey site) →
    (m.started = true → m.readyAt ≤ n → ∃ t, exec (.lineLanding site index) s = .next t ∧
      (t.cell ck).pend = (s.cell ck).pend.set i { q with what := .cisGet u inb (ms.set j { m with landed := true }) }) ∧
    (m.started = false ∨ n < m.readyAt → ∃ t, exec (.lineLanding site index) s = .next t ∧
      (t.cell ck).pend = (s.cell ck).pend.set i { q with what := .cisGet u inb (ms.set j { m with missed := true }) } ∧
      (t.site (siteKey site)).late = true ∧ tb (t.site (siteKey site)).errStatus.toNat 5 = true ∧
      (t.site (siteKey site)).lateCount = satAdd (s.site (siteKey site)).lateCount 1)

/-- R223, R229, R213: the three refresh commands of a curb stroke's window are counted, each once and in the tick that holds its slot;
a scrub reads the next burst of its channel in two positions that the lists leave free, within the channel's share and with no
transfer waiting, advances the position and counts a pass when it wraps, and writes no data. -/
def Obligations.RefreshAndScrubOfASlice : Prop :=
  (∀ (site : SiteAddr) (slot : Nat) (s : State), s.tablesWf = true → s.time.running = true → s.time.stroke = 0 →
    (slot = 126 ∨ slot = 168 ∨ slot = 210) → slot / 9 = curbAge s → (s.site (siteKey site)).cisState = .ready →
    (s.site (siteKey site)).refreshLast ≠ some (s.time.epoch * 256 + slot) →
    ∃ t, exec (.refreshCommand site slot) s = .next t ∧
      t.site (siteKey site) = { s.site (siteKey site) with
        refreshCount := (s.site (siteKey site)).refreshCount + 1, refreshLast := some (s.time.epoch * 256 + slot) } ∧
      (∀ j, j ≠ siteKey site → t.site j = s.site j) ∧ t = { s with sites := t.sites }) ∧
  ∀ (site : SiteAddr) (chanB : Bool) (found : List LineError) (s : State), s.tablesWf = true →
    let st := s.site (siteKey site)
    s.time.running = true → swapping s = false → st.cisState = .ready → tb st.csCtrl.toNat 0 = true →
    tb st.scrubPos.toNat 0 = chanB → st.scrubAt ≠ strokeNo s → 2 ≤ bf st.csCtrl.toNat 15 8 →
    channelsOpen s = true → 2 ≤ freePositions s (siteKey site) chanB → readyTransfers s (siteKey site) = [] →
    ∃ t, exec (.cisternScrub site chanB found) s = .next t ∧ (t.site (siteKey site)).scrubPos = st.scrubPos + 1 ∧
      (t.site (siteKey site)).scrubPasses = (if st.scrubPos.toNat + 1 = 2 ^ 22 then st.scrubPasses + 1 else st.scrubPasses) ∧
      spent s (t.site (siteKey site)) chanB = spent s st chanB + 2 ∧
      (t.site (siteKey site)).mem = st.mem ∧ (∀ j, j ≠ siteKey site → t.site j = s.site j) ∧ t = { s with sites := t.sites }

/-- R232, R228: the one transfer that waits at a ready slice is carried out in a free position and leaves the list once its data have
crossed the mesh; a refill of a line of a weight region writes its bytes and takes its poison mark away; R234: channels that train
clear the slice, one that does not sets TRAIN. -/
def Obligations.TransfersAndTrainingOfASlice : Prop :=
  (∀ (site : SiteAddr) (found : List LineError) (s : State) (x : Nat) (d : Bytes), s.tablesWf = true →
    (s.site (siteKey site)).cisState = .ready → (s.site (siteKey site)).transfers = [.refill x d] → d.length = 64 →
    (regionKind (s.site (siteKey site)).active x = some 0 ∨ regionKind (s.site (siteKey site)).active x = some 4) →
    tblWf 0 (s.site (siteKey site)).mem = true → tblWf false (s.site (siteKey site)).linePoison = true →
    s.weights.loading = none → servingTables s = none →
    s.time.running = true → channelsOpen s = true → 1 ≤ freePositions s (siteKey site) (tb x 2) →
    meshBusy s (siteRouter s (siteKey site)) x = false →
    ∃ t, exec (.backgroundTransfer site found) s = .next t ∧ (t.site (siteKey site)).transfers = [] ∧
      tgetMany 0 (t.site (siteKey site)).mem (x * 64) 64 = d ∧ tget false (t.site (siteKey site)).linePoison x = false ∧
      (∀ a, (a < x * 64 ∨ x * 64 + 64 ≤ a) → tget 0 (t.site (siteKey site)).mem a = tget 0 (s.site (siteKey site)).mem a) ∧
      (siteKey site, x) ∉ t.weights.refills) ∧
  ∀ (site : SiteAddr) (s : State), s.tablesWf = true →
    (s.site (siteKey site)).cisState = .off → (s.field site.field.val).domain = .dark →
    (∃ t, exec (.channelTraining site true true) s = .next t ∧ (t.site (siteKey site)).cisState = .ready ∧
      (t.site (siteKey site)).mem = [] ∧ (t.site (siteKey site)).linePoison = [] ∧ t = { s with sites := t.sites }) ∧
    ∀ a b : Bool, (a && b) = false → ∃ t, exec (.channelTraining site a b) s = .next t ∧
      (t.site (siteKey site)).cisState = .training ∧ tb (t.site (siteKey site)).errStatus.toNat 6 = true ∧
      (t.site (siteKey site)).chaOk = a ∧ (t.site (siteKey site)).chbOk = b

/-- R242, R244, R246: a flit that has a link to take moves to the next router of its leg, two cycles on, or ten where the link
crosses a stitch line, and arrives when its way has taken it to its target; one whose CRC fails at the far input is delivered
poisoned and counted there, one whose CRC fails at the input of its own router is counted there. -/
def Obligations.FlitTakesItsNextLink : Prop :=
  ∀ (wire : BitVec 600) (s : State) (f : Flit) (rest : List Flit), s.tablesWf = true →
    let d := (flitNext f).2
    let far := stepXY f.x f.y d
    let w := (f.bits ^^^ wire).toNat
    s.flits = f :: rest → working s = true → f.home = false → f.enter < budgetBase s + 512 →
    flitKind f.bits.toNat = 0 →
    (flitCrc f.bits.toNat = f.bits.toNat % 65536 →
      tb (flitHead f.bits.toNat) 0 = false → d ≠ 4 → linkInside f.x f.y d = true →
      linksUp s (fieldAtXY f.x f.y) = true → (s.field (fieldAtXY far.1 far.2)).domain = .running →
      (tget 0 (s.router (routerKeyXY f.x f.y)).active.weirs ((d * 4 + f.plane) * 64 + f.enter % 64)).toNat = flitTenant f.bits.toNat →
      flitValid w = true → flitKind w = 0 → tb (flitHead w) 0 = false →
      ∃ (t : State) (g : Flit), exec (.flitArrival 0 wire) s = .next t ∧ t.flits = rest ++ [g] ∧
        (g.x, g.y) = far ∧ g.enter = f.enter + 2 + 8 * legStitch f.x f.y far.1 far.2 ∧ g.plane = f.plane ∧
        ((flitNext g).2 ≠ 4 → g.home = false ∧ g.due = f.due) ∧ ((flitNext g).2 = 4 → g.home = true ∧ g.due = g.enter - 1) ∧
        (flitCrc w = w % 65536 → g.bits = f.bits ^^^ wire ∧ t = { s with flits := t.flits }) ∧
        (flitCrc w ≠ w % 65536 → g.bits = BitVec.ofNat 600 (flitPoison w) ∧
          (t.router (routerKeyXY far.1 far.2)).evCrc = (s.router (routerKeyXY far.1 far.2)).evCrc + 1)) ∧
    (flitCrc f.bits.toNat ≠ f.bits.toNat % 65536 → linksUp s (fieldAtXY f.x f.y) = false →
      ∃ t, exec (.flitArrival 0 wire) s = .next t ∧ t.flits = rest ∧
        (t.router (routerKeyXY f.x f.y)).evCrc = (s.router (routerKeyXY f.x f.y)).evCrc + 1)

/-- R179, R181, R85, R97: a unit that reaches its cell is written at its unit of the far task; one out of the far task's bound is discarded and the far cell records bit 1; a get
request joins the requests of its far cell; R180: at its source the request is answered with as many units as it asks for; R266: a
unit for the crossbar of a dark field is discarded and counted. -/
def Obligations.UnitsAndGetsReachTheirCells : Prop :=
  (∀ (s : State) (f : Flit) (rest : List Flit) (k : Nat), s.tablesWf = true →
    let h := flitHead f.bits.toNat
    s.flits = f :: rest → working s = true → f.home = true → f.due < budgetBase s + 512 → f.via = 0 → f.lost = false →
    (s.field (fieldAtXY f.x f.y)).domain ≠ .dark →
    flitKind f.bits.toNat = 0 → f.beyond = 0 → servedCell s f.x f.y (bf h 21 18) = some k →
    spUnit (taskRegs (s.cell k) (bf h 17 15)) (bf h 14 1) = none →
    ∃ t, exec (.routeUnitArrival 0) s = .next t ∧ t.flits = rest ∧ (t.cell k).sp = (s.cell k).sp ∧
      tb (t.cell k).faults.status.toNat 1 = true ∧ ∀ j, j ≠ k → t.cell j = s.cell j) ∧
  (∀ (s : State) (f : Flit) (rest : List Flit) (k u : Nat), s.tablesWf = true →
    let h := flitHead f.bits.toNat
    s.flits = f :: rest → working s = true → f.home = true → f.due < budgetBase s + 512 → f.via = 0 → f.lost = false →
    (s.field (fieldAtXY f.x f.y)).domain ≠ .dark →
    flitKind f.bits.toNat = 0 → servedCell s f.x f.y (bf h 21 18) = some k →
    spUnit (taskRegs (s.cell k) (bf h 17 15)) (bf h 14 1 + f.beyond * 2 ^ 14) = some u →
    (s.cell k).issue = .ended → (s.cell k).pend = [] →
    ∃ t, exec (.routeUnitArrival 0) s = .next t ∧ t.flits = rest ∧
      t.cell k = { s.cell k with sp := spWordsSet (s.cell k).sp (u * 16) (flitData f.bits.toNat) } ∧
      ∀ j, j ≠ k → t.cell j = s.cell j) ∧
  (∀ (s : State) (f : Flit) (rest : List Flit), s.flits = f :: rest → working s = true → f.home = true →
    f.due < budgetBase s + 512 → f.via = 0 → flitKind f.bits.toNat = 1 → (s.field (fieldAtXY f.x f.y)).domain ≠ .dark →
    ∃ (t : State) (g : GetReq), exec (.routeUnitArrival 0) s = .next t ∧ t.flits = rest ∧ t.gets = s.gets ++ [g] ∧
      g.x = f.x ∧ g.y = f.y ∧ g.time = f.due ∧ t = { s with flits := t.flits, gets := t.gets }) ∧
  (∀ (s : State) (f : Flit) (rest : List Flit), s.tablesWf = true → s.flits = f :: rest → working s = true → f.home = true →
    f.due < budgetBase s + 512 → flitKind f.bits.toNat ≠ 3 → (s.field (fieldAtXY f.x f.y)).domain = .dark →
    ∃ t, exec (.routeUnitArrival 0) s = .next t ∧ t.flits = rest ∧ t.cells = s.cells ∧
      (t.router (routerKeyXY f.x f.y)).evDark = (s.router (routerKeyXY f.x f.y)).evDark + 1) ∧
  ∀ (s : State) (g : GetReq) (rest : List GetReq) (k : Nat) (found : List (Nat × CodeError)),
    s.gets = g :: rest → servedCell s g.x g.y g.cell = some k →
    working s = true → g.time < budgetBase s + 512 → (s.cell k).issue = .ended →
    ∃ (t : State) (fs : List Flit), exec (.routeGetSourceRead { get := 0, found := found }) s = .next t ∧ t.gets = rest ∧
      t.flits = s.flits ++ fs ∧
      fs.length = g.n ∧ ∀ (u : Nat) (f : Flit), fs[u]? = some f → f.due = g.time + g.lat + 4 + u

/-- R183, R253, R254: a node of a router whose output is the north link takes the unit held at its input, or combines those held at
its two inputs, and sends the result on in its tree's plane, entering the link when the later input is due; with one of two inputs
held it waits as long as something of the tree is still to come; and an entry waits for the entries before it that are ready. -/
def Obligations.ReductionNodesTakeTheirInputs : Prop :=
  ∀ (r : RouterAddr) (entry : Fin 256) (unit : Fin 64) (s : State) (a : NodeLeg), s.tablesWf = true →
    let rk := routerKey r
    let e := (tget 0 (s.router rk).active.nodes entry.val).toNat
    let leg := nodeLeg (s.router rk) (s.site (routerSite s rk)) (bf e 62 53) unit.val
    working s = true → linksUp s r.field.val = true → tb e 63 = true → bf e 52 50 < 4 → leg (bf e 52 50) = (some a, false) →
    (nodeReady s rk (bf e 62 53) unit.val (fun i => decide (i < entry.val)) = true →
      exec (.reductionNodeCombine r entry unit none) s = .next s) ∧
    (nodeReady s rk (bf e 62 53) unit.val (fun i => decide (i < entry.val)) = false →
      (bf e 49 47 = 7 → bf e 46 42 = 1 → a.leg.clamps = 0 →
        ∃ (t : State) (f : Flit), exec (.reductionNodeCombine r entry unit none) s = .next t ∧ t.flits = s.flits ++ [f] ∧
          f.out = 0 ∧ f.enter = a.due ∧ f.plane = bf e 41 40 ∧
          (t.router rk).held = takeHeld (s.router rk).held (bf e 62 53) unit.val (bf e 52 50)) ∧
      (∀ b : NodeLeg, bf e 49 47 < 4 → leg (bf e 49 47) = (some b, false) → bf e 46 42 = 1 →
        (combineLeg a.op unit.val a.leg b.leg).clamps = 0 →
        ∃ (t : State) (f : Flit), exec (.reductionNodeCombine r entry unit none) s = .next t ∧ t.flits = s.flits ++ [f] ∧
          f.out = 0 ∧ f.enter = max a.due b.due ∧ f.plane = bf e 41 40 ∧
          f.bits = flitMake (combineLeg a.op unit.val a.leg b.leg).u (bf e 39 38) 2
            (bf e 62 53 * 2 ^ 41 + a.op % 4 * 2 ^ 39 + unit.val * 2 ^ 33)) ∧
      (bf e 49 47 ≠ 7 → leg (bf e 49 47) = (none, false) → treeMoves s (bf e 62 53) unit.val a.due = true →
        exec (.reductionNodeCombine r entry unit none) s = .next s))

/-- R89, R90, R145, R258: a post reaches its field controller, and on a wafer-wide channel the wafer manager; a publication
takes the posts of its channel of working strokes at least one, or two, before, and nothing later. (Where a command has
nothing to do it changes nothing: the model's choice, log entry 1.) -/
def Obligations.PostsArePublishedInTime : Prop :=
  (∀ (s : State) (p : Post) (rest : List Post), s.posts = p :: rest → linksUp s p.cell.field.val = true → p.stage = 0 →
    exec (.selectorPostArrival 0) s = .next { s with posts := { p with stage := 1 } :: rest }) ∧
  (∀ (s : State) (p : Post) (rest : List Post), s.posts = p :: rest → linksUp s p.cell.field.val = true → p.stage = 1 →
    exec (.selectorPostArrival 0) s =
      .next (if 12 ≤ p.chan.val then { s with posts := { p with stage := 2 } :: rest } else s)) ∧
  ∀ (chan : Fin 16) (field : Field) (s : State) (p : Post), s.tablesWf = true → tblWf {} (s.field field.val).pubs = true →
    s.posts = [p] → p.chan = chan →
    (chan.val < 12 → p.stage = 1 → p.cell.field = field → p.work + 1 ≤ s.time.work →
      ∃ t, exec (.selectorPublication chan field true) s = .next t ∧ t.posts = [] ∧
        (tget {} (t.field field.val).pubs chan.val).value = p.value ∧
        (tget {} (t.field field.val).pubs chan.val).count = (tget {} (s.field field.val).pubs chan.val).count + 1) ∧
    (12 ≤ chan.val → p.stage = 2 → p.work + 2 ≤ s.time.work →
      ∃ t, exec (.selectorPublication chan field true) s = .next t ∧ t.posts = [] ∧
        (tget {} t.wafer chan.val).value = p.value ∧
        (tget {} t.wafer chan.val).count = (tget {} s.wafer chan.val).count + 1) ∧
    (12 ≤ chan.val → p.stage = 2 → s.time.work < p.work + 2 → exec (.selectorPublication chan field true) s = .next s)

/-- R512, R257: a field controller executes a command whose checksum matches once a free link has carried it (a register write, a
field dark or marked as a hole, a publication), and discards, counts and reports with code 0x97 one whose does not; a write to a
register whose compute clock is stopped has no effect (R259). -/
def Obligations.FieldControllerChecksCommands : Prop :=
  ∀ (f : Field) (cmd : FcCmd) (s : State), s.tablesWf = true → linksUp s f.val = true →
    (∃ t, exec (.fcCommand f cmd false) s = .next t ∧
      (t.field f.val).cmdRej = satAdd (s.field f.val).cmdRej 1 ∧ (t.field f.val).domain = (s.field f.val).domain ∧
      t.mgmt.cmdRej = satAdd s.mgmt.cmdRej 1 ∧ onRing t 0 0x97 ∧ t.cells = s.cells ∧ t.sites = s.sites) ∧
    ((s.field f.val).ctrlQueue = [] → (s.field f.val).ctrlFree ≤ ctrlNow s →
      (cmd = .goDark → (s.field f.val).domain = .running →
        ∃ t, exec (.fcCommand f cmd true) s = .next t ∧ (t.field f.val).domain = .dark ∧ t = { s with fields := t.fields }) ∧
      (cmd = .markHole → ∃ t, exec (.fcCommand f cmd true) s = .next t ∧ (t.field f.val).domain = .hole) ∧
      (∀ (addr : BitVec 64) (v : BitVec 128), cmd = .writeRegister addr v →
        let a := { regAddr addr with field := f.val }
        let s' := s.modField f.val fun fs =>
          { fs with ctrlFree := ctrlNow s + accessWords (some v) (regAddr addr), ctrlRun := 0 }
        exec (.fcCommand f cmd true) s = .next (if regDark s' a then noteDark s' a else writeControl s' a v.toNat)) ∧
      (∀ (chan : Fin 16) (v : BitVec 4), cmd = .publish chan v → tblWf {} (s.field f.val).pubs = true →
        ∃ t, exec (.fcCommand f cmd true) s = .next t ∧ (tget {} (t.field f.val).pubs chan.val).value = v ∧
          (tget {} (t.field f.val).pubs chan.val).count = (tget {} (s.field f.val).pubs chan.val).count + 1 ∧
          t = { s with fields := t.fields }))

/-- R259: an access to a register of a site or cell whose compute clock is stopped, and one to a place in a hole, is answered
"dark"; a write then has no effect, only that a field whose controller is reached notes the refused access in its error
register. Any other register answers a read with its value. R257: of the messages that wait for a field's control link the lowest
class has the next word, but class 3 has at least one in 16. -/
def Obligations.DarkPlacesAnswerDark : Prop :=
  (∀ (addr : BitVec 64) (s : State) (w : Option (BitVec 128)), s.tablesWf = true →
    let a := regAddr addr
    let linked : Prop := a.field < 48 ∧ linksUp s a.field = true ∧ (a.block = 2 ∨ 7 ≤ a.block)
    let s' := if a.field < 48 ∧ linksUp s a.field = true ∧ (a.block = 2 ∨ 7 ≤ a.block) then
        s.modField a.field fun fs => { fs with ctrlFree := ctrlNow s + accessWords w a, ctrlRun := 0 }
      else s
    (7 ≤ a.block → a.block ≤ 9 → a.field < 48 → a.site < 74 → siteRuns s a.siteKey = false → regDark s a = true) ∧
    ((a.block = 2 ∨ 7 ≤ a.block ∧ a.block ≤ 9 ∧ a.site < 74) → a.field < 48 → isHole s a.field = true → regDark s a = true) ∧
    ((linked → (s.field a.field).ctrlQueue = [] ∧ (s.field a.field).ctrlFree ≤ ctrlNow s) →
      (regDark s' a = true →
        ∃ t, exec (.controlRegisterAccess addr w) s = .next t ∧ t.sent = s.sent ++ [.register addr true 0] ∧
          (∀ f, t.field f = (if f = a.field ∧ 7 ≤ a.block ∧ linksUp s f = true then
            { s'.field f with fcErr := (s'.field f).fcErr ||| 1 } else s'.field f)) ∧
          t = { s with fields := t.fields, sent := t.sent }) ∧
      ∀ (rows : List (Nat × Nat × Nat)) (v : Nat), regDark s' a = false →
        blockRows s' a = some rows → rowValue rows a.off = some v →
        exec (.controlRegisterAccess addr w) s = .next (match w with
          | none => { s' with sent := s.sent ++ [.register addr false (BitVec.ofNat 128 v)] }
          | some x => writeControl s' a x.toNat))) ∧
  (∀ (q : List CtrlMsg) (run i : Nat) (m : CtrlMsg), ctrlPick q run = some i → q[i]? = some m → run < 15 →
    ∀ m' ∈ q, m.cls ≤ m'.cls) ∧
  ∀ (q : List CtrlMsg) (run : Nat), 15 ≤ run → (∃ m ∈ q, m.cls = 3) →
    ∃ (i : Nat) (m : CtrlMsg), ctrlPick q run = some i ∧ q[i]? = some m ∧ m.cls = 3

/-- R268, R442: an open fuse takes a field's supply: the field is a hole, everything it held is lost, the loss names the stroke and
its record has code 0x8C. R440: one failed converter of a field is reported, both open its fuse. R441: a second failed
auxiliary converter is a fatal-wafer error and forces Dry. R463: the input voltage. -/
def Obligations.SupplyFailures : Prop :=
  (∀ (f : Field) (s : State), s.tablesWf = true → isHole s f.val = false →
    ∃ t, exec (.fuseOpen f) s = .next t ∧ (t.field f.val).domain = .hole ∧ (t.field f.val).fuseOpen = true ∧
      (t.field f.val).lostStroke = some (BitVec.ofNat 60 (strokeNo s)) ∧ onRing t 3 0x8C ∧ tb t.power.err.toNat 6 = true ∧
      (∀ k, t.cell k = if cellField k = f.val then {} else s.cell k) ∧
      (∀ k, k / 74 ≠ f.val → t.site k = s.site k) ∧ (∀ g, g ≠ f.val → t.field g = s.field g) ∧
      t.time = s.time ∧ t.plan = s.plan ∧ t.serve = s.serve) ∧
  (∀ (f : Field) (i : Fin 2) (s : State), s.tablesWf = true → i.val ∉ (s.field f.val).convBad →
    ∃ t, exec (.converterFailure f i) s = .next t ∧ (t.field f.val).convBad = (s.field f.val).convBad ++ [i.val] ∧
      tb t.power.err.toNat 2 = true ∧ tb t.mgmt.alert.toNat 2 = true ∧
      ((s.field f.val).convBad = [] → (t.field f.val).domain = (s.field f.val).domain ∧
        t = { s with fields := t.fields, power := t.power, mgmt := t.mgmt }) ∧
      ((s.field f.val).convBad ≠ [] → isHole s f.val = false →
        (t.field f.val).domain = .hole ∧ (t.field f.val).fuseOpen = true ∧ onRing t 3 0x8C) ∧
      t.time = s.time ∧ t.serve = s.serve) ∧
  (∀ (i : Fin 4) (s : State), s.tablesWf = true → i.val ∉ s.power.auxBad →
    ∃ t, exec (.auxConverterFailure i) s = .next t ∧ t.power.auxBad = s.power.auxBad ++ [i.val] ∧
      tb t.power.err.toNat 3 = true ∧ tb t.mgmt.alert.toNat 2 = true ∧
      (s.power.auxBad = [] → t = { s with power := t.power, mgmt := t.mgmt } ∧ t.power.ladder = s.power.ladder) ∧
      (s.power.auxBad ≠ [] → onRing t 4 0x96 ∧ t.power.ladder = .dry ∧ liveRequests t = [] ∧ t.time.dataPath = false ∧
        t.plan.active = none ∧ t.weights.resident = none ∧ t.kv.sets = [] ∧
        (∀ k, (t.site k).mem = [] ∧ (t.cell k).sp = {}) ∧ ∀ p, (t.port p).link = false)) ∧
  ∀ (cv : BitVec 16) (ticks : Nat) (s : State),
    (4800 ≤ cv.toNat → cv.toNat ≤ 5600 → exec (.inputVoltageExcursion cv ticks) s =
      .next { s with power := { s.power with busCv := cv } }) ∧
    ((cv.toNat < 4600 ∨ 5800 < cv.toNat) → 2000 ≤ ticks →
      ∃ t, exec (.inputVoltageExcursion cv ticks) s = .next t ∧ t.power.busCv = cv ∧ t.otp = s.otp ∧
        t.fw.inForce = s.fw.inForce ∧ t.sent = s.sent ∧ t.time = {} ∧ t.cells = [] ∧ t.sites = [] ∧ t.fields = [] ∧
        t.plan = {} ∧ t.serve = {} ∧ t.weights = {} ∧ t.kv = {} ∧ t.mgmt = {} ∧ t.txn = {} ∧ t.faults = {}) ∧
    ((cv.toNat < 4800 ∨ 5600 < cv.toNat) → ticks < 2000 →
      ∃ t, exec (.inputVoltageExcursion cv ticks) s = .next t ∧ tb t.power.err.toNat 4 = true ∧ tb t.mgmt.alert.toNat 2 = true ∧
        t.power.ladder = s.power.ladder ∧ t = { s with power := t.power, mgmt := t.mgmt })

/-- R443, R444: a failed phase is disconnected and counted; two VLOGIC phases or both VARRAY phases take the site dark, and without
VARRAY its scratchpads are lost. A share test fails exactly the working phases whose current deviates by more than a
quarter from the mean. R50: a droop stretches one cycle. -/
def Obligations.PhaseFailuresDarkenSites : Prop :=
  (∀ (site : SiteAddr) (array : Bool) (i : Fin 4) (s : State), s.tablesWf = true →
    let k := siteKey site
    (array = true → i.val < 2) → i.val ∉ (if array then (s.site k).varrayBad else (s.site k).vlogicBad) →
    ∃ t, exec (.phaseFailure site array i) s = .next t ∧
      (t.site k).vlogicBad = (if array then (s.site k).vlogicBad else (s.site k).vlogicBad ++ [i.val]) ∧
      (t.site k).varrayBad = (if array then (s.site k).varrayBad ++ [i.val] else (s.site k).varrayBad) ∧
      (t.site k).dark = ((s.site k).dark || decide (2 ≤ (t.site k).vlogicBad.length ∨ 2 ≤ (t.site k).varrayBad.length)) ∧
      (t.field site.field.val).phaseFails = satAdd (s.field site.field.val).phaseFails 1 ∧ tb t.power.err.toNat 1 = true ∧
      (∀ c, cellSite c = k → (t.site k).varrayBad.length = 2 → (t.cell c).sp = {}) ∧
      (∀ c, cellSite c ≠ k → t.cell c = s.cell c) ∧ (∀ j, j ≠ k → t.site j = s.site j) ∧
      t = { s with cells := t.cells, sites := t.sites, fields := t.fields, power := t.power }) ∧
  (∀ (site : SiteAddr) (logic array : List Nat) (s : State), s.tablesWf = true →
    let k := siteKey site
    ∃ t, exec (.phaseShareTest site logic array) s = .next t ∧
      (∀ i, i ∈ (t.site k).vlogicBad ↔ i ∈ (s.site k).vlogicBad ∨ i ∈ phaseOutliers (s.site k).vlogicBad (logic.take 4)) ∧
      (∀ i, i ∈ (t.site k).varrayBad ↔ i ∈ (s.site k).varrayBad ∨ i ∈ phaseOutliers (s.site k).varrayBad (array.take 2)) ∧
      (phaseOutliers (s.site k).vlogicBad (logic.take 4) = [] → phaseOutliers (s.site k).varrayBad (array.take 2) = [] → t = s) ∧
      (∀ j, j ≠ k → t.site j = s.site j) ∧ t.time = s.time) ∧
  (∀ (bad amps : List Nat) (i : Nat), i ∈ phaseOutliers bad amps ↔
    ∃ a, amps[i]? = some a ∧ i ∉ bad ∧
      let live := amps.zipIdx.filter fun q => !bad.contains q.2
      sumNat (live.map (·.1)) < 4 * Machine.dist (live.length * a) (sumNat (live.map (·.1)))) ∧
  ∀ (site : SiteAddr) (s : State), siteRuns s (siteKey site) = true →
    exec (.droopStretch site) s = .next { s with time := { s.time with droop := s.time.droop + 1 } }

/-- R450 to R452: a sample, one in 1,000 ticks, of strokes 0 to 3,839 enters the means of the epoch, and in Poised for 10 ms without floor load it
is the floor; the latch of stroke 3,840 forms the epoch's mean and begins the next one, asks nothing of a module whose mean
stays under its cap, and asks for the period that meets the cap where it does not. (Where a command has nothing to do it
changes nothing: the model's choice, log entry 1.) -/
def Obligations.PowerSamplesAndCapping : Prop :=
  (∀ (main : List (Nat × Nat)) (aux amps : List Nat) (s : State), s.tablesWf = true →
    s.power.sampleAt ≠ some (s.time.localTicks.toNat / 1000) →
    let total := sumNat (main.map fun q => q.1 + q.2) + sumNat aux
    ∃ t, exec (.powerSample main aux amps) s = .next t ∧ t.power.lastSample = total ∧
      (s.time.stroke < 3840 → t.power.sum = s.power.sum + total ∧ t.power.count = s.power.count + 1 ∧
        ∀ f, f < 48 → (t.field f).powerSum = (s.field f).powerSum + (main.getD f (0, 0)).1 + (main.getD f (0, 0)).2 ∧
          (t.field f).ampSum = (s.field f).ampSum + amps.getD f 0) ∧
      (3840 ≤ s.time.stroke → t.power.sum = s.power.sum ∧ t.power.count = s.power.count) ∧
      (s.power.ladder ≠ .poised → t.power.floorBase = s.power.floorBase ∧ t.power.floorBoost = s.power.floorBoost) ∧
      (∀ at0, s.power.ladder = .poised → s.power.poisedAt = some at0 → at0 + 1000000 ≤ boardTime s → s.power.floorLoad = 0 →
        s.time.clock = .base → t.power.floorBase = total ∧ t.power.floorBoost = s.power.floorBoost) ∧
      t = { s with power := t.power, fields := t.fields }) ∧
  (∀ s : State, s.tablesWf = true → s.time.running = true → s.time.stroke = 3840 →
    (latchedNow s = true → exec .cappingLatch s = .next s) ∧
    (latchedNow s = false → ∃ t, exec .cappingLatch s = .next t ∧
      t.power.lastM = (if s.power.count = 0 then s.power.lastM else s.power.sum / s.power.count) ∧
      t.power.sum = 0 ∧ t.power.count = 0 ∧ (t.power.lastM, boardTime s) ∈ t.power.means ∧
      (∀ f, (t.field f).powerSum = 0 ∧ (t.field f).ampSum = 0) ∧
      t = { s with power := t.power, fields := t.fields, heat := t.heat, own := t.own, sent := t.sent } ∧
      (tb s.power.ctrl.toNat 1 = false → (∀ q ∈ s.fields, q.2.convBad.length ≠ 1) → s.power.count ≠ 0 →
        let cap := s.power.cap.toNat
        let n := s.power.count
        (s.power.demandInForce = 0 → floorNow s < cap → s.power.sum ≤ cap * n → t.power.demand = 0) ∧
        (floorNow s < cap → cap * n < s.power.sum →
          let d := ceilDiv (s.time.period * (s.power.sum - floorNow s * n)) ((cap - floorNow s) * n)
          t.power.demand = if d ≤ basePeriod s then 0 else d)))) ∧
  ∀ s : State, s.time.stroke ≠ 3840 → exec .cappingLatch s = .next s

/-- R446, R447, R233: a wake step, 1,024 ticks after the one before, whose row the branch's headroom covers brings up every site of its row that is not dark,
the slices leaving self-refresh in the first, and after row 7 the field runs; without headroom for one site it waits and is
counted. R268, R297: a lost field is marked a hole at stroke s + 2, and its staged variant takes effect at the second curb
stroke; on a board a follower reports to its master, which names an epoch at least 4 ahead once every module has staged it. (Where a command has nothing to do it changes nothing: the model's choice, log entry 1.) -/
def Obligations.FieldsWakeAndAreMarked : Prop :=
  (∀ (f : Field) (s : State), s.tablesWf = true →
    let fs := s.field f.val
    let head := 1600 - (fs.lastBranch + (s.field (branchMate f.val)).lastBranch)
    fs.wake = true → fs.wakeStep ≤ 7 → fs.wakeAt + 1024 ≤ s.time.localTicks.toNat →
    ((if fs.wakeStep = 7 then 184 else 150) ≤ head →
      ∃ t, exec (.wakeStep f) s = .next t ∧
        (∀ i ∈ wakeRow fs.wakeStep, (t.site (f.val * 74 + i)).up = true ∨ (t.site (f.val * 74 + i)).dark = true) ∧
        (fs.wakeStep = 0 → ∀ i, i < 74 → (t.site (f.val * 74 + i)).cisState ≠ .selfRefresh) ∧
        (fs.wakeStep < 7 → (t.field f.val).wakeStep = fs.wakeStep + 1 ∧ (t.field f.val).wake = true ∧
          (t.field f.val).domain = fs.domain) ∧
        (fs.wakeStep = 7 → (t.field f.val).domain = .running ∧ (t.field f.val).wake = false) ∧
        (∀ k, k / 74 ≠ f.val → t.site k = s.site k) ∧ (∀ g, g ≠ f.val → t.field g = s.field g) ∧
        t = { s with sites := t.sites, fields := t.fields }) ∧
    (head * 10 / 167 = 0 → (∃ i ∈ wakeRow fs.wakeStep, (s.site (f.val * 74 + i)).up = false ∧ (s.site (f.val * 74 + i)).dark = false) →
      exec (.wakeStep f) s = .next (s.setField f.val { fs with spreads := satAdd fs.spreads 1 }))) ∧
  (∀ (f : Field) (s : State) (n : BitVec 60), s.tablesWf = true → (s.field f.val).lostStroke = some n →
    (s.time.running = true → strokeNo s < n.toNat + 2 → exec (.fieldHoleMark f) s = .next s) ∧
    (s.time.running = false ∨ n.toNat + 2 ≤ strokeNo s →
      ∃ t, exec (.fieldHoleMark f) s = .next t ∧ (t.field f.val).lostStroke = none ∧ t.plan.pending = none ∧
        (isHole s f.val = true → ∀ g, g < 48 → isHole t g = false →
          g ∈ fieldsReached t ∧ (t.field g).northSpine = holeSouth t g ∧ ¬ (holeSouth t g = true ∧ holeNorth t g = true)) ∧
        t.time.epoch = s.time.epoch ∧ t.time.stroke = s.time.stroke)) ∧
  ∀ (s : State) (k : OwnKind), s.plan.staging = some k → (s.own.any fun o => o.kind == k) = false →
    (onBoard s = false →
      ∃ (t : State) (e : Nat), exec .holeVariantStaged s = .next t ∧ t.plan.staging = none ∧
        t.own = s.own ++ [{ kind := k, epoch := e }] ∧ s.time.epoch + 2 ≤ e ∧
        t = { s with plan := t.plan, own := t.own, sent := t.sent }) ∧
    (follows s = true → exec .holeVariantStaged s = .next (tellMaster s .variantStaged)) ∧
    (onBoard s = true → s.board.position = 0 →
      (s.board.admittedMask &&& ~~~ (s.board.staged ||| 1) ≠ 0 →
        exec .holeVariantStaged s = .next { s with board := { s.board with staged := s.board.staged ||| 1 } }) ∧
      (s.board.admittedMask &&& ~~~ (s.board.staged ||| 1) = 0 →
        ∃ (t : State) (e : Nat), exec .holeVariantStaged s = .next t ∧ t.plan.staging = none ∧
          t.own = s.own ++ [{ kind := k, epoch := e }] ∧ s.time.epoch + 4 ≤ e ∧
          t = { s with plan := t.plan, board := t.board, own := t.own, sent := t.sent }))

/-- R412 to R414: an exchange of the active port is summed as board time less PTP time; the sixteenth in a row within 50 ns
locks it, the fourth beyond 200 ns unlocks it, 3 s without Sync unlock it; the master's servo names for epoch e + 2 the trim
that takes the rounded mean away, within ±2, or 0 without lock, and sends it to its followers. (Where a command has nothing
to do it changes nothing: the model's choice, log entry 1.) -/
def Obligations.PtpExchangesMakeTrims : Prop :=
  (∀ (sec ns : Nat) (off : Int) (s : State) (p : Nat), s.tablesWf = true → ptpPort s = some p →
    ∃ t, exec (.ptpSyncExchange sec ns off) s = .next t ∧ (t.port p).ptpOffset = BitVec.ofInt 32 off ∧
      (-50 ≤ off → off ≤ 50 → 15 ≤ (s.port p).inLock → (t.port p).ptpLock = true) ∧
      (-50 ≤ off → off ≤ 50 → (s.port p).inLock < 15 →
        (t.port p).ptpLock = (s.port p).ptpLock ∧ (t.port p).inLock = (s.port p).inLock + 1) ∧
      ((off < -200 ∨ 200 < off) → 3 ≤ (s.port p).outLock → (t.port p).ptpLock = false) ∧
      ((off < -200 ∨ 200 < off) → (s.port p).outLock < 3 →
        (t.port p).ptpLock = (s.port p).ptpLock ∧ (t.port p).outLock = (s.port p).outLock + 1) ∧
      t.ptp.count = s.ptp.count + 1 ∧
      t.ptp.sum = s.ptp.sum + ((boardTime s : Int) - (sec * 100000000 + ns / 10 : Nat)) ∧
      (∀ q, q ≠ p → t.port q = s.port q) ∧ t = { s with ports := t.ports, ptp := t.ptp }) ∧
  (∀ (s : State) (p : Nat), s.tablesWf = true → ptpPort s = some p →
    (∀ at0, s.ptp.last = some at0 → at0 + 300000000 ≤ s.time.localTicks.toNat) →
    ∃ t, exec .ptpSyncTimeout s = .next t ∧ (t.port p).ptpLock = false ∧
      (∀ q, q ≠ p → t.port q = s.port q) ∧ t = { s with ports := t.ports }) ∧
  (∀ s : State, s.tablesWf = true → s.board.position = 0 → s.time.established = true →
    (∀ q ∈ s.time.trims, q.1 ≠ s.time.epoch + 2) →
    ∃ (t : State) (n : Int), exec .ptpServo s = .next t ∧ t.time = { s.time with trims := s.time.trims ++ [(s.time.epoch + 2, n)] } ∧
      -2 ≤ n ∧ n ≤ 2 ∧ t.ptp = { last := s.ptp.last } ∧ t = { s with time := t.time, ptp := t.ptp, ports := t.ports, sent := t.sent } ∧
      (∀ w, 0 < w → w < 4 → tb s.board.admittedMask.toNat w = true →
        ∃ d, Sent.vc { src := 0, dst := BitVec.ofNat 2 w, content := .trim (BitVec.ofNat 48 (s.time.epoch + 2)) n } d ∈ t.sent) ∧
      (∀ (p : Nat) (m : Int), ptpPort s = some p → (s.port p).ptpLock = true → s.ptp.count ≠ 0 → s.time.trims = [] →
        s.ptp.sum = m * s.ptp.count → n = max (-2) (min 2 (-m)) ∧ t.ports = s.ports) ∧
      ((∀ p, ptpPort s = some p → (s.port p).ptpLock = false) → n = 0 ∧ ∃ p, tb (t.port p).errStatus.toNat 7 = true)) ∧
  ∀ s : State, s.board.position ≠ 0 → exec .ptpServo s = .next s

/-- R467, R472, R479, R513: an on-wafer round gives each field its governing temperatures and its over state; a field over starts the
grace and the request to cut admission, one at 120 °C logic or 110 °C DRAM shuts the module down; the polls of the field
controllers are counted. R470: an analog trip puts the field dark and its record has code 0x8C. R482: end-of-life
figures. -/
def Obligations.FieldTemperaturesAndTrips : Prop :=
  (∀ (rs : List FieldSensors) (missed : List Field) (s : State), s.tablesWf = true → s.mgmt.ready = true →
    s.time.established = true → s.heat.round ≠ some (s.time.localTicks.toNat / 800000) →
    ∃ t, exec (.onWaferRound rs missed) s = .next t ∧ t.time.epoch = s.time.epoch ∧ t.time.stroke = s.time.stroke ∧
      (∀ f : Field, (t.field f.val).missed = if f ∈ missed then (s.field f.val).missed + 1 else 0) ∧
      ∀ (r : FieldSensors) (l d : Nat × Nat), rs = [r] → isHole s r.field.val = false →
        highest s.heat.inlet ((r.diode.zip r.ring).take 74) = some l →
        highest s.heat.inlet ((r.dram1.zip r.dram3).take 6) = some d →
        ((t.field r.field.val).tL = l.1 ∧ (t.field r.field.val).tLSite = l.2 ∧ (t.field r.field.val).tD = d.1 ∧
          (t.field r.field.val).tDPos = d.2 ∧ (t.field r.field.val).hot = overNow (s.field r.field.val).hot l.1 d.1) ∧
        (s.heat.shutdown = false → (960 ≤ l.1 ∨ 880 ≤ d.1) →
          t.heat.shutdown = true ∧ t.heat.tripPin = true ∧ t.power.ladder = .dry ∧ liveRequests t = [] ∧
            (s.otp.shutdowns.length < 64 → t.otp.shutdowns.length = s.otp.shutdowns.length + 1)) ∧
        (s.heat.shutdown = false → (∀ q ∈ s.fields, q.2.hot = false ∧ q.2.tL < 960 ∧ q.2.tD < 880) → s.heat.flowStop = false →
          s.heat.enforce = false → s.heat.graceEnd = 0 → l.1 < 960 → d.1 < 880 → (760 ≤ l.1 ∨ 680 ≤ d.1) →
          t.heat.req = true ∧ t.heat.graceEnd = boardTime s + 50000000 ∧ t.power.floorLoad = 0 ∧
            tb t.mgmt.alert.toNat 3 = true ∧ t.power.ladder = s.power.ladder)) ∧
  (∀ (f : Field) (dram : Bool) (s : State), s.tablesWf = true → (s.field f.val).domain = .running →
    ∃ t, exec (.analogTrip f dram) s = .next t ∧ (t.field f.val).domain = .dark ∧ (t.field f.val).tripped = true ∧
      (t.field f.val).tripLogic = ((s.field f.val).tripLogic || !dram) ∧
      (t.field f.val).tripDram = ((s.field f.val).tripDram || dram) ∧
      (t.field f.val).lostStroke = some (BitVec.ofNat 60 (strokeNo s)) ∧ onRing t 3 0x8C ∧
      (∀ k, k / 74 ≠ f.val → t.site k = s.site k) ∧ (∀ g, g ≠ f.val → t.field g = s.field g) ∧ t.cells = s.cells ∧
      t.time = s.time) ∧
  ∀ (f : Field) (m : AgeMonitor) (value months : Nat) (s : State), s.tablesWf = true → tblWf 1023 (s.field f.val).eols = true →
    tb s.heat.ctrl.toNat 0 = true → isHole s f.val = false →
    ∃ t, exec (.ageingMeasurement f m value months) s = .next t ∧
      tget 1023 (t.field f.val).eols (monitorKey m) = min 1023 months ∧
      (∀ i, i ≠ monitorKey m → tget 1023 (t.field f.val).eols i = tget 1023 (s.field f.val).eols i) ∧
      (t.field f.val).eol ≤ min 1023 months ∧
      ((t.field f.val).eol < bf s.heat.ctrl.toNat 23 16 → tb t.mgmt.alert.toNat 4 = true) ∧
      (m = .ring → 10 + 5 * (s.field f.val).v1Steps ≤ value → (s.field f.val).v1 < 740 → (t.field f.val).v1Call = true) ∧
      (∀ g, g ≠ f.val → t.field g = s.field g) ∧ t = { s with fields := t.fields, mgmt := t.mgmt }

/-- R466, R468, R476, R478, R479, R518: a tray round takes each channel's reading, or the last one, or after three missing
rounds 40 °C at the inlet and no flow; flow warning and flow stop follow; the command of the sideband is answered. R478: a
flow stop forces Poised. R473: the end of the grace. R481: a shutdown is cleared only after 3 good rounds. (CMD_STATUS 0 at
HOST_CMD 0 is the model's choice, log entry 50.) -/
def Obligations.CoolantRoundsAndShutdown : Prop :=
  (∀ (r : TrayReading) (s : State), s.tablesWf = true → s.mgmt.ready = true →
    s.heat.trayRound ≠ some (s.time.localTicks.toNat / 10000000) →
    ∃ t, exec (.trayRound r) s = .next t ∧
      t.heat.inlet = (match r.inlet with | some v => v | none => if 2 ≤ s.heat.inletMiss then 320 else s.heat.inlet) ∧
      t.heat.flow = (match r.flow with | some v => v | none => if 2 ≤ s.heat.flowMiss then 0 else s.heat.flow) ∧
      t.heat.flowStop = decide (t.heat.flow < 48) ∧
      ((t.heat.flow < t.heat.minFlow ∨ t.heat.maxInlet < t.heat.inlet) → t.heat.flowWarn = true) ∧
      (t.heat.minFlow ≤ t.heat.flow → t.heat.inlet ≤ t.heat.maxInlet → 2 ≤ s.heat.flowGood → t.heat.flowWarn = false) ∧
      (s.heat.shutdown = false → 360 < t.heat.inlet → 2 ≤ s.heat.hotInlet → (r.hostCmd ≠ 2) →
        t.heat.shutdown = true ∧ t.power.ladder = .dry) ∧
      (t.heat.flow < 48 → s.heat.flowStop = false → t.heat.inlet ≤ 360 → t.heat.enforce = true ∧ t.heat.forceDue = true) ∧
      (r.hostCmd = 0 → t.heat.cmdStatus = 0) ∧
      (r.hostCmd = 1 → s.power.ladder = .dry → s.heat.shutdown = false → t.heat.inlet ≤ 360 →
        t.heat.cmdStatus = 1 ∧ t.power.leaving = true) ∧
      (r.hostCmd.toNat ≥ 3 → t.heat.cmdStatus = 3) ∧ t.time.epoch = s.time.epoch) ∧
  (∀ s : State, s.tablesWf = true → s.heat.forceDue = true → (s.power.ladder = .running ∨ s.power.ladder = .poised) →
    ∃ t, exec .forcedPoise s = .next t ∧ t.power.ladder = .poised ∧ t.heat.forced = true ∧ t.heat.forceDue = false ∧
      t.time.dataPath = false ∧ liveRequests t = [] ∧ t.cells = s.cells ∧ t.sites = s.sites) ∧
  (∀ s : State, s.heat.graceEnd ≠ 0 → s.heat.graceEnd ≤ boardTime s →
    ∃ t, exec .graceEnd s = .next t ∧ t.heat.graceEnd = 0 ∧ t = { s with heat := t.heat } ∧
      (((∃ q ∈ s.fields, q.2.hot = true) ∨ s.heat.flowWarn = true) → t.heat.enforce = true ∧ t.heat.req = s.heat.req) ∧
      ((∀ q ∈ s.fields, q.2.hot = false) → s.heat.flowWarn = false → t.heat.req = false ∧ t.heat.enforce = s.heat.enforce)) ∧
  ∀ s : State,
    (3 ≤ s.heat.clearGood → exec .thClearShutdown s = .next { s with heat := { s.heat with shutdown := false, tripPin := false } }) ∧
    (s.heat.clearGood < 3 → ∃ t, exec .thClearShutdown s = .next t ∧ tb t.heat.err.toNat 5 = true ∧
      t.heat.shutdown = s.heat.shutdown ∧ t = { s with heat := t.heat })

/-- R468: a tray channel without a valid reading keeps the last one for two rounds; in the third the flow counts as 0 L/min, which
is a flow stop, and the inlet as 40 °C. -/
def Obligations.MissingTrayReadings : Prop :=
  ∀ (r : TrayReading) (s : State), s.mgmt.ready = true → s.heat.trayRound ≠ some (s.time.localTicks.toNat / 10000000) →
    ∃ t, exec (.trayRound r) s = .next t ∧
      t.heat.flowMiss = (if r.flow = none then s.heat.flowMiss + 1 else 0) ∧
      t.heat.inletMiss = (if r.inlet = none then s.heat.inletMiss + 1 else 0) ∧
      (3 ≤ t.heat.flowMiss → t.heat.flow = 0 ∧ t.heat.flowStop = true) ∧
      (t.heat.flowMiss < 3 → t.heat.flow = r.flow.getD s.heat.flow) ∧
      (3 ≤ t.heat.inletMiss → t.heat.inlet = 320) ∧
      (t.heat.inletMiss < 3 → t.heat.inlet = r.inlet.getD s.heat.inlet)

/-- R552, R554: PWR_EN low and MOD_RESET_N low lose VAON: everything returns to its reset value but OTP, the firmware in
flash and what has left the device, and with PWR_EN high the withdrawals. R519 to R521, R532: start-up verifies a boot set,
holds in step 2 with the cause, or comes up to Banked-ready with every field dark or a hole. (The order of the holds and the
52 V of a rise are the model's choices, log entries 3 and 47.) -/
def Obligations.ContactsAndStartUp : Prop :=
  (∀ s : State, ∃ t, exec .pwrEnLow s = .next t ∧ t.power.pwrEn = false ∧
    t = { State.reset with pending := s.pending, otp := s.otp, fw := t.fw, sent := s.sent, freeCount := s.freeCount, power := t.power } ∧
    t.fw.inForce = s.fw.inForce ∧ t.fw.ready = s.fw.ready ∧ t.power.ladder = .banked) ∧
  (∀ s : State,
    (s.power.pwrEn = false → exec .modResetAssert s = .next { s with power := { s.power with resetN := false } }) ∧
    (s.power.pwrEn = true → ∃ t, exec .modResetAssert s = .next t ∧ t.power.resetN = false ∧ t.power.pwrEn = true ∧
      t.faults = { withdrawals := s.faults.withdrawals } ∧
      t = { State.reset with
        pending := s.pending, otp := s.otp, fw := t.fw, sent := s.sent, freeCount := s.freeCount, power := t.power
        faults := t.faults, mgmt := t.mgmt } ∧
      t.fw.inForce = s.fw.inForce ∧ t.mgmt = { pgOut := s.mgmt.pgOut })) ∧
  (∀ s : State, exec .pwrEnHigh s = .next { s with power := { s.power with pwrEn := true, busWait := !busGood s } }) ∧
  (∀ s : State,
    let up : State := { s with power := { s.power with busCv := if busGood s then s.power.busCv else 5200, busWait := false } }
    (s.mgmt.startup = none → exec .busRise s = .next up) ∧
    (∀ e, s.mgmt.startup = some e → s.power.pwrEn = true → s.power.resetN = true → s.mgmt.step = 0 →
      exec .busRise s = exec (.modResetRelease e) up)) ∧
  ∀ (e : StartupEnv) (s : State), s.tablesWf = true → s.power.pwrEn = true → s.mgmt.step = 0 →
    ((s.power.busWait = true ∨ busGood s = false) → ∃ t, exec (.modResetRelease e) s = .next t ∧ t.power.busWait = true ∧
      t.mgmt.startup = some e ∧ t.mgmt.step = 0 ∧ t = { s with power := t.power, mgmt := t.mgmt }) ∧
    (s.power.busWait = false → busGood s = true → e.bootSet = none → ∃ t, exec (.modResetRelease e) s = .next t ∧
      t.mgmt.hold = 6 ∧ t.mgmt.step = 1 ∧ (t.port 0).link = true ∧ (∀ p, p ≠ 0 → t.port p = s.port p) ∧ t.fields = s.fields) ∧
    (s.power.busWait = false → busGood s = true → e.bootSet ≠ none →
      let cause := holdCause e (max 144 e.minFlow) (min 320 e.maxInlet)
      (cause ≠ 0 → ∃ t, exec (.modResetRelease e) s = .next t ∧ t.mgmt.step = 2 ∧ t.mgmt.hold = cause ∧
        t.mgmt.ready = s.mgmt.ready ∧ t.fields = s.fields ∧ t.sites = s.sites) ∧
      (cause = 0 → s.power.auxBad = [] → e.badAux = [] → ∃ t, exec (.modResetRelease e) s = .next t ∧ t.mgmt.ready = true ∧
        t.mgmt.step = 5 ∧ t.power.ladder = .banked ∧ t.power.bankedReady = true ∧ t.board.position = e.straps ∧
        (e.trayPosition ≠ e.straps → t.mgmt.hold = 4) ∧ t.power.floorBase = e.floorBase ∧
        (∀ f, f < 48 → (t.field f).domain = .dark ∨ (t.field f).domain = .hole) ∧
        (∀ k, k < 3552 → (t.field (k / 74)).domain = .dark → (t.site k).mem = [] ∨ (t.site k).cisState = .training) ∧
        t.time = s.time ∧ t.serve = s.serve))

/-- R55, R57, R460, R559: a request for a lower state from Running or Poised names the epoch of its entry and is accepted
with the number of its event, is too late inside the lead, and is refused from every other state; a request to leave acts at
once, and a master tells its board. (The body of the responses and the status beside a full queue are the model's choices, log entries 55 and 56.) -/
def Obligations.LadderRequests : Prop :=
  (∀ (c : Option (BitVec 16) → BitVec 48 → Instr) (target : Nat) (tag : BitVec 16) (e : BitVec 48) (s : State),
    (c, target) ∈ [(Instr.ladderHeld, 2), (Instr.ladderBanked, 3), (Instr.ladderDry, 4)] →
    ((s.power.ladder = .running ∨ s.power.ladder = .poised) → s.time.epoch + curbLead s ≤ e.toNat → s.events.length < 16 →
      ∃ t, exec (c (some tag) e) s = .next t ∧
        t.events = s.events ++ [{ number := s.mgmt.nextEvent, epoch := e.toNat, kind := .ladder target }] ∧
        t.power = { s.power with outcome := 1 } ∧ t.mgmt = { s.mgmt with nextEvent := s.mgmt.nextEvent + 1 } ∧
        answersLast s t 6 tag stAccepted [BitVec.ofNat 64 s.mgmt.nextEvent] ∧
        t = { s with events := t.events, power := t.power, mgmt := t.mgmt, sent := t.sent }) ∧
    ((s.power.ladder = .running ∨ s.power.ladder = .poised) → e.toNat < s.time.epoch + curbLead s →
      ∃ t, exec (c (some tag) e) s = .next t ∧ t.power = { s.power with outcome := 3 } ∧ answers s t 6 tag stTooLate [] ∧
        t = { s with power := t.power, sent := t.sent }) ∧
    (s.power.ladder ≠ .running → s.power.ladder ≠ .poised →
      ∃ t, exec (c (some tag) e) s = .next t ∧ t.power = { s.power with outcome := 4 } ∧ answers s t 6 tag stNotRunning [] ∧
        t = { s with power := t.power, sent := t.sent })) ∧
  ∀ (tag : BitVec 16) (e : BitVec 48) (s : State),
    (s.power.ladder = .held ∨ s.power.ladder = .banked ∧ s.power.bankedReady = false ∨
      s.power.ladder = .poised ∧ s.heat.forced = false →
      ∃ t, exec (.ladderLeave (some tag) e) s = .next t ∧ t.power = { s.power with leaving := true, outcome := 1 } ∧
        (∃ body, answersLast s t 6 tag stAccepted body) ∧ t = { s with power := t.power, sent := t.sent }) ∧
    (s.power.ladder = .running → ∃ t, exec (.ladderLeave (some tag) e) s = .next t ∧ t.power = { s.power with outcome := 5 }) ∧
    (s.power.ladder = .dry → ∃ t, exec (.ladderLeave (some tag) e) s = .next t ∧ t.power = { s.power with outcome := 4 } ∧
      answers s t 6 tag stNotRunning [] ∧ t = { s with power := t.power, sent := t.sent })

/-- R459 to R461, R520: an exit that has been asked for brings the module back: out of Poised with every content and the cells
resuming at the second working stroke, or the third where w would be odd; out of Held with the fields awake, the router
tables rewritten and the base clock; out of Banked by a layout activation of the active key; out of Dry into Banked-ready
with the slices clear. -/
def Obligations.LadderExitsBringTheModuleBack : Prop :=
  (∀ s : State, s.tablesWf = true → s.power.ladder = .poised → s.power.leaving = true →
    ∃ (t : State) (n : Nat), exec .poisedExit s = .next t ∧ t.power.ladder = .running ∧ t.power.leaving = false ∧
      t.time.resumeAt = some n ∧ s.time.work + 2 ≤ n ∧ n ≤ s.time.work + 3 ∧ (s.time.w + (n - s.time.work)) % 2 = 0 ∧
      t.cells = s.cells ∧ t.sites = s.sites ∧ t.routers = s.routers ∧
      (t.time.dataPath = true ↔ s.faults.restart = false ∧ s.faults.waitClear = false ∧ pathFit s = true)) ∧
  (∀ s : State, s.tablesWf = true → s.power.ladder = .held → s.power.leaving = true → s.time.refLost = false →
    s.faults.waitClear = false →
    ∃ t, exec .heldExit s = .next t ∧ t.power.ladder = .running ∧ t.time.clock = .base ∧ t.cells = s.cells ∧
      (∀ f, f < 48 → (s.field f).domain = .off → (t.field f).domain = .running ∨ (t.field f).domain = .dark) ∧
      (∀ (p : Plan) (f : Nat) (cl : Fin 72), s.plan.active = some p → f < 48 → tb (p.holes s).toNat f = false →
        (t.field f).domain = .running → (t.router (f * 72 + homeOf cl.val)).active = routerImage p f cl) ∧
      ∀ k, k < 3552 → (t.field (k / 74)).domain = .running → (t.site k).cisState ≠ .selfRefresh ∧ (t.site k).up = !(t.site k).dark) ∧
  (∀ (s : State) (p : Plan), s.tablesWf = true → s.plan.active = some p → s.power.ladder = .banked → s.power.leaving = true →
    s.power.bankedReady = false → s.time.refLost = false → s.faults.waitClear = false →
    ∃ t, exec .bankedExit s = .next t ∧ t.power.ladder = .running ∧ t.time.dataPath = true ∧ t.faults.restart = false ∧
      t.time.clock = .base ∧ t.plan.active = some (withKey p (keyNoBoost p.key.toNat)) ∧
      (p.header.prologue ≠ 0 → t.plan.prologueEnd = some (s.time.epoch + p.header.prologue) ∧ barrierClosed t = true)) ∧
  ∀ s : State, s.tablesWf = true → s.power.ladder = .dry → s.power.leaving = true →
    ∃ t, exec .dryExit s = .next t ∧ t.power.ladder = .banked ∧ t.power.bankedReady = true ∧ t.power.leaving = false ∧
      t.time.dataPath = false ∧ (∀ f, f < 48 → (t.field f).domain = .dark ∨ (t.field f).domain = .hole) ∧
      (∀ k, k < 3552 → (s.field (k / 74)).domain ≠ .hole → (s.site k).chaOk = true → (s.site k).chbOk = true →
        (t.site k).cisState = .ready ∧ (t.site k).mem = [] ∧ (t.site k).up = false) ∧
      (∀ p, (t.cascPort p).prime = .untrained) ∧ t.plan = s.plan ∧ t.serve = s.serve

/-- R305, R306, R398 to R400: in a stroke of the draw interval the module at position 0 frees the entries of ended requests and reads
the index block, unless the draw before is still busy, which is counted; the index read takes up to 64 descriptors and as
many as the table has room for, a producer beyond the ring takes none, and a third failed draw in a row moves the service to
the alternate. -/
def Obligations.DrawsReadTheIndexBlock : Prop :=
  (∀ s : State, s.tablesWf = true → s.time.running = true → s.board.position = 0 → s.power.ladder ≠ .dry →
    strokeNo s % max 1 (bf s.ep.drawInt.toNat 8 0) = 0 → s.serve.drawAt ≠ some (strokeNo s) →
    ∃ t, exec .draw s = .next t ∧ t.serve.drawAt = some (strokeNo s) ∧ t = { s with serve := t.serve, ports := t.ports, sent := t.sent } ∧
      (∀ i, t.request i = (match s.request i with
        | some r => if r.state = .ended ∧ r.returning = false then none else some r
        | none => none)) ∧
      (rqEntries s = 0 → t.sent = s.sent ∧ t.serve.draw = s.serve.draw) ∧
      (rqEntries s ≠ 0 → drawBusy s = true → t.sent = s.sent ∧ t.serve.drawSkip = satAdd s.serve.drawSkip 1) ∧
      (rqEntries s ≠ 0 → drawBusy s = false → t.serve.draw = .index ∧
        t.serve.drawTime = s.time.epochStart + s.time.stroke * s.time.period ∧
        (sendsNow s (svcVia s) = true → t.ports = s.ports ∧
          t.sent = s.sent ++ [.host (svcVia s) (.read s.ep.idxAddr s.ep.svcKey 16)]) ∧
        (portCarries s (svcPort s) = true → heldBack s (svcVia s) = true → t.sent = s.sent ∧ (t.port (svcPort s)).held =
          (s.port (svcPort s)).held ++ [(svcVia s, .read s.ep.idxAddr s.ep.svcKey 16)]))) ∧
  ∀ s : State, s.tablesWf = true → s.serve.draw = .index →
    (∃ t, exec (.indexReadComplete none) s = .next t ∧ t.serve.draw = .idle ∧
      tb (t.port (svcPort s)).errStatus.toNat 4 = true ∧
      (2 ≤ s.serve.drawFails → tb s.ep.svcQp.toNat 31 = true → t.serve.useAlt = true ∧ t.serve.drawFails = 0) ∧
      (s.serve.drawFails < 2 → t.serve.drawFails = s.serve.drawFails + 1 ∧ t.serve.useAlt = s.serve.useAlt) ∧
      t = { s with serve := t.serve, ports := t.ports }) ∧
    ∀ b : Bytes,
      let diff := (fieldAt b 0 8 + 2 ^ 64 - s.serve.reqTaken.toNat) % 2 ^ 64
      let count := if takesNone s then 0 else min (min 64 diff) (8192 - s.serve.table.length)
      ∃ t, exec (.indexReadComplete (some b)) s = .next t ∧ t.serve.cqSeen = BitVec.ofNat 64 (fieldAt b 8 8) ∧
        t.serve.drawFails = 0 ∧ t.serve.table = s.serve.table ∧ t.serve.reqTaken = s.serve.reqTaken ∧
        t = { s with serve := t.serve, ports := t.ports, sent := t.sent } ∧
        (rqEntries s < diff → t.serve.draw = .idle ∧ tb (t.port (svcPort s)).errStatus.toNat 3 = true) ∧
        (diff ≤ rqEntries s → count = 0 → t.serve.draw = .idle) ∧
        (diff ≤ rqEntries s → count ≠ 0 → t.serve.draw = .descriptors count ∧
          (s.serve.reqTaken.toNat % rqEntries s + count ≤ rqEntries s → sendsNow s (svcVia s) = true →
            Sent.host (svcVia s) (.read (BitVec.ofNat 64 (s.ep.rqAddr.toNat + 128 * (s.serve.reqTaken.toNat % rqEntries s)))
              s.ep.svcKey (128 * count)) ∈ t.sent))

/-- R307, R308, R318, R325, R398, R402, R403, R428: a descriptor that a check refuses makes a refusal record and one that passes a
request at the lowest free index, on the replica with the fewest requests decoding, waking a module that sleeps; a prompt's tokens make its request complete; a failed prompt
read is tried 3 times and then ends the request; the oldest completion record goes to its ring entry and the producer after
it. (Where a command has nothing to do it changes nothing: the model's choice, log entry 1.) -/
def Obligations.DescriptorsPromptsAndCompletions : Prop :=
  (∀ (d : Bytes) (tab : ServingTables) (s : State), s.tablesWf = true → s.serve.draw = .descriptors 1 →
    servingTables s = some tab → fieldAt d 8 1 ≠ 1 →
    ∃ t, exec (.descriptorReadComplete (some [d])) s = .next t ∧ t.serve.draw = .idle ∧
      t.serve.reqTaken = s.serve.reqTaken + 1 ∧
      (sendsNow s (svcVia s) = true → Sent.host (svcVia s) (.write (BitVec.ofNat 64 (s.ep.idxAddr.toNat + 16)) s.ep.svcKey
        (leBytes 8 (s.serve.reqTaken + 1).toNat)) ∈ t.sent) ∧
      t.time = s.time ∧
      (∀ n, descriptorRefused s tab d = some n → s.serve.buffer.length < 32768 → t.serve.table = s.serve.table ∧
        t.serve.buffer = s.serve.buffer ++
          [{ bytes := completionBytes (BitVec.ofNat 64 (fieldAt d 0 8)) (boardTime s) 2 n 0 0 0 0 0 [] }]) ∧
      (descriptorRefused s tab d = none → tb (fieldAt d 10 1) 1 = false →
        ∃ r : Request, t.request (freeIndex s) = some r ∧ r.handle = BitVec.ofNat 64 (fieldAt d 0 8) ∧ r.state = .intake ∧
          r.promptLen = fieldAt d 12 4 ∧ r.maxNew = fieldAt d 16 4 ∧ r.tAdmit = s.serve.drawTime ∧ r.emitted = 0 ∧
          (∀ i, i ≠ freeIndex s → t.request i = s.request i) ∧ t.serve.buffer = s.serve.buffer ∧
          (multiplies s = false → r.replica = 0) ∧
          (multiplies s = true → s.faults.restart = false →
            let load (w : Nat) : Nat := ((liveRequests s).filter fun q => q.2.replica == w && q.2.state == .decoding).length
            load r.replica ≤ load 0 ∧
              ∀ w ∈ followers s, tb s.board.stopped.toNat w = false → load r.replica ≤ load w ∧
                (load r.replica = load w → r.replica ≤ w)) ∧
          (sendsNow s (svcVia s) = true →
            Sent.host (svcVia s) (.read r.promptAddr r.promptKey (4 * r.promptLen)) ∈ t.sent) ∧
          (s.power.ladder = .held → t.power.leaving = true) ∧
          (s.power.ladder = .poised → s.heat.forced = false → t.power.leaving = true))) ∧
  (∀ (index : Nat) (tokens : List Word) (tab : ServingTables) (r : Request) (s : State), s.tablesWf = true →
    servingTables s = some tab → s.request index = some r → r.state ≠ .ended → r.delivered < r.promptLen →
    r.promptLen ≤ tokens.length →
    ∃ t, exec (.promptReadComplete index tokens) s = .next t ∧
      t.request index = some { r with
        delivered := r.promptLen, badToken := (tokens.take r.promptLen).any fun w => decide (2 ^ 24 ≤ w.toNat)
        tokens := if r.history then [] else tokens.take r.promptLen } ∧
      (∀ i, i ≠ index → t.request i = s.request i) ∧
      t = { s with
        serve := { s.serve with table := t.serve.table, parcels := t.serve.parcels, parcelNo := t.serve.parcelNo }
        ports := t.ports, sent := t.sent }) ∧
  (∀ (index : Nat) (r : Request) (s : State), s.tablesWf = true → s.request index = some r → r.state ≠ .ended →
    r.delivered < r.promptLen →
    (r.readFails < 3 → ∃ t, exec (.promptReadFailure index) s = .next t ∧
      t.request index = some { r with readFails := r.readFails + 1 } ∧
      (sendsNow s (retryVia s r.readFails) = true →
        t.sent = s.sent ++ [.host (retryVia s r.readFails) (.read r.promptAddr r.promptKey (4 * r.promptLen))]) ∧
      t = { s with serve := { s.serve with table := t.serve.table }, sent := t.sent }) ∧
    (3 ≤ r.readFails → s.serve.buffer.length < 32768 → ∃ t, exec (.promptReadFailure index) s = .next t ∧
      t.request index = some { r with state := .ended } ∧
      t.serve.buffer = s.serve.buffer ++ [{ bytes := finalBytes s r stDataError 0 }] ∧
      (∀ i, i ≠ index → t.request i = s.request i))) ∧
  ∀ (fails : Nat) (c : Completion) (rest : List Completion) (s : State), s.tablesWf = true → s.serve.buffer = c :: rest →
    let used := (s.serve.cqMade.toNat + 2 ^ 64 - s.serve.cqSeen.toNat) % 2 ^ 64
    ((cqEntries s ≤ used ∨ serviceOpen s = false) → exec (.completionRecordWrite fails) s = .next s) ∧
    (used < cqEntries s → serviceOpen s = true →
      ∃ t, exec (.completionRecordWrite fails) s = .next t ∧ t.serve.buffer = rest ∧
        (fails < 2 → t.serve.cqMade = s.serve.cqMade + 1 ∧ t.sent = s.sent ++
          [.host (svcVia s)
             (.write (BitVec.ofNat 64 (s.ep.cqAddr.toNat + 64 * (s.serve.cqMade.toNat % cqEntries s))) s.ep.svcKey c.bytes),
           .host (svcVia s)
             (.write (BitVec.ofNat 64 (s.ep.idxAddr.toNat + 24)) s.ep.svcKey (leBytes 8 (s.serve.cqMade + 1).toNat))]) ∧
        (2 ≤ fails → t.serve.cqMade = s.serve.cqMade ∧ t.sent = s.sent ∧ onRing t 2 0x93))

/-- R346 to R353: an expired conversation is forgotten, unless a draw that began before its time ran out is still in progress; the first
one that waits has its history read and the committed rows of its pages put among the transfers of their slices, or is written at
once with its history alone where a page was poisoned; a copy whose pages are all read is written to the lowest run of free
blocks, or not stored where none is free; once written it is stored with its time to live and its page sets are free; a
conversation that comes back with a failed read or a wrong header is recomputed, or ends its request; one whose header, history and
pages pass their checks has its history at hand and its pages among the transfers of their slices. (The conversation header's
place, the history that is read at once and the recompute of a set that cannot be bound are the model's choices, log entries
62 and 64.) -/
def Obligations.ConversationsMoveToTheFarTierAndBack : Prop :=
  (∀ (conv : BitVec 64) (s : State), ∃ t, exec (.ttlExpiry conv) s = .next t ∧
    (∀ v, v ∈ t.kv.stored ↔ v ∈ s.kv.stored ∧ ¬ (v.conv = conv ∧ ∃ e, v.expires = some e ∧ e ≤ boardTime s ∧
      (s.serve.draw = .idle ∨ e < s.serve.drawTime))) ∧
    t = { s with kv := { s.kv with stored := t.kv.stored } }) ∧
  (∀ (bad : Bool) (fails : Nat) (s : State) (m : FarMove) (rest : List FarMove) (tab : ServingTables), s.tablesWf = true →
    s.kv.moves = m :: rest → servingTables s = some tab → bulkOpen s = true → s.power.ladder = .running →
    convHeld s m.conv = false → (∀ i r, s.request i = some r → r.returning = false) →
    let blocks := ceilDiv (64 + (4 * (m.c + 1) + 63) / 64 * 64) 65536
    (∀ b, m.started = false → historyLost s tab m = false → bad = true → lowestBlocks s m.conv blocks = some b →
      ∃ (t : State) (m' : FarMove) (data : Bytes), exec (.farTierCopy bad fails) s = .next t ∧ t.kv.moves = m' :: rest ∧
        m'.conv = m.conv ∧ m'.owner = m.owner ∧ m'.c = m.c ∧ m'.started = true ∧ m'.written = true ∧ m'.pages = false ∧
        m'.block = b ∧ t.kv.sets = s.kv.sets ∧
        t.sent = s.sent ++ [.host (bulkVia s) (.write (BitVec.ofNat 64 (s.ep.ftAddr.toNat + b * 65536)) s.ep.ftKey data)] ∧
        fieldAt data 0 8 = m.conv.toNat ∧ fieldAt data 16 4 = m.c % 2 ^ 32 ∧ b * 65536 + data.length ≤ s.ep.ftLen.toNat ∧
        (∀ v ∈ t.kv.stored, v.conv ≠ m.conv)) ∧
    (m.started = false → historyLost s tab m = false → bad = true → lowestBlocks s m.conv blocks = none →
      ∃ t, exec (.farTierCopy bad fails) s = .next t ∧ t.sent = s.sent ∧
        (∀ v, v ∈ t.kv.stored ↔ v ∈ s.kv.stored ∧ v.conv ≠ m.conv) ∧
        (∀ q ∈ t.kv.moves, ¬ (q.conv = m.conv ∧ q.owner = m.owner)) ∧
        ∀ p ∈ t.kv.sets, ¬ (p.owner = m.owner ∧ p.state = .outgoing ∧ p.conv = m.conv)) ∧
    (let sets := outSets s m
      let ps := pagesOf s tab sets m.c
      m.started = false → historyLost s tab m = false → bad = false → m.pages = true →
        (committedSets sets m.c).length = tab.pools.length * ((m.c + 127) / 128) → historyPoison s tab m = false →
        (∃ q ∈ ps, (s.field (q.site / 74)).domain ≠ .hole) →
        ∃ (t : State) (m' : FarMove), exec (.farTierCopy bad fails) s = .next t ∧ t.kv = { s.kv with moves := m' :: rest } ∧
          m'.conv = m.conv ∧ m'.owner = m.owner ∧ m'.c = m.c ∧ m'.started = true ∧ m'.written = false ∧ m'.pages = true ∧
          m'.places = ps ∧ m'.history = historyBytes s tab m.owner m.c ∧ m'.fails = fails ∧ t.sent = s.sent ∧
          (∀ k, (t.site k).transfers =
            (s.site k).transfers ++ (ps.filter fun q => q.site == k).flatMap pageReads) ∧
          ∀ k, (t.site k).mem = (s.site k).mem) ∧
    (let pages := m.pages && !m.places.any (pageLost s) && decide (m.fails < 2)
      ∀ b, m.started = true → m.written = false → (∀ q ∈ m.places, unread s q = false) →
        lowestBlocks s m.conv (ceilDiv (convBytes s m pages).length 65536) = some b →
        ∃ t, exec (.farTierCopy bad fails) s = .next t ∧
          t.kv.moves = { m with written := true, pages := pages, block := b
                                blocks := ceilDiv (convBytes s m pages).length 65536 } :: rest ∧
          t.kv.sets = s.kv.sets ∧ (∀ v, v ∈ t.kv.stored ↔ v ∈ s.kv.stored ∧ v.conv ≠ m.conv) ∧
          t.sent = s.sent ++
            [.host (bulkVia s) (.write (BitVec.ofNat 64 (s.ep.ftAddr.toNat + b * 65536)) s.ep.ftKey (convBytes s m pages))] ∧
          fieldAt (convBytes s m pages) 0 8 = m.conv.toNat ∧
          fieldAt (convBytes s m pages) 60 4 = crc32c (bytesAt (convBytes s m pages) 0 60) ∧
          t = { s with kv := t.kv, sent := t.sent }) ∧
    ∃ t, exec (.farTierCopy bad fails) s = .next t ∧ t.time = s.time ∧ t.cells = s.cells ∧ t.serve = s.serve ∧
      ∀ k, (t.site k).mem = (s.site k).mem) ∧
  (∀ (ok hd : Bool) (s : State) (m : FarMove) (rest : List FarMove) (tab : ServingTables), s.tablesWf = true →
    s.kv.moves = m :: rest → servingTables s = some tab → m.written = true →
    (∀ i r, s.request i = some r → r.returning = false) →
    ∃ t, exec (.farTierWriteComplete ok hd) s = .next t ∧ t = { s with kv := t.kv } ∧
      (∀ q ∈ t.kv.moves, ¬ (q.conv = m.conv ∧ q.owner = m.owner)) ∧
      (∀ p ∈ t.kv.sets, ¬ (p.owner = m.owner ∧ p.state = .outgoing ∧ p.conv = m.conv)) ∧
      (ok = false → hd = false → t.kv.stored = s.kv.stored) ∧
      ((ok = true ∨ hd = true) → ∃ v ∈ t.kv.stored, v.conv = m.conv ∧ v.block = m.block ∧ v.c = m.c ∧
        v.version = m.version ∧ v.pages = (m.pages && ok && !m.part) ∧
        v.expires = some (boardTime s + s.ep.ftTtl.toNat * 100000000))) ∧
  ∀ (index : Nat) (data : Option FarTierData) (s : State) (r : Request) (tab : ServingTables) (v : StoredConv),
    s.tablesWf = true → s.request index = some r → servingTables s = some tab → r.returning = true → r.arrived = false →
    r.state ≠ .ended → (s.kv.stored.find? fun v => v.conv == r.conv && v.expires.isNone) = some v →
    (data = none → ∃ t, exec (.farTierReadComplete index data) s = .next t ∧
      t.request index = some { r with
        chunk := .fresh, returning := false, arrived := false, history := true, tokens := [], readyAt := s.time.work } ∧
      (∀ w ∈ t.kv.stored, w.conv ≠ r.conv) ∧ (∀ p ∈ t.kv.sets, p.owner = index → p.state = .outgoing)) ∧
    (∀ d : FarTierData, data = some d → (d.header.length ≠ 64 ∨ fieldAt d.header 60 4 ≠ crc32c (bytesAt d.header 0 60)) →
      ∃ t, exec (.farTierReadComplete index data) s = .next t ∧
        t.request index = some { r with returning := false, state := .ended } ∧
        (s.serve.buffer.length < 32768 → t.serve.buffer.length = s.serve.buffer.length + 1)) ∧
    ∀ d : FarTierData, data = some d → d.header.length = 64 → fieldAt d.header 60 4 = crc32c (bytesAt d.header 0 60) →
      (bytesAt d.history 0 (4 * (v.c + 1))).length = 4 * (v.c + 1) →
      fieldAt d.header 32 4 = crc32c (bytesAt d.history 0 (4 * (v.c + 1))) → r.chunk ≠ .fresh →
      let ps := pagesOf s tab (returningSets s index) v.c
      ps.length = d.pages.length → (∀ q ∈ ps.zip d.pages, pageGood q.1 q.2 = true) →
      ∃ t, exec (.farTierReadComplete index data) s = .next t ∧
        t.request index = some { r with history := true, tokens := [], arrived := true } ∧
        (∀ k, (t.site k).transfers = (s.site k).transfers ++
          ((ps.zip d.pages).filter fun q => q.1.site == k).flatMap fun q => pageWrites q.1 q.2) ∧
        (∀ k, (t.site k).mem = (s.site k).mem) ∧ t.kv = s.kv ∧ t.cells = s.cells ∧ t.time = s.time

/-- R357 to R363: the shadow of a sampled tree is read in the background, a line at a time with its mark; a sampled tree that has
drained without poison, of a layer without a shadow, is recomputed wide and compared, and the comparison waits to be reported; one with poison, or whose reads have not come within 4,096 strokes, is
abandoned and counted for its layer. (Where a command has nothing to do it changes nothing: the model's choice, log entry 1.) -/
def Obligations.SamplesAreComparedOrAbandoned : Prop :=
  (∀ (site : SiteAddr) (ph : Fin 18) (s : State) (m : SampleRec) (d : List PA40) (l : LayerRec), s.tablesWf = true →
    let sk := siteKey site
    let k := sk * 18 + ph.val
    (s.site sk).sampling = some ph → (s.cell k).sample = some m → m.drained = some d → sampleLayer s m = some l →
    sampleShadow s k m = none → m.read = [] →
    ((s.site sk).report = none → (∀ x ∈ m.leaves, x.poison = false) → (∀ x ∈ d, x.poison = false) →
      ∃ (t : State) (free : Word), exec (.wideRecompute site) s = .next t ∧
        let r := compareSample (fieldIsP (cellField k)) l (wideWeights (fieldIsP (cellField k)) 0 none m) true free m d
        (t.site sk).sampling = none ∧ (t.cell k).sample = none ∧
        (t.site sk).report = some (m.layer, BitVec.ofNat 32 r.2.2, r.1, r.2.1, ph, m.stroke) ∧
        (t.site sk).assayExceed = (if r.1 then satAdd (s.site sk).assayExceed 1 else (s.site sk).assayExceed) ∧
        (t.site sk).mem = (s.site sk).mem ∧ (∀ j, j ≠ sk → t.site j = s.site j) ∧ (∀ j, j ≠ k → t.cell j = s.cell j) ∧
        t = { s with cells := t.cells, sites := t.sites, freeCount := s.freeCount + 1 }) ∧
    ((s.site sk).report = none → ((∃ x ∈ m.leaves, x.poison = true) ∨ ∃ x ∈ d, x.poison = true) →
      ∃ t, exec (.wideRecompute site) s = .next t ∧ (t.site sk).sampling = none ∧ (t.site sk).report = none ∧
        (t.cell k).sample = none ∧ (t.ledger = s.ledger.map fun r =>
          if r.layer = m.layer then { r with abandoned := satAdd r.abandoned 1 } else r) ∧
        t = { s with cells := t.cells, sites := t.sites, ledger := t.ledger }) ∧
    ((s.site sk).report ≠ none → exec (.wideRecompute site) s = .next s)) ∧
  (∀ (site : SiteAddr) (ph : Fin 18) (s : State) (m : SampleRec) (sh : ShadowRec × BitVec 3), s.tablesWf = true →
    let sk := siteKey site
    (s.site sk).sampling = some ph → (s.cell (sk * 18 + ph.val)).sample = some m → sampleShadow s (sk * 18 + ph.val) m = some sh →
    (m.asked = false ∨ ∃ x ∈ (s.site sk).transfers, isShadow x = true) → exec (.wideRecompute site) s = .next s) ∧
  (∀ (site : SiteAddr) (found : List LineError) (ph : Fin 18) (s : State) (m : SampleRec) (x : Nat), s.tablesWf = true →
    let sk := siteKey site
    let y := s.site sk
    y.sampling = some ph → (s.cell (sk * 18 + ph.val)).sample = some m → y.transfers = [.shadow x 1] → x % 4 = 0 → s.weights.loading = none →
    s.time.running = true → y.cisState = .ready → channelsOpen s = true → tb y.csCtrl.toNat 1 = true →
    0 < freePositions s sk false → 0 < freePositions s sk true →
    ∃ (t : State) (b : Bytes) (bad : Bool), exec (.backgroundTransfer site found) s = .next t ∧ (t.site sk).transfers = [] ∧
      (t.cell (sk * 18 + ph.val)).sample = some { m with read := m.read ++ [(x, b, bad)] } ∧
      (∀ j, j ≠ sk * 18 + ph.val → t.cell j = s.cell j) ∧
      (tget false y.linePoison x = true → bad = true) ∧
      (found = [] → tget false y.linePoison x = false → bad = false ∧ b = tgetMany 0 y.mem (x * 64) 64)) ∧
  ∀ (site : SiteAddr) (ph : Fin 18) (s : State) (m : SampleRec) (d : List PA40), s.tablesWf = true →
    let sk := siteKey site
    let k := sk * 18 + ph.val
    (s.site sk).sampling = some ph → (s.cell k).sample = some m → m.drained = some d →
    (m.stroke.toNat + 4096 ≤ strokeNo s → ∃ t, exec (.sampleAbandon site) s = .next t ∧ (t.site sk).sampling = none ∧
      (t.cell k).sample = none ∧ (t.ledger = s.ledger.map fun r =>
        if r.layer = m.layer then { r with abandoned := satAdd r.abandoned 1 } else r) ∧
      t = { s with cells := t.cells, sites := t.sites, ledger := t.ledger }) ∧
    (strokeNo s < m.stroke.toNat + 4096 → exec (.sampleAbandon site) s = .next s)

/-- R285, R286, R293, R296, R409: a plan file whose checks find nothing is checked, one with findings or a corrupt segment is
refused and its window closes; a checked plan whose regions can be placed and whose patches fit is staged; a rotation that is
due is named for the earliest epoch allowed and waits where it must; it, or a switch of a field for heat (R298), is abandoned where a
cell is not on its idle entry at stroke 4,095 and tried again 1 h later; a plan is not staged while the free zones hold the copies of
another activation. (Where a command has nothing to do it changes nothing: the model's choice, log entry 1.) -/
def Obligations.PlansAreCheckedStagedAndRotated : Prop :=
  (∀ (files : List PlanSections) (s : State), s.tablesWf = true → s.plan.stage = some .checking →
    let head := winBytes s 1 0 256
    let h := planHeader head
    let file := winBytes s 1 0 (min h.length (s.window 1).top)
    let own := ((filePlans h file files)[s.board.position.toNat]?).getD { header := h, body := {}, bases := [], key := 0 }
    let finds := planFinds s head file (s.window 1).top files
    (∀ port : HostPort, ∃ t, exec (.planCheckComplete files (some port)) s = .next t ∧ t.plan.stage = none ∧ t.plan.pending = none ∧
      t.plan.loadStatus = stWindowCorrupt ∧ (t.window 1).state = .closed ∧ (t.window 1).gen = (s.window 1).gen ∧
      (t.port port.val).crcFail = satAdd (s.port port.val).crcFail 1 ∧ tb (t.port port.val).errStatus.toNat 1 = true ∧
      (∀ tag, (s.window 1).answer = some tag → answers s t 8 tag stWindowCorrupt []) ∧
      t = { s with plan := t.plan, windows := t.windows, ports := t.ports, sent := t.sent }) ∧
    (finds = [] → ∃ t, exec (.planCheckComplete files none) s = .next t ∧ t.plan.pending = some own ∧ t.plan.stage = some .checked ∧
      t.plan.loadStatus = stAccepted ∧ t.plan.findings = [] ∧ t.plan.checkEpoch = s.time.epoch ∧
      (∀ tag, (s.window 1).answer = some tag → answers s t 8 tag stAccepted []) ∧
      t = { s with plan := t.plan, windows := t.windows, sent := t.sent }) ∧
    (finds ≠ [] → ∃ t, exec (.planCheckComplete files none) s = .next t ∧ t.plan.pending = none ∧ t.plan.stage = none ∧
      t.plan.loadStatus = stPlanRefused ∧ t.plan.findingCount = finds.length ∧
      t.plan.findings = (finds.take 16).map (findWords s own) ∧
      (t.window 1).state = .closed ∧ t.plan.active = s.plan.active ∧
      t = { s with plan := t.plan, windows := t.windows, sent := t.sent, faults := t.faults })) ∧
  (∀ (p : Plan) (s : State), s.tablesWf = true → s.plan.pending = some p → s.plan.stage = some .checked →
    let am := knownDefects s
    let under := { s with faults := { s.faults with applied := am } }
    let placed := placeRegions s p.body.regions
    let q := { p with bases := placed.1, mapped := am }
    let finds := stagingFinds under q placed.2
    (zonesHeld s = true → exec .planStagingComplete s = .next s) ∧
    (zonesHeld s = false →
      ((servedCells under q).any fun x => (zoneFor (s.cell x.1) (patchedBlock q x.2.1 x.2.2)).isNone) = false →
      (finds ≠ [] → ∃ t, exec .planStagingComplete s = .next t ∧
        t.plan.stage = some .checked ∧ t.plan.pending = some p ∧ t.plan.findingCount = finds.length ∧
        t.plan.loadStatus = stPlanRefused) ∧
      (finds = [] →
        ∃ t, exec .planStagingComplete s = .next t ∧ t.plan.stage = some .staged ∧
          t.plan.pending = some q ∧ t.plan.loadStatus = stAccepted ∧ t.plan.active = s.plan.active ∧
          (∀ (f : Nat) (cl : Fin 72), f < 48 → tb (p.holes s).toNat f = false →
            (t.router (f * 72 + homeOf cl.val)).staged = some (routerImage q f cl)) ∧
          (∀ k, (t.cell k).active = (s.cell k).active ∧ (t.cell k).sp = (s.cell k).sp) ∧
          t = { s with
            plan := t.plan, cells := t.cells, sites := t.sites, routers := t.routers, casc := t.casc }))) ∧
  (∀ s : State, rotates s = true → s.plan.rotationRetry = false →
    (s.plan.rotationDue = true ∨ s.plan.rotationFrom + rotateTicks s ≤ boardTime s) →
    (∀ o ∈ s.own, o.kind ≠ .rotation) →
    (rotationWaits s = true → exec .rotationDue s = .next { s with plan := { s.plan with rotationDue := true } }) ∧
    (rotationWaits s = false → ∃ (t : State) (e : Nat), exec .rotationDue s = .next t ∧
      t.own = s.own ++ [{ kind := .rotation, epoch := e }] ∧ s.time.epoch + curbLead s + drainEpochs s + 1 ≤ e ∧
      t.plan = { s.plan with rotationDue := false, rotationAt := some e } ∧
      t = { s with plan := t.plan, own := t.own, sent := t.sent })) ∧
  (∀ s : State, s.time.stroke = 4095 →
    let due (o : OwnEvent) : Prop := drains o.kind = true ∧ o.epoch = s.time.epoch + 1
    ((∃ q ∈ s.cells, cellRuns q.2 = true ∧ onIdle q.2 = false) → ∃ t, exec .rotationIdleCheck s = .next t ∧
      (∀ o, o ∈ t.own ↔ o ∈ s.own ∧ ¬ due o) ∧
      ((∃ o ∈ s.own, due o ∧ o.kind = .rotation) → t.plan.rotationRetry = !follows s ∧ t.plan.rotationFrom = boardTime s) ∧
      ((∃ o ∈ s.own, due o ∧ o.kind ≠ .rotation) → t.plan.heatRetryAt = boardTime s + hourTicks) ∧
      t = { s with own := t.own, plan := t.plan, sent := t.sent }) ∧
    ((∀ q ∈ s.cells, cellRuns q.2 = true → onIdle q.2 = true) → exec .rotationIdleCheck s = .next s)) ∧
  ∀ s : State, rotates s = true → s.plan.rotationRetry = true → s.plan.rotationFrom + hourTicks ≤ boardTime s →
    (∀ o ∈ s.own, o.kind ≠ .rotation) → rotationWaits s = false →
    ∃ (t : State) (e : Nat), exec .rotationRetry s = .next t ∧ t.own = s.own ++ [{ kind := .rotation, epoch := e }] ∧
      t.plan = { s.plan with rotationRetry := false, rotationDue := false, rotationAt := some e }

/-- R377 to R380, R384, R386: a shard that matches its CRC arrives, one that does not is asked for again and fails the load
at the eighth time; the followers are sent their bytes of it and told of a load that fails; a shard that does not come is asked for three times more; a set whose copies are done is resident with
its reference digests; a layer rewritten late is fatal-wafer. (Where a command has nothing to do it changes nothing: the
model's choice, log entry 1.) -/
def Obligations.WeightSetsAreFetchedAndInstalled : Prop :=
  (∀ (index : Nat) (c : Bytes) (dl : ShardDelivery) (w : WeightSet) (r : ManShard) (s : State), s.tablesWf = true →
    s.weights.loading = some w → w.shards[index]? = some r → s.weights.state = some .fetching →
    (∃ q ∈ s.weights.requested, q.1 = index) → tblWf 0 s.weights.crcFails = true → tblWf 0 s.weights.retries = true →
    let good := c.length = r.length ∧ crc32c c = r.crc.toNat
    (¬ good → tget 0 s.weights.crcFails index < 7 → sendsNow s (bulkVia s) = true → ∃ t, exec (.shardArrival index c dl) s = .next t ∧
      tget 0 t.weights.crcFails index = tget 0 s.weights.crcFails index + 1 ∧ (index, boardTime s) ∈ t.weights.requested ∧
      t.sent = s.sent ++ [.host (bulkVia s) (.read r.addr r.rkey r.length)] ∧ t = { s with weights := t.weights, sent := t.sent }) ∧
    (¬ good → 7 ≤ tget 0 s.weights.crcFails index → ∃ t, exec (.shardArrival index c dl) s = .next t ∧
      t.weights.loading = none ∧ t.weights.state = none ∧ t.weights.lastStatus = stShardCorrupt ∧
      t.weights.resident = s.weights.resident ∧ (t.window 0).state = .closed ∧
      (setFollowers s w = [] → t.sent = s.sent) ∧
      ∀ p ∈ setFollowers s w, ∃ d, Sent.vc { src := 0, dst := BitVec.ofNat 2 p, content := .loadGone stShardCorrupt } d ∈ t.sent) ∧
    (good → dl.followersDone = false → tget 0 s.weights.retries index < 3 → sendsNow s (bulkVia s) = true → ∃ t, exec (.shardArrival index c dl) s = .next t ∧
      tget 0 t.weights.retries index = tget 0 s.weights.retries index + 1 ∧
      t.sent = s.sent ++ [.host (bulkVia s) (.read r.addr r.rkey r.length)]) ∧
    (good → dl.followersDone = true → ∃ t, exec (.shardArrival index c dl) s = .next t ∧ index ∈ t.weights.arrived ∧
      (∀ q ∈ t.weights.requested, q.1 ≠ index) ∧ tget 0 t.weights.crcFails index = 0 ∧ t.weights.loading = some w ∧
      t.weights.resident = s.weights.resident ∧ (∀ k, (t.site k).mem = (s.site k).mem) ∧
      (∀ p ∈ setFollowers s w,
        let bytes : VcContent := .shard index (imagePieces w p (index * shardSize) (shardPlain w index c))
        ∃ d, Sent.vc { src := 0, dst := BitVec.ofNat 2 p, content := bytes } d ∈ t.sent) ∧
      t = { s with weights := t.weights, sites := t.sites, flits := t.flits, ports := t.ports, sent := t.sent })) ∧
  (∀ (index : Nat) (w : WeightSet) (r : ManShard) (q : Nat × Nat) (s : State), s.weights.loading = some w →
    w.shards[index]? = some r → s.weights.state = some .fetching → q ∈ s.weights.requested → q.1 = index →
    q.2 + 200000000 ≤ boardTime s → tblWf 0 s.weights.retries = true →
    (tget 0 s.weights.retries index < 3 → sendsNow s (bulkVia s) = true → ∃ t, exec (.shardTimeout index) s = .next t ∧
      tget 0 t.weights.retries index = tget 0 s.weights.retries index + 1 ∧
      t.sent = s.sent ++ [.host (bulkVia s) (.read r.addr r.rkey r.length)] ∧ t = { s with weights := t.weights, sent := t.sent }) ∧
    (3 ≤ tget 0 s.weights.retries index → ∃ t, exec (.shardTimeout index) s = .next t ∧ t.weights.loading = none ∧
      t.weights.lastStatus = stShardMissing ∧ t.weights.resident = s.weights.resident)) ∧
  (∀ (w : WeightSet) (s : State), s.tablesWf = true → s.weights.loading = some w → s.weights.state = some .installing →
    installPending s = false → (∀ v ∈ s.events, v.kind ≠ .install) →
    ∃ t, exec .installComplete s = .next t ∧ t.weights.resident = some w ∧ t.weights.loading = none ∧ t.weights.state = none ∧
      t.weights.refs = sliceDigests s w ∧ t.weights.lastMatch = boardTime s ∧ (t.window 0).state = .closed ∧
      (∀ k, t.site k = { s.site k with stageBad := [] }) ∧
      t = { s with weights := t.weights, windows := t.windows, sites := t.sites }) ∧
  (∀ (sw : Sweep) (s : State), s.weights.sweep = some sw →
    ∃ t, exec .swapLate s = .next t ∧ onRing t 4 0x94 ∧
      t = { s with faults := t.faults, mgmt := t.mgmt, sent := t.sent }) ∧
  ∀ (sw : Sweep) (w : WeightSet) (s : State), s.tablesWf = true → s.weights.sweep = some sw → s.weights.loading = some w →
    (sw.layer < w.layers.length → exec .swapEnd s = .next s) ∧
    (w.layers.length ≤ sw.layer → ∃ t, exec .swapEnd s = .next t ∧ t.weights.resident = some w ∧ t.weights.sweep = none ∧
      t.weights.loading = none ∧ t.weights.refs = sliceDigests s w ∧ BarrierHold.swap ∉ t.plan.holds ∧
      (inRegions s = true → BarrierHold.reactivation ∈ t.plan.holds) ∧
      (inRegions s = false → (∀ k, t.site k = { s.site k with stageBad := [] }) ∧
        t = { s with weights := t.weights, windows := t.windows, plan := t.plan, sites := t.sites }))

/-- R492, R505, R507: the bytes of a line that waits for its refill join the transfers of its slice, decrypted where the
host's data unit came; without a source the record has code 0x8F; a digest pass reads every slice extent with a reference
and, complete, records the match or has the lines of what diverges refilled, dispatch withheld. (Where a command has nothing
to do it changes nothing: the model's choice, log entry 1.) -/
def Obligations.RefillsAndDigestPasses : Prop :=
  (∀ (site : SiteAddr) (line : Nat) (s : State), s.tablesWf = true → (siteKey site, line) ∈ s.weights.refills →
    (∃ t, exec (.refillComplete site line none) s = .next t ∧ onRing t 4 0x8F ∧
      t = { s with faults := t.faults, mgmt := t.mgmt, sent := t.sent }) ∧
    (∀ b : Bytes, b.length ≠ 4096 → ∃ t, exec (.refillComplete site line (some b)) s = .next t ∧
      (t.site (siteKey site)).transfers = (s.site (siteKey site)).transfers ++ [.refill line (bytesAt b 0 64)] ∧
      (∀ j, j ≠ siteKey site → t.site j = s.site j) ∧ t = { s with sites := t.sites, flits := t.flits }) ∧
    (∀ (b : Bytes) (w : WeightSet) (o : Nat), b.length = 4096 → s.weights.state ≠ some .swapping → s.weights.state ≠ some .installing →
      s.weights.resident = some w →
      lineOffset s w (siteKey site) line = some o → ∃ t, exec (.refillComplete site line (some b)) s = .next t ∧
        (t.site (siteKey site)).transfers = (s.site (siteKey site)).transfers ++
          [.refill line (bytesAt (Config.xtsDecrypt w.key (o / 4096) b) (o % 4096) 64)] ∧ t = { s with sites := t.sites, flits := t.flits })) ∧
  (∀ (w : WeightSet) (s : State), s.tablesWf = true → s.weights.resident = some w →
    (boardTime s < s.weights.passStart + digestTicks s / 2 → exec .digestPassStart s = .next s) ∧
    (s.weights.passStart + digestTicks s / 2 ≤ boardTime s → ∃ t, exec .digestPassStart s = .next t ∧
      t.weights = { s.weights with
        pass := some (boardTime s), passStart := boardTime s, passLate := s.weights.pass.isSome } ∧
      (s.weights.pass ≠ none → tb t.mgmt.alert.toNat 7 = true) ∧
      (∀ r ∈ passRefs s, ∀ x, w.extents[r.2.1]? = some x → Transfer.digest x.master x.lines ∈ (t.site r.1).transfers) ∧
      (∀ k, (t.site k).mem = (s.site k).mem) ∧
      t = { s with weights := t.weights, sites := t.sites, mgmt := t.mgmt })) ∧
  ∀ (diverged : List (SiteAddr × Nat)) (w : WeightSet) (begun : Nat) (s : State), s.tablesWf = true →
    s.weights.resident = some w → s.weights.pass = some begun → (∀ q ∈ s.sites, (q.2.transfers.any isDigest) = false) →
    ((∀ r ∈ passRefs s, (∀ d ∈ diverged, ¬ (siteKey d.1 = r.1 ∧ d.2 = r.2.1)) ∧
        ∀ x, w.extents[r.2.1]? = some x → extentDigest s x r.1 = r.2.2) →
      exec (.digestPassComplete diverged) s = .next { s with weights := { s.weights with
        pass := none, passLate := false, lastMatch := boardTime s } }) ∧
    (∀ (d : SiteAddr × Nat) (ref : BitVec 256) (x : ManExtent), d ∈ diverged → (siteKey d.1, d.2, ref) ∈ passRefs s →
      w.extents[d.2]? = some x → 0 < x.lines →
      ∃ t, exec (.digestPassComplete diverged) s = .next t ∧ t.weights.pass = none ∧
        t.weights.lastMatch = s.weights.lastMatch ∧ (∀ i, i < x.lines → (siteKey d.1, x.master + i) ∈ t.weights.refills) ∧
        dispatchHeld t = true ∧ ∀ k, (t.site k).mem = (s.site k).mem)

/-- R389, R390, R394 to R396: a frame of a live port counts its corrections and fills the ingress buffer of its class, above
768 KiB sending XOFF and beyond 1 MiB dropped; a congestion mark sends a CNP; a pause stops the service or the bulk priority,
never that of CNPs; a CNP cuts the rate of a bulk QP to three quarters, 200 µs without one raise it by a sixteenth. (Where a
command has nothing to do it changes nothing: the model's choice, log entry 1.) -/
def Obligations.FramesPausesAndCongestion : Prop :=
  (∀ (p : HostPort) (fr : Frame) (s : State), s.tablesWf = true →
    let q := s.port p.val
    q.link = true →
    (0 < fr.uncorrectable → ∃ t, exec (.ethernetFrameReceive p fr) s = .next t ∧
      (t.port p.val).fecUncorr = satAdd q.fecUncorr fr.uncorrectable ∧ tb (t.port p.val).errStatus.toNat 8 = true ∧
      (t.port p.val).fecCorr = satAdd q.fecCorr fr.corrected ∧ (t.port p.val).fillSvc = q.fillSvc ∧ t = { s with ports := t.ports }) ∧
    (fr.uncorrectable = 0 → fr.length ≤ 9216 → fr.roce = none → fr.pcp.toNat = svcPcp q →
      ∃ t, exec (.ethernetFrameReceive p fr) s = .next t ∧ (t.port p.val).fecCorr = satAdd q.fecCorr fr.corrected ∧
        (q.fillSvc + fr.length ≤ 1048576 → (t.port p.val).fillSvc = q.fillSvc + fr.length ∧ (t.port p.val).dropped = q.dropped) ∧
        (1048576 < q.fillSvc + fr.length → (t.port p.val).fillSvc = q.fillSvc ∧ (t.port p.val).dropped = q.dropped + 1) ∧
        (q.fillSvc + fr.length ≤ 1048576 → 786432 < q.fillSvc + fr.length → tb q.ctrl.toNat 5 = true → q.xoffSvc = false →
          (t.port p.val).xoffSvc = true ∧ t.sent = s.sent ++ [.pfc p.val (BitVec.ofNat 3 (svcPcp q)) true]) ∧
        (q.fillSvc + fr.length ≤ 786432 → t.sent = s.sent) ∧
        (∀ j, j ≠ p.val → t.port j = s.port j) ∧ t = { s with ports := t.ports, sent := t.sent }) ∧
    (∀ (qp : Nat) (x : Qp), fr.uncorrectable = 0 → fr.length ≤ 9216 → fr.roce = some qp → fr.ce = true → roceOpen s p.val = true →
      tb q.ctrl.toNat 6 = true → qpOf s p.val qp = some x → x.sentCnp = none →
      heldBack s (viaOf s p.val qp .cnp) = false → heldBack s (viaOf s p.val qp .bulk) = false →
      ∃ t, exec (.ethernetFrameReceive p fr) s = .next t ∧ Sent.host (viaOf s p.val qp .cnp) .cnp ∈ t.sent ∧
        (fr.unsupported = true ↔ Sent.host (viaOf s p.val qp .bulk) (.nak true) ∈ t.sent.drop (s.sent.length)) ∧
        t = { s with ports := t.ports, sent := t.sent })) ∧
  (∀ (p : HostPort) (pcp : BitVec 3) (pause : Bool) (s : State), s.tablesWf = true →
    let q := s.port p.val
    (pcp.toNat = cnpPcp q → exec (.pfcPauseReceive p pcp pause) s = .next s) ∧
    (q.link = true → tb q.ctrl.toNat 5 = true → (pcp.toNat = svcPcp q ∨ pcp.toNat = bulkPcp q) → pcp.toNat ≠ cnpPcp q →
      ∃ t, exec (.pfcPauseReceive p pcp pause) s = .next t ∧
        (∀ n, n < 8 → tb (t.port p.val).paused.toNat n = if n = pcp.toNat then pause else tb q.paused.toNat n) ∧
        (t.port p.val) = { q with paused := (t.port p.val).paused, held := (t.port p.val).held } ∧
        (q.held = [] → t.sent = s.sent ∧ (t.port p.val).held = []) ∧
        (∀ v m, q.held = [(v, m)] → v.port = p.val → v.pcp = pcp →
          (pause = false → t.sent = s.sent ++ [.host v m] ∧ (t.port p.val).held = []) ∧
          (pause = true → t.sent = s.sent ∧ (t.port p.val).held = [(v, m)])) ∧
        (∀ j, j ≠ p.val → t.port j = s.port j) ∧ t = { s with ports := t.ports, sent := t.sent })) ∧
  (∀ (p : HostPort) (qp : Fin 512) (x : Qp) (s : State), s.tablesWf = true → tblWf none (s.port p.val).qps = true →
    qpOf s p.val qp.val = some x → isServiceQp s p.val qp.val = false → tb (s.port p.val).ctrl.toNat 6 = true →
    (roceOpen s p.val = true → (∀ u, x.lastCut = some u → u + 5000 ≤ boardTime s) →
      ∃ t, exec (.cnpReceive p qp) s = .next t ∧ (t.port p.val).cnpRx = satAdd (s.port p.val).cnpRx 1 ∧
        qpOf t p.val qp.val = some { x with
          rate := cutRate x.rate, lastCut := some (boardTime s), lastCnp := some (boardTime s) } ∧
        (∀ n, n ≠ qp.val → qpOf t p.val n = qpOf s p.val n) ∧ t = { s with ports := t.ports }) ∧
    (x.rate ≠ (64, 0) → (∀ u, x.lastCnp = some u → u + 20000 ≤ boardTime s) →
      ∃ t, exec (.rateRecovery p qp) s = .next t ∧
        qpOf t p.val qp.val = some { x with rate := raiseRate x.rate, lastCnp := some (boardTime s) } ∧
        (∀ n, n ≠ qp.val → qpOf t p.val n = qpOf s p.val n) ∧ t = { s with ports := t.ports })) ∧
  ∀ r : Nat × Nat, 4 ^ r.2 ≤ r.1 → r.1 ≤ 64 * 4 ^ r.2 →
    (4 ^ (cutRate r).2 ≤ (cutRate r).1 ∧ (cutRate r).1 ≤ 64 * 4 ^ (cutRate r).2) ∧
    (4 ^ (raiseRate r).2 ≤ (raiseRate r).1 ∧ (raiseRate r).1 ≤ 64 * 4 ^ (raiseRate r).2)

/-- R391, R392, R393, R404 to R407, R415: a connection is accepted from an allowed GID at the lowest free QP; a WRITE packet
with the key of an open window is written into it, a late one goes to the sump with a NAK; only the dump window is read; a
close that waited 100 ms takes effect; a link that falls puts its QPs in error, one that rises takes its mode. (Where a
command has nothing to do it changes nothing: the model's choice, log entry 1.) -/
def Obligations.ConnectionsWindowsAndLinks : Prop :=
  (∀ (p : HostPort) (gid : BitVec 128) (mtu : Nat) (s : State), s.tablesWf = true → tblWf none (s.port p.val).qps = true →
    roceOpen s p.val = true →
    (∀ i, (allowList s = [] ∨ gid ∈ allowList s) → (mtu = 1024 ∨ mtu = 2048 ∨ mtu = 4096) → i < 512 →
      qpOf s p.val i = none → (∀ j, j < i → qpOf s p.val j ≠ none) →
      ∃ t, exec (.connectionRequest p gid mtu) s = .next t ∧ qpOf t p.val i = some { gid := gid, mtu := mtu } ∧
        (∀ j, j ≠ i → qpOf t p.val j = qpOf s p.val j) ∧ t.sent = s.sent ++ [.connection p.val true i] ∧
        t = { s with ports := t.ports, sent := t.sent }) ∧
    ((allowList s = [] ∨ gid ∈ allowList s) → (mtu = 1024 ∨ mtu = 2048 ∨ mtu = 4096) → (∀ i, i < 512 → qpOf s p.val i ≠ none) →
      exec (.connectionRequest p gid mtu) s = .next { s with sent := s.sent ++ [.noResources p.val] }) ∧
    ((allowList s ≠ [] ∧ gid ∉ allowList s) →
      exec (.connectionRequest p gid mtu) s = .next { s with sent := s.sent ++ [.connection p.val false 0] })) ∧
  (∀ (p : HostPort) (qp : Fin 512) (w : Nat) (offset : Nat) (data : Bytes) (first last : Bool) (s : State), s.tablesWf = true →
    roceOpen s p.val = true → (qpOf s p.val qp.val).isSome = true → w < 4 → (s.window w).closing = none →
    ((s.window w).state = .open_ → offset + data.length ≤ winSize w → tblWf 0 (s.window w).bytes = true →
      ∃ t, exec (.rdmaWritePacket p qp (winKey w (s.window w).gen) offset data first last) s = .next t ∧
        tgetMany 0 (t.window w).bytes offset data.length = data ∧
        (∀ a, (a < offset ∨ offset + data.length ≤ a) → tget 0 (t.window w).bytes a = tget 0 (s.window w).bytes a) ∧
        (t.window w).state = .open_ ∧ (t.window w).gen = (s.window w).gen ∧
        (∀ v, v ≠ w → t.window v = s.window v) ∧ t = { s with windows := t.windows, ports := t.ports, sent := t.sent }) ∧
    (∀ gen : BitVec 16, ((s.window w).state ≠ .open_ ∨ (s.window w).gen ≠ gen ∨ winSize w < offset + data.length) →
      ∃ t, exec (.rdmaWritePacket p qp (winKey w gen) offset data first last) s = .next t ∧
        (t.port p.val).sump = satAdd (s.port p.val).sump 1 ∧ tb (t.port p.val).errStatus.toNat 0 = true ∧
        (heldBack s (viaOf s p.val qp.val .bulk) = false → Sent.host (viaOf s p.val qp.val .bulk) (.nak false) ∈ t.sent) ∧ (t.window w).bytes = (s.window w).bytes ∧
        (∀ v, v ≠ w → t.window v = s.window v))) ∧
  (∀ (p : HostPort) (qp : Fin 512) (rkey : Word) (offset length : Nat) (s : State), roceOpen s p.val = true →
    (qpOf s p.val qp.val).isSome = true → heldBack s (viaOf s p.val qp.val .bulk) = false →
    exec (.rdmaReadWindow p qp rkey offset length) s = .next { s with sent := s.sent ++
      [.host (viaOf s p.val qp.val .bulk)
        (if (s.window 4).state = .open_ ∧ rkey = winKey 4 (s.window 4).gen ∧ offset + length ≤ winSize 4 then
          .reply (winBytes s 4 offset length) else .nak false)] }) ∧
  (∀ (w : Fin 4) (r : CloseReq) (s : State), s.tablesWf = true → (s.window w.val).closing = some r →
    (boardTime s < (s.window w.val).closeAt + 10000000 → exec (.windowCloseTimeout w) s = .next s) ∧
    ((s.window w.val).closeAt + 10000000 ≤ boardTime s →
      (∀ port, r.corrupt = some port → ∃ t, exec (.windowCloseTimeout w) s = .next t ∧ (t.window w.val).state = .closed ∧
        (t.window w.val).gen = (s.window w.val).gen ∧ answers s t 8 r.tag stWindowCorrupt [] ∧
        (t.port port.val).crcFail = satAdd (s.port port.val).crcFail 1) ∧
      (r.corrupt = none → w.val = 1 → ∃ t, exec (.windowCloseTimeout w) s = .next t ∧ t.plan.stage = some .checking ∧
        (t.window 1).state = .held ∧ (t.window 1).closing = none ∧ (t.window 1).answer = some r.tag ∧
        (t.window 1).bytes = (s.window 1).bytes ∧ t = { s with windows := t.windows, plan := t.plan }))) ∧
  (∀ (p : HostPort) (s : State), s.tablesWf = true → (s.port p.val).link = true →
    ∃ t, exec (.linkDown p) s = .next t ∧ (t.port p.val).link = false ∧ (t.port p.val).isolated = true ∧
      (∀ i, qpOf t p.val i = none) ∧ (∀ j, j ≠ p.val → t.port j = s.port j) ∧ t = { s with ports := t.ports }) ∧
  ∀ (p : HostPort) (copper : Bool) (s : State), s.tablesWf = true → (s.port p.val).link = false →
    tb (s.port p.val).ctrl.toNat 0 = true → s.power.ladder ≠ .dry → s.mgmt.step ≠ 0 → s.mgmt.hold ≠ 6 →
    ∃ t, exec (.linkUp p true copper) s = .next t ∧ (t.port p.val).link = true ∧ (t.port p.val).fecLock = true ∧
      (t.port p.val).speed = BitVec.ofNat 2 (bf (s.port p.val).ctrl.toNat 2 1) ∧
      (t.port p.val).isolated = isHole s (hostField p.val) ∧ (∀ j, j ≠ p.val → t.port j = s.port j) ∧ t = { s with ports := t.ports }

/-- R525: one transaction is open at a time; it collects writes, is committed for a curb stroke when every value lies in its range,
ends with an abort until its lead, with a shadow that does not match at the deadline, or with the board's abort. -/
def Obligations.TransactionsOpenStageAndEnd : Prop :=
  (∀ (tag : BitVec 16) (s : State), servedFully s →
    (txnOpen s = false → ∃ t, exec (.openTransaction tag) s = .next t ∧ t.txn = { id := s.txn.id + 1, state := .opened } ∧
      answers s t 3 tag stAccepted [(s.txn.id + 1).setWidth 64] ∧ t = { s with txn := t.txn, sent := t.sent }) ∧
    (txnOpen s = true → ∃ t, exec (.openTransaction tag) s = .next t ∧ answers s t 3 tag stCommitBusy [] ∧
      t = { s with sent := t.sent })) ∧
  (∀ (tag : BitVec 16) (addr v : BitVec 64) (s : State), servedFully s → s.txn.state = .opened →
    (stageable s (regAddr addr) = true → ∃ t, exec (.stageWrite tag s.txn.id addr v) s = .next t ∧
      t.txn = { s.txn with writes := s.txn.writes ++ [(addr, v)] } ∧ answers s t 2 tag stAccepted [] ∧
      t = { s with txn := t.txn, sent := t.sent }) ∧
    (stageable s (regAddr addr) = false → ∃ t, exec (.stageWrite tag s.txn.id addr v) s = .next t ∧
      answers s t 2 tag stBadAddress [] ∧ t = { s with sent := t.sent })) ∧
  (∀ (tag : BitVec 16) (e : BitVec 48) (board : Bool) (s : State), servedFully s → s.txn.state = .opened →
    (txnOk s = false → ∃ t, exec (.commitTransaction tag s.txn.id e board) s = .next t ∧ t.txn.state = .opened ∧
      t.txn.status = stBadSetting ∧ answers s t 4 tag stBadSetting [] ∧ t.events = s.events) ∧
    (txnOk s = true → eventsShut s = false → s.time.epoch + curbLead s ≤ e.toNat → s.events.length < 16 →
      ∃ t, exec (.commitTransaction tag s.txn.id e board) s = .next t ∧
        t.txn = { s.txn with state := .staging, status := 0, epoch := e.toNat, board := board, decided := none } ∧
        t.events = s.events ++ [{ number := s.mgmt.nextEvent, epoch := e.toNat, kind := .commit s.txn.id }] ∧
        answersLast s t 4 tag stAccepted [BitVec.ofNat 64 s.mgmt.nextEvent])) ∧
  (∀ (tag : BitVec 16) (s : State), servedFully s → txnOpen s = true →
    (s.txn.state = .opened ∨ s.time.epoch + curbLead s ≤ s.txn.epoch) →
    ∃ t, exec (.abortTransaction tag s.txn.id) s = .next t ∧ t.txn.state = .aborted ∧ t.txn.status = stDiscarded ∧
      t.txn.writes = [] ∧ (∀ v, v ∈ t.events ↔ v ∈ s.events ∧ v.kind ≠ .commit s.txn.id) ∧ tb t.mgmt.alert.toNat 9 = true ∧
      answers s t 5 tag stAccepted [] ∧ t = { s with txn := t.txn, events := t.events, mgmt := t.mgmt, sent := t.sent }) ∧
  (∀ s : State, s.txn.state = .staging → s.txn.epoch = s.time.epoch + 1 → 2048 ≤ s.time.stroke →
    (∃ t, exec (.commitDeadline true) s = .next t ∧ t.txn = { s.txn with state := .staged } ∧ t.events = s.events) ∧
    ∃ t, exec (.commitDeadline false) s = .next t ∧ t.txn.state = .aborted ∧ t.txn.status = stStageFailed ∧
      (∀ v ∈ t.events, v.kind ≠ .commit s.txn.id) ∧ tb t.mgmt.alert.toNat 9 = true) ∧
  ∀ s : State, s.txn.board = true → (s.txn.state = .staging ∨ s.txn.state = .staged) →
    (∃ t, exec (.boardCommitDecision true) s = .next t ∧ t.txn = { s.txn with decided := some true } ∧
      t = { s with txn := t.txn, sent := t.sent }) ∧
    ∃ t, exec (.boardCommitDecision false) s = .next t ∧ t.txn.state = .aborted ∧ t.txn.status = stStageFailed ∧
      ∀ v ∈ t.events, v.kind ≠ .commit s.txn.id

/-- R55 to R57: a request to schedule an event answers with the number of the event, counting up, or with "too late" inside
the lead, "epoch occupied" where a swap's epoch already carries an activation, a rotation or a swap, and "queue full" beside
16 pending events; a pending event is cancelled by its number while its lead is met, on a board by the master for every module. (The event's number as the body of the
response is the model's choice, log entry 55.) -/
def Obligations.EventsAreNumberedLedAndCancelled : Prop :=
  (∀ (tag : BitVec 16) (e : BitVec 48) (s : State), servedFully s → eventsShut s = false →
    (e.toNat < s.time.epoch + curbLead s → ∃ t, exec (.scheduleProofWindow tag e) s = .next t ∧
      answers s t 6 tag stTooLate [] ∧ t = { s with sent := t.sent }) ∧
    (s.time.epoch + curbLead s ≤ e.toNat → 16 ≤ s.events.length → ∃ t, exec (.scheduleProofWindow tag e) s = .next t ∧
      answers s t 6 tag stQueueFull [] ∧ t = { s with sent := t.sent }) ∧
    (s.time.epoch + curbLead s ≤ e.toNat → s.events.length < 16 → ∃ t, exec (.scheduleProofWindow tag e) s = .next t ∧
      t.events = s.events ++ [{ number := s.mgmt.nextEvent, epoch := e.toNat, kind := .proof }] ∧
      t.mgmt.nextEvent = s.mgmt.nextEvent + 1 ∧ answersLast s t 6 tag stAccepted [BitVec.ofNat 64 s.mgmt.nextEvent] ∧
      t = { s with events := t.events, mgmt := t.mgmt, sent := t.sent }) ∧
    ((∃ c, c < 4 ∧ (tget none s.fw.ready c).isSome = true) → s.time.epoch + curbLead s ≤ e.toNat → s.events.length < 16 →
      ∃ t, exec (.scheduleFirmware tag e) s = .next t ∧
        t.events = s.events ++ [{ number := s.mgmt.nextEvent, epoch := e.toNat, kind := .firmware }] ∧
        (∀ c, c < 4 → tb t.fw.pending.toNat c = (tget none s.fw.ready c).isSome) ∧
        answersLast s t 6 tag stAccepted [BitVec.ofNat 64 s.mgmt.nextEvent]) ∧
    (∀ w r p, s.weights.loading = some w → s.weights.state = some .staged → s.weights.resident = some r →
      s.plan.active = some p → p.header.weightLayout = w.layout → r.version ≠ w.version → s.plan.recipe = [] →
      activationPending s = false → s.time.epoch + curbLead s ≤ e.toNat →
      (epochTaken s e.toNat = true → ∃ t, exec (.scheduleSwap tag e) s = .next t ∧ answers s t 6 tag stOccupied [] ∧
        t = { s with sent := t.sent }) ∧
      (epochTaken s e.toNat = false → s.events.length < 16 → ∃ t, exec (.scheduleSwap tag e) s = .next t ∧
        t.events = s.events ++ [{ number := s.mgmt.nextEvent, epoch := e.toNat, kind := .swap }] ∧
        t = { s with events := t.events, mgmt := t.mgmt, sent := t.sent }))) ∧
  ∀ (tag : BitVec 16) (v : Event) (s : State), servedFully s → (s.events.find? fun u => u.number == v.number) = some v →
    (v.epoch < s.time.epoch + curbLead s → ∃ t, exec (.cancelEvent tag v.number) s = .next t ∧
      answers s t 7 tag stTooLate [] ∧ t = { s with sent := t.sent }) ∧
    (s.time.epoch + curbLead s ≤ v.epoch → ∃ t, exec (.cancelEvent tag v.number) s = .next t ∧
      (∀ u, u ∈ t.events ↔ u ∈ s.events ∧ u.number ≠ v.number) ∧ answersLast s t 7 tag stAccepted [] ∧ t.time = s.time ∧
      (s.board.position = 0 → ∀ w, 0 < w → w < 4 → tb s.board.admittedMask.toNat w = true →
        ∃ d, Sent.vc {
          src := 0, dst := BitVec.ofNat 2 w
          content := .cancelName (eventCode v.kind).1 (eventCode v.kind).2 (BitVec.ofNat 48 v.epoch) } d ∈ t.sent) ∧
      (∀ r, v.kind = .activation r → BarrierHold.activation ∉ t.plan.holds) ∧
      (v.kind = .firmware → t.fw.pending = 0))

/-- R294, R367, R380: a staged plan's activation is scheduled at least drain + 2 epochs ahead; a recipe whose layers all have
a record and a shadow is staged for its epoch; an install's response states I. (The body of the responses is the model's
choice, log entry 55.) -/
def Obligations.ActivationsRecipesAndInstallsAreScheduled : Prop :=
  (∀ (tag : BitVec 16) (e : BitVec 48) (p : Plan) (s : State), servedFully s → eventsShut s = false → s.mgmt.hold ≠ 5 →
    s.plan.pending = some p → s.plan.stage = some .staged → activationPending s = false → swapping s = false →
    (e.toNat < s.time.epoch + max (curbLead s) (drainEpochs s + 2) → ∃ t, exec (.schedulePlanActivation tag e none) s = .next t ∧
      answers s t 6 tag stTooLate [] ∧ t = { s with sent := t.sent }) ∧
    (s.time.epoch + max (curbLead s) (drainEpochs s + 2) ≤ e.toNat → epochTaken s e.toNat = false → s.events.length < 16 →
      ∃ t, exec (.schedulePlanActivation tag e none) s = .next t ∧
        t.events = s.events ++ [{ number := s.mgmt.nextEvent, epoch := e.toNat, kind := .activation none }] ∧
        answersLast s t 6 tag stAccepted [BitVec.ofNat 64 s.mgmt.nextEvent] ∧
        t = { s with events := t.events, mgmt := t.mgmt, sent := t.sent })) ∧
  (∀ (tag : BitVec 16) (e : BitVec 48) (layers : List Nat) (p : Plan) (s : State), servedFully s → eventsShut s = false →
    s.plan.active = some p →
    ((∃ l ∈ layers, ∀ r ∈ p.precision, r.layer ≠ l) → ∃ t, exec (.scheduleRecipe tag e layers) s = .next t ∧
      answers s t 6 tag stBadRecipe [] ∧ t = { s with sent := t.sent }) ∧
    ((∀ l ∈ layers, (∃ r ∈ p.precision, r.layer = l) ∧ shadowPresent s l = true) →
      s.time.epoch + max (curbLead s) (drainEpochs s + 2) ≤ e.toNat → epochTaken s e.toNat = false → s.events.length < 16 →
      ∃ t, exec (.scheduleRecipe tag e layers) s = .next t ∧ t.plan = { s.plan with recipeStaged := some layers } ∧
        t.events = s.events ++ [{ number := s.mgmt.nextEvent, epoch := e.toNat, kind := .recipe layers }] ∧
        answersLast s t 6 tag stAccepted [BitVec.ofNat 64 s.mgmt.nextEvent])) ∧
  ∀ (tag : BitVec 16) (e : BitVec 48) (w : WeightSet) (s : State), servedFully s → eventsShut s = false →
    s.weights.loading = some w → s.weights.state = some .staged →
    s.time.epoch + max (curbLead s) (drainEpochs s + installEpochs w + 2) ≤ e.toNat → s.events.length < 16 →
    ∃ t, exec (.scheduleInstall tag e) s = .next t ∧ t.weights = { s.weights with installEpochs := installEpochs w } ∧
      t.events = s.events ++ [{ number := s.mgmt.nextEvent, epoch := e.toNat, kind := .install }] ∧
      answersLast s t 6 tag stAccepted [BitVec.ofNat 64 s.mgmt.nextEvent, BitVec.ofNat 64 (installEpochs w)]

/-- R405, R514, R515, R527 to R529, R535: a window opens with a new generation and answers with its key, and closes once no
message is partly received, a plan then being checked and a firmware image answered with what its check finds; registers, log, ledger, attestation and identity are answered from the state, and but for the
ledger's flags nothing changes. (The packing of response bodies into words is the model's choice, log entry 54.) -/
def Obligations.WindowsOpenAndQueriesAnswer : Prop :=
  (∀ (tag : BitVec 16) (w : Fin 4) (s : State), s.tablesWf = true → servedFully s → s.power.ladder ≠ .banked →
    ((s.window w.val).state = .held → ∃ t, exec (.openWindow tag (BitVec.ofNat 8 w.val)) s = .next t ∧
      answers s t 8 tag stLoadBusy [] ∧ t = { s with sent := t.sent }) ∧
    ((s.window w.val).state ≠ .held → (w.val = 1 → s.plan.stage = none ∨ s.plan.stage = some .receiving) →
      ∃ t, exec (.openWindow tag (BitVec.ofNat 8 w.val)) s = .next t ∧
        t.window w.val = { state := .open_, gen := nextGen (s.window w.val).gen } ∧ (t.window w.val).gen ≠ 0 ∧
        answers s t 8 tag stAccepted [(winKey w.val (nextGen (s.window w.val).gen)).setWidth 64] ∧
        (∀ v, v ≠ w.val → t.window v = s.window v) ∧ t = { s with windows := t.windows, plan := t.plan, sent := t.sent }) ∧
    (∀ (pack : Option TestPack) (corrupt : Option HostPort), (s.window w.val).state = .open_ → (s.window w.val).closing = none →
      ((s.window w.val).partials ≠ [] → ∃ t, exec (.closeWindow tag (BitVec.ofNat 8 w.val) pack corrupt) s = .next t ∧
        t.window w.val = { s.window w.val with
          closing := some { tag := tag, pack := pack, corrupt := corrupt }, closeAt := boardTime s } ∧
        t = { s with windows := t.windows }) ∧
      (w.val = 1 → (s.window 1).partials = [] → corrupt = none →
        ∃ t, exec (.closeWindow tag (BitVec.ofNat 8 w.val) pack corrupt) s = .next t ∧
          t.window 1 = { s.window 1 with
            state := .held, closing := none, closeAt := boardTime s, partials := [], answer := some tag } ∧
          t.plan = { s.plan with stage := some .checking } ∧ t = { s with windows := t.windows, plan := t.plan }) ∧
      (∀ e, w.val = 2 → (s.window 2).partials = [] → corrupt = none →
        checkImage { s with windows := tset {} s.windows 2 { s.window 2 with
          state := .held, closing := none, closeAt := boardTime s, partials := [], answer := some tag } }
          (winBytes s 2 0 (min 268435456 (imgEnd (winBytes s 2 0 128)))) = .error e →
        ∃ t, exec (.closeWindow tag (BitVec.ofNat 8 w.val) pack corrupt) s = .next t ∧ (t.window 2).state = .closed ∧
          t.fw = { s.fw with status := e } ∧ answers s t 8 tag e []) ∧
      (∀ port, (s.window w.val).partials = [] → corrupt = some port →
        ∃ t, exec (.closeWindow tag (BitVec.ofNat 8 w.val) pack corrupt) s = .next t ∧ (t.window w.val).state = .closed ∧
          answers s t 8 tag stWindowCorrupt [])) ∧
    ((s.window w.val).state = .closed → ∀ pack corrupt, ∃ t,
      exec (.closeWindow tag (BitVec.ofNat 8 w.val) pack corrupt) s = .next t ∧ answers s t 8 tag stNotReady [] ∧
      t = { s with sent := t.sent })) ∧
  (∀ (tag : BitVec 16) (addr : BitVec 64) (count : Nat) (s : State), servedFully s →
    ((regAddr addr).block = 9 → ∃ t, exec (.readRegisters tag addr count) s = .next t ∧ answers s t 1 tag stBadAddress [] ∧
      t = { s with sent := t.sent }) ∧
    (∀ rows vs, (regAddr addr).block ≠ 9 → blockRows s (regAddr addr) = some rows →
      readRows rows (regAddr addr).off count = some vs →
      (regDark s (regAddr addr) = false → ∃ t, exec (.readRegisters tag addr count) s = .next t ∧
        answers s t 1 tag stAccepted vs ∧ t = { s with sent := t.sent }) ∧
      (regDark s (regAddr addr) = true → ∃ t, exec (.readRegisters tag addr count) s = .next t ∧
        answers s t 1 tag stDark [] ∧ t = { s with fields := t.fields, sent := t.sent }))) ∧
  ∀ (tag : BitVec 16) (s : State), servedFully s →
    (∀ (first : Word) (count : Nat), ∃ (t : State) (body : List (BitVec 64)), exec (.readLog tag first count) s = .next t ∧
      answers s t 9 tag stAccepted body ∧ t = { s with sent := t.sent } ∧
      (s.faults.log = [] → body = []) ∧
      ∀ (n : Word) (type : Nat) (words : List (BitVec 64)), s.faults.log = [(n, type, words)] → (n - first).toNat < count →
        body = BitVec.ofNat 64 (type * 2 ^ 32 + n.toNat) :: words) ∧
    (∀ (first last : Nat) (clear : BitVec 2), ∃ t, exec (.readLedger tag first last clear) s = .next t ∧
      (t.ledger = s.ledger.map fun r =>
        if first ≤ r.layer ∧ r.layer ≤ last then { r with flag := r.flag &&& ~~~clear } else r) ∧
      answers s t 10 tag stAccepted ((s.ledger.filter fun r => decide (first ≤ r.layer ∧ r.layer ≤ last)).flatMap ledgerWords) ∧
      t = { s with ledger := t.ledger, sent := t.sent }) ∧
    (∀ nonce : BitVec 256, ∃ t, exec (.attest tag nonce) s = .next t ∧ (attestBody s nonce).length = 328 ∧
      answers s t 11 tag stAccepted (packWords (attestBody s nonce ++ bytesAt (Config.sign (attestBody s nonce)) 0 2420)) ∧
      t = { s with sent := t.sent }) ∧
    ∃ t, exec (.identity tag) s = .next t ∧ answers s t 12 tag stAccepted
      (packWords (bytesAt Config.identityKey 0 1312 ++ bytesAt Config.kemKey 0 1184 ++ Config.certificate)) ∧
      t = { s with sent := t.sent }

/-- R293, R377, R405, R514, R517, R523, R536: a dump is made one at a time and lies in window 4 behind its header until it is
acknowledged; settings records fill four generations and no more; a pending plan and a staged set are discarded while no lead
of theirs has begun; an alert goes out at most once in 10 ms; writing ones to WM_ALERT clears them; an operation that is not
assigned answers so. (Where a command has nothing to do it changes nothing: the model's choice, log entry 1.) (The content of
a dump is the model's choice, log entry 57.) -/
def Obligations.DumpsSettingsDiscardsAndAlerts : Prop :=
  (∀ (tag : BitVec 16) (scope : DumpScope) (s : State), servedFully s →
    (s.mgmt.dumpHeld = false → s.mgmt.dumpScope = none → exec (.dump tag scope) s =
      .next { s with mgmt := { s.mgmt with dumpScope := some (tag, scope) } }) ∧
    (s.mgmt.dumpHeld = true → ∃ t, exec (.dump tag scope) s = .next t ∧ answers s t 13 tag stDumpBusy [] ∧
      t = { s with sent := t.sent })) ∧
  (∀ (tag : BitVec 16) (scope : DumpScope) (s : State), s.tablesWf = true → s.mgmt.dumpScope = some (tag, scope) →
    ∃ t, exec .dumpReady s = .next t ∧ (t.window 4).state = .open_ ∧ (t.window 4).gen = nextGen (s.window 4).gen ∧
      t.mgmt = { s.mgmt with dumpScope := none, dumpHeld := true } ∧ (t.window 4).top ≤ 268435456 ∧
      ((dumpEntries s scope).length + 64 ≤ 268435456 →
        tgetMany 0 (t.window 4).bytes 64 (dumpEntries s scope).length = dumpEntries s scope) ∧
      answers s t 13 tag stAccepted [(winKey 4 (nextGen (s.window 4).gen)).setWidth 64] ∧
      t = { s with windows := t.windows, mgmt := t.mgmt, freeCount := t.freeCount, sent := t.sent }) ∧
  (∀ (tag : BitVec 16) (s : State), s.tablesWf = true → servedFully s → s.mgmt.dumpHeld = true →
    ∃ t, exec (.acknowledgeDump tag) s = .next t ∧ t.mgmt.dumpHeld = false ∧ t.window 4 = { gen := (s.window 4).gen } ∧
      answers s t 14 tag stAccepted []) ∧
  (∀ (tag : BitVec 16) (record : Bytes) (s : State), servedFully s →
    (4 ≤ s.otp.settings.length → ∃ t, exec (.burnSettings tag record) s = .next t ∧ answers s t 15 tag stExhausted [] ∧
      t = { s with sent := t.sent }) ∧
    (s.otp.settings.length < 4 → record.length = 512 → fieldAt record 5 1 < 2 → fieldAt record 6 1 ≤ 16 →
      fieldAt record 7 1 = 0 → zeroAt record 264 244 = true →
      ∃ (t : State) (g : Settings), exec (.burnSettings tag record) s = .next t ∧
        t.otp = { s.otp with settings := s.otp.settings ++ [g] } ∧ g.gen = s.otp.settings.length + 1 ∧
        g.allow.length = fieldAt record 6 1 ∧ (g.compat = true ↔ fieldAt record 5 1 = 1) ∧ t.mgmt = s.mgmt ∧
        answers s t 15 tag stAccepted [])) ∧
  (∀ (tag : BitVec 16) (s : State), servedFully s →
    (s.plan.stage = none → ∃ t, exec (.discardPlan tag) s = .next t ∧ answers s t 16 tag stNotStaged [] ∧
      t = { s with sent := t.sent }) ∧
    (s.plan.stage ≠ none → (∀ v ∈ s.events, ∀ r, v.kind = .activation r → s.time.epoch + curbLead s ≤ v.epoch) →
      ∃ t, exec (.discardPlan tag) s = .next t ∧ t.plan.pending = none ∧ t.plan.stage = none ∧
        t.plan.loadStatus = stDiscarded ∧ t.plan.active = s.plan.active ∧ (∀ v ∈ t.events, ∀ r, v.kind ≠ .activation r) ∧
        answers s t 16 tag stAccepted []) ∧
    (s.weights.state = some .staged → (∀ v ∈ s.events, v.kind = .swap ∨ v.kind = .install → s.time.epoch + curbLead s ≤ v.epoch) →
      ∃ t, exec (.discardSet tag) s = .next t ∧ t.weights.loading = none ∧ t.weights.state = none ∧
        t.weights.resident = s.weights.resident ∧ t.weights.lastStatus = stDiscarded ∧
        (∀ v ∈ t.events, v.kind ≠ .swap ∧ v.kind ≠ .install) ∧ answersLast s t 16 tag stAccepted [])) ∧
  (∀ s : State,
    let port := bf s.ep.svcQp.toNat 13 12
    s.mgmt.alertDue = true → roceOpen s port = true → (qpOf s port (bf s.ep.svcQp.toNat 8 0)).isSome = true →
    ((∀ u, s.mgmt.alertSent = some u → u + 1000000 ≤ boardTime s) → exec .alertMessage s =
      .next { s with
        mgmt := { s.mgmt with alertDue := false, alertSent := some (boardTime s) }
        sent := s.sent ++ [.alert (s.mgmt.alert.setWidth 32)] }) ∧
    (∀ u, s.mgmt.alertSent = some u → boardTime s < u + 1000000 → exec .alertMessage s = .next s)) ∧
  (∀ (addr v : BitVec 64) (s : State),
    ((regAddr addr).block = 1 → (regAddr addr).off = 0x00C → exec (.registerWrite addr v) s =
      .next { s with mgmt := { s.mgmt with alert := s.mgmt.alert &&& ~~~ BitVec.ofNat 11 v.toNat } }) ∧
    ((regAddr addr).block = 1 → (regAddr addr).off ≠ 0x00C → exec (.registerWrite addr v) s = .next s) ∧
    (regDark s (regAddr addr) = true → ∃ t, exec (.registerWrite addr v) s = .next t ∧ t = { s with fields := t.fields })) ∧
  ∀ (tag op : BitVec 16) (s : State), servedFully s →
    (knownOp op.toNat = false → ∃ t, exec (.unassignedOp tag op) s = .next t ∧ answers s t op.toNat tag stUnknownOp [] ∧
      t = { s with sent := t.sent }) ∧
    (knownOp op.toNat = true → exec (.unassignedOp tag op) s = .next s)

/-- R486, R498, R513, R531, R534: new firmware that fails in its first 64 epochs is to be reverted, and after them its
counters are in OTP, never lower than before; a core that stops restarts and is corrected once in an hour, fatal-wafer twice;
the host's clear lets a restart begin and Held be left. (Where a command has nothing to do it changes nothing: the model's
choice, log entry 1.) -/
def Obligations.FirmwareAndRecoveryOfTheManager : Prop :=
  (∀ s : State,
    (fwOnTrial s = true → ∃ t, exec .firmwareRevert s = .next t ∧ t.fw = { s.fw with revert := true } ∧
      (s.fw.revert = false → follows s = true → ∃ d, t.sent = s.sent ++ [.vc {
        src := s.board.position, dst := 0, content := .firmwareOff } d]) ∧
      t = { s with fw := t.fw, sent := t.sent }) ∧
    (fwOnTrial s = false → (∃ v ∈ s.events, v.kind = .firmware ∧ v.epoch = s.time.epoch + 1) →
      ∃ t, exec .firmwareRevert s = .next t ∧ t.fw.pending = 0 ∧ t.fw.inForce = s.fw.inForce ∧
        (∀ v, v ∈ t.events ↔ v ∈ s.events ∧ ¬ (v.kind = .firmware ∧ v.epoch = s.time.epoch + 1)) ∧
        t = { s with events := t.events, fw := t.fw, sent := t.sent })) ∧
  (∀ (e : Nat) (s : State), s.fw.activated = some e →
    (s.time.epoch < e + 64 → exec .otpCounterAdvance s = .next s) ∧
    (e + 64 ≤ s.time.epoch → s.fw.revert = false → ∃ t, exec .otpCounterAdvance s = .next t ∧ t.fw.activated = none ∧
      t.otp = { s.otp with counters := t.otp.counters } ∧ t.otp.counters.length = s.otp.counters.length ∧
      (∀ c n, s.otp.counters[c]? = some n →
        t.otp.counters[c]? = some (if c < 4 then max n (s.fw.inForce.getD c {}).counter else n)) ∧
      t = { s with otp := t.otp, fw := t.fw })) ∧
  (∀ (core : Fin 4) (s : State), s.mgmt.step ≠ 0 →
    ∃ t, exec (.watchdogExpiry core) s = .next t ∧ t.mgmt.restarts = satAdd s.mgmt.restarts 1 ∧
      ((∀ u ∈ s.faults.coreEvents, u + 360000000000 ≤ boardTime s) → onRing t 0 0x97) ∧
      ((∃ u ∈ s.faults.coreEvents, boardTime s < u + 360000000000) → onRing t 4 0x97) ∧
      (fwOnTrial s = true → t.fw.revert = true) ∧
      t = { s with faults := t.faults, mgmt := t.mgmt, fw := t.fw, sent := t.sent }) ∧
  ∀ s : State, served s = true → ∃ t, exec .managementClear s = .next t ∧ t.faults.waitClear = false ∧ t.time.timeFault = false ∧
    (s.power.ladder = .held → t.power.leaving = true) ∧ t.power.ladder = s.power.ladder ∧ t.cells = s.cells ∧
    (s.faults.restart = false → t = { s with faults := t.faults, time := t.time, power := t.power })

/-- R489, R494 to R496, R499 to R501, R509: the first record of the ring is handled alone: fatal-wafer ends every request and
begins the restart, fatal-field puts the field dark, a located one with a kernel waits for its rerun, with every cell held
once the work has ended; a proof run that passes proves its cell, one that fails makes a record; a permanent finding is
re-placed, on a board at an epoch for which a follower asks its master. (Where a command has nothing to do it changes nothing: the model's choice, log entry 1.) (The proof run's digest
as an operand is the model's choice, log entry 52.) -/
def Obligations.RecordsAreHandledAndClassified : Prop :=
  (∀ (s : State) (r : ErrRec) (rest : List ErrRec), s.tablesWf = true → s.faults.handling = none → s.faults.ring = r :: rest →
    (r.severity = 4 → recElement s r = none → s.plan.active ≠ none →
      ∃ t, exec .recordHandling s = .next t ∧ t.faults.ring = rest ∧ t.faults.handling = none ∧
        (∀ q ∈ liveRequests t, multiplies s = true ∧ q.2.replica ≠ 0) ∧
        t.plan.pending = none ∧ t.faults.restart = true ∧ (clearCode (recCause r) = true → t.faults.waitClear = true)) ∧
    (r.severity = 3 → recElement s r = none → recField r < 48 →
      (s.field (recField r)).domain = .running →
      ∃ t, exec .recordHandling s = .next t ∧ t.faults.ring = rest ∧ (t.field (recField r)).domain = .dark ∧
        (∀ q ∈ liveRequests t, touches s s.board.position.toNat (recField r) q.1 = false)) ∧
    (∀ el k, r.severity = 1 → recElement s r = some el → elementBad s el = false → recKernel s r = some k →
      ∃ t, exec .recordHandling s = .next t ∧ t.faults.ring = rest ∧
        (t.faults.handling.map fun h => (h.location, h.severity)) = some (r.location, 1) ∧
        t = { s with faults := t.faults }) ∧
    (r.severity = 0 → s.faults.restart = false → ∃ t, exec .recordHandling s = .next t ∧ t.faults.ring = rest ∧
      t.faults.handling = none ∧ t = { s with faults := t.faults })) ∧
  (∀ s : State, s.faults.handling ≠ none ∨ s.faults.ring = [] → exec .recordHandling s = .next s) ∧
  (∀ s : State, s.faults.handling ≠ none → s.faults.window = none → s.time.dataPath = true → workNow s = false →
    ∃ t, exec .classificationWindow s = .next t ∧ t.faults.window = some s.time.epoch ∧
      (∀ q ∈ t.cells, q.2.held = true ∧ cellRuns q.2 = false) ∧ t = { s with cells := t.cells, faults := t.faults }) ∧
  (∀ (c : CellAddr) (n : Nat) (out : BitVec 256) (p : TestPack) (q : Kernel) (s : State), s.tablesWf = true →
    s.faults.pack = some p →
    (p.kernels.find? fun q => q.number == n && q.pKind == fieldIsP c.field.val) = some q → proofMay s (.cell c) = true →
    s.faults.handling = none → s.faults.proofFrom = none →
    (out = q.digest → ∃ t, exec (.proofRun (.cell c) n out) s = .next t ∧
      t.cell (cellKey c) = { s.cell (cellKey c) with proofAt := some (boardTime s) } ∧
      (∀ j, j ≠ cellKey c → t.cell j = s.cell j) ∧ t = { s with cells := t.cells }) ∧
    (out ≠ q.digest → (s.field c.field.val).queue.length < 32 → ∃ t, exec (.proofRun (.cell c) n out) s = .next t ∧
      (∃ r ∈ (t.field c.field.val).queue, recCause r = 0x99 ∧ r.severity = 1 ∧ r.inCell = some c) ∧ t.cells = s.cells ∧
      t = { s with fields := t.fields })) ∧
  (∀ (a : SiteAddr) (n : Nat) (out : BitVec 256) (p : TestPack) (q : Kernel) (s : State), s.tablesWf = true →
    s.faults.pack = some p →
    (p.kernels.find? fun q => q.number == n && q.pKind == fieldIsP a.field.val) = some q → proofMay s (.assay a) = true →
    s.faults.handling = none → s.faults.proofFrom = none →
    (out = q.digest → exec (.proofRun (.assay a) n out) s = .next s) ∧
    (out ≠ q.digest → (s.field a.field.val).queue.length < 32 → ∃ t, exec (.proofRun (.assay a) n out) s = .next t ∧
      (∃ r ∈ (t.field a.field.val).queue, recCause r = 0x99 ∧ r.severity = 1) ∧ t.cells = s.cells ∧
      t = { s with fields := t.fields })) ∧
  ∀ s : State, s.faults.rePlace = true → s.plan.active ≠ none → s.faults.handling = none → s.faults.waitClear = false →
    (s.power.ladder = .running ∨ s.power.ladder = .poised) → (∀ o ∈ s.own, o.kind ≠ .rePlace) →
    (follows s = false → ∃ (t : State) (e : Nat), exec .rePlacement s = .next t ∧ { kind := .rePlace, epoch := e } ∈ t.own ∧
      s.time.epoch + (if onBoard s then 4 else 2) ≤ e ∧ (∀ o ∈ t.own, o.kind ≠ .reactivate) ∧
      BarrierHold.rePlacement ∈ t.plan.holds ∧ BarrierHold.reactivation ∉ t.plan.holds ∧ t.cells = s.cells) ∧
    (follows s = true → ∃ t, exec .rePlacement s = .next t ∧ (∀ o, o ∈ t.own ↔ o ∈ s.own ∧ o.kind ≠ .reactivate) ∧
      (∃ d, t.sent = s.sent ++ [.vc {
        src := s.board.position, dst := 0, content := .ownDue (ownCode .rePlace).1 (ownCode .rePlace).2 } d]) ∧
      BarrierHold.rePlacement ∈ t.plan.holds ∧ t.cells = s.cells)

/-- R421, R422, R424, R432, R435: a flit that fails its check is asked for again with the sequence expected, and after eight replays
its quad goes down; a good one advances the sequence, and its units wait on an admitted port; a lost lane lock takes the quad
down, fatal-wafer where the board runs one plan; training with at most 40 ticks brings it up. (Where a command has nothing to
do it changes nothing: the model's choice, log entry 1.) -/
def Obligations.QuadsCarryFlitsInSequence : Prop :=
  (∀ (p : CascPort) (q : Quad) (flit : Bytes) (fec : FecCount) (s : State), s.tablesWf = true →
    let c := s.cascPort p.val
    let x := tget {} c.quads q.val
    let good := fec.uncorrectable = 0 ∧ crc32Yelzia (bytesAt flit 0 252) = fieldAt flit 252 4
    quadCarries s p.val q.val = true → tblWf {} c.quads = true →
    (¬ good → x.replays < 8 → ∃ t, exec (.yelziaFlitReceive p q flit fec) s = .next t ∧
      (t.cascPort p.val).replay = satAdd c.replay 1 ∧
      tget {} (t.cascPort p.val).quads q.val = { x with replays := x.replays + 1 } ∧
      (t.cascPort p.val).received = c.received ∧ t.sent = s.sent ++ [.replayRequest p.val q.val x.expect] ∧
      t = { s with casc := t.casc, sent := t.sent }) ∧
    (¬ good → 8 ≤ x.replays → ∃ t, exec (.yelziaFlitReceive p q flit fec) s = .next t ∧
      (tget {} (t.cascPort p.val).quads q.val).up = false ∧ tb (t.cascPort p.val).errStatus.toNat 1 = true) ∧
    (∀ t, exec (.yelziaFlitReceive p q flit fec) s = .next t → (t.cascPort p.val).fecCorr = satAdd c.fecCorr fec.corrected ∧
      (t.cascPort p.val).fecUncorr = satAdd c.fecUncorr fec.uncorrectable) ∧
    (good → bf (fieldAt flit 0 2) 11 0 ≠ x.expect.toNat → ∃ t, exec (.yelziaFlitReceive p q flit fec) s = .next t ∧
      (t.cascPort p.val).quads = c.quads ∧ (t.cascPort p.val).received = c.received ∧
      (∀ j, j ≠ p.val → t.cascPort j = s.cascPort j) ∧ t = { s with casc := t.casc }) ∧
    (good → bf (fieldAt flit 0 2) 11 0 = x.expect.toNat → ∃ t, exec (.yelziaFlitReceive p q flit fec) s = .next t ∧
      tget {} (t.cascPort p.val).quads q.val = { x with expect := x.expect + 1, replays := 0 } ∧
      (bf (fieldAt flit 0 2) 15 14 = 0 → c.prime = .admitted → s.board.halted = none →
        (t.cascPort p.val).received = c.received ++ flitUnits s q.val x.latency flit ∧
        ∀ i, i < bf (fieldAt flit 0 2) 13 12 → ∃ u ∈ (t.cascPort p.val).received,
          u.rid = bf (fieldAt flit (4 + 4 * i) 4) 31 22 ∧ u.unit = bf (fieldAt flit (4 + 4 * i) 4) 21 16 ∧
          u.dcyc = bf (fieldAt flit (4 + 4 * i) 4) 15 7 ∧ u.quad = q.val ∧ u.data = flitUnit flit i) ∧
      (¬ (bf (fieldAt flit 0 2) 15 14 = 0 ∧ c.prime = .admitted ∧ s.board.halted = none) →
        (t.cascPort p.val).received = c.received) ∧
      (∀ j, j ≠ p.val → t.cascPort j = s.cascPort j) ∧ t = { s with casc := t.casc })) ∧
  (∀ (p : CascPort) (q : Quad) (flit : Bytes) (fec : FecCount) (s : State), quadCarries s p.val q.val = false →
    exec (.yelziaFlitReceive p q flit fec) s = .next s) ∧
  (∀ (p : CascPort) (q : Quad) (s : State), s.tablesWf = true → tblWf {} (s.cascPort p.val).quads = true →
    (tget {} (s.cascPort p.val).quads q.val).up = true →
    ∃ t, exec (.laneLockLoss p q) s = .next t ∧ (tget {} (t.cascPort p.val).quads q.val).up = false ∧
      tb (t.cascPort p.val).errStatus.toNat 1 = true ∧
      ((∀ n, n ≠ q.val → (tget {} (s.cascPort p.val).quads n).up = false) → (t.cascPort p.val).prime = .untrained) ∧
      ((s.cascPort p.val).prime = .admitted → boardRuns s = true → onRing t 4 0x92) ∧
      (boardRuns s = false → t = { s with casc := t.casc })) ∧
  ∀ (p : CascPort) (q : Quad) (latency : Nat) (s : State), s.tablesWf = true → tblWf {} (s.cascPort p.val).quads = true →
    quadMay s p.val q.val = true → (tget {} (s.cascPort p.val).quads q.val).up = false →
    (latency ≤ 40 → ∃ t, exec (.quadTrainingComplete p q latency) s = .next t ∧
      tget {} (t.cascPort p.val).quads q.val = { up := true, latency := latency } ∧
      (t.cascPort p.val).prime = .untrained ∧ (t.cascPort p.val).compactSent = false ∧
      (∀ j, j ≠ p.val → t.cascPort j = s.cascPort j) ∧ t = { s with casc := t.casc }) ∧
    (40 < latency → ∃ t, exec (.quadTrainingComplete p q latency) s = .next t ∧
      tb (t.cascPort p.val).errStatus.toNat 3 = true ∧ (t.cascPort p.val).quads = (s.cascPort p.val).quads ∧
      t = { s with casc := t.casc })

/-- R183, R424 to R427: a plan unit received in time enters the mesh at its quad's router on the leg of its entry, to arrive
in its cycle; one that has not come is late, counted, and delivered poisoned at its destination; an exchange combines the
port's own unit with its partner's in the cycle of the unit. (The delivery stroke and the delivery of a late unit are the
model's choices, log entry 22.) -/
def Obligations.CascadeUnitsArriveInTheirCycle : Prop :=
  (∀ (p : CascPort) (rid : Fin 1024) (unit : Fin 64) (s : State), s.tablesWf = true →
    let c := s.cascPort p.val
    let e := (tget 0 c.table rid.val).toNat
    working s = true → c.prime = .admitted → tb e 63 = true → tb e 62 = false →
    (∀ u, findUnit c.received rid.val unit.val = some u → s.time.work ≤ u.work →
      ∃ (t : State) (f : Flit), exec (.cascadeUnitInject p rid unit) s = .next t ∧ t.flits = s.flits ++ [f] ∧
        f.due = u.work * 512 + u.dcyc ∧ (f.x, f.y) = quadXY p.val u.quad ∧ f.plane = bf e 59 58 ∧
        (t.cascPort p.val).received = c.received.erase u ∧ t = { s with casc := t.casc, flits := t.flits }) ∧
    (findUnit c.received rid.val unit.val = none →
      ∃ (t : State) (f : Flit), exec (.cascadeUnitInject p rid unit) s = .next t ∧ t.flits = s.flits ++ [f] ∧
        f.due = budgetNow s ∧ (f.x, f.y) = (bf e 54 48, bf e 47 42) ∧ (t.cascPort p.val).late = satAdd c.late 1 ∧
        tb (t.cascPort p.val).errStatus.toNat 2 = true ∧ onRing t 1 0x91 ∧
        t = { s with casc := t.casc, flits := t.flits, faults := t.faults, mgmt := t.mgmt })) ∧
  ∀ (p : CascPort) (rid : Fin 1024) (unit : Fin 64) (s : State), s.tablesWf = true →
    let c := s.cascPort p.val
    let e := (tget 0 c.table rid.val).toNat
    working s = true → c.prime = .admitted → tb e 63 = true → tb e 62 = true →
    ∀ u, findUnit c.kept rid.val unit.val = some u →
      (∀ v, findUnit c.received rid.val unit.val = some v →
        ∃ (t : State) (f : Flit), exec (.exchangeAddCombine p rid unit) s = .next t ∧ t.flits = s.flits ++ [f] ∧
          f.due = u.work * 512 + u.dcyc ∧ (f.x, f.y) = quadXY p.val u.quad ∧
          (t.cascPort p.val).kept = spendUnit c.kept u ∧ (t.cascPort p.val).received = spendUnit c.received v ∧
          t = { s with casc := t.casc, flits := t.flits }) ∧
      (findUnit c.received rid.val unit.val = none →
        ∃ (t : State) (f : Flit), exec (.exchangeAddCombine p rid unit) s = .next t ∧ t.flits = s.flits ++ [f] ∧
          f.due = u.work * 512 + u.dcyc ∧ (t.cascPort p.val).late = satAdd c.late 1 ∧ onRing t 1 0x91)

/-- R419, R423, R430 to R433: a message for another module goes on, one for this module is taken; a halt ends every request
and discards the units in flight; at an aligned beat each link that primes sends its compact; a compact that fails its check
is counted to the sixteenth, one from the wrong position is not admitted, and a follower that agrees is named an epoch. A
follower takes its master's dispatch, parcels and manifest, a master its followers' results, and the requests of a replica that stops
end (R378, R428 to R430). (The messages' form, and the epoch the master names, are the model's choices, log entries 60, 92, 135, 136.) -/
def Obligations.BoardMessagesHaltsAndCompacts : Prop :=
  (∀ (p : CascPort) (m : VcMessage) (s : State), portUp s p.val = true →
    (m.dst ≠ s.board.position → exec (.cascadeVcMessage p m) s =
      .next { s with sent := s.sent ++ [.vc m (decide (2 ≤ p.val))] }) ∧
    (∀ d room awake, m.dst = s.board.position → s.board.position = 0 → m.content = .demand d room awake →
      exec (.cascadeVcMessage p m) s = .next { s with board := { s.board with
        demandIn := max s.board.demandIn d, noBoost := s.board.noBoost || !room, asleep := s.board.asleep || !awake } }) ∧
    (∀ o, m.dst = s.board.position → s.board.position = 0 → m.content = .outbox o →
      exec (.cascadeVcMessage p m) s =
        .next { s with serve := { s.serve with results := s.serve.results ++ [{ o with src := m.src.toNat }] } }) ∧
    (m.dst = s.board.position → s.board.position = 0 → m.content = .replica false → s.tablesWf = true → m.src ≠ 0 →
      ∃ t, exec (.cascadeVcMessage p m) s = .next t ∧ tb t.board.stopped.toNat m.src.toNat = true ∧
        (∀ q, q ∈ liveRequests t ↔ q ∈ liveRequests s ∧ q.2.replica ≠ m.src.toNat) ∧ t.time = s.time ∧ t.cells = s.cells) ∧
    (m.dst = s.board.position → s.board.position ≠ 0 → m.src = 0 →
      (∀ e n, m.content = .trim e n → exec (.cascadeVcMessage p m) s =
        .next { s with time := { s.time with trims := s.time.trims ++ [(e.toNat, n)] } }) ∧
      (∀ n b anew e, m.content = .period n b anew e → exec (.cascadeVcMessage p m) s =
        .next { s with board := { s.board with
          named := some { epoch := e.toNat, period := n, boost := boostOf b, anew := anew } } }) ∧
      (∀ ch v n, m.content = .dispatch ch v n → s.board.dispatch = [] → exec (.cascadeVcMessage p m) s =
        .next { s with board := { s.board with dispatch := [(n, ch.val, v.toNat)] } }) ∧
      (∀ b, m.content = .manifest b → ∃ t, exec (.cascadeVcMessage p m) s = .next t ∧ t.weights.state = some .fetching ∧
        (t.weights.loading.map fun w => (w.setId, w.version, w.extents)) =
          some ((manifestSet b).setId, (manifestSet b).version, (manifestSet b).extents) ∧
        t.weights.requested = [] ∧ t.weights.resident = s.weights.resident ∧ t.sent = s.sent) ∧
      (∀ n ty i b tab, m.content = .parcel n ty i b → servingTables s = some tab → intakeCells s tab ≠ [] →
        exec (.cascadeVcMessage p m) s = .next { s with serve := { s.serve with parcels := s.serve.parcels ++
          [{ type := ty, payload := b, index := i, left := intakeCells s tab, number := n, board := true }] } }) ∧
      (m.content = .ladder 0 → s.power.ladder = .running → ∃ t, exec (.cascadeVcMessage p m) s = .next t ∧
        t.power.ladder = .poised ∧ t = { s with power := t.power }) ∧
      (m.content = .ladder 1 → s.power.ladder = .held → exec (.cascadeVcMessage p m) s =
        .next { s with power := { s.power with leaving := true } }) ∧
      (m.content = .ladder 2 → (s.power.ladder = .running ∨ s.power.ladder = .poised) →
        ∃ t, exec (.cascadeVcMessage p m) s = .next t ∧ t.power.ladder = .held ∧ t.time.dataPath = false ∧ t.events = [] ∧
          t.cells = s.cells) ∧
      (∀ e, m.content = .epochName 10 [] e → s.board.admitted = true → (∀ o ∈ s.own, o.kind ≠ .rotation) →
        exec (.cascadeVcMessage p m) s = .next { s with own := s.own ++ [{ kind := .rotation, epoch := e.toNat }] }) ∧
      ∀ e, m.content = .cancelName 10 [] e → s.own = [{ kind := .rotation, epoch := e.toNat }] →
        (∀ v ∈ s.events, eventCode v.kind ≠ (10, [])) →
        ∃ t, exec (.cascadeVcMessage p m) s = .next t ∧ t.own = [] ∧ t.events = s.events)) ∧
  (∀ (stroke : BitVec 60) (s : State), s.tablesWf = true → boardRuns s = true →
    ∃ t, exec (.haltReceive stroke) s = .next t ∧ t.board = { s.board with halted := some stroke } ∧ liveRequests t = [] ∧
      t.faults.restart = true ∧ t.plan.pending = none ∧
      ∀ p, (t.cascPort p).received = [] ∧ (t.cascPort p).kept = []) ∧
  (∀ s : State, s.tablesWf = true → s.mgmt.ready = true → s.mgmt.hold ≠ 4 → s.time.localTicks.toNat % 100 = 0 →
    ∃ t, exec .compactSend s = .next t ∧ t = { s with casc := t.casc, sent := t.sent } ∧
      (∀ p, p < 4 → sendsCompact s p = true → (t.cascPort p).prime = .priming ∧ (t.cascPort p).compactSent = true ∧
        Sent.compact p (compactBytes s) ∈ t.sent) ∧
      ∀ p, sendsCompact s p = false → t.cascPort p = s.cascPort p) ∧
  ∀ (p : CascPort) (b : Bytes) (s : State), s.tablesWf = true → portUp s p.val = true →
    (s.cascPort p.val).prime = .priming →
    (compactOk b = false → (s.cascPort p.val).primeFails < 15 → ∃ t, exec (.compactReceive p b) s = .next t ∧
      (t.cascPort p.val).primeFails = (s.cascPort p.val).primeFails + 1 ∧ (t.cascPort p.val).compactSent = false ∧
      t = { s with casc := t.casc }) ∧
    (compactOk b = false → 15 ≤ (s.cascPort p.val).primeFails → ∃ t, exec (.compactReceive p b) s = .next t ∧
      (∀ q, (tget {} (t.cascPort p.val).quads q).up = false) ∧ tb (t.cascPort p.val).errStatus.toNat 4 = true ∧
      t = { s with casc := t.casc }) ∧
    (compactOk b = true → wiredTo s.board.position.toNat p.val (fieldAt b 0 1) = false →
      ∃ t, exec (.compactReceive p b) s = .next t ∧ (t.cascPort p.val).prime = .notAdmitted ∧ t.board.reason = 2 ∧
        t = { s with casc := t.casc, board := t.board }) ∧
    (compactOk b = true → wiredTo s.board.position.toNat p.val (fieldAt b 0 1) = true → s.board.position = 0 →
      (s.time.running = true → ∃ t, exec (.compactReceive p b) s = .next t ∧
        (t.cascPort p.val).verdict = some (b, (fieldAt b 8 8 : Int) - beatTime s) ∧ t = { s with casc := t.casc }) ∧
      (s.time.running = false → compactConfig s b = true → compactFw s b = true → compactSame s b = true → fieldAt b 33 1 ≠ 1 →
        ∃ (t : State) (d : Bool), exec (.compactReceive p b) s = .next t ∧
          t.board = { s.board with admitEpoch := some (s.time.epoch + 4) } ∧
          t.sent = s.sent ++ [.vc {
            src := 0, dst := BitVec.ofNat 2 (fieldAt b 0 1)
            content := .epochName 0 [] (BitVec.ofNat 48 (s.time.epoch + 4)) } d] ∧
          t = { s with casc := t.casc, board := t.board, sent := t.sent }))
end

