-- ==== Sys2Proof/Laws/Cell.lean ====
section
/-! SUPPORT. What a delivery, the settling of a cell and a capture can change, said once (R52, R72, R97). -/

namespace Sys2Proof.Machine

/-- The parts of a cell that a delivered result can reach. -/
structure Reached (c d : CellState) : Prop where
  eq : d = { c with
    sreg := d.sreg, vreg := d.vreg, ws0 := d.ws0, ws1 := d.ws1, acc := d.acc, kinds := d.kinds, sp := d.sp, sample := d.sample
    faults := d.faults }

theorem reached_refl (c : CellState) : Reached c c := ⟨rfl⟩

theorem reached_trans {a b c : CellState} (h : Reached a b) (g : Reached b c) : Reached a c := by
  refine ⟨?_⟩
  rw [g.eq, h.eq]

theorem sSet_reached (c : CellState) (n : Nat) (v : PWord) : Reached c (sSet c n v) := by
  unfold sSet; split <;> exact ⟨rfl⟩

/-- One result reaches registers, weight slots, tiles, the scratchpad or the sample, and nothing else of its cell. -/
theorem deliverOne_reached (p : Bool) (work : Nat) (c : CellState) (d : Delivery) : Reached c (deliverOne p work c d).1 := by
  cases d with
  | scalar sd v => exact sSet_reached c sd v
  | slot ws w => simp only [deliverOne]; split <;> exact ⟨rfl⟩
  | _ => exact ⟨rfl⟩

/-- Only leaves and a drain meet a parity check (R124). -/
theorem deliverOne_check {p : Bool} {work : Nat} {c : CellState} {d : Delivery} (h : (deliverOne p work c d).2 = true) :
    (∃ t c0 first ref int cols, d = .leaves t c0 first ref int cols) ∨ ∃ t failed, d = .drain t failed := by
  cases d with
  | leaves t c0 first ref int cols => exact .inl ⟨t, c0, first, ref, int, cols, rfl⟩
  | drain t failed => exact .inr ⟨t, failed, rfl⟩
  | _ => exact absurd h Bool.false_ne_true

/-- A delivery, with the fault of a failed parity check where it has one. -/
theorem deliverDue_reached (p : Bool) (work stroke : Nat) (c : CellState) (q : Pending) :
    Reached c (deliverDue p work stroke c q) := by
  refine reached_trans (deliverOne_reached p work c q.what) ?_
  unfold deliverDue
  dsimp only
  split <;> exact ⟨rfl⟩

theorem foldl_deliverDue_reached (p : Bool) (work stroke : Nat) (l : List Pending) :
    ∀ c : CellState, Reached c (l.foldl (deliverDue p work stroke) c) := by
  induction l with
  | nil => exact reached_refl
  | cons q l ih => exact fun c => reached_trans (deliverDue_reached p work stroke c q) (ih _)

/-- Settling a cell delivers what is due and takes it off the list; it reaches nothing else. -/
theorem settle_reached (p : Bool) (now stroke : Nat) (c : CellState) :
    Reached { c with pend := c.pend.filter fun q => decide (now < q.due) } (settle p now stroke c) := by
  unfold settle
  dsimp only
  exact foldl_deliverDue_reached p _ _ _ _

section
variable (p : Bool) (now stroke : Nat) (c : CellState)

theorem settle_pend : (settle p now stroke c).pend = c.pend.filter fun q => decide (now < q.due) := by rw [(settle_reached p now stroke c).eq]
theorem settle_istore : (settle p now stroke c).istore = c.istore := by rw [(settle_reached p now stroke c).eq]
theorem settle_active : (settle p now stroke c).active = c.active := by rw [(settle_reached p now stroke c).eq]
theorem settle_waking : (settle p now stroke c).waking = c.waking := by rw [(settle_reached p now stroke c).eq]
theorem settle_task : (settle p now stroke c).task = c.task := by rw [(settle_reached p now stroke c).eq]
theorem settle_issue : (settle p now stroke c).issue = c.issue := by rw [(settle_reached p now stroke c).eq]
theorem settle_pc : (settle p now stroke c).pc = c.pc := by rw [(settle_reached p now stroke c).eq]
theorem settle_cycle : (settle p now stroke c).cycle = c.cycle := by rw [(settle_reached p now stroke c).eq]
theorem settle_crc : (settle p now stroke c).crc = c.crc := by rw [(settle_reached p now stroke c).eq]
theorem settle_outAt : (settle p now stroke c).outAt = c.outAt := by rw [(settle_reached p now stroke c).eq]

end

/-- With no cause nothing is captured. -/
theorem captureFault_nil (f : CellFaults) (t b k : Nat) (r : Bool) (n : Nat) : captureFault f [] t b k r n = f := rfl

/-- A slice without writes that wait settles to itself. -/
theorem settleGuard_nil {s : State} {k : Nat} (h : (s.site k).guard = []) (now : Nat) : settleGuard s k now = s := by
  unfold settleGuard
  dsimp only
  rw [if_pos (by rw [h]; rfl)]

end Sys2Proof.Machine
end

