-- ==== Sys2Proof/Laws/Tbl.lean ====
section
/-! SUPPORT. The laws of sparse tables: read after write, writes elsewhere, and the canonical form every operation keeps. -/

namespace Sys2Proof.Machine

variable {α : Type}

/-- Every listed key is at least a bound. -/
def keysGe (b : Nat) : Tbl α → Prop
  | [] => True
  | (k, _) :: m => b ≤ k ∧ keysGe (k + 1) m

/-- No listed value is the default. -/
def noDefault (d : α) (m : Tbl α) : Prop := ∀ p ∈ m, p.2 ≠ d

theorem keysGe_mono {a b : Nat} {m : Tbl α} (h : keysGe b m) (hab : a ≤ b) : keysGe a m := by
  cases m with
  | nil => trivial
  | cons p m => exact ⟨le_trans hab h.1, h.2⟩

theorem tget_of_lt (d : α) {b i : Nat} {m : Tbl α} (h : keysGe b m) (hi : i < b) : tget d m i = d := by
  induction m generalizing b with
  | nil => rfl
  | cons p m ih =>
    obtain ⟨k, v⟩ := p
    have hk : k ≠ i := by have := h.1; omega
    simp only [tget, hk, if_false]
    exact ih h.2 (by have := h.1; omega)

theorem tget_tput_same (d : α) (m : Tbl α) (i : Nat) (v : α) : tget d (tput m i v) i = v := by
  induction m with
  | nil => simp [tput, tget]
  | cons p m ih =>
    obtain ⟨k, w⟩ := p
    simp only [tput]
    split
    · simp [tget]
    · split
      · rename_i h; simp [tget, h]
      · rename_i h; simp [tget, h, ih]

theorem tget_tput_other (d : α) (m : Tbl α) {i j : Nat} (v : α) (h : j ≠ i) :
    tget d (tput m i v) j = tget d m j := by
  induction m with
  | nil => simp [tput, tget, h.symm]
  | cons p m ih =>
    obtain ⟨k, w⟩ := p
    simp only [tput]
    split
    · simp [tget, h.symm]
    · split
      · rename_i hk; subst hk; simp [tget, h.symm]
      · simp [tget, ih]

theorem tget_tdel_same (d : α) {b : Nat} {m : Tbl α} (i : Nat) (hm : keysGe b m) :
    tget d (tdel m i) i = d := by
  induction m generalizing b with
  | nil => rfl
  | cons p m ih =>
    obtain ⟨k, w⟩ := p
    simp only [tdel]
    split
    · rename_i h; exact tget_of_lt d hm.2 (by omega)
    · rename_i h; simp [tget, h, ih hm.2]

theorem tget_tdel_other (d : α) (m : Tbl α) {i j : Nat} (h : j ≠ i) :
    tget d (tdel m i) j = tget d m j := by
  induction m with
  | nil => rfl
  | cons p m ih =>
    obtain ⟨k, w⟩ := p
    simp only [tdel]
    split
    · rename_i hk; subst hk; simp [tget, h.symm]
    · simp [tget, ih]

/-- Reading a key just written gives the value written. -/
theorem tget_tset_same [DecidableEq α] (d : α) {b : Nat} {m : Tbl α} (i : Nat) (v : α) (hm : keysGe b m) :
    tget d (tset d m i v) i = v := by
  unfold tset
  split
  · rename_i h; rw [tget_tdel_same d i hm, h]
  · exact tget_tput_same d m i v

/-- A write leaves every other key alone. -/
theorem tget_tset_other [DecidableEq α] (d : α) (m : Tbl α) {i j : Nat} (v : α) (h : j ≠ i) :
    tget d (tset d m i v) j = tget d m j := by
  unfold tset
  split
  · exact tget_tdel_other d m h
  · exact tget_tput_other d m v h

theorem keysGe_tput {b i : Nat} {m : Tbl α} (v : α) (hm : keysGe b m) (hi : b ≤ i) : keysGe b (tput m i v) := by
  induction m generalizing b with
  | nil => exact ⟨hi, trivial⟩
  | cons p m ih =>
    obtain ⟨k, w⟩ := p
    simp only [tput]
    split
    · rename_i h; exact ⟨hi, h, hm.2⟩
    · split
      · exact hm
      · exact ⟨hm.1, ih hm.2 (by omega)⟩

theorem keysGe_tdel {b : Nat} {m : Tbl α} (i : Nat) (hm : keysGe b m) : keysGe b (tdel m i) := by
  induction m generalizing b with
  | nil => trivial
  | cons p m ih =>
    obtain ⟨k, w⟩ := p
    simp only [tdel]
    split
    · exact keysGe_mono hm.2 (by have := hm.1; omega)
    · exact ⟨hm.1, ih hm.2⟩

theorem keysGe_tset [DecidableEq α] (d : α) {m : Tbl α} (i : Nat) (v : α) (hm : keysGe 0 m) :
    keysGe 0 (tset d m i v) := by
  unfold tset
  split
  · exact keysGe_tdel i hm
  · exact keysGe_tput v hm (Nat.zero_le _)

theorem noDefault_tput (d : α) {m : Tbl α} (i : Nat) {v : α} (hv : v ≠ d) (hm : noDefault d m) :
    noDefault d (tput m i v) := by
  induction m with
  | nil => intro p hp; simp [tput] at hp; subst hp; exact hv
  | cons q m ih =>
    obtain ⟨k, w⟩ := q
    have hm' : noDefault d m := fun p hp => hm p (List.mem_cons_of_mem _ hp)
    have hq : w ≠ d := hm (k, w) (List.mem_cons_self)
    simp only [tput]
    split
    · intro p hp
      rcases List.mem_cons.mp hp with rfl | hp
      · exact hv
      · exact hm p hp
    · split
      · intro p hp
        rcases List.mem_cons.mp hp with rfl | hp
        · exact hv
        · exact hm' p hp
      · intro p hp
        rcases List.mem_cons.mp hp with rfl | hp
        · exact hq
        · exact ih hm' p hp

theorem noDefault_tdel (d : α) {m : Tbl α} (i : Nat) (hm : noDefault d m) : noDefault d (tdel m i) := by
  induction m with
  | nil => exact hm
  | cons q m ih =>
    obtain ⟨k, w⟩ := q
    have hm' : noDefault d m := fun p hp => hm p (List.mem_cons_of_mem _ hp)
    simp only [tdel]
    split
    · exact hm'
    · intro p hp
      rcases List.mem_cons.mp hp with rfl | hp
      · exact hm _ (List.mem_cons_self)
      · exact ih hm' p hp

theorem noDefault_tset [DecidableEq α] (d : α) {m : Tbl α} (i : Nat) (v : α) (hm : noDefault d m) :
    noDefault d (tset d m i v) := by
  unfold tset
  split
  · exact noDefault_tdel d i hm
  · rename_i h; exact noDefault_tput d i h hm

/-- The Boolean canonical form is the two facts: keys strictly rising and no default listed. -/
theorem tblWf_iff [DecidableEq α] (d : α) (m : Tbl α) : tblWf d m = true ↔ keysGe 0 m ∧ noDefault d m := by
  suffices h : ∀ b, keysGe b m → (tblWf d m = true ↔ noDefault d m) by
    constructor
    · intro hw
      have hk : keysGe 0 m := by
        clear h
        induction m with
        | nil => trivial
        | cons p m ih =>
          obtain ⟨k, v⟩ := p
          cases m with
          | nil => exact ⟨Nat.zero_le _, trivial⟩
          | cons q m =>
            obtain ⟨k', v'⟩ := q
            simp only [tblWf, Bool.and_eq_true, decide_eq_true_eq] at hw
            have := ih hw.2
            exact ⟨Nat.zero_le _, hw.1.2, this.2⟩
      exact ⟨hk, (h 0 hk).1 hw⟩
    · rintro ⟨hk, hn⟩; exact (h 0 hk).2 hn
  intro b hb
  induction m generalizing b with
  | nil => simp [tblWf, noDefault]
  | cons p m ih =>
    obtain ⟨k, v⟩ := p
    cases m with
    | nil => simp [tblWf, noDefault]
    | cons q m =>
      obtain ⟨k', v'⟩ := q
      have hk : k < k' := hb.2.1
      have := ih (k + 1) hb.2
      simp only [tblWf, Bool.and_eq_true, decide_eq_true_eq, this, noDefault, List.forall_mem_cons, hk, and_true]

/-- Writing keeps the canonical form. -/
theorem tblWf_tset [DecidableEq α] (d : α) {m : Tbl α} (i : Nat) (v : α) (hm : tblWf d m = true) :
    tblWf d (tset d m i v) = true := by
  rw [tblWf_iff] at *
  exact ⟨keysGe_tset d i v hm.1, noDefault_tset d i v hm.2⟩

/-- Writing consecutive keys keeps the canonical form. -/
theorem tblWf_tsetMany [DecidableEq α] (d : α) (vs : List α) {m : Tbl α} (i : Nat) (hm : tblWf d m = true) :
    tblWf d (tsetMany d m i vs) = true := by
  induction vs generalizing m i with
  | nil => exact hm
  | cons v vs ih => exact ih (i + 1) (tblWf_tset d i v hm)

theorem keysGe_tmapAll [DecidableEq α] (d : α) (f : Nat → α → α) {b : Nat} {m : Tbl α} (hm : keysGe b m) :
    keysGe b (tmapAll d f m) := by
  induction m generalizing b with
  | nil => trivial
  | cons p m ih =>
    obtain ⟨k, v⟩ := p
    simp only [tmapAll]
    split
    · exact keysGe_mono (ih hm.2) (by have := hm.1; omega)
    · exact ⟨hm.1, ih hm.2⟩

/-- Changing every entry keeps the canonical form. -/
theorem tblWf_tmapAll [DecidableEq α] (d : α) (f : Nat → α → α) {m : Tbl α} (hm : tblWf d m = true) :
    tblWf d (tmapAll d f m) = true := by
  rw [tblWf_iff] at *
  refine ⟨keysGe_tmapAll d f hm.1, ?_⟩
  clear hm
  induction m with
  | nil => intro p hp; cases hp
  | cons p m ih =>
    obtain ⟨k, v⟩ := p
    simp only [tmapAll]
    split
    · exact ih
    · rename_i h
      intro q hq
      rcases List.mem_cons.mp hq with rfl | hq
      · exact h
      · exact ih q hq

end Sys2Proof.Machine
end

