-- ==== Sys2Proof/Laws/Memory.lean ====
section
/-! SUPPORT. Every operation on a memory keeps its canonical form, and what a read after a write gives (R206, R228, R234). -/

namespace Sys2Proof.Machine

/-! ## The memories at reset -/

theorem reset_scratchpad_wf (k : Nat) : Memory.wf (State.reset.cell k).sp.bytes = true := rfl
theorem reset_slice_wf (k : Nat) : Memory.wf (State.reset.site k).mem = true := rfl
theorem reset_window_wf (w : Nat) : Memory.wf (State.reset.window w).bytes = true := rfl

/-! ## Runs of bytes -/

theorem wf_tsetMany {m : List Host.Cell} (h : Memory.wf m = true) (i : Nat) (l : Bytes) :
    Memory.wf (tsetMany 0 m i l) = true := tblWf_tsetMany 0 l i h

/-! ## Scratchpads -/

theorem spWordSet_wf {sp : Scratch} (h : Memory.wf sp.bytes = true) (w : Nat) (v : PWord) :
    Memory.wf (spWordSet sp w v).bytes = true := by
  unfold spWordSet
  split
  · exact h
  · exact wf_tsetMany h _ _

theorem spWordsSet_wf (l : List PWord) : ∀ {sp : Scratch} (w : Nat), Memory.wf sp.bytes = true →
    Memory.wf (spWordsSet sp w l).bytes = true := by
  induction l with
  | nil => intro sp w h; exact h
  | cons v vs ih => intro sp w h; exact ih (w + 1) (spWordSet_wf h w v)

theorem deliverLines_wf {c : CellState} (h : Memory.wf c.sp.bytes = true) (u : Nat) (inb : List Bool) (ms : List LineMove) :
    Memory.wf (deliverLines c u inb ms).sp.bytes = true := by
  unfold deliverLines
  dsimp only
  generalize (ms.zip inb).zipIdx = l
  generalize c.sp = sp at h
  induction l generalizing sp with
  | nil => exact h
  | cons q l ih =>
    refine ih _ ?_
    dsimp only
    split
    · exact spWordsSet_wf _ _ h
    · exact h

theorem deliverOne_wf {c : CellState} (p : Bool) (work : Nat) (h : Memory.wf c.sp.bytes = true) (d : Delivery) :
    Memory.wf (deliverOne p work c d).1.sp.bytes = true := by
  cases d with
  | scalar sd v => simp only [deliverOne, sSet]; split <;> exact h
  | slot ws w => simp only [deliverOne]; split <;> exact h
  | spWrite w data => exact spWordsSet_wf _ _ h
  | cisGet u inb ms => exact deliverLines_wf h u inb ms
  | _ => exact h

/-- A fault of a delivery leaves the scratchpad as the delivery made it. -/
theorem deliverDue_sp (p : Bool) (work stroke : Nat) (c : CellState) (q : Pending) :
    (deliverDue p work stroke c q).sp = (deliverOne p work c q.what).1.sp := by
  unfold deliverDue; dsimp only; split <;> rfl

/-- The delivery of every due result keeps the scratchpad canonical. -/
theorem settle_wf {c : CellState} (p : Bool) (now stroke : Nat) (h : Memory.wf c.sp.bytes = true) :
    Memory.wf (settle p now stroke c).sp.bytes = true := by
  unfold settle
  dsimp only
  generalize sortBy _ _ = l
  generalize hc : ({ c with pend := c.pend.filter fun q => decide (now < q.due) } : CellState) = d
  have hd : Memory.wf d.sp.bytes = true := by rw [← hc]; exact h
  clear hc
  induction l generalizing d with
  | nil => exact hd
  | cons q l ih => exact ih _ (by rw [deliverDue_sp]; exact deliverOne_wf p _ hd q.what)

theorem countReads_sp (p : Bool) (errs : List (Nat × CodeError)) (c : CellState) (l : List Nat) :
    (countReads p errs c l).sp = c.sp := rfl

theorem foldl_spWordSet_wf (f : Nat → PWord) (l : List Nat) : ∀ {sp : Scratch}, Memory.wf sp.bytes = true →
    Memory.wf (l.foldl (fun q w => spWordSet q w (f w)) sp).bytes = true := by
  induction l with
  | nil => intro sp h; exact h
  | cons w l ih => intro sp h; exact ih (spWordSet_wf h w (f w))

theorem scrubUnitOnce_wf {c : CellState} (p : Bool) (found : List (Nat × CodeError)) (u : Nat)
    (h : Memory.wf c.sp.bytes = true) : Memory.wf (scrubUnitOnce p found c u).sp.bytes = true := by
  unfold scrubUnitOnce
  dsimp only
  rw [countReads_sp]
  exact foldl_spWordSet_wf _ _ h

/-- A slack cycle keeps the scratchpad canonical. -/
theorem slackCycle_wf {c : CellState} (p : Bool) (found : List (Nat × CodeError)) (h : Memory.wf c.sp.bytes = true) :
    Memory.wf (slackCycle p found c).sp.bytes = true := by
  unfold slackCycle
  split
  · dsimp only
    generalize List.replicate 256 ({} : PWord) = l
    exact spWordsSet_wf l _ h
  · split
    · rename_i u _
      have hu := scrubUnitOnce_wf p found u h
      generalize scrubUnitOnce p found c u = d at hu
      exact hu
    · exact h

/-! ## Slices -/

theorem lineWrite_wf {st : SiteState} (h : Memory.wf st.mem = true) (x o : Nat) (d : Bytes) (p : Bool) :
    Memory.wf (lineWrite st x o d p).mem = true := wf_tsetMany h _ _

theorem csError_mem (st : SiteState) (b x k : Nat) : (csError st b x k).mem = st.mem := by
  unfold csError; split <;> rfl

/-- A read of a line counts and reports, and writes no data. -/
theorem readLine_mem (k : Nat) (found : List LineError) (back : Bool) (st : SiteState) (x : Nat) :
    (readLine k found back st x).1.mem = st.mem := by
  simp only [readLine, apply_ite SiteState.mem, csError_mem, ite_self]

theorem readLinesOf_mem (k : Nat) (found : List LineError) (back : Bool) (ls : List Nat) :
    ∀ st : SiteState, (readLinesOf k found back st ls).1.mem = st.mem := by
  suffices ∀ (l : List Nat) (q : SiteState × List Nat),
      (l.foldl (fun (q : SiteState × List Nat) x =>
        ((readLine k found back q.1 x).1, if (readLine k found back q.1 x).2 then q.2 ++ [x] else q.2)) q).1.mem = q.1.mem from
    fun st => this ls (st, [])
  intro l
  induction l with
  | nil => intro q; rfl
  | cons x l ih => intro q; exact (ih _).trans (readLine_mem k found back q.1 x)

/-- The access of a write keeps the slice canonical. -/
theorem commitPut_wf {st : SiteState} (k : Nat) (found : List LineError) (a : AccessReq) (h : Memory.wf st.mem = true) :
    Memory.wf (commitPut k found st a).mem = true := by
  unfold commitPut
  dsimp only
  generalize st.guard.filter _ = es
  suffices ∀ (l : List GuardEntry) (q : SiteState), Memory.wf q.mem = true →
      Memory.wf (l.foldl (fun st g =>
        if !g.live then st
        else
          let part := decide (¬ (g.offset = 0 ∧ 64 ≤ g.data.length))
          let (st, lost) := if part then readLine k found false st g.line else (st, false)
          lineWrite st g.line g.offset g.data (g.poison || lost)) q).mem = true from this es st h
  intro l
  induction l with
  | nil => intro q hq; exact hq
  | cons g l ih =>
    intro q hq
    refine ih _ ?_
    dsimp only
    split
    · exact hq
    · split
      · exact lineWrite_wf (by rw [readLine_mem]; exact hq) _ _ _ _
      · exact lineWrite_wf hq _ _ _ _

theorem transferWrite_wf {st : SiteState} (t : Transfer) (x : Nat) (d : Bytes) (p : List Nat) (h : Memory.wf st.mem = true) :
    Memory.wf (transferWrite st t x d p).mem = true := by
  unfold transferWrite
  generalize List.range _ = l
  induction l generalizing st with
  | nil => exact h
  | cons i l ih =>
    refine ih ?_
    dsimp only
    split
    · exact lineWrite_wf h _ _ _ _
    · exact h

/-- A background transfer keeps the slice canonical. -/
theorem doTransfer_wf {st : SiteState} (k : Nat) (found : List LineError) (t : Transfer) (h : Memory.wf st.mem = true) :
    Memory.wf (doTransfer k found st t).mem = true := by
  cases t with
  | refill x d => exact transferWrite_wf _ _ _ _ h
  | stage x d => exact transferWrite_wf _ _ _ _ h
  | farTier x d => exact transferWrite_wf _ _ _ _ h
  | sweep a b n => exact transferWrite_wf _ _ _ _ (by rw [readLinesOf_mem]; exact h)
  | farRead x n => show Memory.wf (readLinesOf _ _ _ _ _).1.mem = true; rw [readLinesOf_mem]; exact h
  | shadow x n => show Memory.wf (readLinesOf _ _ _ _ _).1.mem = true; rw [readLinesOf_mem]; exact h
  | digest x n => show Memory.wf (readLinesOf _ _ _ _ _).1.mem = true; rw [readLinesOf_mem]; exact h

end Sys2Proof.Machine
end

