-- ==== Sys2Proof/Laws/State.lean ====
section
/-! SUPPORT. What each update of the state leaves and sets, one lemma for each field of each update, and what a part of the
wafer reads after a write to it or to another. -/

namespace Sys2Proof.Machine

variable (s : State)

/-! ## State.setSite -/

@[simp] theorem State.setSite_pending (k : Nat) (v : SiteState) : (s.setSite k v).pending = s.pending := rfl
@[simp] theorem State.setSite_time (k : Nat) (v : SiteState) : (s.setSite k v).time = s.time := rfl
@[simp] theorem State.setSite_cells (k : Nat) (v : SiteState) : (s.setSite k v).cells = s.cells := rfl
@[simp] theorem State.setSite_sites (k : Nat) (v : SiteState) : (s.setSite k v).sites = tset {} s.sites k v := rfl
@[simp] theorem State.setSite_routers (k : Nat) (v : SiteState) : (s.setSite k v).routers = s.routers := rfl
@[simp] theorem State.setSite_fields (k : Nat) (v : SiteState) : (s.setSite k v).fields = s.fields := rfl
@[simp] theorem State.setSite_flits (k : Nat) (v : SiteState) : (s.setSite k v).flits = s.flits := rfl
@[simp] theorem State.setSite_gets (k : Nat) (v : SiteState) : (s.setSite k v).gets = s.gets := rfl
@[simp] theorem State.setSite_posts (k : Nat) (v : SiteState) : (s.setSite k v).posts = s.posts := rfl
@[simp] theorem State.setSite_wafer (k : Nat) (v : SiteState) : (s.setSite k v).wafer = s.wafer := rfl
@[simp] theorem State.setSite_events (k : Nat) (v : SiteState) : (s.setSite k v).events = s.events := rfl
@[simp] theorem State.setSite_own (k : Nat) (v : SiteState) : (s.setSite k v).own = s.own := rfl
@[simp] theorem State.setSite_plan (k : Nat) (v : SiteState) : (s.setSite k v).plan = s.plan := rfl
@[simp] theorem State.setSite_serve (k : Nat) (v : SiteState) : (s.setSite k v).serve = s.serve := rfl
@[simp] theorem State.setSite_kv (k : Nat) (v : SiteState) : (s.setSite k v).kv = s.kv := rfl
@[simp] theorem State.setSite_ledger (k : Nat) (v : SiteState) : (s.setSite k v).ledger = s.ledger := rfl
@[simp] theorem State.setSite_weights (k : Nat) (v : SiteState) : (s.setSite k v).weights = s.weights := rfl
@[simp] theorem State.setSite_windows (k : Nat) (v : SiteState) : (s.setSite k v).windows = s.windows := rfl
@[simp] theorem State.setSite_ports (k : Nat) (v : SiteState) : (s.setSite k v).ports = s.ports := rfl
@[simp] theorem State.setSite_ep (k : Nat) (v : SiteState) : (s.setSite k v).ep = s.ep := rfl
@[simp] theorem State.setSite_ptp (k : Nat) (v : SiteState) : (s.setSite k v).ptp = s.ptp := rfl
@[simp] theorem State.setSite_casc (k : Nat) (v : SiteState) : (s.setSite k v).casc = s.casc := rfl
@[simp] theorem State.setSite_board (k : Nat) (v : SiteState) : (s.setSite k v).board = s.board := rfl
@[simp] theorem State.setSite_power (k : Nat) (v : SiteState) : (s.setSite k v).power = s.power := rfl
@[simp] theorem State.setSite_heat (k : Nat) (v : SiteState) : (s.setSite k v).heat = s.heat := rfl
@[simp] theorem State.setSite_txn (k : Nat) (v : SiteState) : (s.setSite k v).txn = s.txn := rfl
@[simp] theorem State.setSite_fw (k : Nat) (v : SiteState) : (s.setSite k v).fw = s.fw := rfl
@[simp] theorem State.setSite_otp (k : Nat) (v : SiteState) : (s.setSite k v).otp = s.otp := rfl
@[simp] theorem State.setSite_faults (k : Nat) (v : SiteState) : (s.setSite k v).faults = s.faults := rfl
@[simp] theorem State.setSite_mgmt (k : Nat) (v : SiteState) : (s.setSite k v).mgmt = s.mgmt := rfl
@[simp] theorem State.setSite_sent (k : Nat) (v : SiteState) : (s.setSite k v).sent = s.sent := rfl
@[simp] theorem State.setSite_freeCount (k : Nat) (v : SiteState) : (s.setSite k v).freeCount = s.freeCount := rfl

/-! ## State.setRouter -/

@[simp] theorem State.setRouter_pending (k : Nat) (v : RouterState) : (s.setRouter k v).pending = s.pending := rfl
@[simp] theorem State.setRouter_time (k : Nat) (v : RouterState) : (s.setRouter k v).time = s.time := rfl
@[simp] theorem State.setRouter_cells (k : Nat) (v : RouterState) : (s.setRouter k v).cells = s.cells := rfl
@[simp] theorem State.setRouter_sites (k : Nat) (v : RouterState) : (s.setRouter k v).sites = s.sites := rfl
@[simp] theorem State.setRouter_routers (k : Nat) (v : RouterState) : (s.setRouter k v).routers = tset {} s.routers k v := rfl
@[simp] theorem State.setRouter_fields (k : Nat) (v : RouterState) : (s.setRouter k v).fields = s.fields := rfl
@[simp] theorem State.setRouter_flits (k : Nat) (v : RouterState) : (s.setRouter k v).flits = s.flits := rfl
@[simp] theorem State.setRouter_gets (k : Nat) (v : RouterState) : (s.setRouter k v).gets = s.gets := rfl
@[simp] theorem State.setRouter_posts (k : Nat) (v : RouterState) : (s.setRouter k v).posts = s.posts := rfl
@[simp] theorem State.setRouter_wafer (k : Nat) (v : RouterState) : (s.setRouter k v).wafer = s.wafer := rfl
@[simp] theorem State.setRouter_events (k : Nat) (v : RouterState) : (s.setRouter k v).events = s.events := rfl
@[simp] theorem State.setRouter_own (k : Nat) (v : RouterState) : (s.setRouter k v).own = s.own := rfl
@[simp] theorem State.setRouter_plan (k : Nat) (v : RouterState) : (s.setRouter k v).plan = s.plan := rfl
@[simp] theorem State.setRouter_serve (k : Nat) (v : RouterState) : (s.setRouter k v).serve = s.serve := rfl
@[simp] theorem State.setRouter_kv (k : Nat) (v : RouterState) : (s.setRouter k v).kv = s.kv := rfl
@[simp] theorem State.setRouter_ledger (k : Nat) (v : RouterState) : (s.setRouter k v).ledger = s.ledger := rfl
@[simp] theorem State.setRouter_weights (k : Nat) (v : RouterState) : (s.setRouter k v).weights = s.weights := rfl
@[simp] theorem State.setRouter_windows (k : Nat) (v : RouterState) : (s.setRouter k v).windows = s.windows := rfl
@[simp] theorem State.setRouter_ports (k : Nat) (v : RouterState) : (s.setRouter k v).ports = s.ports := rfl
@[simp] theorem State.setRouter_ep (k : Nat) (v : RouterState) : (s.setRouter k v).ep = s.ep := rfl
@[simp] theorem State.setRouter_ptp (k : Nat) (v : RouterState) : (s.setRouter k v).ptp = s.ptp := rfl
@[simp] theorem State.setRouter_casc (k : Nat) (v : RouterState) : (s.setRouter k v).casc = s.casc := rfl
@[simp] theorem State.setRouter_board (k : Nat) (v : RouterState) : (s.setRouter k v).board = s.board := rfl
@[simp] theorem State.setRouter_power (k : Nat) (v : RouterState) : (s.setRouter k v).power = s.power := rfl
@[simp] theorem State.setRouter_heat (k : Nat) (v : RouterState) : (s.setRouter k v).heat = s.heat := rfl
@[simp] theorem State.setRouter_txn (k : Nat) (v : RouterState) : (s.setRouter k v).txn = s.txn := rfl
@[simp] theorem State.setRouter_fw (k : Nat) (v : RouterState) : (s.setRouter k v).fw = s.fw := rfl
@[simp] theorem State.setRouter_otp (k : Nat) (v : RouterState) : (s.setRouter k v).otp = s.otp := rfl
@[simp] theorem State.setRouter_faults (k : Nat) (v : RouterState) : (s.setRouter k v).faults = s.faults := rfl
@[simp] theorem State.setRouter_mgmt (k : Nat) (v : RouterState) : (s.setRouter k v).mgmt = s.mgmt := rfl
@[simp] theorem State.setRouter_sent (k : Nat) (v : RouterState) : (s.setRouter k v).sent = s.sent := rfl
@[simp] theorem State.setRouter_freeCount (k : Nat) (v : RouterState) : (s.setRouter k v).freeCount = s.freeCount := rfl

/-! ## State.setField -/

@[simp] theorem State.setField_pending (f : Nat) (v : FieldState) : (s.setField f v).pending = s.pending := rfl
@[simp] theorem State.setField_time (f : Nat) (v : FieldState) : (s.setField f v).time = s.time := rfl
@[simp] theorem State.setField_cells (f : Nat) (v : FieldState) : (s.setField f v).cells = s.cells := rfl
@[simp] theorem State.setField_sites (f : Nat) (v : FieldState) : (s.setField f v).sites = s.sites := rfl
@[simp] theorem State.setField_routers (f : Nat) (v : FieldState) : (s.setField f v).routers = s.routers := rfl
@[simp] theorem State.setField_fields (f : Nat) (v : FieldState) : (s.setField f v).fields = tset {} s.fields f v := rfl
@[simp] theorem State.setField_flits (f : Nat) (v : FieldState) : (s.setField f v).flits = s.flits := rfl
@[simp] theorem State.setField_gets (f : Nat) (v : FieldState) : (s.setField f v).gets = s.gets := rfl
@[simp] theorem State.setField_posts (f : Nat) (v : FieldState) : (s.setField f v).posts = s.posts := rfl
@[simp] theorem State.setField_wafer (f : Nat) (v : FieldState) : (s.setField f v).wafer = s.wafer := rfl
@[simp] theorem State.setField_events (f : Nat) (v : FieldState) : (s.setField f v).events = s.events := rfl
@[simp] theorem State.setField_own (f : Nat) (v : FieldState) : (s.setField f v).own = s.own := rfl
@[simp] theorem State.setField_plan (f : Nat) (v : FieldState) : (s.setField f v).plan = s.plan := rfl
@[simp] theorem State.setField_serve (f : Nat) (v : FieldState) : (s.setField f v).serve = s.serve := rfl
@[simp] theorem State.setField_kv (f : Nat) (v : FieldState) : (s.setField f v).kv = s.kv := rfl
@[simp] theorem State.setField_ledger (f : Nat) (v : FieldState) : (s.setField f v).ledger = s.ledger := rfl
@[simp] theorem State.setField_weights (f : Nat) (v : FieldState) : (s.setField f v).weights = s.weights := rfl
@[simp] theorem State.setField_windows (f : Nat) (v : FieldState) : (s.setField f v).windows = s.windows := rfl
@[simp] theorem State.setField_ports (f : Nat) (v : FieldState) : (s.setField f v).ports = s.ports := rfl
@[simp] theorem State.setField_ep (f : Nat) (v : FieldState) : (s.setField f v).ep = s.ep := rfl
@[simp] theorem State.setField_ptp (f : Nat) (v : FieldState) : (s.setField f v).ptp = s.ptp := rfl
@[simp] theorem State.setField_casc (f : Nat) (v : FieldState) : (s.setField f v).casc = s.casc := rfl
@[simp] theorem State.setField_board (f : Nat) (v : FieldState) : (s.setField f v).board = s.board := rfl
@[simp] theorem State.setField_power (f : Nat) (v : FieldState) : (s.setField f v).power = s.power := rfl
@[simp] theorem State.setField_heat (f : Nat) (v : FieldState) : (s.setField f v).heat = s.heat := rfl
@[simp] theorem State.setField_txn (f : Nat) (v : FieldState) : (s.setField f v).txn = s.txn := rfl
@[simp] theorem State.setField_fw (f : Nat) (v : FieldState) : (s.setField f v).fw = s.fw := rfl
@[simp] theorem State.setField_otp (f : Nat) (v : FieldState) : (s.setField f v).otp = s.otp := rfl
@[simp] theorem State.setField_faults (f : Nat) (v : FieldState) : (s.setField f v).faults = s.faults := rfl
@[simp] theorem State.setField_mgmt (f : Nat) (v : FieldState) : (s.setField f v).mgmt = s.mgmt := rfl
@[simp] theorem State.setField_sent (f : Nat) (v : FieldState) : (s.setField f v).sent = s.sent := rfl
@[simp] theorem State.setField_freeCount (f : Nat) (v : FieldState) : (s.setField f v).freeCount = s.freeCount := rfl

/-! ## State.setPort -/

@[simp] theorem State.setPort_pending (p : Nat) (v : PortState) : (s.setPort p v).pending = s.pending := rfl
@[simp] theorem State.setPort_time (p : Nat) (v : PortState) : (s.setPort p v).time = s.time := rfl
@[simp] theorem State.setPort_cells (p : Nat) (v : PortState) : (s.setPort p v).cells = s.cells := rfl
@[simp] theorem State.setPort_sites (p : Nat) (v : PortState) : (s.setPort p v).sites = s.sites := rfl
@[simp] theorem State.setPort_routers (p : Nat) (v : PortState) : (s.setPort p v).routers = s.routers := rfl
@[simp] theorem State.setPort_fields (p : Nat) (v : PortState) : (s.setPort p v).fields = s.fields := rfl
@[simp] theorem State.setPort_flits (p : Nat) (v : PortState) : (s.setPort p v).flits = s.flits := rfl
@[simp] theorem State.setPort_gets (p : Nat) (v : PortState) : (s.setPort p v).gets = s.gets := rfl
@[simp] theorem State.setPort_posts (p : Nat) (v : PortState) : (s.setPort p v).posts = s.posts := rfl
@[simp] theorem State.setPort_wafer (p : Nat) (v : PortState) : (s.setPort p v).wafer = s.wafer := rfl
@[simp] theorem State.setPort_events (p : Nat) (v : PortState) : (s.setPort p v).events = s.events := rfl
@[simp] theorem State.setPort_own (p : Nat) (v : PortState) : (s.setPort p v).own = s.own := rfl
@[simp] theorem State.setPort_plan (p : Nat) (v : PortState) : (s.setPort p v).plan = s.plan := rfl
@[simp] theorem State.setPort_serve (p : Nat) (v : PortState) : (s.setPort p v).serve = s.serve := rfl
@[simp] theorem State.setPort_kv (p : Nat) (v : PortState) : (s.setPort p v).kv = s.kv := rfl
@[simp] theorem State.setPort_ledger (p : Nat) (v : PortState) : (s.setPort p v).ledger = s.ledger := rfl
@[simp] theorem State.setPort_weights (p : Nat) (v : PortState) : (s.setPort p v).weights = s.weights := rfl
@[simp] theorem State.setPort_windows (p : Nat) (v : PortState) : (s.setPort p v).windows = s.windows := rfl
@[simp] theorem State.setPort_ports (p : Nat) (v : PortState) : (s.setPort p v).ports = tset {} s.ports p v := rfl
@[simp] theorem State.setPort_ep (p : Nat) (v : PortState) : (s.setPort p v).ep = s.ep := rfl
@[simp] theorem State.setPort_ptp (p : Nat) (v : PortState) : (s.setPort p v).ptp = s.ptp := rfl
@[simp] theorem State.setPort_casc (p : Nat) (v : PortState) : (s.setPort p v).casc = s.casc := rfl
@[simp] theorem State.setPort_board (p : Nat) (v : PortState) : (s.setPort p v).board = s.board := rfl
@[simp] theorem State.setPort_power (p : Nat) (v : PortState) : (s.setPort p v).power = s.power := rfl
@[simp] theorem State.setPort_heat (p : Nat) (v : PortState) : (s.setPort p v).heat = s.heat := rfl
@[simp] theorem State.setPort_txn (p : Nat) (v : PortState) : (s.setPort p v).txn = s.txn := rfl
@[simp] theorem State.setPort_fw (p : Nat) (v : PortState) : (s.setPort p v).fw = s.fw := rfl
@[simp] theorem State.setPort_otp (p : Nat) (v : PortState) : (s.setPort p v).otp = s.otp := rfl
@[simp] theorem State.setPort_faults (p : Nat) (v : PortState) : (s.setPort p v).faults = s.faults := rfl
@[simp] theorem State.setPort_mgmt (p : Nat) (v : PortState) : (s.setPort p v).mgmt = s.mgmt := rfl
@[simp] theorem State.setPort_sent (p : Nat) (v : PortState) : (s.setPort p v).sent = s.sent := rfl
@[simp] theorem State.setPort_freeCount (p : Nat) (v : PortState) : (s.setPort p v).freeCount = s.freeCount := rfl

/-! ## State.setCascPort -/

@[simp] theorem State.setCascPort_pending (p : Nat) (v : CascState) : (s.setCascPort p v).pending = s.pending := rfl
@[simp] theorem State.setCascPort_time (p : Nat) (v : CascState) : (s.setCascPort p v).time = s.time := rfl
@[simp] theorem State.setCascPort_cells (p : Nat) (v : CascState) : (s.setCascPort p v).cells = s.cells := rfl
@[simp] theorem State.setCascPort_sites (p : Nat) (v : CascState) : (s.setCascPort p v).sites = s.sites := rfl
@[simp] theorem State.setCascPort_routers (p : Nat) (v : CascState) : (s.setCascPort p v).routers = s.routers := rfl
@[simp] theorem State.setCascPort_fields (p : Nat) (v : CascState) : (s.setCascPort p v).fields = s.fields := rfl
@[simp] theorem State.setCascPort_flits (p : Nat) (v : CascState) : (s.setCascPort p v).flits = s.flits := rfl
@[simp] theorem State.setCascPort_gets (p : Nat) (v : CascState) : (s.setCascPort p v).gets = s.gets := rfl
@[simp] theorem State.setCascPort_posts (p : Nat) (v : CascState) : (s.setCascPort p v).posts = s.posts := rfl
@[simp] theorem State.setCascPort_wafer (p : Nat) (v : CascState) : (s.setCascPort p v).wafer = s.wafer := rfl
@[simp] theorem State.setCascPort_events (p : Nat) (v : CascState) : (s.setCascPort p v).events = s.events := rfl
@[simp] theorem State.setCascPort_own (p : Nat) (v : CascState) : (s.setCascPort p v).own = s.own := rfl
@[simp] theorem State.setCascPort_plan (p : Nat) (v : CascState) : (s.setCascPort p v).plan = s.plan := rfl
@[simp] theorem State.setCascPort_serve (p : Nat) (v : CascState) : (s.setCascPort p v).serve = s.serve := rfl
@[simp] theorem State.setCascPort_kv (p : Nat) (v : CascState) : (s.setCascPort p v).kv = s.kv := rfl
@[simp] theorem State.setCascPort_ledger (p : Nat) (v : CascState) : (s.setCascPort p v).ledger = s.ledger := rfl
@[simp] theorem State.setCascPort_weights (p : Nat) (v : CascState) : (s.setCascPort p v).weights = s.weights := rfl
@[simp] theorem State.setCascPort_windows (p : Nat) (v : CascState) : (s.setCascPort p v).windows = s.windows := rfl
@[simp] theorem State.setCascPort_ports (p : Nat) (v : CascState) : (s.setCascPort p v).ports = s.ports := rfl
@[simp] theorem State.setCascPort_ep (p : Nat) (v : CascState) : (s.setCascPort p v).ep = s.ep := rfl
@[simp] theorem State.setCascPort_ptp (p : Nat) (v : CascState) : (s.setCascPort p v).ptp = s.ptp := rfl
@[simp] theorem State.setCascPort_casc (p : Nat) (v : CascState) : (s.setCascPort p v).casc = tset {} s.casc p v := rfl
@[simp] theorem State.setCascPort_board (p : Nat) (v : CascState) : (s.setCascPort p v).board = s.board := rfl
@[simp] theorem State.setCascPort_power (p : Nat) (v : CascState) : (s.setCascPort p v).power = s.power := rfl
@[simp] theorem State.setCascPort_heat (p : Nat) (v : CascState) : (s.setCascPort p v).heat = s.heat := rfl
@[simp] theorem State.setCascPort_txn (p : Nat) (v : CascState) : (s.setCascPort p v).txn = s.txn := rfl
@[simp] theorem State.setCascPort_fw (p : Nat) (v : CascState) : (s.setCascPort p v).fw = s.fw := rfl
@[simp] theorem State.setCascPort_otp (p : Nat) (v : CascState) : (s.setCascPort p v).otp = s.otp := rfl
@[simp] theorem State.setCascPort_faults (p : Nat) (v : CascState) : (s.setCascPort p v).faults = s.faults := rfl
@[simp] theorem State.setCascPort_mgmt (p : Nat) (v : CascState) : (s.setCascPort p v).mgmt = s.mgmt := rfl
@[simp] theorem State.setCascPort_sent (p : Nat) (v : CascState) : (s.setCascPort p v).sent = s.sent := rfl
@[simp] theorem State.setCascPort_freeCount (p : Nat) (v : CascState) : (s.setCascPort p v).freeCount = s.freeCount := rfl

/-! ## State.setWindow -/

@[simp] theorem State.setWindow_pending (w : Nat) (v : Window) : (s.setWindow w v).pending = s.pending := rfl
@[simp] theorem State.setWindow_time (w : Nat) (v : Window) : (s.setWindow w v).time = s.time := rfl
@[simp] theorem State.setWindow_cells (w : Nat) (v : Window) : (s.setWindow w v).cells = s.cells := rfl
@[simp] theorem State.setWindow_sites (w : Nat) (v : Window) : (s.setWindow w v).sites = s.sites := rfl
@[simp] theorem State.setWindow_routers (w : Nat) (v : Window) : (s.setWindow w v).routers = s.routers := rfl
@[simp] theorem State.setWindow_fields (w : Nat) (v : Window) : (s.setWindow w v).fields = s.fields := rfl
@[simp] theorem State.setWindow_flits (w : Nat) (v : Window) : (s.setWindow w v).flits = s.flits := rfl
@[simp] theorem State.setWindow_gets (w : Nat) (v : Window) : (s.setWindow w v).gets = s.gets := rfl
@[simp] theorem State.setWindow_posts (w : Nat) (v : Window) : (s.setWindow w v).posts = s.posts := rfl
@[simp] theorem State.setWindow_wafer (w : Nat) (v : Window) : (s.setWindow w v).wafer = s.wafer := rfl
@[simp] theorem State.setWindow_events (w : Nat) (v : Window) : (s.setWindow w v).events = s.events := rfl
@[simp] theorem State.setWindow_own (w : Nat) (v : Window) : (s.setWindow w v).own = s.own := rfl
@[simp] theorem State.setWindow_plan (w : Nat) (v : Window) : (s.setWindow w v).plan = s.plan := rfl
@[simp] theorem State.setWindow_serve (w : Nat) (v : Window) : (s.setWindow w v).serve = s.serve := rfl
@[simp] theorem State.setWindow_kv (w : Nat) (v : Window) : (s.setWindow w v).kv = s.kv := rfl
@[simp] theorem State.setWindow_ledger (w : Nat) (v : Window) : (s.setWindow w v).ledger = s.ledger := rfl
@[simp] theorem State.setWindow_weights (w : Nat) (v : Window) : (s.setWindow w v).weights = s.weights := rfl
@[simp] theorem State.setWindow_windows (w : Nat) (v : Window) : (s.setWindow w v).windows = tset {} s.windows w v := rfl
@[simp] theorem State.setWindow_ports (w : Nat) (v : Window) : (s.setWindow w v).ports = s.ports := rfl
@[simp] theorem State.setWindow_ep (w : Nat) (v : Window) : (s.setWindow w v).ep = s.ep := rfl
@[simp] theorem State.setWindow_ptp (w : Nat) (v : Window) : (s.setWindow w v).ptp = s.ptp := rfl
@[simp] theorem State.setWindow_casc (w : Nat) (v : Window) : (s.setWindow w v).casc = s.casc := rfl
@[simp] theorem State.setWindow_board (w : Nat) (v : Window) : (s.setWindow w v).board = s.board := rfl
@[simp] theorem State.setWindow_power (w : Nat) (v : Window) : (s.setWindow w v).power = s.power := rfl
@[simp] theorem State.setWindow_heat (w : Nat) (v : Window) : (s.setWindow w v).heat = s.heat := rfl
@[simp] theorem State.setWindow_txn (w : Nat) (v : Window) : (s.setWindow w v).txn = s.txn := rfl
@[simp] theorem State.setWindow_fw (w : Nat) (v : Window) : (s.setWindow w v).fw = s.fw := rfl
@[simp] theorem State.setWindow_otp (w : Nat) (v : Window) : (s.setWindow w v).otp = s.otp := rfl
@[simp] theorem State.setWindow_faults (w : Nat) (v : Window) : (s.setWindow w v).faults = s.faults := rfl
@[simp] theorem State.setWindow_mgmt (w : Nat) (v : Window) : (s.setWindow w v).mgmt = s.mgmt := rfl
@[simp] theorem State.setWindow_sent (w : Nat) (v : Window) : (s.setWindow w v).sent = s.sent := rfl
@[simp] theorem State.setWindow_freeCount (w : Nat) (v : Window) : (s.setWindow w v).freeCount = s.freeCount := rfl

/-! ## State.modSite -/

@[simp] theorem State.modSite_pending (k : Nat) (g : SiteState → SiteState) : (s.modSite k g).pending = s.pending := rfl
@[simp] theorem State.modSite_time (k : Nat) (g : SiteState → SiteState) : (s.modSite k g).time = s.time := rfl
@[simp] theorem State.modSite_cells (k : Nat) (g : SiteState → SiteState) : (s.modSite k g).cells = s.cells := rfl
@[simp] theorem State.modSite_sites (k : Nat) (g : SiteState → SiteState) : (s.modSite k g).sites = tset {} s.sites k (g (s.site k)) := rfl
@[simp] theorem State.modSite_routers (k : Nat) (g : SiteState → SiteState) : (s.modSite k g).routers = s.routers := rfl
@[simp] theorem State.modSite_fields (k : Nat) (g : SiteState → SiteState) : (s.modSite k g).fields = s.fields := rfl
@[simp] theorem State.modSite_flits (k : Nat) (g : SiteState → SiteState) : (s.modSite k g).flits = s.flits := rfl
@[simp] theorem State.modSite_gets (k : Nat) (g : SiteState → SiteState) : (s.modSite k g).gets = s.gets := rfl
@[simp] theorem State.modSite_posts (k : Nat) (g : SiteState → SiteState) : (s.modSite k g).posts = s.posts := rfl
@[simp] theorem State.modSite_wafer (k : Nat) (g : SiteState → SiteState) : (s.modSite k g).wafer = s.wafer := rfl
@[simp] theorem State.modSite_events (k : Nat) (g : SiteState → SiteState) : (s.modSite k g).events = s.events := rfl
@[simp] theorem State.modSite_own (k : Nat) (g : SiteState → SiteState) : (s.modSite k g).own = s.own := rfl
@[simp] theorem State.modSite_plan (k : Nat) (g : SiteState → SiteState) : (s.modSite k g).plan = s.plan := rfl
@[simp] theorem State.modSite_serve (k : Nat) (g : SiteState → SiteState) : (s.modSite k g).serve = s.serve := rfl
@[simp] theorem State.modSite_kv (k : Nat) (g : SiteState → SiteState) : (s.modSite k g).kv = s.kv := rfl
@[simp] theorem State.modSite_ledger (k : Nat) (g : SiteState → SiteState) : (s.modSite k g).ledger = s.ledger := rfl
@[simp] theorem State.modSite_weights (k : Nat) (g : SiteState → SiteState) : (s.modSite k g).weights = s.weights := rfl
@[simp] theorem State.modSite_windows (k : Nat) (g : SiteState → SiteState) : (s.modSite k g).windows = s.windows := rfl
@[simp] theorem State.modSite_ports (k : Nat) (g : SiteState → SiteState) : (s.modSite k g).ports = s.ports := rfl
@[simp] theorem State.modSite_ep (k : Nat) (g : SiteState → SiteState) : (s.modSite k g).ep = s.ep := rfl
@[simp] theorem State.modSite_ptp (k : Nat) (g : SiteState → SiteState) : (s.modSite k g).ptp = s.ptp := rfl
@[simp] theorem State.modSite_casc (k : Nat) (g : SiteState → SiteState) : (s.modSite k g).casc = s.casc := rfl
@[simp] theorem State.modSite_board (k : Nat) (g : SiteState → SiteState) : (s.modSite k g).board = s.board := rfl
@[simp] theorem State.modSite_power (k : Nat) (g : SiteState → SiteState) : (s.modSite k g).power = s.power := rfl
@[simp] theorem State.modSite_heat (k : Nat) (g : SiteState → SiteState) : (s.modSite k g).heat = s.heat := rfl
@[simp] theorem State.modSite_txn (k : Nat) (g : SiteState → SiteState) : (s.modSite k g).txn = s.txn := rfl
@[simp] theorem State.modSite_fw (k : Nat) (g : SiteState → SiteState) : (s.modSite k g).fw = s.fw := rfl
@[simp] theorem State.modSite_otp (k : Nat) (g : SiteState → SiteState) : (s.modSite k g).otp = s.otp := rfl
@[simp] theorem State.modSite_faults (k : Nat) (g : SiteState → SiteState) : (s.modSite k g).faults = s.faults := rfl
@[simp] theorem State.modSite_mgmt (k : Nat) (g : SiteState → SiteState) : (s.modSite k g).mgmt = s.mgmt := rfl
@[simp] theorem State.modSite_sent (k : Nat) (g : SiteState → SiteState) : (s.modSite k g).sent = s.sent := rfl
@[simp] theorem State.modSite_freeCount (k : Nat) (g : SiteState → SiteState) : (s.modSite k g).freeCount = s.freeCount := rfl

/-! ## State.modRouter -/

@[simp] theorem State.modRouter_pending (k : Nat) (g : RouterState → RouterState) : (s.modRouter k g).pending = s.pending := rfl
@[simp] theorem State.modRouter_time (k : Nat) (g : RouterState → RouterState) : (s.modRouter k g).time = s.time := rfl
@[simp] theorem State.modRouter_cells (k : Nat) (g : RouterState → RouterState) : (s.modRouter k g).cells = s.cells := rfl
@[simp] theorem State.modRouter_sites (k : Nat) (g : RouterState → RouterState) : (s.modRouter k g).sites = s.sites := rfl
@[simp] theorem State.modRouter_routers (k : Nat) (g : RouterState → RouterState) : (s.modRouter k g).routers = tset {} s.routers k (g (s.router k)) := rfl
@[simp] theorem State.modRouter_fields (k : Nat) (g : RouterState → RouterState) : (s.modRouter k g).fields = s.fields := rfl
@[simp] theorem State.modRouter_flits (k : Nat) (g : RouterState → RouterState) : (s.modRouter k g).flits = s.flits := rfl
@[simp] theorem State.modRouter_gets (k : Nat) (g : RouterState → RouterState) : (s.modRouter k g).gets = s.gets := rfl
@[simp] theorem State.modRouter_posts (k : Nat) (g : RouterState → RouterState) : (s.modRouter k g).posts = s.posts := rfl
@[simp] theorem State.modRouter_wafer (k : Nat) (g : RouterState → RouterState) : (s.modRouter k g).wafer = s.wafer := rfl
@[simp] theorem State.modRouter_events (k : Nat) (g : RouterState → RouterState) : (s.modRouter k g).events = s.events := rfl
@[simp] theorem State.modRouter_own (k : Nat) (g : RouterState → RouterState) : (s.modRouter k g).own = s.own := rfl
@[simp] theorem State.modRouter_plan (k : Nat) (g : RouterState → RouterState) : (s.modRouter k g).plan = s.plan := rfl
@[simp] theorem State.modRouter_serve (k : Nat) (g : RouterState → RouterState) : (s.modRouter k g).serve = s.serve := rfl
@[simp] theorem State.modRouter_kv (k : Nat) (g : RouterState → RouterState) : (s.modRouter k g).kv = s.kv := rfl
@[simp] theorem State.modRouter_ledger (k : Nat) (g : RouterState → RouterState) : (s.modRouter k g).ledger = s.ledger := rfl
@[simp] theorem State.modRouter_weights (k : Nat) (g : RouterState → RouterState) : (s.modRouter k g).weights = s.weights := rfl
@[simp] theorem State.modRouter_windows (k : Nat) (g : RouterState → RouterState) : (s.modRouter k g).windows = s.windows := rfl
@[simp] theorem State.modRouter_ports (k : Nat) (g : RouterState → RouterState) : (s.modRouter k g).ports = s.ports := rfl
@[simp] theorem State.modRouter_ep (k : Nat) (g : RouterState → RouterState) : (s.modRouter k g).ep = s.ep := rfl
@[simp] theorem State.modRouter_ptp (k : Nat) (g : RouterState → RouterState) : (s.modRouter k g).ptp = s.ptp := rfl
@[simp] theorem State.modRouter_casc (k : Nat) (g : RouterState → RouterState) : (s.modRouter k g).casc = s.casc := rfl
@[simp] theorem State.modRouter_board (k : Nat) (g : RouterState → RouterState) : (s.modRouter k g).board = s.board := rfl
@[simp] theorem State.modRouter_power (k : Nat) (g : RouterState → RouterState) : (s.modRouter k g).power = s.power := rfl
@[simp] theorem State.modRouter_heat (k : Nat) (g : RouterState → RouterState) : (s.modRouter k g).heat = s.heat := rfl
@[simp] theorem State.modRouter_txn (k : Nat) (g : RouterState → RouterState) : (s.modRouter k g).txn = s.txn := rfl
@[simp] theorem State.modRouter_fw (k : Nat) (g : RouterState → RouterState) : (s.modRouter k g).fw = s.fw := rfl
@[simp] theorem State.modRouter_otp (k : Nat) (g : RouterState → RouterState) : (s.modRouter k g).otp = s.otp := rfl
@[simp] theorem State.modRouter_faults (k : Nat) (g : RouterState → RouterState) : (s.modRouter k g).faults = s.faults := rfl
@[simp] theorem State.modRouter_mgmt (k : Nat) (g : RouterState → RouterState) : (s.modRouter k g).mgmt = s.mgmt := rfl
@[simp] theorem State.modRouter_sent (k : Nat) (g : RouterState → RouterState) : (s.modRouter k g).sent = s.sent := rfl
@[simp] theorem State.modRouter_freeCount (k : Nat) (g : RouterState → RouterState) : (s.modRouter k g).freeCount = s.freeCount := rfl

/-! ## State.modField -/

@[simp] theorem State.modField_pending (f : Nat) (g : FieldState → FieldState) : (s.modField f g).pending = s.pending := rfl
@[simp] theorem State.modField_time (f : Nat) (g : FieldState → FieldState) : (s.modField f g).time = s.time := rfl
@[simp] theorem State.modField_cells (f : Nat) (g : FieldState → FieldState) : (s.modField f g).cells = s.cells := rfl
@[simp] theorem State.modField_sites (f : Nat) (g : FieldState → FieldState) : (s.modField f g).sites = s.sites := rfl
@[simp] theorem State.modField_routers (f : Nat) (g : FieldState → FieldState) : (s.modField f g).routers = s.routers := rfl
@[simp] theorem State.modField_fields (f : Nat) (g : FieldState → FieldState) : (s.modField f g).fields = tset {} s.fields f (g (s.field f)) := rfl
@[simp] theorem State.modField_flits (f : Nat) (g : FieldState → FieldState) : (s.modField f g).flits = s.flits := rfl
@[simp] theorem State.modField_gets (f : Nat) (g : FieldState → FieldState) : (s.modField f g).gets = s.gets := rfl
@[simp] theorem State.modField_posts (f : Nat) (g : FieldState → FieldState) : (s.modField f g).posts = s.posts := rfl
@[simp] theorem State.modField_wafer (f : Nat) (g : FieldState → FieldState) : (s.modField f g).wafer = s.wafer := rfl
@[simp] theorem State.modField_events (f : Nat) (g : FieldState → FieldState) : (s.modField f g).events = s.events := rfl
@[simp] theorem State.modField_own (f : Nat) (g : FieldState → FieldState) : (s.modField f g).own = s.own := rfl
@[simp] theorem State.modField_plan (f : Nat) (g : FieldState → FieldState) : (s.modField f g).plan = s.plan := rfl
@[simp] theorem State.modField_serve (f : Nat) (g : FieldState → FieldState) : (s.modField f g).serve = s.serve := rfl
@[simp] theorem State.modField_kv (f : Nat) (g : FieldState → FieldState) : (s.modField f g).kv = s.kv := rfl
@[simp] theorem State.modField_ledger (f : Nat) (g : FieldState → FieldState) : (s.modField f g).ledger = s.ledger := rfl
@[simp] theorem State.modField_weights (f : Nat) (g : FieldState → FieldState) : (s.modField f g).weights = s.weights := rfl
@[simp] theorem State.modField_windows (f : Nat) (g : FieldState → FieldState) : (s.modField f g).windows = s.windows := rfl
@[simp] theorem State.modField_ports (f : Nat) (g : FieldState → FieldState) : (s.modField f g).ports = s.ports := rfl
@[simp] theorem State.modField_ep (f : Nat) (g : FieldState → FieldState) : (s.modField f g).ep = s.ep := rfl
@[simp] theorem State.modField_ptp (f : Nat) (g : FieldState → FieldState) : (s.modField f g).ptp = s.ptp := rfl
@[simp] theorem State.modField_casc (f : Nat) (g : FieldState → FieldState) : (s.modField f g).casc = s.casc := rfl
@[simp] theorem State.modField_board (f : Nat) (g : FieldState → FieldState) : (s.modField f g).board = s.board := rfl
@[simp] theorem State.modField_power (f : Nat) (g : FieldState → FieldState) : (s.modField f g).power = s.power := rfl
@[simp] theorem State.modField_heat (f : Nat) (g : FieldState → FieldState) : (s.modField f g).heat = s.heat := rfl
@[simp] theorem State.modField_txn (f : Nat) (g : FieldState → FieldState) : (s.modField f g).txn = s.txn := rfl
@[simp] theorem State.modField_fw (f : Nat) (g : FieldState → FieldState) : (s.modField f g).fw = s.fw := rfl
@[simp] theorem State.modField_otp (f : Nat) (g : FieldState → FieldState) : (s.modField f g).otp = s.otp := rfl
@[simp] theorem State.modField_faults (f : Nat) (g : FieldState → FieldState) : (s.modField f g).faults = s.faults := rfl
@[simp] theorem State.modField_mgmt (f : Nat) (g : FieldState → FieldState) : (s.modField f g).mgmt = s.mgmt := rfl
@[simp] theorem State.modField_sent (f : Nat) (g : FieldState → FieldState) : (s.modField f g).sent = s.sent := rfl
@[simp] theorem State.modField_freeCount (f : Nat) (g : FieldState → FieldState) : (s.modField f g).freeCount = s.freeCount := rfl

/-! ## State.modPort -/

@[simp] theorem State.modPort_pending (p : Nat) (g : PortState → PortState) : (s.modPort p g).pending = s.pending := rfl
@[simp] theorem State.modPort_time (p : Nat) (g : PortState → PortState) : (s.modPort p g).time = s.time := rfl
@[simp] theorem State.modPort_cells (p : Nat) (g : PortState → PortState) : (s.modPort p g).cells = s.cells := rfl
@[simp] theorem State.modPort_sites (p : Nat) (g : PortState → PortState) : (s.modPort p g).sites = s.sites := rfl
@[simp] theorem State.modPort_routers (p : Nat) (g : PortState → PortState) : (s.modPort p g).routers = s.routers := rfl
@[simp] theorem State.modPort_fields (p : Nat) (g : PortState → PortState) : (s.modPort p g).fields = s.fields := rfl
@[simp] theorem State.modPort_flits (p : Nat) (g : PortState → PortState) : (s.modPort p g).flits = s.flits := rfl
@[simp] theorem State.modPort_gets (p : Nat) (g : PortState → PortState) : (s.modPort p g).gets = s.gets := rfl
@[simp] theorem State.modPort_posts (p : Nat) (g : PortState → PortState) : (s.modPort p g).posts = s.posts := rfl
@[simp] theorem State.modPort_wafer (p : Nat) (g : PortState → PortState) : (s.modPort p g).wafer = s.wafer := rfl
@[simp] theorem State.modPort_events (p : Nat) (g : PortState → PortState) : (s.modPort p g).events = s.events := rfl
@[simp] theorem State.modPort_own (p : Nat) (g : PortState → PortState) : (s.modPort p g).own = s.own := rfl
@[simp] theorem State.modPort_plan (p : Nat) (g : PortState → PortState) : (s.modPort p g).plan = s.plan := rfl
@[simp] theorem State.modPort_serve (p : Nat) (g : PortState → PortState) : (s.modPort p g).serve = s.serve := rfl
@[simp] theorem State.modPort_kv (p : Nat) (g : PortState → PortState) : (s.modPort p g).kv = s.kv := rfl
@[simp] theorem State.modPort_ledger (p : Nat) (g : PortState → PortState) : (s.modPort p g).ledger = s.ledger := rfl
@[simp] theorem State.modPort_weights (p : Nat) (g : PortState → PortState) : (s.modPort p g).weights = s.weights := rfl
@[simp] theorem State.modPort_windows (p : Nat) (g : PortState → PortState) : (s.modPort p g).windows = s.windows := rfl
@[simp] theorem State.modPort_ports (p : Nat) (g : PortState → PortState) : (s.modPort p g).ports = tset {} s.ports p (g (s.port p)) := rfl
@[simp] theorem State.modPort_ep (p : Nat) (g : PortState → PortState) : (s.modPort p g).ep = s.ep := rfl
@[simp] theorem State.modPort_ptp (p : Nat) (g : PortState → PortState) : (s.modPort p g).ptp = s.ptp := rfl
@[simp] theorem State.modPort_casc (p : Nat) (g : PortState → PortState) : (s.modPort p g).casc = s.casc := rfl
@[simp] theorem State.modPort_board (p : Nat) (g : PortState → PortState) : (s.modPort p g).board = s.board := rfl
@[simp] theorem State.modPort_power (p : Nat) (g : PortState → PortState) : (s.modPort p g).power = s.power := rfl
@[simp] theorem State.modPort_heat (p : Nat) (g : PortState → PortState) : (s.modPort p g).heat = s.heat := rfl
@[simp] theorem State.modPort_txn (p : Nat) (g : PortState → PortState) : (s.modPort p g).txn = s.txn := rfl
@[simp] theorem State.modPort_fw (p : Nat) (g : PortState → PortState) : (s.modPort p g).fw = s.fw := rfl
@[simp] theorem State.modPort_otp (p : Nat) (g : PortState → PortState) : (s.modPort p g).otp = s.otp := rfl
@[simp] theorem State.modPort_faults (p : Nat) (g : PortState → PortState) : (s.modPort p g).faults = s.faults := rfl
@[simp] theorem State.modPort_mgmt (p : Nat) (g : PortState → PortState) : (s.modPort p g).mgmt = s.mgmt := rfl
@[simp] theorem State.modPort_sent (p : Nat) (g : PortState → PortState) : (s.modPort p g).sent = s.sent := rfl
@[simp] theorem State.modPort_freeCount (p : Nat) (g : PortState → PortState) : (s.modPort p g).freeCount = s.freeCount := rfl

/-! ## State.modCasc -/

@[simp] theorem State.modCasc_pending (p : Nat) (g : CascState → CascState) : (s.modCasc p g).pending = s.pending := rfl
@[simp] theorem State.modCasc_time (p : Nat) (g : CascState → CascState) : (s.modCasc p g).time = s.time := rfl
@[simp] theorem State.modCasc_cells (p : Nat) (g : CascState → CascState) : (s.modCasc p g).cells = s.cells := rfl
@[simp] theorem State.modCasc_sites (p : Nat) (g : CascState → CascState) : (s.modCasc p g).sites = s.sites := rfl
@[simp] theorem State.modCasc_routers (p : Nat) (g : CascState → CascState) : (s.modCasc p g).routers = s.routers := rfl
@[simp] theorem State.modCasc_fields (p : Nat) (g : CascState → CascState) : (s.modCasc p g).fields = s.fields := rfl
@[simp] theorem State.modCasc_flits (p : Nat) (g : CascState → CascState) : (s.modCasc p g).flits = s.flits := rfl
@[simp] theorem State.modCasc_gets (p : Nat) (g : CascState → CascState) : (s.modCasc p g).gets = s.gets := rfl
@[simp] theorem State.modCasc_posts (p : Nat) (g : CascState → CascState) : (s.modCasc p g).posts = s.posts := rfl
@[simp] theorem State.modCasc_wafer (p : Nat) (g : CascState → CascState) : (s.modCasc p g).wafer = s.wafer := rfl
@[simp] theorem State.modCasc_events (p : Nat) (g : CascState → CascState) : (s.modCasc p g).events = s.events := rfl
@[simp] theorem State.modCasc_own (p : Nat) (g : CascState → CascState) : (s.modCasc p g).own = s.own := rfl
@[simp] theorem State.modCasc_plan (p : Nat) (g : CascState → CascState) : (s.modCasc p g).plan = s.plan := rfl
@[simp] theorem State.modCasc_serve (p : Nat) (g : CascState → CascState) : (s.modCasc p g).serve = s.serve := rfl
@[simp] theorem State.modCasc_kv (p : Nat) (g : CascState → CascState) : (s.modCasc p g).kv = s.kv := rfl
@[simp] theorem State.modCasc_ledger (p : Nat) (g : CascState → CascState) : (s.modCasc p g).ledger = s.ledger := rfl
@[simp] theorem State.modCasc_weights (p : Nat) (g : CascState → CascState) : (s.modCasc p g).weights = s.weights := rfl
@[simp] theorem State.modCasc_windows (p : Nat) (g : CascState → CascState) : (s.modCasc p g).windows = s.windows := rfl
@[simp] theorem State.modCasc_ports (p : Nat) (g : CascState → CascState) : (s.modCasc p g).ports = s.ports := rfl
@[simp] theorem State.modCasc_ep (p : Nat) (g : CascState → CascState) : (s.modCasc p g).ep = s.ep := rfl
@[simp] theorem State.modCasc_ptp (p : Nat) (g : CascState → CascState) : (s.modCasc p g).ptp = s.ptp := rfl
@[simp] theorem State.modCasc_casc (p : Nat) (g : CascState → CascState) : (s.modCasc p g).casc = tset {} s.casc p (g (s.cascPort p)) := rfl
@[simp] theorem State.modCasc_board (p : Nat) (g : CascState → CascState) : (s.modCasc p g).board = s.board := rfl
@[simp] theorem State.modCasc_power (p : Nat) (g : CascState → CascState) : (s.modCasc p g).power = s.power := rfl
@[simp] theorem State.modCasc_heat (p : Nat) (g : CascState → CascState) : (s.modCasc p g).heat = s.heat := rfl
@[simp] theorem State.modCasc_txn (p : Nat) (g : CascState → CascState) : (s.modCasc p g).txn = s.txn := rfl
@[simp] theorem State.modCasc_fw (p : Nat) (g : CascState → CascState) : (s.modCasc p g).fw = s.fw := rfl
@[simp] theorem State.modCasc_otp (p : Nat) (g : CascState → CascState) : (s.modCasc p g).otp = s.otp := rfl
@[simp] theorem State.modCasc_faults (p : Nat) (g : CascState → CascState) : (s.modCasc p g).faults = s.faults := rfl
@[simp] theorem State.modCasc_mgmt (p : Nat) (g : CascState → CascState) : (s.modCasc p g).mgmt = s.mgmt := rfl
@[simp] theorem State.modCasc_sent (p : Nat) (g : CascState → CascState) : (s.modCasc p g).sent = s.sent := rfl
@[simp] theorem State.modCasc_freeCount (p : Nat) (g : CascState → CascState) : (s.modCasc p g).freeCount = s.freeCount := rfl

/-! ## State.emit -/

@[simp] theorem State.emit_pending (m : Sent) : (s.emit m).pending = s.pending := rfl
@[simp] theorem State.emit_time (m : Sent) : (s.emit m).time = s.time := rfl
@[simp] theorem State.emit_cells (m : Sent) : (s.emit m).cells = s.cells := rfl
@[simp] theorem State.emit_sites (m : Sent) : (s.emit m).sites = s.sites := rfl
@[simp] theorem State.emit_routers (m : Sent) : (s.emit m).routers = s.routers := rfl
@[simp] theorem State.emit_fields (m : Sent) : (s.emit m).fields = s.fields := rfl
@[simp] theorem State.emit_flits (m : Sent) : (s.emit m).flits = s.flits := rfl
@[simp] theorem State.emit_gets (m : Sent) : (s.emit m).gets = s.gets := rfl
@[simp] theorem State.emit_posts (m : Sent) : (s.emit m).posts = s.posts := rfl
@[simp] theorem State.emit_wafer (m : Sent) : (s.emit m).wafer = s.wafer := rfl
@[simp] theorem State.emit_events (m : Sent) : (s.emit m).events = s.events := rfl
@[simp] theorem State.emit_own (m : Sent) : (s.emit m).own = s.own := rfl
@[simp] theorem State.emit_plan (m : Sent) : (s.emit m).plan = s.plan := rfl
@[simp] theorem State.emit_serve (m : Sent) : (s.emit m).serve = s.serve := rfl
@[simp] theorem State.emit_kv (m : Sent) : (s.emit m).kv = s.kv := rfl
@[simp] theorem State.emit_ledger (m : Sent) : (s.emit m).ledger = s.ledger := rfl
@[simp] theorem State.emit_weights (m : Sent) : (s.emit m).weights = s.weights := rfl
@[simp] theorem State.emit_windows (m : Sent) : (s.emit m).windows = s.windows := rfl
@[simp] theorem State.emit_ports (m : Sent) : (s.emit m).ports = s.ports := rfl
@[simp] theorem State.emit_ep (m : Sent) : (s.emit m).ep = s.ep := rfl
@[simp] theorem State.emit_ptp (m : Sent) : (s.emit m).ptp = s.ptp := rfl
@[simp] theorem State.emit_casc (m : Sent) : (s.emit m).casc = s.casc := rfl
@[simp] theorem State.emit_board (m : Sent) : (s.emit m).board = s.board := rfl
@[simp] theorem State.emit_power (m : Sent) : (s.emit m).power = s.power := rfl
@[simp] theorem State.emit_heat (m : Sent) : (s.emit m).heat = s.heat := rfl
@[simp] theorem State.emit_txn (m : Sent) : (s.emit m).txn = s.txn := rfl
@[simp] theorem State.emit_fw (m : Sent) : (s.emit m).fw = s.fw := rfl
@[simp] theorem State.emit_otp (m : Sent) : (s.emit m).otp = s.otp := rfl
@[simp] theorem State.emit_faults (m : Sent) : (s.emit m).faults = s.faults := rfl
@[simp] theorem State.emit_mgmt (m : Sent) : (s.emit m).mgmt = s.mgmt := rfl
@[simp] theorem State.emit_sent (m : Sent) : (s.emit m).sent = s.sent ++ [m] := rfl
@[simp] theorem State.emit_freeCount (m : Sent) : (s.emit m).freeCount = s.freeCount := rfl

/-! ## Reading a part after a write -/

theorem State.setSite_site_same {k : Nat} {v : SiteState} (h : tblWf {} s.sites = true) : (s.setSite k v).site k = v :=
  tget_tset_same ({} : SiteState) k v ((tblWf_iff ({} : SiteState) s.sites).mp h).1
theorem State.setSite_site_other {k j : Nat} {v : SiteState} (h : j ≠ k) : (s.setSite k v).site j = s.site j :=
  tget_tset_other ({} : SiteState) s.sites v h
theorem State.setRouter_router_same {k : Nat} {v : RouterState} (h : tblWf {} s.routers = true) : (s.setRouter k v).router k = v :=
  tget_tset_same ({} : RouterState) k v ((tblWf_iff ({} : RouterState) s.routers).mp h).1
theorem State.setRouter_router_other {k j : Nat} {v : RouterState} (h : j ≠ k) : (s.setRouter k v).router j = s.router j :=
  tget_tset_other ({} : RouterState) s.routers v h
theorem State.setField_field_same {k : Nat} {v : FieldState} (h : tblWf {} s.fields = true) : (s.setField k v).field k = v :=
  tget_tset_same ({} : FieldState) k v ((tblWf_iff ({} : FieldState) s.fields).mp h).1
theorem State.setField_field_other {k j : Nat} {v : FieldState} (h : j ≠ k) : (s.setField k v).field j = s.field j :=
  tget_tset_other ({} : FieldState) s.fields v h
theorem State.setPort_port_same {k : Nat} {v : PortState} (h : tblWf {} s.ports = true) : (s.setPort k v).port k = v :=
  tget_tset_same ({} : PortState) k v ((tblWf_iff ({} : PortState) s.ports).mp h).1
theorem State.setPort_port_other {k j : Nat} {v : PortState} (h : j ≠ k) : (s.setPort k v).port j = s.port j :=
  tget_tset_other ({} : PortState) s.ports v h
theorem State.setCascPort_cascPort_same {k : Nat} {v : CascState} (h : tblWf {} s.casc = true) : (s.setCascPort k v).cascPort k = v :=
  tget_tset_same ({} : CascState) k v ((tblWf_iff ({} : CascState) s.casc).mp h).1
theorem State.setCascPort_cascPort_other {k j : Nat} {v : CascState} (h : j ≠ k) : (s.setCascPort k v).cascPort j = s.cascPort j :=
  tget_tset_other ({} : CascState) s.casc v h
theorem State.setWindow_window_same {k : Nat} {v : Window} (h : tblWf {} s.windows = true) : (s.setWindow k v).window k = v :=
  tget_tset_same ({} : Window) k v ((tblWf_iff ({} : Window) s.windows).mp h).1
theorem State.setWindow_window_other {k j : Nat} {v : Window} (h : j ≠ k) : (s.setWindow k v).window j = s.window j :=
  tget_tset_other ({} : Window) s.windows v h

/-! ## State.setCell: its cell, and the fault count of its site (R97, R99) -/

@[simp] theorem State.setCell_pending (k : Nat) (v : CellState) : (s.setCell k v).pending = s.pending := by unfold State.setCell; dsimp only; split <;> rfl
@[simp] theorem State.setCell_time (k : Nat) (v : CellState) : (s.setCell k v).time = s.time := by unfold State.setCell; dsimp only; split <;> rfl
@[simp] theorem State.setCell_routers (k : Nat) (v : CellState) : (s.setCell k v).routers = s.routers := by unfold State.setCell; dsimp only; split <;> rfl
@[simp] theorem State.setCell_fields (k : Nat) (v : CellState) : (s.setCell k v).fields = s.fields := by unfold State.setCell; dsimp only; split <;> rfl
@[simp] theorem State.setCell_flits (k : Nat) (v : CellState) : (s.setCell k v).flits = s.flits := by unfold State.setCell; dsimp only; split <;> rfl
@[simp] theorem State.setCell_gets (k : Nat) (v : CellState) : (s.setCell k v).gets = s.gets := by unfold State.setCell; dsimp only; split <;> rfl
@[simp] theorem State.setCell_posts (k : Nat) (v : CellState) : (s.setCell k v).posts = s.posts := by unfold State.setCell; dsimp only; split <;> rfl
@[simp] theorem State.setCell_wafer (k : Nat) (v : CellState) : (s.setCell k v).wafer = s.wafer := by unfold State.setCell; dsimp only; split <;> rfl
@[simp] theorem State.setCell_events (k : Nat) (v : CellState) : (s.setCell k v).events = s.events := by unfold State.setCell; dsimp only; split <;> rfl
@[simp] theorem State.setCell_own (k : Nat) (v : CellState) : (s.setCell k v).own = s.own := by unfold State.setCell; dsimp only; split <;> rfl
@[simp] theorem State.setCell_plan (k : Nat) (v : CellState) : (s.setCell k v).plan = s.plan := by unfold State.setCell; dsimp only; split <;> rfl
@[simp] theorem State.setCell_serve (k : Nat) (v : CellState) : (s.setCell k v).serve = s.serve := by unfold State.setCell; dsimp only; split <;> rfl
@[simp] theorem State.setCell_kv (k : Nat) (v : CellState) : (s.setCell k v).kv = s.kv := by unfold State.setCell; dsimp only; split <;> rfl
@[simp] theorem State.setCell_ledger (k : Nat) (v : CellState) : (s.setCell k v).ledger = s.ledger := by unfold State.setCell; dsimp only; split <;> rfl
@[simp] theorem State.setCell_weights (k : Nat) (v : CellState) : (s.setCell k v).weights = s.weights := by unfold State.setCell; dsimp only; split <;> rfl
@[simp] theorem State.setCell_windows (k : Nat) (v : CellState) : (s.setCell k v).windows = s.windows := by unfold State.setCell; dsimp only; split <;> rfl
@[simp] theorem State.setCell_ports (k : Nat) (v : CellState) : (s.setCell k v).ports = s.ports := by unfold State.setCell; dsimp only; split <;> rfl
@[simp] theorem State.setCell_ep (k : Nat) (v : CellState) : (s.setCell k v).ep = s.ep := by unfold State.setCell; dsimp only; split <;> rfl
@[simp] theorem State.setCell_ptp (k : Nat) (v : CellState) : (s.setCell k v).ptp = s.ptp := by unfold State.setCell; dsimp only; split <;> rfl
@[simp] theorem State.setCell_casc (k : Nat) (v : CellState) : (s.setCell k v).casc = s.casc := by unfold State.setCell; dsimp only; split <;> rfl
@[simp] theorem State.setCell_board (k : Nat) (v : CellState) : (s.setCell k v).board = s.board := by unfold State.setCell; dsimp only; split <;> rfl
@[simp] theorem State.setCell_power (k : Nat) (v : CellState) : (s.setCell k v).power = s.power := by unfold State.setCell; dsimp only; split <;> rfl
@[simp] theorem State.setCell_heat (k : Nat) (v : CellState) : (s.setCell k v).heat = s.heat := by unfold State.setCell; dsimp only; split <;> rfl
@[simp] theorem State.setCell_txn (k : Nat) (v : CellState) : (s.setCell k v).txn = s.txn := by unfold State.setCell; dsimp only; split <;> rfl
@[simp] theorem State.setCell_fw (k : Nat) (v : CellState) : (s.setCell k v).fw = s.fw := by unfold State.setCell; dsimp only; split <;> rfl
@[simp] theorem State.setCell_otp (k : Nat) (v : CellState) : (s.setCell k v).otp = s.otp := by unfold State.setCell; dsimp only; split <;> rfl
@[simp] theorem State.setCell_faults (k : Nat) (v : CellState) : (s.setCell k v).faults = s.faults := by unfold State.setCell; dsimp only; split <;> rfl
@[simp] theorem State.setCell_mgmt (k : Nat) (v : CellState) : (s.setCell k v).mgmt = s.mgmt := by unfold State.setCell; dsimp only; split <;> rfl
@[simp] theorem State.setCell_sent (k : Nat) (v : CellState) : (s.setCell k v).sent = s.sent := by unfold State.setCell; dsimp only; split <;> rfl
@[simp] theorem State.setCell_freeCount (k : Nat) (v : CellState) : (s.setCell k v).freeCount = s.freeCount := by unfold State.setCell; dsimp only; split <;> rfl
@[simp] theorem State.setCell_cells (k : Nat) (v : CellState) : (s.setCell k v).cells = tset {} s.cells k v := by unfold State.setCell; dsimp only; split <;> rfl
theorem State.setCell_cell_same {k : Nat} {v : CellState} (h : tblWf {} s.cells = true) : (s.setCell k v).cell k = v := by
  unfold State.cell; rw [State.setCell_cells]; exact tget_tset_same ({} : CellState) k v ((tblWf_iff ({} : CellState) s.cells).mp h).1
theorem State.setCell_cell_other {k j : Nat} {v : CellState} (h : j ≠ k) : (s.setCell k v).cell j = s.cell j := by
  unfold State.cell; rw [State.setCell_cells]; exact tget_tset_other ({} : CellState) s.cells v h
/-- A cell put back without a new capture changes no site. -/
theorem State.setCell_sites {k : Nat} {v : CellState} (h : (s.cell k).faults.status ≠ 0 ∨ v.faults.status = 0) :
    (s.setCell k v).sites = s.sites := by
  unfold State.setCell; dsimp only; rw [if_neg (fun q => h.elim (fun a => a q.1) (fun a => q.2 a))]
theorem State.setCell_site_other {k j : Nat} {v : CellState} (h : j ≠ cellSite k) : (s.setCell k v).site j = s.site j := by
  unfold State.setCell; dsimp only
  split
  · exact tget_tset_other ({} : SiteState) _ _ h
  · rfl

end Sys2Proof.Machine
end

