-- ==== Sys2Proof/Laws/Ops.lean ====
section
/-! SUPPORT. What the shared operations can do, said once: which fields each leaves, and that each leaves the queue of waiting
commands alone and keeps the tables of the state canonical. -/

namespace Sys2Proof.Machine

/-- The queue stands and the canonical form of the tables is kept. -/
def Keeps (s t : State) : Prop := t.pending = s.pending ∧ (s.tablesWf = true → t.tablesWf = true)

theorem keeps_refl (s : State) : Keeps s s := ⟨rfl, id⟩

theorem keeps_trans {s t u : State} (h : Keeps s t) (g : Keeps t u) : Keeps s u :=
  ⟨g.1.trans h.1, fun w => g.2 (h.2 w)⟩

/-- An update that names none of the tables keeps them. -/
theorem keeps_of_eq {s t : State} (hp : t.pending = s.pending) (h1 : t.cells = s.cells) (h2 : t.sites = s.sites)
    (h3 : t.routers = s.routers) (h4 : t.fields = s.fields) (h5 : t.windows = s.windows) (h6 : t.ports = s.ports)
    (h7 : t.casc = s.casc) (h8 : t.wafer = s.wafer) (h9 : t.serve.table = s.serve.table) : Keeps s t := by
  refine ⟨hp, fun h => ?_⟩
  unfold State.tablesWf at h ⊢
  rw [h1, h2, h3, h4, h5, h6, h7, h8, h9]
  exact h

theorem keeps_foldl {α : Type} (f : State → α → State) (h : ∀ s x, Keeps s (f s x)) (l : List α) :
    ∀ s, Keeps s (l.foldl f s) := by
  induction l with
  | nil => exact keeps_refl
  | cons x l ih => exact fun s => keeps_trans (h s x) (ih _)

theorem keeps_ite {s t u : State} {p : Prop} [Decidable p] (h : p → Keeps s t) (g : ¬ p → Keeps s u) :
    Keeps s (if p then t else u) := by
  split
  · exact h ‹_›
  · exact g ‹_›

/-- The nine tables, one by one. -/
theorem tablesWf_iff (s : State) : s.tablesWf = true ↔
    tblWf {} s.cells = true ∧ tblWf {} s.sites = true ∧ tblWf {} s.routers = true ∧ tblWf {} s.fields = true ∧
    tblWf {} s.windows = true ∧ tblWf {} s.ports = true ∧ tblWf {} s.casc = true ∧ tblWf {} s.wafer = true ∧
    tblWf none s.serve.table = true := by
  unfold State.tablesWf
  simp only [Bool.and_eq_true, and_assoc]

/-! ## Writing one part of the wafer or module -/

theorem keeps_cells {s : State} {t : Tbl CellState} (h : tblWf {} s.cells = true → tblWf {} t = true) :
    Keeps s { s with cells := t } := by
  refine ⟨rfl, fun w => ?_⟩
  obtain ⟨a, r⟩ := (tablesWf_iff s).mp w
  exact (tablesWf_iff _).mpr ⟨h a, r⟩

theorem keeps_sites {s : State} {t : Tbl SiteState} (h : tblWf {} s.sites = true → tblWf {} t = true) :
    Keeps s { s with sites := t } := by
  refine ⟨rfl, fun w => ?_⟩
  obtain ⟨a, b, r⟩ := (tablesWf_iff s).mp w
  exact (tablesWf_iff _).mpr ⟨a, h b, r⟩

theorem keeps_routers {s : State} {t : Tbl RouterState} (h : tblWf {} s.routers = true → tblWf {} t = true) :
    Keeps s { s with routers := t } := by
  refine ⟨rfl, fun w => ?_⟩
  obtain ⟨a, b, c, r⟩ := (tablesWf_iff s).mp w
  exact (tablesWf_iff _).mpr ⟨a, b, h c, r⟩

theorem keeps_fields {s : State} {t : Tbl FieldState} (h : tblWf {} s.fields = true → tblWf {} t = true) :
    Keeps s { s with fields := t } := by
  refine ⟨rfl, fun w => ?_⟩
  obtain ⟨a, b, c, d, r⟩ := (tablesWf_iff s).mp w
  exact (tablesWf_iff _).mpr ⟨a, b, c, h d, r⟩

theorem keeps_windows {s : State} {t : Tbl Window} (h : tblWf {} s.windows = true → tblWf {} t = true) :
    Keeps s { s with windows := t } := by
  refine ⟨rfl, fun w => ?_⟩
  obtain ⟨a, b, c, d, e, r⟩ := (tablesWf_iff s).mp w
  exact (tablesWf_iff _).mpr ⟨a, b, c, d, h e, r⟩

theorem keeps_ports {s : State} {t : Tbl PortState} (h : tblWf {} s.ports = true → tblWf {} t = true) :
    Keeps s { s with ports := t } := by
  refine ⟨rfl, fun w => ?_⟩
  obtain ⟨a, b, c, d, e, f, r⟩ := (tablesWf_iff s).mp w
  exact (tablesWf_iff _).mpr ⟨a, b, c, d, e, h f, r⟩

theorem keeps_casc {s : State} {t : Tbl CascState} (h : tblWf {} s.casc = true → tblWf {} t = true) :
    Keeps s { s with casc := t } := by
  refine ⟨rfl, fun w => ?_⟩
  obtain ⟨a, b, c, d, e, f, g, r⟩ := (tablesWf_iff s).mp w
  exact (tablesWf_iff _).mpr ⟨a, b, c, d, e, f, h g, r⟩

theorem keeps_setSite (s : State) (k : Nat) (v : SiteState) : Keeps s (s.setSite k v) := keeps_sites (tblWf_tset _ _ _)
theorem keeps_setRouter (s : State) (k : Nat) (v : RouterState) : Keeps s (s.setRouter k v) := keeps_routers (tblWf_tset _ _ _)
theorem keeps_setField (s : State) (f : Nat) (v : FieldState) : Keeps s (s.setField f v) := keeps_fields (tblWf_tset _ _ _)
theorem keeps_setPort (s : State) (p : Nat) (v : PortState) : Keeps s (s.setPort p v) := keeps_ports (tblWf_tset _ _ _)
theorem keeps_setCascPort (s : State) (p : Nat) (v : CascState) : Keeps s (s.setCascPort p v) := keeps_casc (tblWf_tset _ _ _)
theorem keeps_setWindow (s : State) (w : Nat) (v : Window) : Keeps s (s.setWindow w v) := keeps_windows (tblWf_tset _ _ _)
theorem keeps_modSite (s : State) (k : Nat) (g : SiteState → SiteState) : Keeps s (s.modSite k g) := keeps_setSite _ _ _
theorem keeps_modRouter (s : State) (k : Nat) (g : RouterState → RouterState) : Keeps s (s.modRouter k g) := keeps_setRouter _ _ _
theorem keeps_modField (s : State) (f : Nat) (g : FieldState → FieldState) : Keeps s (s.modField f g) := keeps_setField _ _ _
theorem keeps_modPort (s : State) (p : Nat) (g : PortState → PortState) : Keeps s (s.modPort p g) := keeps_setPort _ _ _
theorem keeps_modCasc (s : State) (p : Nat) (g : CascState → CascState) : Keeps s (s.modCasc p g) := keeps_setCascPort _ _ _

theorem keeps_setCell (s : State) (k : Nat) (v : CellState) : Keeps s (s.setCell k v) := by
  unfold State.setCell
  dsimp only
  refine keeps_trans (keeps_cells (s := s) (tblWf_tset _ k v)) ?_
  split
  · exact keeps_modSite _ _ _
  · exact keeps_refl _

theorem keeps_modCell (s : State) (k : Nat) (g : CellState → CellState) : Keeps s (s.modCell k g) := keeps_setCell _ _ _

/-! ## What leaves the device, alerts, barrier, log -/

/-- Something that leaves changes nothing but the record of it. -/
theorem emit_eq (s : State) (m : Sent) : s.emit m = { s with sent := s.sent ++ [m] } := rfl
theorem keeps_emit (s : State) (m : Sent) : Keeps s (s.emit m) := keeps_of_eq rfl rfl rfl rfl rfl rfl rfl rfl rfl rfl
theorem keeps_respond (s : State) (op : Nat) (tag : BitVec 16) (st : Nat) (b : List (BitVec 64)) :
    Keeps s (respond s op tag st b) := keeps_emit _ _

/-- A response answers its request (R514). -/
theorem answers_respond (s : State) (op : Nat) (tag : BitVec 16) (st : Nat) (b : List (BitVec 64)) :
    answers s (respond s op tag st b) op tag st b := rfl

/-- An alert changes WM_ALERT and what is due of it (R517). -/
theorem raiseAlert_eq (s : State) (bit : Nat) : raiseAlert s bit = { s with mgmt := { s.mgmt with
    alert := s.mgmt.alert ||| BitVec.ofNat 11 (2 ^ bit)
    alertDue := s.mgmt.alertDue || decide (s.mgmt.alert ||| BitVec.ofNat 11 (2 ^ bit) ≠ s.mgmt.alert) } } := rfl
theorem keeps_raiseAlert (s : State) (bit : Nat) : Keeps s (raiseAlert s bit) := keeps_of_eq rfl rfl rfl rfl rfl rfl rfl rfl rfl rfl

theorem keeps_takeFree (s : State) : Keeps s (takeFree s).2 := keeps_of_eq rfl rfl rfl rfl rfl rfl rfl rfl rfl rfl

theorem mem_holdBarrier (s : State) (h : BarrierHold) : h ∈ (holdBarrier s h).plan.holds := by
  unfold holdBarrier
  split
  · rename_i g; exact List.contains_iff_mem.mp g
  · simp
theorem keeps_holdBarrier (s : State) (h : BarrierHold) : Keeps s (holdBarrier s h) :=
  keeps_ite (fun _ => keeps_refl s) (fun _ => keeps_of_eq rfl rfl rfl rfl rfl rfl rfl rfl rfl rfl)

theorem not_mem_freeBarrier (s : State) (h : BarrierHold) : h ∉ (freeBarrier s h).plan.holds := by
  simp [freeBarrier]
theorem keeps_freeBarrier (s : State) (h : BarrierHold) : Keeps s (freeBarrier s h) :=
  keeps_of_eq rfl rfl rfl rfl rfl rfl rfl rfl rfl rfl

/-- The log changes nothing but the log and the number of its next entry (R535). -/
theorem logAdd_eq (s : State) (type : Nat) (w : List (BitVec 64)) :
    ∃ l, logAdd s type w = { s with faults := { s.faults with log := l, nextSeq := s.faults.nextSeq + 1 } } := by
  unfold logAdd
  exact ⟨_, rfl⟩
theorem keeps_logAdd (s : State) (type : Nat) (w : List (BitVec 64)) : Keeps s (logAdd s type w) := by
  obtain ⟨l, h⟩ := logAdd_eq s type w
  rw [h]; exact keeps_of_eq rfl rfl rfl rfl rfl rfl rfl rfl rfl rfl

theorem keeps_closeWin (s : State) (w : Nat) : Keeps s (closeWin s w) := keeps_setWindow _ _ _
theorem keeps_dropEvents (s : State) (p : Event → Bool) : Keeps s (dropEvents s p) :=
  keeps_of_eq rfl rfl rfl rfl rfl rfl rfl rfl rfl rfl

/-! ## Records -/

/-- A fold that only emits changes nothing but the record of what left. -/
theorem foldl_emit_eq (g : Nat → Sent) (l : List Nat) : ∀ s : State,
    l.foldl (fun s w => s.emit (g w)) s = { s with sent := s.sent ++ l.map g } := by
  induction l with
  | nil => intro s; simp
  | cons x l ih => intro s; rw [List.foldl_cons, ih]; simp [State.emit]

/-- What a master tells its followers leaves the device and changes nothing else (R423). -/
theorem boardTell_eq (s : State) (c : VcContent) : boardTell s c = { s with sent := (boardTell s c).sent } := by
  unfold boardTell
  split
  · rfl
  · rw [foldl_emit_eq]
theorem keeps_boardTell (s : State) (c : VcContent) : Keeps s (boardTell s c) := by
  rw [boardTell_eq]; exact keeps_of_eq rfl rfl rfl rfl rfl rfl rfl rfl rfl rfl

/-- A halt of the board leaves the device and changes nothing else (R430). -/
theorem haltBoard_eq (s : State) (r : ErrRec) : haltBoard s r = { s with sent := (haltBoard s r).sent } := by
  unfold haltBoard
  split
  · rw [boardTell_eq]; rfl
  · rfl

/-- A record that enters the wafer ring changes the records, the alerts and what left, and nothing else (R489, R535). -/
theorem ringPush_eq (s : State) (r : ErrRec) :
    ∃ f m l, ringPush s r = { s with faults := f, mgmt := m, sent := l } := by
  unfold ringPush
  obtain ⟨l, hl⟩ := logAdd_eq s 1 (recWords r)
  have h : ∃ m n, haltBoard (if 1 ≤ r.severity then raiseAlert (logAdd s 1 (recWords r)) alLog else logAdd s 1 (recWords r)) r =
      { s with faults := { s.faults with log := l, nextSeq := s.faults.nextSeq + 1 }, mgmt := m, sent := n } := by
    rw [haltBoard_eq, hl]
    split
    · rw [raiseAlert_eq]; exact ⟨_, _, rfl⟩
    · exact ⟨_, _, rfl⟩
  obtain ⟨m, n, h⟩ := h
  dsimp only
  rw [h]
  split
  · split <;> exact ⟨_, _, _, rfl⟩
  · exact ⟨_, _, _, rfl⟩
theorem keeps_ringPush (s : State) (r : ErrRec) : Keeps s (ringPush s r) := by
  obtain ⟨f, m, l, h⟩ := ringPush_eq s r
  rw [h]; exact keeps_of_eq rfl rfl rfl rfl rfl rfl rfl rfl rfl rfl
theorem keeps_raiseModule (s : State) (sev code field detail scope : Nat) :
    Keeps s (raiseModule s sev code field detail scope) := keeps_ringPush _ _

/-- A record of a field changes that field and nothing else (R489). -/
theorem raiseField_eq (s : State) (f : Nat) (r : ErrRec) : ∃ v : FieldState, raiseField s f r = s.setField f v := by
  unfold raiseField
  dsimp only
  generalize (if (s.field f).queue.length < 32 then _ else _ : FieldState) = g
  split
  · exact ⟨g, rfl⟩
  · split
    · exact ⟨_, rfl⟩
    · exact ⟨_, rfl⟩
theorem keeps_raiseField (s : State) (f : Nat) (r : ErrRec) : Keeps s (raiseField s f r) := by
  obtain ⟨v, h⟩ := raiseField_eq s f r
  rw [h]; exact keeps_setField _ _ _
theorem keeps_raiseAtField (s : State) (f sev code detail : Nat) : Keeps s (raiseAtField s f sev code detail) := keeps_raiseField _ _ _
theorem keeps_raiseAtSite (s : State) (k sev code detail count : Nat) : Keeps s (raiseAtSite s k sev code detail count) :=
  keeps_raiseField _ _ _

theorem keeps_countCorrected (s : State) (f n : Nat) : Keeps s (countCorrected s f n) := by
  unfold countCorrected
  dsimp only
  split
  · exact keeps_trans (keeps_setField _ _ _) (keeps_raiseAlert _ _)
  · exact keeps_setField _ _ _

theorem keeps_drainQueues (s : State) : Keeps s (drainQueues s) := by
  unfold drainQueues
  dsimp only
  generalize (sortBy _ _ : List (Nat × ErrRec)).take _ = l
  have h1 : Keeps s (l.foldl (fun s q => ringPush s q.2) s) := keeps_foldl _ (fun s q => keeps_ringPush s q.2) l s
  generalize l.foldl (fun s q => ringPush s q.2) s = t at h1 ⊢
  refine keeps_trans h1 (keeps_foldl _ ?_ l t)
  intro s q
  exact keeps_modField s q.1 _

/-- A follower's word to its master is all that it changes (R419). -/
theorem tellMaster_eq (s : State) (c : VcContent) : tellMaster s c = { s with sent := (tellMaster s c).sent } := by
  unfold tellMaster
  split <;> rfl

/-- An activation of the wafer manager's own changes the list of them and what left, and nothing else (R557). -/
theorem nameOwn_eq (s : State) (k : OwnKind) (e : Nat) :
    nameOwn s k e = { s with own := (nameOwn s k e).own, sent := (nameOwn s k e).sent } := by
  unfold nameOwn
  split
  · rfl
  · split
    · rw [tellMaster_eq]
    · rw [boardTell_eq]
theorem keeps_nameOwn (s : State) (k : OwnKind) (e : Nat) : Keeps s (nameOwn s k e) := by
  rw [nameOwn_eq]; exact keeps_of_eq rfl rfl rfl rfl rfl rfl rfl rfl rfl rfl

end Sys2Proof.Machine
end

