-- ==== Sys2Proof/WellFormed.lean ====
section
/-! DEFINITION. Which commands are well formed: the lengths and ranges the spec gives the messages and events. A
command that is not well formed is one no sender of the spec can make. -/

namespace Sys2Proof

/-- Body of a well-formed sensor round of a field (R466): 74 diodes, 74 rings, 6 positions on each DRAM layer. -/
def FieldSensors.wf (r : FieldSensors) : Bool :=
  r.diode.length == 74 && r.ring.length == 74 && r.dram1.length == 6 && r.dram3.length == 6

/-- The start-up is given its last three tray rounds (R519). -/
def StartupEnv.wf (e : StartupEnv) : Bool := e.rounds.length == 3

/-- Well-formed operands of a command. -/
def Instr.WellFormed : Instr → Bool
  | .modResetRelease env => env.wf
  | .onWaferRound rs _ => rs.all FieldSensors.wf
  | .slackBackground _ n _ => decide (n.val ≤ 64)
  | .trayRound r => r.inlet.all (· < 1024) && r.outlet.all (· < 1024) && r.flow.all (· < 1024)
  | .phaseShareTest _ l a => l.length == 4 && a.length == 2
  | .indexReadComplete d => d.all fun b => b.length == 16
  | .descriptorReadComplete d => d.all fun l => l.all fun b => b.length == 128
  | .yelziaFlitReceive _ _ flit _ => flit.length == 256
  | .compactReceive _ c => c.length == 160
  | .burnSettings _ r => r.length == 512
  | .connectionRequest _ _ mtu => mtu == 1024 || mtu == 2048 || mtu == 4096
  | .readRegisters _ _ n => decide (1 ≤ n ∧ n ≤ 64)
  | .ptpSyncExchange _ ns _ => decide (ns < 1000000000)
  | .rdmaWritePacket _ _ _ _ data _ _ => decide (data.length ≤ 4096)
  | .refclkTick => true
  | .syncBeatEdge => true
  | .missedBeat => true
  | .referenceLoss => true
  | .referenceReturn => true
  | .tickRealign => true
  | .strokeStart => true
  | .curbStroke => true
  | .callTick => true
  | .bundleIssue _ _ => true
  | .issueDeadline _ => true
  | .resultDelivery _ _ => true
  | .cacheFill _ => true
  | .mailboxWrite _ _ => true
  | .outboxRead _ => true
  | .cisternAccessStart _ _ _ => true
  | .lineLanding _ _ => true
  | .refreshCommand _ _ => true
  | .cisternScrub _ _ _ => true
  | .backgroundTransfer _ _ => true
  | .flitArrival _ _ => true
  | .routeUnitArrival _ => true
  | .routeGetSourceRead _ => true
  | .reductionNodeCombine _ _ _ _ => true
  | .selectorPostArrival _ => true
  | .selectorPublication _ _ _ => true
  | .fcCommand _ _ _ => true
  | .controlRegisterAccess _ _ => true
  | .fuseOpen _ => true
  | .fieldHoleMark _ => true
  | .holeVariantStaged => true
  | .converterFailure _ _ => true
  | .auxConverterFailure _ => true
  | .phaseFailure _ _ _ => true
  | .droopStretch _ => true
  | .inputVoltageExcursion _ _ => true
  | .powerSample _ _ _ => true
  | .wakeStep _ => true
  | .cappingLatch => true
  | .ptpServo => true
  | .ptpSyncTimeout => true
  | .forcedPoise => true
  | .graceEnd => true
  | .analogTrip _ _ => true
  | .ageingMeasurement _ _ _ _ => true
  | .thClearShutdown => true
  | .pwrEnLow => true
  | .modResetAssert => true
  | .channelTraining _ _ _ => true
  | .poisedExit => true
  | .ladderLeave _ _ => true
  | .ladderHeld _ _ => true
  | .ladderBanked _ _ => true
  | .ladderDry _ _ => true
  | .heldExit => true
  | .bankedExit => true
  | .dryExit => true
  | .draw => true
  | .promptReadComplete _ _ => true
  | .promptReadFailure _ => true
  | .completionRecordWrite _ => true
  | .ttlExpiry _ => true
  | .farTierCopy _ _ => true
  | .farTierWriteComplete _ _ => true
  | .farTierReadComplete _ _ => true
  | .wideRecompute _ => true
  | .sampleAbandon _ => true
  | .planCheckComplete _ _ => true
  | .planStagingComplete => true
  | .rotationDue => true
  | .rotationIdleCheck => true
  | .rotationRetry => true
  | .shardArrival _ _ _ => true
  | .shardTimeout _ => true
  | .installComplete => true
  | .swapLate => true
  | .swapEnd => true
  | .ethernetFrameReceive _ _ => true
  | .pfcPauseReceive _ _ _ => true
  | .cnpReceive _ _ => true
  | .rateRecovery _ _ => true
  | .rdmaReadWindow _ _ _ _ _ => true
  | .windowCloseTimeout _ => true
  | .linkDown _ => true
  | .linkUp _ _ _ => true
  | .stageWrite _ _ _ _ => true
  | .openTransaction _ => true
  | .commitTransaction _ _ _ _ => true
  | .abortTransaction _ _ => true
  | .commitDeadline _ => true
  | .boardCommitDecision _ => true
  | .schedulePlanActivation _ _ _ => true
  | .scheduleRecipe _ _ _ => true
  | .scheduleSwap _ _ => true
  | .scheduleInstall _ _ => true
  | .scheduleFirmware _ _ => true
  | .scheduleProofWindow _ _ => true
  | .cancelEvent _ _ => true
  | .openWindow _ _ => true
  | .closeWindow _ _ _ _ => true
  | .readLog _ _ _ => true
  | .readLedger _ _ _ _ => true
  | .attest _ _ => true
  | .identity _ => true
  | .dump _ _ => true
  | .dumpReady => true
  | .acknowledgeDump _ => true
  | .discardPlan _ => true
  | .discardSet _ => true
  | .alertMessage => true
  | .registerWrite _ _ => true
  | .firmwareRevert => true
  | .otpCounterAdvance => true
  | .watchdogExpiry _ => true
  | .recordHandling => true
  | .classificationWindow => true
  | .proofRun _ _ _ => true
  | .rePlacement => true
  | .refillComplete _ _ _ => true
  | .digestPassStart => true
  | .digestPassComplete _ => true
  | .laneLockLoss _ _ => true
  | .quadTrainingComplete _ _ _ => true
  | .cascadeUnitInject _ _ _ => true
  | .exchangeAddCombine _ _ _ => true
  | .cascadeVcMessage _ _ => true
  | .haltReceive _ => true
  | .compactSend => true
  | .alwaysOnOscillatorTick => true
  | .managementClear => true
  | .unassignedOp _ _ => true
  | .pwrEnHigh => true
  | .busRise => true

end Sys2Proof
end

