-- ==== Sys2Proof/Tests/Slice0.lean ====
section
/-! SUPPORT. Tests: ill-formed commands are refused, the worked examples of the spec, and for every statement with hypotheses
states and operands that meet them, clause by clause. -/

namespace Sys2Proof.Tests

open Sys2Proof Sys2Proof.Machine

-- one test is elaborated at a time: side by side they ask for more threads than the memory limit allows
set_option Elab.async false

/-! Well-formedness: for each check one command that it refuses, and one that passes. -/

/-- A tray round with good readings. -/
def tray : TrayReading := { inlet := some 240, outlet := some 300, flow := some 160, hostCmd := 0 }

/-- What a start-up finds where all is well, with a given number of tray rounds. -/
def startEnv (n : Nat) : StartupEnv := {
  bootSet := some false, trayOk := true, trayPosition := 0, straps := 0, refclkFlag := true, refclk := true
  minFlow := 144, maxInlet := 320, rounds := List.replicate n tray, plateOk := true, badConverters := [], badAux := []
  badChannels := [], floorBase := 2400, floorBoost := 2600, ptpTicks := none, testCells := [], testSites := [] }

/-- Sensor readings of field 0, with a given number of sites and DRAM positions, all at one pair of values. -/
def sensors (n m l d : Nat) : FieldSensors := {
  field := 0, diode := List.replicate n l, ring := List.replicate n l, dram1 := List.replicate m d, dram3 := List.replicate m d }

theorem test_wf_startup : Instr.WellFormed (.modResetRelease (startEnv 2)) = false := by decide
theorem test_wf_onWaferRound :
    Instr.WellFormed (.onWaferRound [sensors 73 6 400 400] []) = false ∧
    Instr.WellFormed (.onWaferRound [sensors 74 5 400 400] []) = false := by decide
theorem test_wf_trayRound :
    Instr.WellFormed (.trayRound { tray with inlet := some 1024 }) = false ∧
    Instr.WellFormed (.trayRound { tray with outlet := some 1024 }) = false ∧
    Instr.WellFormed (.trayRound { tray with flow := some 1024 }) = false := by decide
theorem test_wf_phaseShareTest :
    Instr.WellFormed (.phaseShareTest ⟨0, 0⟩ [1, 1, 1] [1, 1]) = false ∧
    Instr.WellFormed (.phaseShareTest ⟨0, 0⟩ [1, 1, 1, 1] [1]) = false := by decide
theorem test_wf_reads :
    Instr.WellFormed (.indexReadComplete (some [0])) = false ∧
    Instr.WellFormed (.descriptorReadComplete (some [[0]])) = false ∧
    Instr.WellFormed (.readRegisters 0 0 0) = false ∧ Instr.WellFormed (.readRegisters 0 0 65) = false := by decide
theorem test_wf_messages :
    Instr.WellFormed (.yelziaFlitReceive 0 0 [] {}) = false ∧ Instr.WellFormed (.compactReceive 0 []) = false ∧
    Instr.WellFormed (.burnSettings 0 []) = false ∧ Instr.WellFormed (.connectionRequest 0 0 1500) = false ∧
    Instr.WellFormed (.ptpSyncExchange 0 1000000000 0) = false := by decide
theorem test_wf_rdmaWrite : Instr.WellFormed (.rdmaWritePacket 0 0 0 0 (List.replicate 4097 0) true true) = false := by
  decide +kernel
theorem test_wf_accepts :
    Instr.WellFormed (.modResetRelease (startEnv 3)) = true ∧
    Instr.WellFormed (.onWaferRound [sensors 74 6 400 400] []) = true ∧ Instr.WellFormed (.trayRound tray) = true ∧
    Instr.WellFormed (.connectionRequest 0 0 4096) = true ∧ Instr.WellFormed .refclkTick = true := by decide +kernel

/-- The table gives no row bits: no word spells a command (log entry 8), so a queue stays as it is. -/
theorem test_decode_none (n w : Nat) (s : State) : decodeTableWord n w = none ∧ s.withFetchWord n w = s := ⟨rfl, rfl⟩

/-! The worked examples of the spec. -/

/-- 04, "one F4T × MXFP4 leaf": bytes 0, 1, 4, 10, 15 of the codes, X_w 0x7E with grain 0xB4, X_a 0x81; the leaf is −2.0, the
A40 word 0xC0_0000_0000. -/
theorem test_leaf_example :
    let w : Bytes := [0x07, 0xB0, 0, 0, 0x40, 0, 0, 0, 0, 0, 0x06, 0, 0, 0, 0, 0x90, 0x7E, 0xB4]
    let a : Bytes := [0x02, 0x50, 0, 0, 0xE0, 0, 0, 0, 0, 0, 0x03, 0, 0, 0, 0, 0xF0, 0x81]
    leafBits false false 2 0 (rowBlock 2 1 1 w 0 0) (rowBlock 0 1 1 a 0 0) = 0xC000000000 := by decide +kernel

/-- 04, "five leaves and a drain": 2^24 and four times 1.0 in reference order give 16,777,220. -/
theorem test_five_leaves :
    let x (b : Nat) : PA40 := { val := BitVec.ofNat 40 (nodeEnc true (f32Dec b)) }
    let e := [0x4B800000, 0x3F800000, 0x3F800000, 0x3F800000, 0x3F800000].foldl (fun e b => (insertLeaf false true e (x b)).1) ({} : AccElem)
    storeRoot false ((collapseElem false true e).1.rootWord 0 0) = (0x4B800002, false) := by decide +kernel

/-- 05, "encoding a loop bundle": its slots, and its tally word at 0x040. -/
theorem test_loop_bundle :
    let b := 0x400000003083_00C00228_C01000000000
    vDecode false b = .loop 1 12 3 ∧ xDecode false b = .spLdr 5 3 0x10 ∧ mDecode false b = .nop ∧ nDecode false b = .nop ∧
    bEnd b = false ∧ bLevel b = 1 ∧ tallyWord 0x040 b = 0x004040060080 := by decide +kernel

/-- 06, "encoding one mma": mma.f4t.first WS0, T0, c0 = 0, n = 8, s10, 8 engine cycles in a D-cell. -/
theorem test_mma_bundle :
    mDecode false (0x4A8000EA * 2 ^ 96) = .mma 0 0 0 8 10 2 true false false ∧ mmaCycles 2 2 8 false = 8 := by decide +kernel

/-- 06, "quantizing to F4T": the named bytes, and the values vdeq gives back. -/
theorem test_quantize_f4t :
    let l := (List.range 32).map fun j => if j = 0 then 0x40A00000 else if j = 9 then 0xBF400000 else if j = 20 then 0x3E99999A else 0
    let q := quantBytes 2 false false l
    (q.getD 0 0, q.getD 4 0, q.getD 10 0, q.getD 16 0, q.getD 17 0) = (0x06, 0xF0, 0x04, 0x7F, 0xFC) ∧
    (deqLanes 2 false false q)[0]? = some 0x40800000 ∧ (deqLanes 2 false false q)[9]? = some 0xBF400000 ∧
    (deqLanes 2 false false q)[20]? = some 0x3E800000 := by decide +kernel

/-- 01, "relocating a cluster past two defects": home index 50 with sites 17 and 50 bad lies at site 52, 71 at 73. -/
theorem test_relocation :
    let s : State := { otp := { siteWords := [(29 * 74 + 17, 0x40000), (29 * 74 + 50, 0x40000)] } }
    homeOf (5 * 9 + 3) = 50 ∧ clusterSite s [] 29 50 = some 52 ∧ clusterSite s [] 29 16 = some 16 ∧
    clusterSite s [] 29 17 = some 18 ∧ clusterSite s [] 29 71 = some 73 := by decide +kernel

/-- 17, "a prefill burst meets the ramp bound": demands 47, 47 and 45 ticks at F = 2.4 kW. -/
theorem test_capping_demand :
    cappingDemand 32 32 false 2400 16000 22000 1 = 47 ∧ cappingDemand 47 32 true 2400 16000 15745 1 = 47 ∧
    cappingDemand 47 32 true 2400 19745 15745 1 = 45 := by decide +kernel

/-- The check values of CRC-32C and CRC-32 for the digits 1 to 9, as their standards give them (R408, R421). -/
theorem test_crc :
    let d : Bytes := [0x31, 0x32, 0x33, 0x34, 0x35, 0x36, 0x37, 0x38, 0x39]
    crc32c d = 0xE3069283 ∧ crc32Yelzia d = 0xCBF43926 := by decide +kernel

/-! Witnesses: for each statement with hypotheses, states and operands that meet them, clause by clause. -/

/-- A module that runs: field 0 and its site 0 work, the data path is in working stroke 3. -/
def run0 : State := {
  time := {
    localTicks := 1000, established := true, running := true, dataPath := true, inStroke := true, work := 3, stroke := 5
    wStart := false }
  sites := [(0, { up := true, cisState := .ready })]
  fields := [(0, { domain := .running })]
  power := { ladder := .running }
  mgmt := { step := 5, ready := true } }

/-- The running module with a time, a cell 0, a site 0. -/
def withTime (t : TimeState) : State := { run0 with time := t }
def withCell (c : CellState) : State := { run0 with cells := [(0, c)] }
def withSite (x : SiteState) : State := { run0 with sites := [(0, x)] }

/-- Cell 0 and site 0 of field 0. -/
def cell0 : CellAddr := ⟨0, 0, 0⟩
def site0 : SiteAddr := ⟨0, 0⟩

/-- A small plan with serving tables: one intake and one output area in cell 0, one chunk of the smallest bucket. -/
def header1 : PlanHeader := {
  isaLevel := 1, latClass := 1, budget := 512, periodFloor := 32, boost := false, regions := false, wafers := 1, cascade := 0
  rotations := 2, holeMask := [0], holeVariants := [0], weightLayout := 0, digest := 0, drain := 0, prologue := 1, kvLayout := 0
  sections := 0, length := 256 }
def tables1 : ServingTables := {
  vocab := 1000, schedules := [{ number := 0, kind := .chunk 0, length := 8, first := [], last := [] }]
  intake := [⟨0, ⟨0, 0⟩, 0, 0⟩], output := [⟨0, ⟨0, 0⟩, 0, 64⟩], contSet := false, columns := 1, pools := [], history := [] }
def layer1 : LayerRec := { layer := 1, wideFmt := 4, t := 0, n := 1, narrow := [], wide := [], shadow := [], extra := [] }
def plan1 : Plan := {
  header := header1
  body := { serving := [⟨0, perPosition, tables1⟩], precision := [⟨0, perPosition, [layer1]⟩] }
  bases := [], key := 0 }
/-- The running module with that plan in force. -/
def serve0 : State := { run0 with plan := { active := some plan1 } }
/-- The same with cell 0 listed as the logical cell (0, 0). -/
def serve1 : State := { serve0 with cells := [(0, { issue := .ended })] }

theorem witness_StepKeepsTablesCanonical :
    State.tablesWf { run0 with pending := [.refclkTick] } = true ∧ ∃ t, step { run0 with pending := [.refclkTick] } = .next t :=
  ⟨by decide +kernel, _, rfl⟩

theorem witness_EmptyQueueIdles : State.reset.pending = [] := rfl

theorem witness_TicksCountOnTheirSource : run0.time.refLost = false ∧
    (withTime { run0.time with refLost := true }).time.refLost = true := by decide

theorem witness_BoardTimeFollowsTicks :
    let s := withTime { run0.time with localTicks := 18446744073709551614, trim := -18446744073709551613 }
    s.time.refLost = false ∧ s.time.localTicks.toNat + 1 < 2 ^ 64 ∧ 1 ≤ (s.time.localTicks.toNat : Int) + s.time.trim := by decide

theorem witness_TrimCausesNoBeatError : run0.time.realign = false ∧ run0.time.established = true ∧
    beatAligned run0.time.localTicks.toNat = true ∧ beatAligned 1001 = true ∧ beatAligned 999 = true := by decide

theorem witness_BeatEdgeOutcomes :
    let off := withTime { run0.time with localTicks := 1002 }
    let al := withTime { run0.time with realign := true, localTicks := 1051 }
    let first := withTime { run0.time with established := false }
    (run0.time.realign = false ∧ beatAligned run0.time.localTicks.toNat = true ∧
      run0.time.established = true) ∧
    (off.time.realign = false ∧ beatAligned off.time.localTicks.toNat = false ∧ off.mgmt.ready = true) ∧
    (al.time.realign = true ∧ al.time.localTicks.toNat + 100 < 2 ^ 64) ∧
    first.time.realign = false ∧ beatAligned first.time.localTicks.toNat = true ∧
    first.mgmt.ready = true ∧ first.time.established = false ∧ first.board.position = 0 ∧ first.mgmt.hold = 0 := by decide

theorem witness_MissedBeatsAndRealignment :
    let third := withTime { run0.time with missRun := 2 }
    let back := withTime { run0.time with refLost := true, refReturned := true, localTicks := 1051 }
    (run0.mgmt.ready = true ∧ run0.time.missRun ≠ 2) ∧
    (third.mgmt.ready = true ∧ third.time.missRun = 2) ∧
    back.time.refLost = true ∧ back.time.refReturned = true ∧ back.time.localTicks.toNat + 100 < 2 ^ 64 ∧
    back.board.position = 0 ∧ back.board.admittedMask = 1 := by decide

theorem witness_ReferenceLossForcesHeld :
    let p : State := { run0 with power := { ladder := .poised } }
    (run0.tablesWf = true ∧ run0.time.refLost = false ∧ run0.mgmt.ready = true ∧ run0.power.ladder = .running) ∧
    p.tablesWf = true ∧ p.time.refLost = false ∧ p.mgmt.ready = true ∧ p.power.ladder = .poised := by decide +kernel

theorem witness_StrokeStartAndCallTick :
    let last := withTime { run0.time with localTicks := 131040, stroke := 4094 }
    let early := withTime { run0.time with localTicks := 191 }
    let stop : State := { run0 with faults := { restart := true } }
    let busy : State := { withCell { issue := .running, active := { ctrl := 3 } } with time := { run0.time with localTicks := 189 } }
    (∀ s ∈ [run0, last, stop], s.time.running = true ∧ s.time.stroke < 4095 ∧
      s.time.epochStart + (s.time.stroke + 1) * s.time.period ≤ boardTime s) ∧ pathStops stop = true ∧
    (early.time.running = true ∧ boardTime early < early.time.epochStart + (early.time.stroke + 1) * early.time.period) ∧
    working busy = true ∧ busy.time.called = false ∧
    boardTime busy + 3 = busy.time.epochStart + (busy.time.stroke + 1) * busy.time.period ∧ (∃ q ∈ busy.sites, q.1 = 0) ∧
    cellRuns (busy.cell 0) = true ∧ (busy.cell 0).issue = .running ∧
    boardTime run0 + 3 ≠ run0.time.epochStart + (run0.time.stroke + 1) * run0.time.period := by
  decide +kernel

theorem witness_CurbStrokeBeginsEpoch :
    let s := withTime { run0.time with localTicks := 131072, stroke := 4095 }
    (s.time.running = true ∧ s.time.stroke = 4095 ∧ s.time.epochStart + 4096 * s.time.period ≤ boardTime s) ∧
    run0.time.stroke < 4095 := by decide

/-- A cell that runs a one-bundle task, in a given cycle, with a given bundle. -/
def runCell (cycle : Nat) (b : BitVec 128) : CellState := {
  issue := .running, cycle := cycle, istore := if b = 0 then [] else [(0, b)]
  active := { tasks := [(0, { ibound := 1, valid := true })] } }

theorem witness_IssueAdvancesRunningCell :
    let s := withCell (runCell 511 0)
    let e := withCell (runCell 511 (BitVec.ofNat 128 (2 ^ 125)))
    (s.tablesWf = true ∧ working s = true ∧ siteRuns s 0 = true ∧ (s.cell 0).issue = .running ∧
      (s.cell 0).cycle < 512 ∧ (s.cell 0).pc < (taskRegs (s.cell 0) 0).ibound) ∧
    (e.tablesWf = true ∧ working e = true ∧ siteRuns e 0 = true ∧ (e.cell 0).issue = .running ∧
      (e.cell 0).cycle < 512 ∧ (e.cell 0).pc < (taskRegs (e.cell 0) 0).ibound) ∧
    bEnd (tget 0 (s.cell 0).istore 0).toNat = false ∧ bEnd (tget 0 (e.cell 0).istore 0).toNat = true ∧
    (run0.cell 0).issue ≠ .running := by decide +kernel

theorem witness_ScalarResultDueSixCyclesOn :
    let b := 2 ^ 89 + 2 ^ 84 + 2 * 2 ^ 78 + 3 * 2 ^ 72
    let s := withCell (runCell 0 (BitVec.ofNat 128 b))
    s.tablesWf = true ∧ working s = true ∧ siteRuns s 0 = true ∧ (s.cell 0).issue = .running ∧ (s.cell 0).cycle < 512 ∧
    (s.cell 0).pc < (taskRegs (s.cell 0) 0).ibound ∧ (s.site 0).guard = [] ∧ (tget 0 (s.cell 0).istore 0).toNat = b ∧
    mDecode false b = .nop ∧ vDecode false b = .alu 1 1 2 3 0 ∧ xDecode false b = .nop ∧ nDecode false b = .nop := by
  decide +kernel

/-- The scalar addition of that bundle: s1 gets 5 + 7 six cycles later. -/
theorem test_bundleIssue_add :
    let b := BitVec.ofNat 128 (2 ^ 89 + 2 ^ 84 + 2 * 2 ^ 78 + 3 * 2 ^ 72)
    let s := withCell { runCell 0 b with sreg := [(2, { val := 5 }), (3, { val := 7 })] }
    (match exec (.bundleIssue cell0 {}) s with | .next t => (t.cell 0).pend | _ => []) =
      [{ due := 3 * 512 + 6, slot := 1, what := .scalar 1 { val := 12 }, task := 0, bundle := 0 }] := by decide +kernel

theorem witness_DeliveryTakesDueResults :
    let p : Pending := { due := 2047, slot := 1, what := .scalar 1 { val := 12 } }
    let s := withCell { issue := .ended, pend := [p] }
    s.tablesWf = true ∧ working s = true ∧ siteRuns s 0 = true ∧ (s.cell 0).issue = .ended ∧ (s.site 0).guard = [] ∧
    tblWf {} (s.cell 0).sreg = true ∧ (s.cell 0).pend = [p] ∧ p.due ≤ budgetBase s + 511 := by decide +kernel

theorem witness_DeadlineAndCacheFill :
    let f : CacheFillRec := {
      due := 2047, task := 0, set := 0, way := 0, line := 4, data := [{ val := 1 }], word := 16, readyAt := some 242 }
    let d := withCell (runCell 512 0)
    let s := withCell { issue := .ended, fills := [f], cache := [(0, [{ way := 0, line := 4, filled := false }])] }
    (d.tablesWf = true ∧ working d = true ∧ siteRuns d 0 = true ∧ (d.cell 0).issue = .running ∧ 512 ≤ (d.cell 0).cycle ∧
      (d.cell 0).faults.status = 0) ∧
    s.tablesWf = true ∧ working s = true ∧ siteRuns s 0 = true ∧ (s.cell 0).issue = .ended ∧ (s.site 0).guard = [] ∧
    tblWf [] (s.cell 0).cache = true ∧ (s.cell 0).fills = [f] ∧ f.due ≤ budgetBase s + 511 ∧ f.stale = false ∧
    f.data.any (·.poison) = false ∧ ((tget [] (s.cell 0).cache 0).any fun w => w.way == f.way && w.line == f.line && !w.filled) = true ∧
    f.readyAt = some 242 ∧ budgetSlot s false f.due = some 242 ∧
    ({ f with readyAt := none } : CacheFillRec).readyAt = none := by decide +kernel

theorem witness_SlackWorkOfACell :
    let b := withCell { issue := .ended, waking := [0, 1] }
    let again : State := { serve0 with cells := [(0, { issue := .ended, mailAt := 3, outAt := 3 })] }
    (b.tablesWf = true ∧ b.time.running = true ∧ siteRuns b 0 = true ∧ b.power.ladder = .running ∧ (b.cell 0).issue ≠ .running) ∧
    (serve1.tablesWf = true ∧ servingTables serve1 = some tables1 ∧ areaOf serve1 tables1.intake 0 = some ⟨0, ⟨0, 0⟩, 0, 0⟩ ∧
      areaOf serve1 tables1.output 0 = some ⟨0, ⟨0, 0⟩, 0, 64⟩ ∧ working serve1 = true ∧ (serve1.cell 0).mailAt ≠ serve1.time.work ∧
      (serve1.cell 0).outAt ≠ serve1.time.work ∧ serve1.serve.parcels = []) ∧
    (({ type := 1, payload := [1], index := 0, left := [0] } : Parcel).left = [cellKey cell0] ∧ ([(1 : Byte)].length + 63) / 64 + 1 ≤ 2) ∧
    (again.cell 0).mailAt = again.time.work ∧ (again.cell 0).outAt = again.time.work := by decide +kernel

theorem witness_CisternAccessesStartInOrder :
    let g : AccessReq := {
      cell := 0, logical := 0, slot := 10, kind := .get, lines := [0], issued := 1540, due := 1720, denied := none, task := 0
      bundle := 0, rel := 0 }
    let p : AccessReq := { g with kind := .put, lines := [4] }
    let e : GuardEntry := { line := 4, offset := 0, data := [1], poison := false, issued := 1540, due := 1720, cell := 0, live := true }
    let q : Pending := { due := 1720, slot := 2, what := .cisGet 0 [true] [{ line := 0, data := [] }] }
    let start : ChanStart := { slot := 9, group := 0, bank := 0, write := false }
    let s : State := { withSite { up := true, cisState := .ready, queueA := [g], queueB := [p], guard := [e], startsA := [start] } with
      cells := [(0, { pend := [q] })] }
    s.tablesWf = true ∧ (s.site 0).cisState = .ready ∧ (s.site 0).queueA = [g] ∧ (s.site 0).queueB = [p] ∧
    (startSlot s (s.site 0).startsA g = some 51 ∧ 51 ≤ slotNow s ∧ g.issued < siteNow s 0 ∧ g.kind ≠ .put ∧ g.denied = none ∧
      (s.cell 0).pend[0]? = some q ∧ q.due = g.due) ∧
    startSlot s (s.site 0).startsB p = some 252 ∧ 252 ≤ slotNow s ∧ p.issued < siteNow s 0 ∧ p.kind = .put ∧ p.due ≤ siteNow s 0 ∧
    (s.site 0).guard = [e] ∧ e.cell = p.logical ∧ e.issued = p.issued ∧ e.due = p.due ∧ e.line ∈ p.lines := by decide +kernel

theorem witness_LinesLandOrAreLate :
    let m : LineMove := { line := 0, data := [], landAt := 1700 }
    let q : Pending := { due := 1716, slot := 2, what := .cisGet 0 [true] [{ m with started := true, readyAt := 77 }, m] }
    let s := withCell { pend := [q] }
    s.tablesWf = true ∧ (outstanding s 0)[0]? = some (0, 0, 0) ∧ (outstanding s 0)[1]? = some (0, 0, 1) ∧
    (s.cell 0).pend[0]? = some q ∧ budgetSlot s false m.landAt = some 77 ∧ 77 ≤ slotNow s ∧ m.landAt ≤ siteNow s 0 ∧
    77 < ({ m with started := true, readyAt := 78 } : LineMove).readyAt := by decide +kernel

theorem witness_RefreshAndScrubOfASlice :
    let s (ticks : BitVec 64) := withTime { run0.time with stroke := 0, localTicks := ticks, curbTick := 1000 }
    let wrap := withSite { up := true, cisState := .ready, scrubPos := 4194303 }
    (∀ q ∈ [(s 1014, 126), (s 1018, 168), (s 1023, 210)], q.1.tablesWf = true ∧ q.1.time.running = true ∧ q.1.time.stroke = 0 ∧
      (q.1.site 0).cisState = .ready ∧ q.2 / 9 = curbAge q.1 ∧ (q.1.site 0).refreshLast ≠ some (q.1.time.epoch * 256 + q.2)) ∧
    ∀ q ∈ [(run0, false), (wrap, true)], q.1.tablesWf = true ∧ q.1.time.running = true ∧ channelsOpen q.1 = true ∧
      2 ≤ freePositions q.1 0 q.2 ∧ readyTransfers q.1 0 = [] ∧ swapping q.1 = false ∧ (q.1.site 0).cisState = .ready ∧
      tb (q.1.site 0).csCtrl.toNat 0 = true ∧ tb (q.1.site 0).scrubPos.toNat 0 = q.2 ∧ (q.1.site 0).scrubAt ≠ strokeNo q.1 ∧
      2 ≤ bf (q.1.site 0).csCtrl.toNat 15 8 := by decide +kernel

theorem witness_TransfersAndTrainingOfASlice :
    let d : Bytes := List.replicate 64 7
    let region (kind : Nat) : SiteImage := { regionCtrl := [(0, BitVec.ofNat 32 (2 ^ 31 + kind * 2 ^ 24 + 1))] }
    let s (kind : Nat) := withSite {
      up := true, cisState := .ready, transfers := [.refill 9 d], active := region kind, linePoison := [(9, true)] }
    let off : State := { run0 with fields := [(0, { domain := .dark })], sites := [] }
    (∀ kind ∈ [0, 4], (s kind).tablesWf = true ∧ ((s kind).site 0).cisState = .ready ∧
      ((s kind).site 0).transfers = [.refill 9 d] ∧ d.length = 64 ∧ regionKind ((s kind).site 0).active 9 = some kind ∧
      tblWf 0 ((s kind).site 0).mem = true ∧ tblWf false ((s kind).site 0).linePoison = true ∧ (s kind).weights.loading = none ∧
      servingTables (s kind) = none ∧ (s kind).time.running = true ∧ channelsOpen (s kind) = true ∧
      1 ≤ freePositions (s kind) 0 (tb 9 2) ∧ meshBusy (s kind) (siteRouter (s kind) 0) 9 = false) ∧
    off.tablesWf = true ∧ (off.site 0).cisState = .off ∧ (off.field 0).domain = .dark := by decide +kernel

/-- A unit on its way east from router (0, 0) to (1, 0), and a state with it, or with other flits, in flight. -/
def flit0 : Flit := {
  bits := BitVec.ofNat 600 (2 ^ 71 + 2 ^ 44 + 65242), x := 0, y := 0, leg := 0, plane := 0, out := 4, enter := 1540, due := 1542, home := false }
def withFlit (f : Flit) : State := { run0 with flits := [f] }

theorem crc16_add (a b x : Nat) : ∀ c, crc16 (a + b) x c = crc16 b x (crc16 a (x / 2 ^ b) c) := by
  induction a with
  | zero => intro c; simp [crc16]
  | succ a ih =>
    intro c
    rw [show a + 1 + b = (a + b) + 1 by omega]
    simp only [crc16]
    rw [ih]
    congr 2
    simp [tb, Nat.testBit_div_two_pow, Nat.add_comm]

/-- The CRC of that flit, a stretch of its bits at a time. -/
theorem flit0_crc : flitCrc (2 ^ 71 + 2 ^ 44 + 65242) = 65242 := by
  unfold flitCrc
  have h0 : crc16 73 (((2 ^ 71 + 2 ^ 44 + 65242) / 2 ^ 16) / 2 ^ 511) 0xFFFF = 12516 := by decide +kernel
  have h1 : crc16 73 (((2 ^ 71 + 2 ^ 44 + 65242) / 2 ^ 16) / 2 ^ 438) 12516 = 1677 := by decide +kernel
  have h2 : crc16 73 (((2 ^ 71 + 2 ^ 44 + 65242) / 2 ^ 16) / 2 ^ 365) 1677 = 62203 := by decide +kernel
  have h3 : crc16 73 (((2 ^ 71 + 2 ^ 44 + 65242) / 2 ^ 16) / 2 ^ 292) 62203 = 37464 := by decide +kernel
  have h4 : crc16 73 (((2 ^ 71 + 2 ^ 44 + 65242) / 2 ^ 16) / 2 ^ 219) 37464 = 61195 := by decide +kernel
  have h5 : crc16 73 (((2 ^ 71 + 2 ^ 44 + 65242) / 2 ^ 16) / 2 ^ 146) 61195 = 4824 := by decide +kernel
  have h6 : crc16 73 (((2 ^ 71 + 2 ^ 44 + 65242) / 2 ^ 16) / 2 ^ 73) 4824 = 27501 := by decide +kernel
  have h7 : crc16 73 ((2 ^ 71 + 2 ^ 44 + 65242) / 2 ^ 16) 27501 = 65242 := by decide +kernel
  rw [show 584 = 73 + 511 from rfl, crc16_add, h0,
    show 511 = 73 + 438 from rfl, crc16_add, h1,
    show 438 = 73 + 365 from rfl, crc16_add, h2,
    show 365 = 73 + 292 from rfl, crc16_add, h3,
    show 292 = 73 + 219 from rfl, crc16_add, h4,
    show 219 = 73 + 146 from rfl, crc16_add, h5,
    show 146 = 73 + 73 from rfl, crc16_add, h6,
    h7]

theorem witness_FlitTakesItsNextLink_crc :
    flitCrc flit0.bits.toNat = flit0.bits.toNat % 65536 ∧
    flitCrc ({ flit0 with bits := flit0.bits ^^^ 1 } : Flit).bits.toNat ≠ ({ flit0 with bits := flit0.bits ^^^ 1 } : Flit).bits.toNat % 65536 ∧
    linksUp State.reset (fieldAtXY flit0.x flit0.y) = false := by
  have h : flit0.bits.toNat = 2 ^ 71 + 2 ^ 44 + 65242 := by decide +kernel
  have g : ({ flit0 with bits := flit0.bits ^^^ 1 } : Flit).bits.toNat = 2 ^ 71 + 2 ^ 44 + 65243 := by decide +kernel
  have e : flitCrc (2 ^ 71 + 2 ^ 44 + 65243) = flitCrc (2 ^ 71 + 2 ^ 44 + 65242) := rfl
  rw [h, g, e, flit0_crc]
  exact ⟨by decide, by decide, by decide +kernel⟩

theorem witness_FlitTakesItsNextLink :
    let s := withFlit flit0
    s.tablesWf = true ∧ working s = true ∧ flit0.enter < budgetBase s + 512 ∧ flitKind flit0.bits.toNat = 0 ∧
    tb (flitHead flit0.bits.toNat) 0 = false ∧ (flitNext flit0).2 = 1 ∧ linkInside 0 0 1 = true ∧
    linksUp s (fieldAtXY 0 0) = true ∧ stepXY 0 0 1 = (1, 0) ∧ (s.field (fieldAtXY 1 0)).domain = .running ∧
    (tget 0 (s.router (routerKeyXY 0 0)).active.weirs ((1 * 4 + 0) * 64 + 1540 % 64)).toNat = flitTenant flit0.bits.toNat := by
  decide +kernel

theorem witness_FlitTakesItsNextLink_wire :
    (∀ w ∈ [2 ^ 71 + 2 ^ 44 + 65242, 2 ^ 71 + 2 ^ 44 + 65243], flitValid w = true ∧ flitKind w = 0 ∧ tb (flitHead w) 0 = false) ∧
    (flit0.bits ^^^ 0).toNat = 2 ^ 71 + 2 ^ 44 + 65242 ∧ (flit0.bits ^^^ 1).toNat = 2 ^ 71 + 2 ^ 44 + 65243 :=
  ⟨by decide +kernel, by decide +kernel, by decide +kernel⟩

theorem witness_UnitsAndGetsReachTheirCells :
    let u : Flit := { flit0 with bits := BitVec.ofNat 600 (2 ^ 71), home := true }
    let q : Flit := { flit0 with bits := BitVec.ofNat 600 (2 ^ 71 + 2 ^ 67), home := true }
    let cell : CellState := { issue := .ended, active := { logical := 2147483648 } }
    let s : State := { withFlit u with cells := [(0, cell)] }
    let g : GetReq := {
      srcX := 1, srcY := 0, srcCell := 0, srcTask := 0, x := 0, y := 0, cell := 0, task := 0, srcUnit := 0, dstUnit := 0, n := 2
      time := 2047, lat := 4, head := 0, plane := 0, tenant := 0, poison := false }
    let r : State := { run0 with gets := [g], cells := [(0, cell)] }
    (s.tablesWf = true ∧ working s = true ∧ u.due < budgetBase s + 512 ∧ u.via = 0 ∧ u.lost = false ∧
      flitKind u.bits.toNat = 0 ∧ u.beyond = 0 ∧ (s.field (fieldAtXY 0 0)).domain ≠ .dark ∧ servedCell s 0 0 (bf (flitHead u.bits.toNat) 21 18) = some 0 ∧
      spUnit (taskRegs (s.cell 0) (bf (flitHead u.bits.toNat) 17 15)) (bf (flitHead u.bits.toNat) 14 1) = none) ∧
    (let near : State := { withFlit u with cells := [(0, { cell with active := {
        logical := 2147483648, tasks := [(0, { ibound := 1, sbound := 4, valid := true })] } })] };
      near.tablesWf = true ∧ spUnit (taskRegs (near.cell 0) (bf (flitHead u.bits.toNat) 17 15)) (bf (flitHead u.bits.toNat) 14 1) = some 0 ∧
      servedCell near 0 0 0 = some 0 ∧ (near.cell 0).issue = .ended ∧ (near.cell 0).pend = []) ∧
    (({ withFlit u with fields := [(0, { domain := .dark })] } : State).field (fieldAtXY u.x u.y)).domain = .dark ∧
    (working (withFlit q) = true ∧ q.due < budgetBase (withFlit q) + 512 ∧ q.via = 0 ∧ flitKind q.bits.toNat = 1) ∧
    servedCell r g.x g.y g.cell = some 0 ∧ working r = true ∧ g.time < budgetBase r + 512 ∧ (r.cell 0).issue = .ended := by
  decide +kernel

theorem witness_ReductionNodesTakeTheirInputs :
    let e := 2 ^ 63 + 7 * 2 ^ 47 + 2 ^ 42
    let s : State := { run0 with routers := [(0, {
      active := { nodes := [(255, BitVec.ofNat 64 e)] }
      held := [{ tid := 0, unit := 63, port := 0, op := 0, data := [], due := 1600 }] })] }
    let n := nodeLeg (s.router 0) (s.site 0) (bf e 62 53) 63 (bf e 52 50)
    s.tablesWf = true ∧ working s = true ∧ linksUp s 0 = true ∧ (tget 0 (s.router 0).active.nodes 255).toNat = e ∧ tb e 63 = true ∧
    bf e 49 47 = 7 ∧ bf e 52 50 < 4 ∧ bf e 46 42 = 1 ∧ servedSite s (clusterXY 0 (homeOf 0 % 9) (homeOf 0 / 9)).1
      (clusterXY 0 (homeOf 0 % 9) (homeOf 0 / 9)).2 = some 0 ∧ n.2 = false ∧ (n.1.map fun q => q.leg.clamps) = some 0 := by
  decide +kernel

/-- Two held inputs, one held input with a cell still to issue, and an entry before the one commanded that is ready. -/
theorem witness_ReductionNodesTakeTheirInputs_two :
    let e := 2 ^ 63 + 2 ^ 47 + 2 ^ 42
    let h (port : Nat) : RedInput := { tid := 0, unit := 63, port := port, op := 0, data := [], due := 1600 }
    let s (l : List RedInput) (c : CellState) (first : List (Nat × BitVec 64)) : State := { run0 with
      routers := [(0, { active := { nodes := first ++ [(255, BitVec.ofNat 64 e)] }, held := l })], cells := [(0, c)] }
    let leg (s : State) (code : Nat) := nodeLeg (s.router 0) (s.site (routerSite s 0)) 0 63 code
    let both := s [h 0, h 1] { issue := .ended } []
    let one := s [h 0] { issue := .running, cycle := 3 } []
    let ahead := s [h 0, h 1] { issue := .ended } [(1, BitVec.ofNat 64 e)]
    (bf e 62 53 = 0 ∧ bf e 49 47 = 1 ∧ bf e 52 50 = 0 ∧ bf e 46 42 = 1) ∧
    (both.tablesWf = true ∧ nodeReady both 0 0 63 (fun i => decide (i < 255)) = false ∧ (leg both 0).2 = false ∧
      (leg both 1).2 = false ∧ ((leg both 0).1.bind fun a => (leg both 1).1.map fun b =>
        (combineLeg a.op 63 a.leg b.leg).clamps) = some 0) ∧
    (one.tablesWf = true ∧ nodeReady one 0 0 63 (fun i => decide (i < 255)) = false ∧ (leg one 0).1.isSome = true ∧
      leg one 1 = (none, false) ∧ treeMoves one 0 63 1600 = true) ∧
    ahead.tablesWf = true ∧ nodeReady ahead 0 0 63 (fun i => decide (i < 255)) = true ∧ (leg ahead 0).1.isSome = true := by
  decide +kernel

theorem witness_PostsArePublishedInTime :
    let p (c : Fin 16) (stage : Fin 3) (work : Nat) : Post := { cell := cell0, chan := c, value := 5, work := work, stage := stage }
    let s (q : Post) : State := { run0 with posts := [q] }
    (∀ c ∈ [(11 : Fin 16), 12], ∀ g ∈ [(0 : Fin 3), 1], (s (p c g 2)).posts = [p c g 2] ∧ linksUp (s (p c g 2)) 0 = true) ∧
    (s (p 11 1 2)).tablesWf = true ∧ tblWf {} ((s (p 11 1 2)).field 0).pubs = true ∧ (p 11 1 2).work + 1 ≤ run0.time.work ∧
    (p 12 2 1).work + 2 ≤ run0.time.work ∧ run0.time.work < (p 12 2 2).work + 2 := by decide +kernel

theorem witness_FieldControllerChecksCommands : run0.tablesWf = true ∧ linksUp run0 0 = true ∧ (run0.field 0).domain = .running ∧
    (run0.field 0).ctrlQueue = [] ∧ (run0.field 0).ctrlFree ≤ ctrlNow run0 ∧
    tblWf {} (run0.field 0).pubs = true := by decide +kernel

theorem witness_DarkPlacesAnswerDark :
    let cell := regAddr (BitVec.ofNat 64 (9 * 2 ^ 56 + 1 * 2 ^ 43))
    let hole : State := { run0 with fields := [(0, { domain := .hole })] }
    let fc := regAddr (BitVec.ofNat 64 (2 * 2 ^ 56))
    let wm := regAddr (BitVec.ofNat 64 (1 * 2 ^ 56 + 0xC))
    (run0.tablesWf = true ∧ cell.block = 9 ∧ cell.field < 48 ∧ cell.site = 1 ∧ siteRuns run0 cell.siteKey = false ∧
      regDark run0 cell = true ∧ linksUp run0 cell.field = true) ∧
    (hole.tablesWf = true ∧ fc.block = 2 ∧ fc.field = 0 ∧ isHole hole 0 = true ∧ regDark hole fc = true ∧ linksUp hole 0 = false) ∧
    ((run0.field cell.field).ctrlQueue = [] ∧ (run0.field cell.field).ctrlFree ≤ ctrlNow run0) ∧
    (let m (c : Nat) : CtrlMsg := { cls := c, words := 2, body := .access 0 none };
      ctrlPick [m 3, m 1] 14 = some 1 ∧ (∃ x ∈ [m 3, m 1], x.cls = 3) ∧ ctrlPick [m 3, m 1] 15 = some 0) ∧
    regDark run0 wm = false ∧ ((blockRows run0 wm).bind fun rows => rowValue rows wm.off) = some 0 := by decide +kernel

theorem witness_SupplyFailures :
    let second : State := { run0 with
      fields := [(0, { domain := .running, convBad := [1] })], power := { ladder := .running, auxBad := [3] } }
    (∀ s ∈ [run0, second], s.tablesWf = true ∧ isHole s 0 = false ∧ (0 : Fin 2).val ∉ (s.field 0).convBad ∧
      (0 : Fin 4).val ∉ s.power.auxBad) ∧
    run0.power.auxBad = [] ∧ second.power.auxBad ≠ [] ∧ (second.field 0).convBad ≠ [] ∧
    4800 ≤ (4800 : BitVec 16).toNat ∧ (5600 : BitVec 16).toNat ≤ 5600 ∧ (4599 : BitVec 16).toNat < 4600 ∧
    5800 < (5801 : BitVec 16).toNat ∧ (4799 : BitVec 16).toNat < 4800 ∧ 5600 < (5601 : BitVec 16).toNat := by decide +kernel

theorem witness_PhaseFailuresDarkenSites :
    let s := withSite { up := true, vlogicBad := [0], varrayBad := [1] }
    s.tablesWf = true ∧ (3 : Fin 4).val ∉ (s.site 0).vlogicBad ∧ (0 : Fin 4).val < 2 ∧ (0 : Fin 4).val ∉ (s.site 0).varrayBad ∧
    phaseOutliers (s.site 0).vlogicBad [0, 10, 10, 10] = [] ∧ phaseOutliers [] [10, 10, 10, 16] = [3] ∧
    phaseOutliers [] [10, 10] = [] ∧ siteRuns run0 0 = true := by decide +kernel

/-- R444 at its limit: 15 of four phases against a mean of 12 deviates by exactly a quarter and does not fail. -/
theorem test_phaseShare_limit : phaseOutliers [] [15, 11, 11, 11] = [] ∧ phaseOutliers [] [16, 11, 11, 11] = [0] := by decide

theorem witness_PowerSamplesAndCapping :
    let last := withTime { run0.time with stroke := 3839 }
    let quiet : State := { run0 with
      time := { run0.time with localTicks := 1000000 }, power := { ladder := .poised, poisedAt := some 0 } }
    let latch (sum : Nat) : State := { run0 with
      time := { run0.time with stroke := 3840 }
      power := { ladder := .running, ctrl := 0x20080C, floorBase := 2400, sum := sum, count := 2 } }
    (last.tablesWf = true ∧ last.time.stroke < 3840 ∧ last.power.ladder ≠ .poised ∧
      last.power.sampleAt ≠ some (last.time.localTicks.toNat / 1000)) ∧
    (quiet.tablesWf = true ∧ quiet.power.ladder = .poised ∧ quiet.power.poisedAt = some 0 ∧ 0 + 1000000 ≤ boardTime quiet ∧
      quiet.power.floorLoad = 0 ∧ quiet.time.clock = .base ∧
      quiet.power.sampleAt ≠ some (quiet.time.localTicks.toNat / 1000)) ∧
    latchedNow { latch 0 with
      time := { run0.time with stroke := 3840, localTicks := 122880 }, power := { means := [(7, 122880)] } } = true ∧
    (∀ s ∈ [latch 60000, latch 60001], s.tablesWf = true ∧ latchedNow s = false ∧ s.time.running = true ∧ s.time.stroke = 3840 ∧
      tb s.power.ctrl.toNat 1 = false ∧ (∀ q ∈ s.fields, q.2.convBad.length ≠ 1) ∧ s.power.count ≠ 0 ∧
      floorNow s < s.power.cap.toNat) ∧
    (latch 60000).power.demandInForce = 0 ∧ (latch 60000).power.sum ≤ (latch 60000).power.cap.toNat * 2 ∧
    (latch 60001).power.cap.toNat * 2 < (latch 60001).power.sum ∧ run0.time.stroke ≠ 3840 := by decide +kernel

theorem witness_FieldsWakeAndAreMarked :
    let s (step used : Nat) : State := { run0 with
      time := { run0.time with localTicks := 1024 }
      fields := [(0, { domain := .running, wake := true, wakeStep := step, lastBranch := used })], sites := [] }
    let lost := withTime { run0.time with stroke := 7 }
    let lost : State := { lost with fields := [(0, { domain := .hole, lostStroke := some 5 })] }
    let staged : State := { run0 with plan := { staging := some .reactivate } }
    (∀ q ∈ [(0, 1450), (7, 1416)], (s q.1 q.2).tablesWf = true ∧ ((s q.1 q.2).field 0).wake = true ∧
      ((s q.1 q.2).field 0).wakeStep ≤ 7 ∧ ((s q.1 q.2).field 0).wakeAt + 1024 ≤ (s q.1 q.2).time.localTicks.toNat ∧ (if ((s q.1 q.2).field 0).wakeStep = 7 then 184 else 150) ≤
        1600 - (((s q.1 q.2).field 0).lastBranch + ((s q.1 q.2).field (branchMate 0)).lastBranch)) ∧
    ((1600 - (((s 0 1584).field 0).lastBranch + ((s 0 1584).field 8).lastBranch)) * 10 / 167 = 0 ∧
      (∃ i ∈ wakeRow 0, ((s 0 1584).site i).up = false ∧ ((s 0 1584).site i).dark = false)) ∧
    (lost.tablesWf = true ∧ (lost.field 0).lostStroke = some 5 ∧ 5 + 2 ≤ strokeNo lost ∧ isHole lost 0 = true ∧
      isHole lost 1 = false) ∧ (lost.time.running = true ∧ strokeNo { lost with time := run0.time } < 5 + 2) ∧
    (let bd (pos : BitVec 2) (got : BitVec 8) : State := { staged with
        board := { position := pos, admitted := true, admittedMask := 3, staged := got } };
      follows (bd 1 0) = true ∧ onBoard (bd 0 0) = true ∧
      (bd 0 0).board.admittedMask &&& ~~~ ((bd 0 0).board.staged ||| 1) ≠ 0 ∧
      (bd 0 2).board.admittedMask &&& ~~~ ((bd 0 2).board.staged ||| 1) = 0) ∧ onBoard staged = false ∧
    staged.plan.staging = some .reactivate ∧ (staged.own.any fun o => o.kind == .reactivate) = false := by decide +kernel

theorem witness_PtpExchangesMakeTrims :
    let s (q : PortState) (p : PtpState) : State := { run0 with ports := [(0, q)], ptp := p }
    let up : PortState := { link := true, ptpLock := true, inLock := 15, outLock := 3 }
    let down : PortState := { link := true, inLock := 14, outLock := 2 }
    let b := s up { sum := 106, count := 20 }
    (∀ x ∈ [b, s down {}], x.tablesWf = true ∧ ptpPort x = some 0 ∧ x.ptp.last = none) ∧ 15 ≤ up.inLock ∧ 3 ≤ up.outLock ∧ down.inLock < 15 ∧
    down.outLock < 3 ∧ (b.board.position = 0 ∧ b.time.established = true ∧ b.time.trims = [] ∧ (b.port 0).ptpLock = true) ∧
    (s up { sum := -60, count := 20 }).ptp.sum = -3 * (20 : Nat) ∧ ((s down {}).port 0).ptpLock = false ∧
    ({ run0 with board := { position := 1 } } : State).board.position ≠ 0 := by decide +kernel

/-- The example of R414: +5.3 ticks name −2; with −2 pending, +5.3 names −2 again. -/
theorem test_ptpServo_example :
    let up : PortState := { link := true, ptpLock := true }
    let s (trims : List (Nat × Int)) : State := { run0 with
      time := { run0.time with trims := trims }, ports := [(0, up)], ptp := { sum := 106, count := 20 } }
    (match exec .ptpServo (s []) with | .next t => t.time.trims | _ => []) = [(2, -2)] ∧
    (match exec .ptpServo (s [(1, -2)]) with | .next t => t.time.trims | _ => []) = [(1, -2), (2, -2)] := by decide +kernel

theorem witness_FieldTemperaturesAndTrips :
    let s : State := { run0 with heat := { inlet := 240, flow := 160 } }
    let top (r : FieldSensors) := (highest s.heat.inlet ((r.diode.zip r.ring).take 74), highest s.heat.inlet ((r.dram1.zip r.dram3).take 6))
    (s.tablesWf = true ∧ s.mgmt.ready = true ∧ s.time.established = true ∧ isHole s 0 = false ∧ s.heat.shutdown = false ∧
      s.heat.flowStop = false ∧ s.heat.enforce = false ∧ s.heat.graceEnd = 0 ∧ s.heat.round ≠ some (s.time.localTicks.toNat / 800000) ∧
      ∀ q ∈ s.fields, q.2.hot = false ∧ q.2.tL < 960 ∧ q.2.tD < 880) ∧
    top (sensors 74 6 760 400) = (some (760, 0), some (400, 0)) ∧ top (sensors 74 6 700 680) = (some (700, 0), some (680, 0)) ∧
    top (sensors 74 6 960 400) = (some (960, 0), some (400, 0)) ∧ top (sensors 74 6 700 880) = (some (700, 0), some (880, 0)) ∧
    (s.field 0).domain = .running ∧ tblWf 1023 (s.field 0).eols = true ∧ tb s.heat.ctrl.toNat 0 = true ∧
    10 + 5 * (s.field 0).v1Steps ≤ 10 ∧ (s.field 0).v1 < 740 := by decide +kernel

theorem witness_CoolantRoundsAndShutdown :
    let s (h : ThermalState) (l : Ladder) : State := { run0 with heat := h, power := { ladder := l } }
    let heat : ThermalState := { inlet := 240, flow := 160 }
    (∀ x ∈ [s heat .running, s { heat with inletMiss := 2, flowMiss := 2 } .running, s { heat with hotInlet := 2 } .running,
        s { heat with flowGood := 2 } .running, s heat .dry], x.tablesWf = true ∧ x.mgmt.ready = true ∧ x.heat.shutdown = false ∧
        x.heat.flowStop = false ∧ x.heat.trayRound ≠ some (x.time.localTicks.toNat / 10000000)) ∧
    (∀ l ∈ [Ladder.running, .poised], (s { heat with forceDue := true } l).tablesWf = true ∧
      (s { heat with forceDue := true } l).heat.forceDue = true ∧ (s { heat with forceDue := true } l).power.ladder = l) ∧
    (1000 ≠ 0 ∧ 1000 ≤ boardTime (s { heat with graceEnd := 1000 } .running) ∧
      (∀ q ∈ run0.fields, q.2.hot = false) ∧ (s { heat with graceEnd := 1000 } .running).heat.flowWarn = false ∧
      (s { heat with graceEnd := 1000, flowWarn := true } .running).heat.flowWarn = true) ∧
    3 ≤ (s { heat with clearGood := 3 } .dry).heat.clearGood ∧ (s { heat with clearGood := 2 } .dry).heat.clearGood < 3 ∧
    ({ tray with flow := some 47 } : TrayReading).flow = some 47 ∧ (1 : Byte).toNat = 1 ∧ 3 ≤ (3 : Byte).toNat := by decide +kernel

theorem witness_MissingTrayReadings :
    run0.mgmt.ready = true ∧ run0.heat.trayRound ≠ some (run0.time.localTicks.toNat / 10000000) := by decide +kernel

/-- Three rounds without a flow reading: the third counts as no flow (R468). -/
theorem test_trayRound_missing :
    let r : TrayReading := { tray with flow := none }
    let s : State := { run0 with heat := { inlet := 240, flow := 160, flowMiss := 1 } }
    (match exec (.trayRound r) s with | .next t => (t.heat.flow, t.heat.flowStop) | _ => (0, true)) = (160, false) ∧
    (match exec (.trayRound r) { s with heat := { s.heat with flowMiss := 2 } } with
      | .next t => (t.heat.flow, t.heat.flowStop) | _ => (1, false)) = (0, true) := by decide +kernel

theorem witness_ContactsAndStartUp :
    let low : State := { power := { pwrEn := false } }
    let wait : State := { power := { busWait := true } }
    let held : State := { mgmt := { startup := some (startEnv 3) }, power := { resetN := true } }
    (State.reset.power.pwrEn = true ∧ low.power.pwrEn = false ∧ State.reset.mgmt.startup = none) ∧
    (held.mgmt.startup = some (startEnv 3) ∧ held.power.pwrEn = true ∧ held.power.resetN = true ∧ held.mgmt.step = 0) ∧
    (∀ s ∈ [State.reset, wait], s.tablesWf = true ∧ s.power.pwrEn = true ∧ s.mgmt.step = 0) ∧
    (wait.power.busWait = true ∧ State.reset.power.busWait = false ∧ busGood State.reset = true ∧
      busGood { power := { busCv := 4799 } } = false) ∧
    (startEnv 3).bootSet ≠ none ∧ ({ startEnv 3 with bootSet := none } : StartupEnv).bootSet = none ∧
    holdCause (startEnv 3) (max 144 144) (min 320 320) = 0 ∧ holdCause (startEnv 2) 144 320 = 1 ∧
    holdCause { startEnv 3 with trayOk := false } 144 320 = 2 ∧ holdCause { startEnv 3 with refclk := false } 144 320 = 3 ∧
    State.reset.power.auxBad = [] := by decide +kernel

theorem witness_LadderRequests :
    let s (l : Ladder) (n : Nat) : State := { run0 with
      power := { ladder := l }, events := (List.range n).map fun i => { number := i, epoch := 9, kind := .proof } }
    (∀ l ∈ [Ladder.running, .poised], (s l 15).power.ladder = l ∧ (s l 15).time.epoch + curbLead (s l 15) ≤ (3 : BitVec 48).toNat ∧
      (2 : BitVec 48).toNat < (s l 15).time.epoch + curbLead (s l 15) ∧ (s l 15).events.length < 16) ∧
    (s .held 0).power.ladder = .held ∧ (s .banked 0).power.bankedReady = false ∧ (s .poised 0).heat.forced = false ∧
    (s .dry 0).power.ladder = .dry := by decide

theorem witness_LadderExitsBringTheModuleBack :
    let s (l : Ladder) : State := { serve0 with power := { ladder := l, leaving := true } }
    let odd : State := { s .poised with time := { run0.time with w := 1 } }
    (∀ l ∈ [Ladder.poised, .held, .banked, .dry], (s l).tablesWf = true ∧ (s l).power.ladder = l ∧ (s l).power.leaving = true ∧
      (s l).time.refLost = false ∧ (s l).faults.waitClear = false ∧ (s l).plan.active = some plan1 ∧
      (s l).power.bankedReady = false) ∧
    (odd.tablesWf = true ∧ odd.power.ladder = .poised ∧ odd.time.w = 1) ∧ plan1.header.prologue ≠ 0 ∧
    tb (plan1.holes serve0).toNat 0 = false ∧ (run0.field 0).domain ≠ .hole := by decide +kernel

/-- A module whose rings, of 64 entries each, lie where the service's queue pair 0 of port 0 reaches them. -/
def draw0 : State := { run0 with
  ep := { idxAddr := 0x1000, rqAddr := 0x10000, cqAddr := 0x20000, ringSize := 0x60006, svcQp := 0x80010001 }
  ports := [(0, { link := true })], time := { run0.time with stroke := 16 } }

theorem witness_DrawsReadTheIndexBlock :
    let busy : State := { draw0 with serve := { draw := .index, drawFails := 2 } }
    let once : State := { draw0 with serve := { draw := .index, drawFails := 1 } }
    (∀ s ∈ [run0, draw0, busy], s.tablesWf = true ∧ s.time.running = true ∧ s.board.position = 0 ∧ s.power.ladder ≠ .dry ∧
      s.serve.drawAt ≠ some (strokeNo s)) ∧
    (strokeNo draw0 % max 1 (bf draw0.ep.drawInt.toNat 8 0) = 0 ∧ rqEntries draw0 = 64 ∧ drawBusy draw0 = false ∧
      drawBusy busy = true) ∧
    rqEntries run0 = 0 ∧ (busy.serve.draw = .index ∧ 2 ≤ busy.serve.drawFails ∧ tb busy.ep.svcQp.toNat 31 = true) ∧
    once.serve.drawFails < 2 ∧ (64 : Nat) ≤ rqEntries draw0 ∧ rqEntries draw0 < 65 := by decide +kernel

/-- A descriptor: handle 7, a prompt of 4 tokens, 8 new tokens, TOP_P 1.0. -/
def desc0 : Bytes :=
  leBytes 8 7 ++ leBytes 4 0 ++ leBytes 4 4 ++ leBytes 4 8 ++ leBytes 8 1 ++ leBytes 4 0x3F800000 ++ leBytes 4 0 ++ leBytes 4 0x3F800000 ++
    List.replicate 88 0

/-- A request that waits for its prompt. -/
def req0 : Request := {
  handle := 7, priority := 0, flags := 0, drafts := 0, promptLen := 4, maxNew := 8, seed := 1, invTemp := 0x3F800000, topK := 0
  topP := 0x3F800000, ttft := 0, tbt := 0, stop := [], promptAddr := 0, promptKey := 0, conv := 0, tAdmit := 0 }

theorem witness_DescriptorsPromptsAndCompletions :
    let s : State := { serve0 with serve := { draw := .descriptors 1 } }
    let bad : Bytes := desc0.set 76 1
    let t (r : Request) : State := { serve0 with serve := { table := [(0, some r)] } }
    let c (made : BitVec 64) : State := { draw0 with serve := { buffer := [{ bytes := [] }], cqMade := made } }
    (s.tablesWf = true ∧ s.serve.draw = .descriptors 1 ∧ servingTables s = some tables1 ∧ desc0.length = 128 ∧ fieldAt desc0 8 1 ≠ 1 ∧
      descriptorRefused s tables1 desc0 = none ∧ tb (fieldAt desc0 10 1) 1 = false ∧ fieldAt bad 8 1 ≠ 1 ∧
      descriptorRefused s tables1 bad = some stBadParameter ∧ s.serve.buffer.length < 32768) ∧
    ((t req0).tablesWf = true ∧ servingTables (t req0) = some tables1 ∧ (t req0).request 0 = some req0 ∧ req0.state ≠ .ended ∧
      req0.delivered < req0.promptLen ∧ req0.promptLen ≤ [(1 : Word), 2, 3, 4].length) ∧
    (∀ n ∈ [2, 3], (t { req0 with readFails := n }).tablesWf = true ∧
      (t { req0 with readFails := n }).request 0 = some { req0 with readFails := n }) ∧
    ((c 64).tablesWf = true ∧ (c 64).serve.buffer = [{ bytes := [] }] ∧ cqEntries (c 64) ≤ 64 ∧ serviceOpen (c 64) = true) ∧
    (c 63).serve.cqMade.toNat < cqEntries (c 63) ∧ serviceOpen (c 63) = true := by decide +kernel

theorem witness_ConversationsMoveToTheFarTierAndBack :
    let m : FarMove := { conv := 5, owner := 0, c := 15, rank := (0, 0) }
    let s (q : FarMove) (len : BitVec 64) : State := { serve0 with
      kv := { moves := [q] }, ports := [(0, { link := true })], ep := { ftLen := len } }
    ((s m 0x10000).tablesWf = true ∧ (s m 0x10000).kv.moves = [m] ∧ servingTables (s m 0x10000) = some tables1 ∧
      m.started = false ∧ bulkOpen (s m 0x10000) = true ∧ (s m 0x10000).power.ladder = .running ∧
      convHeld (s m 0x10000) m.conv = false ∧ historyLost (s m 0x10000) tables1 m = false) ∧
    ((s m 0xFFFF).tablesWf = true ∧ bulkOpen (s m 0xFFFF) = true) ∧
    lowestBlocks (s m 0x10000) 5 1 = some 0 ∧ lowestBlocks (s m 0xFFFF) 5 1 = none ∧
    ceilDiv (64 + (4 * (15 + 1) + 63) / 64 * 64) 65536 = 1 ∧
    (let n := { m with started := true, history := leBytes 64 0 };
      (s n 0x10000).kv.moves = [n] ∧ n.written = false ∧ n.places = [] ∧
      lowestBlocks (s n 0x10000) 5 (ceilDiv (convBytes (s n 0x10000) n true).length 65536) = some 0) ∧
    ((s { m with written := true } 0x10000).kv.moves = [{ m with written := true }] ∧
      (s { m with written := true } 0x10000).serve.table = []) := by decide +kernel

/-- A conversation of 15 rows in one page of one set, whose pool lies in logical cluster 0 of field 0. -/
theorem witness_ConversationsMoveToTheFarTierAndBack_pages :
    let m : FarMove := { conv := 5, owner := 0, c := 15, rank := (0, 0) }
    let pool : PagePool := { symbol := 0, stride := 264, fmt4 := true, slots := 4, lanes := 1, pages := [{ lane := 0, field := 0, cl := 0, layer := 0, head := 0 }] }
    let tab : ServingTables := { tables1 with pools := [pool] }
    let s : State := { serve0 with
      plan := { active := some { plan1 with body := { plan1.body with serving := [⟨0, perPosition, tab⟩] } } }
      kv := { moves := [m], sets := [{ pool := 0, owner := 0, j := 0, lane := 0, slot := 0, version := 0, state := .outgoing, conv := 5 }] }
      ports := [(0, { link := true })], ep := { ftLen := 0x10000 } }
    let ps := pagesOf s tab (outSets s m) m.c
    s.tablesWf = true ∧ s.kv.moves = [m] ∧ servingTables s = some tab ∧ bulkOpen s = true ∧ s.power.ladder = .running ∧
    convHeld s m.conv = false ∧ historyLost s tab m = false ∧ historyPoison s tab m = false ∧ m.pages = true ∧
    (committedSets (outSets s m) m.c).length = tab.pools.length * ((m.c + 127) / 128) ∧ ps.length = 1 ∧
    ∃ q ∈ ps, (s.field (q.site / 74)).domain ≠ .hole := by decide +kernel

theorem witness_ConversationsMoveToTheFarTierAndBack_return :
    let v : StoredConv := {
      conv := 5, block := 0, blocks := 1, kvLayout := 0, version := 0, c := 15, pages := true, expires := none, sets := 0 }
    let r : Request := { req0 with conv := 5, flags := 2, returning := true, chunk := .resume }
    let b : State := { serve0 with kv := { stored := [v] }, serve := { table := [(0, some r)] } }
    b.tablesWf = true ∧ b.request 0 = some r ∧ servingTables b = some tables1 ∧ r.returning = true ∧ r.arrived = false ∧
    r.state ≠ .ended ∧ (b.kv.stored.find? fun v => v.conv == r.conv && v.expires.isNone) = some v ∧
    ([] : Bytes).length ≠ 64 ∧ b.serve.buffer.length < 32768 ∧
    (let d : FarTierData := { header := convHeader 5 0 0 15 1 0 false false (crc32c (leBytes 64 0)), history := leBytes 64 0, pages := [] };
      d.header.length = 64 ∧ fieldAt d.header 60 4 = crc32c (bytesAt d.header 0 60) ∧
      (bytesAt d.history 0 (4 * (v.c + 1))).length = 4 * (v.c + 1) ∧
      fieldAt d.header 32 4 = crc32c (bytesAt d.history 0 (4 * (v.c + 1))) ∧ r.chunk ≠ .fresh ∧
      (pagesOf b tables1 (returningSets b 0) v.c).length = d.pages.length) := by decide +kernel

theorem witness_SamplesAreComparedOrAbandoned :
    let m (x : List SampleLeaf) (d : List PA40) : SampleRec := {
      layer := 1, wide := false, task := 0, tile := 0, column := 0, leaves := x, closed := true, drained := some d, stroke := 5 }
    let s (q : SampleRec) : State := { serve0 with
      sites := [(0, { up := true, cisState := .ready, sampling := some 0 })], cells := [(0, { sample := some q })] }
    let leaf (p : Bool) : SampleLeaf := {
      w := [], fw := 4, wld := 0, a := [], fa := 4, ref := false, int := false, poison := p }
    let late : State := { s (m [] []) with time := { run0.time with epoch := 1 } }
    let busy : State := { s (m [] []) with
      sites := [(0, { up := true, sampling := some 0, report := some (1, 0, false, false, 0, 0) })] }
    (∀ q ∈ [m [leaf false] [{}], m [leaf true] [{}], m [leaf false] [{ poison := true }]], (s q).tablesWf = true ∧
      ((s q).site 0).sampling = some 0 ∧ ((s q).cell 0).sample = some q ∧ q.drained.isSome = true ∧
      sampleLayer (s q) q = some layer1 ∧ sampleShadow (s q) 0 q = none ∧ ((s q).site 0).report = none) ∧
    ((∀ x ∈ (m [leaf false] [{}]).leaves, x.poison = false) ∧ ∃ x ∈ (m [leaf true] [{}]).leaves, x.poison = true) ∧
    (let sh : ShadowRec := { field := 0, place := ⟨0, 0⟩, symbol := 0, line := 0, stride := 1 }
      let q := m [leaf false] [{}]
      let w : State := { s q with
        plan := { active := some { plan1 with body := { plan1.body with
          precision := [⟨0, perPosition, [{ layer1 with shadow := [sh] }]⟩] } } }
        sites := [(0, { up := true, cisState := .ready, sampling := some 0, transfers := [.shadow 0 1] })] }
      w.tablesWf = true ∧ sampleShadow w 0 q = some (sh, 4) ∧ isShadow (.shadow 0 1) = true ∧ (w.site 0).transfers = [.shadow 0 1] ∧
        w.time.running = true ∧ w.weights.loading = none ∧ channelsOpen { w with time := { w.time with stroke := 1 } } = true ∧
        tb (w.site 0).csCtrl.toNat 1 = true ∧ 0 < freePositions { w with time := { w.time with stroke := 1 } } 0 false ∧
        0 < freePositions { w with time := { w.time with stroke := 1 } } 0 true) ∧
    (busy.site 0).report ≠ none ∧ (late.tablesWf = true ∧ (m [] []).stroke.toNat + 4096 ≤ strokeNo late) ∧
    strokeNo (s (m [] [])) < (m [] []).stroke.toNat + 4096 := by decide +kernel

theorem witness_PlansAreCheckedStagedAndRotated :
    let s (st : PlanStage) (p : Option Plan) : State := { run0 with plan := { stage := some st, pending := p } }
    let region (n : Nat) : RegionRec := { symbol := 0, kind := 1, place := 1, length := n, base := 0, fields := 1, tag := 0 }
    let with_ (n : Nat) : Plan := { plan1 with body := { plan1.body with regions := [region n] } }
    let rot (due retry : Bool) (stage : Option PlanStage) : State := { serve0 with
      plan := { active := some plan1, rotationDue := due, rotationRetry := retry, stage := stage }
      time := { run0.time with localTicks := 360000000000, stroke := 4095 }, mgmt := { ready := true, wmCtrl := 0x10801 }
      own := if due then [] else [{ kind := .rotation, epoch := 1 }] }
    let busyCell : CellState := { seg := 3, active := { ctrl := 3, idle := 7 } }
    let idleCell : CellState := { seg := 7, active := { ctrl := 3, idle := 7 } }
    ((s .checking none).tablesWf = true ∧ (s .checking none).plan.stage = some .checking) ∧
    planFinds (s .checking none) (winBytes (s .checking none) 1 0 256) [] 0 [] ≠ [] ∧
    (∀ p ∈ [with_ 1021, with_ 1020], (s .checked (some p)).plan.pending = some p ∧ zonesHeld (s .checked (some p)) = false ∧
      ((servedCells (s .checked (some p)) { p with mapped := knownDefects run0 }).any fun x =>
        (zoneFor (run0.cell x.1) (patchedBlock p x.2.1 x.2.2)).isNone) = false) ∧
    (placeRegions (s .checked none) (with_ 1021).body.regions = ([], [0x19]) ∧
      stagingFinds (s .checked none) (with_ 1021) [0x19] ≠ [] ∧
      placeRegions (s .checked none) (with_ 1020).body.regions = ([(0, 0)], []) ∧
      stagingFinds (s .checked none) { with_ 1020 with bases := [(0, 0)] } [] = []) ∧
    zonesHeld (rot false false none) = true ∧
    (∀ r ∈ [rot true false none, rot true false (some .staged), rot true true none], rotates r = true ∧
      (r.plan.rotationDue = true ∧ r.plan.rotationFrom + hourTicks ≤ boardTime r) ∧ ∀ o ∈ r.own, o.kind ≠ .rotation) ∧
    (rotationWaits (rot true false none) = false ∧ rotationWaits (rot true false (some .staged)) = true) ∧
    ((rot false false none).time.stroke = 4095 ∧
      ∃ o ∈ (rot false false none).own, o.kind = .rotation ∧ o.epoch = (rot false false none).time.epoch + 1) ∧
    drains .rotation = true ∧ drains (.heatOff 0 0) = true ∧ cellRuns busyCell = true ∧ onIdle busyCell = false ∧ cellRuns idleCell = true ∧ onIdle idleCell = true := by decide +kernel

/-- A set of one layer and one extent of one line in field 0, in one shard, and a module that loads it. -/
def set0 : WeightSet := {
  setId := 1, version := 2, layout := 0, positions := 1, layers := [{ layer := 1, shadow := true, wideFmt := 4, first := 0, count := 1 }]
  extents := [{ kind := 0, positions := 1, fields := 1, master := 0, staging := 16384, lines := 1 }]
  shards := [{ addr := 0, rkey := 0, length := 4, crc := BitVec.ofNat 32 (crc32c [1, 2, 3, 4]) }], key := 0 }
def load0 (st : LoadState) (fails retries : Nat) : State := { run0 with
  weights := {
    loading := some set0, state := some st, requested := [(0, 0)], crcFails := if fails = 0 then [] else [(0, fails)]
    retries := if retries = 0 then [] else [(0, retries)] }
  time := { run0.time with localTicks := 200000000 } }

theorem witness_WeightSetsAreFetchedAndInstalled :
    let sweep (l : Nat) : State := { load0 .swapping 0 0 with
      weights := { loading := some set0, state := some .swapping, sweep := some { layer := l } } }
    let inst : State := { run0 with weights := { loading := some set0, state := some .installing } }
    (∀ n ∈ [6, 7], ∀ r ∈ [2, 3], (load0 .fetching n r).tablesWf = true ∧ (load0 .fetching n r).weights.loading = some set0 ∧
      (load0 .fetching n r).weights.state = some .fetching ∧ (∃ q ∈ (load0 .fetching n r).weights.requested, q.1 = 0) ∧
      tblWf 0 (load0 .fetching n r).weights.crcFails = true ∧ tblWf 0 (load0 .fetching n r).weights.retries = true ∧
      0 + 200000000 ≤ boardTime (load0 .fetching n r)) ∧
    (set0.shards[0]?.map fun r => (r.length, r.crc.toNat)) = some ([1, 2, 3, 4].length, crc32c [1, 2, 3, 4]) ∧
    ([] : Bytes).length ≠ 4 ∧
    (inst.tablesWf = true ∧ inst.weights.state = some .installing ∧ installPending inst = false ∧ inst.events = []) ∧
    ((sweep 0).tablesWf = true ∧ (sweep 0).weights.sweep = some { layer := 0 } ∧ 0 < set0.layers.length ∧
      (sweep 1).tablesWf = true ∧ set0.layers.length ≤ 1) := by decide +kernel

theorem witness_RefillsAndDigestPasses :
    let w (p : Option Nat) (refs : List (Nat × Nat × BitVec 256)) (last : Nat) : State := { run0 with
      weights := { resident := some set0, refills := [(0, 0)], refs := refs, pass := p, passStart := last }
      time := { run0.time with localTicks := 1200000000 } }
    let s := w none [(0, 0, 0)] 0
    (s.tablesWf = true ∧ (siteKey site0, 0) ∈ s.weights.refills ∧ s.weights.state = none ∧ s.weights.resident = some set0 ∧
      lineOffset s set0 0 0 = some 0 ∧ ([] : Bytes).length ≠ 4096) ∧
    (s.weights.passStart + digestTicks s / 2 ≤ boardTime s ∧ (0, 0, 0) ∈ passRefs s ∧ set0.extents[0]?.isSome = true) ∧
    boardTime (w none [] 800000001) < 800000001 + digestTicks (w none [] 800000001) / 2 ∧
    ((w (some 5) [(0, 0, 0)] 0).weights.pass = some 5 ∧ (∀ q ∈ s.sites, (q.2.transfers.any isDigest) = false) ∧
      passRefs (w (some 5) [] 0) = [] ∧ (set0.extents[0]?.map fun x => x.lines) = some 1) := by decide +kernel

theorem witness_FramesPausesAndCongestion :
    let p (q : PortState) : State := { run0 with ports := [(0, q)], time := { run0.time with localTicks := 20000 } }
    let x : Qp := { gid := 1, mtu := 4096, rate := (48, 0), lastCut := some 15000, lastCnp := some 0 }
    let up : PortState := { link := true, qps := [(2, some x)] }
    let fr (n : Nat) : Frame := { pcp := 5, corrected := 1, uncorrectable := 0, length := n, roce := none, ce := false }
    (∀ n ∈ [777216, 777217, 1039360, 1039361], (p { up with fillSvc := n }).tablesWf = true ∧
      ((p { up with fillSvc := n }).port 0).link = true ∧ (fr 9216).length ≤ 9216 ∧ (fr 9216).uncorrectable = 0 ∧
      (fr 9216).roce = none ∧ (fr 9216).pcp.toNat = svcPcp { up with fillSvc := n }) ∧
    (777216 + 9216 ≤ 786432 ∧ 786432 < 777217 + 9216 ∧ 1039360 + 9216 ≤ 1048576 ∧ 1048576 < 1039361 + 9216) ∧
    (tb up.ctrl.toNat 5 = true ∧ tb up.ctrl.toNat 6 = true ∧ up.xoffSvc = false ∧ up.isolated = false) ∧
    (qpOf (p up) 0 2 = some x ∧ x.sentCnp = none ∧ ({ fr 100 with roce := some 2, ce := true } : Frame).roce = some 2 ∧
      0 < ({ fr 100 with uncorrectable := 2 } : Frame).uncorrectable) ∧
    cnpPcp up ≠ svcPcp up ∧ cnpPcp up ≠ bulkPcp up ∧ cnpPcp up < 8 ∧
    tblWf none ((p up).port 0).qps = true ∧ isServiceQp (p up) 0 2 = false ∧ roceOpen (p up) 0 = true ∧
    15000 + 5000 ≤ boardTime (p up) ∧ 0 + 20000 ≤ boardTime (p up) ∧ x.rate ≠ (64, 0) ∧
    (∀ r ∈ [(1, 0), (64, 0), (4, 1), (256, 1)], 4 ^ (r : Nat × Nat).2 ≤ r.1 ∧ r.1 ≤ 64 * 4 ^ r.2) := by decide +kernel

theorem witness_ConnectionsWindowsAndLinks :
    let x : Qp := { gid := 1, mtu := 4096 }
    let up : State := { run0 with
      ports := [(0, { link := true, qps := [(0, some x)] })]
      windows := [(1, { state := .open_, gen := 1 }), (4, { state := .open_, gen := 3 })] }
    let full : State := { run0 with ports := [(0, { link := true, qps := (List.range 512).map fun i => (i, some x) })] }
    (roceOpen full 0 = true ∧ allowList full = [] ∧ (List.range 512).all fun i => (qpOf full 0 i).isSome) ∧
    let allow : State := { run0 with
      ports := [(0, { link := true })], otp := { settings := [{ gen := 1, compat := false, allow := [7] }] } }
    (up.tablesWf = true ∧ tblWf none (up.port 0).qps = true ∧ roceOpen up 0 = true ∧ allowList up = [] ∧ qpOf up 0 1 = none ∧
      (∀ j, j < 1 → qpOf up 0 j ≠ none)) ∧ (allowList allow = [7] ∧ (7 : BitVec 128) ∈ allowList allow ∧ (8 : BitVec 128) ∉ allowList allow) ∧
    ((qpOf up 0 0).isSome = true ∧ (up.window 1).closing = none ∧ (up.window 1).state = .open_ ∧
      2147483647 + [(0 : Byte)].length ≤ winSize 1 ∧ winSize 1 < 2147483648 + [(0 : Byte)].length ∧ tblWf 0 (up.window 1).bytes = true ∧
      (up.window 0).state ≠ .open_ ∧ (up.window 1).gen ≠ 2) ∧
    ((up.window 4).state = .open_ ∧ 268435392 + 64 ≤ winSize 4) ∧
    (up.port 0).link = true ∧ (up.port 1).link = false ∧ tb (up.port 1).ctrl.toNat 0 = true ∧ up.power.ladder ≠ .dry ∧
    up.mgmt.step ≠ 0 ∧ up.mgmt.hold ≠ 6 := by decide +kernel

theorem witness_ConnectionsWindowsAndLinks_close :
    let close (t : Nat) (c : Option HostPort) : State := { run0 with
      windows := [(1, { state := .open_, gen := 1, closing := some { tag := 9, pack := none, corrupt := c }, closeAt := 0 })]
      time := { run0.time with localTicks := BitVec.ofNat 64 t } }
    ∀ c ∈ [none, some (2 : HostPort)], (close 10000000 c).tablesWf = true ∧
      (((close 10000000 c).window 1).closing.map fun r => r.corrupt) = some c ∧
      ((close 10000000 c).window 1).closeAt + 10000000 ≤ boardTime (close 10000000 c) ∧
      boardTime (close 9999999 c) < ((close 9999999 c).window 1).closeAt + 10000000 := by decide +kernel

theorem witness_TransactionsOpenStageAndEnd :
    let cap : BitVec 64 := BitVec.ofNat 64 (3 * 2 ^ 56 + 0x10)
    let t (st : TxnState) (ws : List (BitVec 64 × BitVec 64)) : State := { run0 with
      txn := { id := 1, state := st, writes := ws, epoch := 3, board := true } }
    let dead : State := { t .staging [] with time := { run0.time with epoch := 2, stroke := 2048 } }
    let shutState : State := { t .opened [] with power := { ladder := .held } }
    (∀ s ∈ [run0, t .opened [], t .staging []], (served s = true ∧ s.mgmt.hold ≠ 6)) ∧
    (txnOpen run0 = false ∧ txnOpen (t .opened []) = true) ∧
    ((clTable.any fun r => stageable (t .opened []) { block := r.1, field := 0, site := 0, phys := 0, port := 0, off := r.2.1 }) = true ∧
      stageable (t .opened []) (regAddr (BitVec.ofNat 64 (9 * 2 ^ 56))) = false) ∧
    (txnOk (t .opened []) = true ∧ eventsShut (t .opened []) = false ∧ run0.time.epoch + curbLead run0 ≤ (3 : BitVec 48).toNat ∧
      run0.events.length < 16) ∧ eventsShut shutState = true ∧ cap ≠ 0 ∧
    (t .staging []).time.epoch + curbLead (t .staging []) ≤ (t .staging []).txn.epoch ∧
    (dead.txn.state = .staging ∧ dead.txn.epoch = dead.time.epoch + 1 ∧ 2048 ≤ dead.time.stroke) ∧
    (t .staged []).txn.board = true ∧ (t .staged []).txn.state = .staged := by decide +kernel

/-- R464: a cap of 5,000 to 30,000 W is a setting that a commit takes, 4,999 and 30,001 are not. -/
theorem test_commit_range :
    settingOk run0 .pwCap 5000 = true ∧ settingOk run0 .pwCap 30000 = true ∧ settingOk run0 .pwCap 4999 = false ∧
    settingOk run0 .pwCap 30001 = false := by decide +kernel

theorem witness_EventsAreNumberedLedAndCancelled :
    let e (n : Nat) : State := { run0 with events := (List.range n).map fun i => { number := i, epoch := 3, kind := .proof } }
    let fw : State := { run0 with fw := { ready := [(2, some {})] } }
    let sw (ev : List Event) : State := { serve0 with
      weights := { resident := some { set0 with version := 1 }, loading := some set0, state := some .staged }, events := ev }
    (∀ s ∈ [e 15, e 16, fw], served s = true ∧ s.mgmt.hold ≠ 6 ∧ eventsShut s = false) ∧
    ((2 : BitVec 48).toNat < (e 15).time.epoch + curbLead (e 15) ∧ (e 15).time.epoch + curbLead (e 15) ≤ (3 : BitVec 48).toNat ∧
      (e 15).events.length < 16 ∧ 16 ≤ (e 16).events.length) ∧ (tget none fw.fw.ready 2).isSome = true ∧
    ((sw []).weights.state = some .staged ∧ plan1.header.weightLayout = set0.layout ∧ (sw []).plan.recipe = [] ∧
      activationPending (sw []) = false ∧ epochTaken (sw []) 3 = false ∧
      epochTaken (sw [{ number := 0, epoch := 3, kind := .swap }]) 3 = true) ∧
    (((e 1).events.find? fun u => u.number == 0) = some { number := 0, epoch := 3, kind := .proof }) ∧
    ((e 1).time.epoch + curbLead (e 1) ≤ 3 ∧ 3 < ({ e 1 with time := { run0.time with epoch := 1 } } : State).time.epoch +
      curbLead { e 1 with time := { run0.time with epoch := 1 } }) := by decide +kernel

theorem witness_ActivationsRecipesAndInstallsAreScheduled :
    let pl : Plan := { plan1 with header := { header1 with drain := 4096 } }
    let s : State := { run0 with plan := { active := some pl, pending := some plan1, stage := some .staged } }
    let rc : State := { serve0 with weights := { resident := some set0 } }
    let inst : State := { run0 with weights := { loading := some set0, state := some .staged } }
    (∀ x ∈ [s, rc, inst], served x = true ∧ x.mgmt.hold ≠ 6 ∧ x.mgmt.hold ≠ 5 ∧ eventsShut x = false) ∧
    (s.plan.pending = some plan1 ∧ activationPending s = false ∧ swapping s = false ∧ drainEpochs s = 2 ∧
      (3 : BitVec 48).toNat < s.time.epoch + max (curbLead s) (drainEpochs s + 2) ∧
      s.time.epoch + max (curbLead s) (drainEpochs s + 2) ≤ (4 : BitVec 48).toNat ∧ epochTaken s 4 = false ∧ s.events.length < 16) ∧
    ((∀ r ∈ plan1.precision, r.layer ≠ 9) ∧ (∃ r ∈ plan1.precision, r.layer = 1) ∧ shadowPresent rc 1 = true) ∧
    installEpochs set0 = 1 ∧ inst.time.epoch + max (curbLead inst) (drainEpochs inst + installEpochs set0 + 2) ≤ (3 : BitVec 48).toNat := by
  decide +kernel

theorem witness_WindowsOpenAndQueriesAnswer :
    let s (w : Window) : State := { run0 with windows := [(1, w)], faults := { log := [(5, 2, [1])] } }
    let wm := regAddr (BitVec.ofNat 64 (1 * 2 ^ 56))
    let fc := regAddr (BitVec.ofNat 64 (2 * 2 ^ 56 + 1 * 2 ^ 50))
    (∀ w ∈ [({ gen := 3 } : Window), { state := .held }, { state := .open_ }, { state := .open_, partials := [(0, 1)] }],
      (s w).tablesWf = true ∧ served (s w) = true ∧ (s w).mgmt.hold ≠ 6 ∧ (s w).power.ladder ≠ .banked ∧ (s w).plan.stage = none ∧
      ((s w).window 1).closing = none) ∧
    (checkImage (s { state := .open_ }) (winBytes (s { state := .open_ }) 2 0 (min 268435456 (imgEnd (winBytes (s { state := .open_ }) 2 0 128)))) matches
      .error _) ∧
    ((regAddr (BitVec.ofNat 64 (9 * 2 ^ 56))).block = 9 ∧ wm.block ≠ 9 ∧ regDark run0 wm = false ∧ regDark run0 fc = true) ∧
    ((blockRows run0 wm).bind fun rows => (readRows rows wm.off 64).map List.length) = some 15 ∧
    ((blockRows run0 fc).bind fun rows => readRows rows fc.off 1).isSome = true ∧ ((5 : Word) - 5).toNat < 1 := by decide +kernel

theorem witness_DumpsSettingsDiscardsAndAlerts :
    let d (held : Bool) (sc : Option (BitVec 16 × DumpScope)) : State := { run0 with
      mgmt := { step := 5, ready := true, dumpHeld := held, dumpScope := sc } }
    let otp (n : Nat) : State := { run0 with otp := { settings := List.replicate n { gen := 1, compat := false, allow := [] } } }
    let rec_ : Bytes := (List.replicate 512 0).set 6 16
    let pl : State := { run0 with plan := { stage := some .staged }, events := [{ number := 0, epoch := 3, kind := .activation none }] }
    let st : State := { run0 with weights := { state := some .staged, loading := some set0 }, events := [{ number := 0, epoch := 3, kind := .swap }] }
    let al : State := { draw0 with
      mgmt := { run0.mgmt with alertDue := true, alertSent := some 0 }, time := { run0.time with localTicks := 1000000 }
      ports := [(0, { link := true, qps := [(1, some { gid := 1, mtu := 4096 })] })] }
    (∀ s ∈ [d false none, d true none, d false (some (1, .module)), otp 3, otp 4, pl, st, al], s.tablesWf = true ∧ served s = true ∧
      s.mgmt.hold ≠ 6) ∧ 4 ≤ (otp 4).otp.settings.length ∧ (otp 3).otp.settings.length < 4 ∧
    (rec_.length = 512 ∧ fieldAt rec_ 5 1 < 2 ∧ fieldAt rec_ 6 1 ≤ 16 ∧ fieldAt rec_ 7 1 = 0 ∧ zeroAt rec_ 264 244 = true) ∧
    (pl.time.epoch + curbLead pl ≤ 3 ∧ st.time.epoch + curbLead st ≤ 3) ∧
    (al.mgmt.alertDue = true ∧ roceOpen al (bf al.ep.svcQp.toNat 13 12) = true ∧
      (qpOf al (bf al.ep.svcQp.toNat 13 12) (bf al.ep.svcQp.toNat 8 0)).isSome = true ∧ 0 + 1000000 ≤ boardTime al ∧
      boardTime { al with time := run0.time } < 0 + 1000000) ∧
    ((regAddr (BitVec.ofNat 64 (2 ^ 56 + 0xC))).block = 1 ∧ (regAddr (BitVec.ofNat 64 (2 ^ 56 + 0xC))).off = 0x00C ∧
      (regAddr (BitVec.ofNat 64 (2 ^ 56 + 8))).off ≠ 0x00C ∧ regDark run0 (regAddr (BitVec.ofNat 64 (2 ^ 57 + 2 ^ 50))) = true) ∧
    knownOp 16 = true ∧ knownOp 0x40 = true ∧ knownOp 0 = false ∧ knownOp 17 = false := by decide +kernel

theorem witness_FirmwareAndRecoveryOfTheManager :
    let a (e : Nat) (ev : List Event) : State := { run0 with
      fw := { activated := some 1 }, time := { run0.time with epoch := e }, events := ev }
    let stop (u : Nat) : State := { run0 with
      faults := { coreEvents := [u] }, time := { run0.time with localTicks := 360000000000 } }
    let held : State := { run0 with power := { ladder := .held } }
    ((a 1 []).fw.revert = false ∧ fwOnTrial (a 1 []) = true ∧ fwOnTrial (a 64 []) = true ∧ fwOnTrial (a 0 []) = false ∧
      ∃ v ∈ (a 0 [{ number := 0, epoch := 1, kind := .firmware }]).events, v.kind = .firmware ∧ v.epoch = 0 + 1) ∧
    ((a 64 []).time.epoch < 1 + 64 ∧ 1 + 64 ≤ (a 65 []).time.epoch ∧ (a 65 []).fw.revert = false ∧
      (a 65 []).otp.counters[3]? = some 0) ∧
    (run0.mgmt.step ≠ 0 ∧ (∀ u ∈ (stop 0).faults.coreEvents, u + 360000000000 ≤ boardTime (stop 0)) ∧
      ∃ u ∈ (stop 1).faults.coreEvents, boardTime (stop 1) < u + 360000000000) ∧
    served held = true ∧ held.power.ladder = .held ∧ held.faults.restart = false := by decide +kernel

/-- A record of a severity, a code, a place and a cell. -/
def rec0 (sev : Nat) (loc : Nat) (c : Option CellAddr) : ErrRec := {
  severity := sev, stroke := 5, location := BitVec.ofNat 64 loc, inCell := c }
/-- A test pack of one kernel for code 0x88, and a module that holds it. -/
def pack0 : TestPack := {
  version := 1, table := [(0x88, 0, 1)], kernels := [{ number := 1, pKind := false, bundles := [], input := [], digest := 4 }] }
def ring0 (r : ErrRec) : State := { serve0 with faults := { ring := [r], pack := some pack0 } }

theorem witness_RecordsAreHandledAndClassified :
    let win : State := { ring0 (rec0 1 0x88 (some cell0)) with faults := { handling := some (rec0 1 0x88 (some cell0)) } }
    let proof : State := { serve1 with
      faults := { pack := some pack0 }, time := { run0.time with dataPath := false }, power := { ladder := .poised } }
    let re : State := { serve0 with faults := { rePlace := true } }
    (∀ s ∈ [ring0 (rec0 4 0x95 none), ring0 (rec0 3 0x8C none), ring0 (rec0 1 0x88 (some cell0)), ring0 (rec0 0 0x97 none)],
      s.tablesWf = true ∧ s.faults.handling = none ∧ s.faults.ring.length = 1 ∧ s.plan.active ≠ none ∧ s.faults.restart = false) ∧
    (recElement run0 (rec0 4 0x95 none) = none ∧ recElement run0 (rec0 3 0x8C none) = none ∧ recField (rec0 3 0x8C none) = 0 ∧
      (run0.field 0).domain = .running) ∧
    (recElement run0 (rec0 1 0x88 (some cell0)) = some (.cell 0) ∧ elementBad run0 (.cell 0) = false ∧
      recKernel (ring0 (rec0 1 0x88 (some cell0))) (rec0 1 0x88 (some cell0)) = some 1) ∧
    (win.faults.handling ≠ none ∧ win.faults.window = none ∧ win.time.dataPath = true ∧ workNow win = false) ∧
    (proof.tablesWf = true ∧ (pack0.kernels.find? fun q => q.number == 1 && q.pKind == fieldIsP 0).isSome = true ∧
      proofMay proof (.cell cell0) = true ∧ proofMay proof (.assay site0) = true ∧ proof.faults.handling = none ∧ proof.faults.proofFrom = none ∧ (proof.field 0).queue.length < 32) ∧
    re.tablesWf = true ∧ re.faults.rePlace = true ∧ re.plan.active ≠ none ∧ re.faults.waitClear = false ∧ re.power.ladder = .running ∧
    re.own = [] ∧ follows re = false ∧
    follows { re with board := { position := 1, admitted := true, admittedMask := 3 } } = true := by decide +kernel

theorem witness_QuadsCarryFlitsInSequence :
    let x (n : Nat) : QuadState := { up := true, latency := 30, replays := n }
    let s (n : Nat) : State := { run0 with casc := [(0, { quads := [(0, x n)], prime := .admitted })], plan := { active := some {
      plan1 with header := { header1 with cascade := 1 } } }, board := { admittedMask := 3 } }
    let flit : Bytes := List.replicate 256 0
    (∀ n ∈ [7, 8], (s n).tablesWf = true ∧ tblWf {} ((s n).cascPort 0).quads = true ∧ tget {} ((s n).cascPort 0).quads 0 = x n ∧
      quadCarries (s n) 0 0 = true ∧ ((s n).cascPort 0).prime = .admitted ∧ (s n).board.halted = none) ∧
    quadCarries run0 0 0 = false ∧
    (7 < 8 ∧ crc32Yelzia (bytesAt flit 0 252) ≠ fieldAt flit 252 4 ∧ bf (fieldAt flit 0 2) 11 0 = (x 0).expect.toNat ∧
      bf (fieldAt (flit.set 0 1) 0 2) 11 0 ≠ (x 0).expect.toNat) ∧
    (boardRuns (s 0) = true ∧ boardRuns run0 = false) ∧
    (run0.tablesWf = true ∧ quadMay run0 0 0 = true ∧ (tget {} (run0.cascPort 0).quads 0).up = false) := by decide +kernel

theorem witness_CascadeUnitsArriveInTheirCycle :
    let u : CascUnit := { rid := 1023, unit := 63, quad := 0, dcyc := 7, work := 3, data := [] }
    let s (ex : Bool) (r k : List CascUnit) : State := { run0 with casc := [(0, {
      prime := .admitted, table := [(1023, BitVec.ofNat 64 (2 ^ 63 + if ex then 2 ^ 62 else 0))], received := r, kept := k })] }
    let e (ex : Bool) : Nat := (tget 0 ((s ex [] []).cascPort 0).table 1023).toNat
    (∀ ex ∈ [false, true], (s ex [u] [u]).tablesWf = true ∧ working (s ex [u] [u]) = true ∧
      ((s ex [u] [u]).cascPort 0).prime = .admitted ∧ tb (e ex) 63 = true ∧ tb (e ex) 62 = ex) ∧
    findUnit [u] 1023 63 = some u ∧ run0.time.work ≤ u.work ∧ findUnit [] 1023 63 = none := by decide +kernel

theorem witness_BoardMessagesHaltsAndCompacts :
    let quads : Tbl QuadState := [(0, { up := true, latency := 30 })]
    let s (pos : BitVec 2) (fails : Nat) : State := { run0 with
      casc := [(0, { quads := quads, prime := .priming, primeFails := fails })], board := { position := pos } }
    let first : State := { run0 with casc := [(0, { quads := quads })] }
    let bd : State := { run0 with
      plan := { active := some { plan1 with header := { header1 with cascade := 1 } } }, board := { admittedMask := 3 } }
    (∀ n ∈ [14, 15], ∀ p ∈ [(0 : BitVec 2), 1], (s p n).tablesWf = true ∧ portUp (s p n) 0 = true ∧
      ((s p n).cascPort 0).prime = .priming ∧ (s p n).board.position = p) ∧
    (let f : State := { first with board := { position := 1, admitted := true } };
      portUp f 0 = true ∧ (∀ o ∈ f.own, o.kind ≠ .rotation) ∧ (∀ v ∈ f.events, eventCode v.kind ≠ (10, [])) ∧
      f.power.ladder = .running ∧ portUp { f with power := { ladder := .held } } 0 = true) ∧
    (s 0 0).time.running = true ∧ ({ run0 with time := {} } : State).time.running = false ∧
    compactOk [] = false ∧ (bd.tablesWf = true ∧ boardRuns bd = true) ∧
    (first.tablesWf = true ∧ first.mgmt.ready = true ∧ first.mgmt.hold ≠ 4 ∧ first.time.localTicks.toNat % 100 = 0 ∧
      sendsCompact first 0 = true ∧ sendsCompact first 1 = false) ∧
    wiredTo 0 0 2 = false ∧ wiredTo 0 0 1 = true := by decide +kernel

/-- The module in a position of a board of two that runs a plan in a mode. -/
def board2 (mode : Nat) (pos : BitVec 2) : State := { serve1 with
  plan := { active := some { plan1 with header := { header1 with cascade := mode } } }
  board := { position := pos, admitted := pos != 0, admittedMask := 3 }, casc := [(0, { quads := [(0, { up := true, latency := 30 })] })] }

/-- A follower writes its master's parcels and sends what it reads; the master has replicas in multiply mode (R428, R429). -/
theorem witness_boards_serve_requests :
    let p : Parcel := { type := 1, payload := [1], index := 0, left := [0], board := true }
    let f : State := { board2 1 1 with serve := { parcels := [p] } }
    let m : State := board2 3 0
    (f.tablesWf = true ∧ follows f = true ∧ boardServes f = true ∧ servingTables f = some tables1 ∧ intakeCells f tables1 ≠ [] ∧
      areaOf f tables1.intake 0 = some ⟨0, ⟨0, 0⟩, 0, 0⟩ ∧ areaOf f tables1.output 0 = some ⟨0, ⟨0, 0⟩, 0, 64⟩ ∧ working f = true ∧
      (f.cell 0).mailAt ≠ f.time.work ∧ f.board.dispatch = [] ∧ portUp f 0 = true ∧ p.left = [cellKey cell0] ∧ p.others = []) ∧
    (m.tablesWf = true ∧ multiplies m = true ∧ m.faults.restart = false ∧ followers m = [1] ∧ portUp m 0 = true ∧
      multiplies (board2 1 0) = false) ∧
    setFollowers m { set0 with positions := 3 } = [1] ∧ setFollowers run0 set0 = [] := by decide +kernel

/-- R428: a request goes to the replica with the fewest requests decoding, the lowest position winning ties, and to none that stopped. -/
theorem test_replicas_by_decoding :
    let s (stopped : BitVec 4) (rs : List Nat) : State := { board2 3 0 with
      board := { admittedMask := 3, stopped := stopped }
      serve := { table := rs.zipIdx.map fun q => (q.2, some { req0 with state := .decoding, replica := q.1 }) } }
    pickReplica (s 0 []) = 0 ∧ pickReplica (s 0 [0]) = 1 ∧ pickReplica (s 2 [0]) = 0 ∧ pickReplica (s 0 [0, 1]) = 0 := by decide +kernel

/-- R429: a chunk that followers share is named to them for a stroke to come and begins here in that stroke. -/
theorem test_dispatch_is_named :
    let j : Job := { schedule := 3, first := 9, last := 17, reqs := [0], chunk := true, version := 0 }
    let s : State := { board2 1 0 with serve := { table := [(0, some { req0 with state := .waiting })], planP := some j } }
    let a := latchJob s 0 true
    let n := strokeNo s + 4
    let b := latchJob { a.1 with time := { a.1.time with stroke := a.1.time.stroke + 4 } } 0 true
    a.2 = 0 ∧ a.1.serve.jobP = none ∧ a.1.sent = [.vc { src := 0, dst := 1, content := .dispatch 14 3 n } true] ∧
    b.2 = 3 ∧ (b.1.serve.jobP.map (·.stroke)) = some n ∧ b.1.serve.planP = none := by decide +kernel

/-- The compact of a follower in position 1 passes every check of a master in position 0. -/
theorem witness_BoardMessagesHaltsAndCompacts_compact :
    let b := compactBytes { run0 with board := { position := 1 } }
    compactOk b = true ∧ fieldAt b 0 1 = 1 ∧ compactConfig run0 b = true ∧ compactFw run0 b = true ∧ compactSame run0 b = true ∧
    fieldAt b 33 1 ≠ 1 := by decide +kernel

/-- A packet of the service and of the bulk class leaves at once on an open port, and waits on one whose partner has paused it. -/
theorem witness_packets_leave_or_wait :
    let on (s : State) (n : BitVec 8) : State := { s with ports := [(0, { link := true, paused := n })] }
    let w : Qp := { gid := 1, mtu := 4096 }
    (∀ s ∈ [on draw0 0, on serve0 0, on (load0 .fetching 0 0) 0], s.tablesWf = true ∧ sendsNow s (svcVia s) = true ∧
      sendsNow s (bulkVia s) = true ∧ sendsNow s (retryVia s 0) = true) ∧
    (portCarries (on draw0 32) (svcPort (on draw0 32)) = true ∧ heldBack (on draw0 32) (svcVia (on draw0 32)) = true) ∧
    (let s : State := { run0 with ports := [(0, { link := true, qps := [(2, some w)] })] };
      heldBack s (viaOf s 0 2 .cnp) = false ∧ heldBack s (viaOf s 0 2 .bulk) = false) := by decide +kernel

/-- The header of a plan file that uses no field and takes those of the host ports as holes (R397), with its PLAN_DIGEST bytes (R270, R271), its directory of one empty section of code
blocks and one of the power map (R272), and a module that checks the file in window 1. -/
def fileHead : Bytes :=
  leBytes 4 0x4C50575A ++ leBytes 2 1 ++ [1, 1] ++ leBytes 2 512 ++ [32, 0, 1, 0, 1, 0] ++ leBytes 8 (2 ^ 3 + 2 ^ 4 + 2 ^ 43 + 2 ^ 44) ++
    List.replicate 88 0
def fileTail : Bytes := leBytes 12 0 ++ leBytes 4 2 ++ leBytes 8 320 ++ List.replicate 88 0
def file0 (digest : BitVec 256) : Bytes := fileHead ++ leBytes 32 digest.toNat ++ fileTail
def entry0 (type : Nat) : Bytes := leBytes 2 type ++ [0, 0, 0, 255, 0, 0] ++ leBytes 8 320 ++ leBytes 16 0
def dir0 : Bytes := entry0 1 ++ entry0 8
def sections0 : PlanSections := { blocks := [⟨0, perPosition, []⟩], power := [⟨0, perPosition, { on := 0 }⟩] }
def check0 (digest : BitVec 256) : State := { run0 with
  plan := { stage := some .checking }
  windows := [(1, { state := .held, gen := 1, bytes := (file0 digest ++ dir0).zipIdx.map fun q => (q.2, q.1), top := 320 })] }

theorem leNat_leBytes : ∀ n x : Nat, leNat (leBytes n x) = x % 256 ^ n
  | 0, x => by simp [leBytes, leNat, Nat.mod_one]
  | n + 1, x => by
    show (BitVec.ofNat 8 x).toNat + 256 * leNat (leBytes n (x / 256)) = _
    rw [leNat_leBytes n, BitVec.toNat_ofNat, show 256 ^ (n + 1) = 256 * 256 ^ n from Nat.pow_succ']
    exact (Nat.mod_mul (a := 256)).symm

theorem tget_listed : ∀ (l : Bytes) (k j : Nat), tget 0 ((l.zipIdx k).map fun q => (q.2, q.1)) (k + j) = l.getD j 0
  | [], _, _ => rfl
  | b :: l, k, 0 => by simp [List.zipIdx_cons, tget]
  | b :: l, k, j + 1 => by
    have h := tget_listed l (k + 1) j
    rw [show k + 1 + j = k + (j + 1) by omega] at h
    simpa [List.zipIdx_cons, tget] using h

theorem winBytes_listed (l : Bytes) (n : Nat) (hn : n ≤ l.length) :
    tgetMany 0 (l.zipIdx.map fun q => (q.2, q.1)) 0 n = l.take n := by
  refine List.ext_getElem (by simp [tgetMany]; omega) fun i h _ => ?_
  have hi : i < n := by simpa [tgetMany] using h
  simp only [tgetMany, List.getElem_map, List.getElem_range]
  rw [tget_listed l 0 i]
  simp [show i < l.length by omega]

theorem leBytes_length (n x : Nat) : (leBytes n x).length = n := by
  induction n generalizing x with
  | zero => rfl
  | succ n ih => simp [leBytes, ih]

theorem file0_length (d : BitVec 256) : (file0 d).length = 256 := by
  simp only [file0, List.length_append, leBytes_length]
  decide

theorem check0_head (d : BitVec 256) : winBytes (check0 d) 1 0 256 = file0 d := by
  show tgetMany 0 ((file0 d ++ dir0).zipIdx.map fun q => (q.2, q.1)) 0 256 = file0 d
  rw [winBytes_listed _ _ (by rw [List.length_append, file0_length]; omega)]
  rw [List.take_append_of_le_length (by rw [file0_length]), List.take_of_length_le (by rw [file0_length])]

theorem check0_file (d : BitVec 256) : winBytes (check0 d) 1 0 320 = file0 d ++ dir0 := by
  have e : (file0 d ++ dir0).length = 320 := by
    rw [List.length_append, file0_length, show dir0.length = 64 by decide]
  show tgetMany 0 ((file0 d ++ dir0).zipIdx.map fun q => (q.2, q.1)) 0 320 = _
  rw [winBytes_listed _ _ (by rw [e]), List.take_of_length_le (by rw [e])]

theorem file0_digest (d : BitVec 256) : planDigest (file0 d ++ dir0) = planDigest (file0 0 ++ dir0) := by
  have h : ∀ d : BitVec 256, (file0 d ++ dir0).take 0x70 = fileHead := fun d => by
    rw [file0, List.append_assoc, List.append_assoc, List.take_append_of_le_length (by decide)]
    exact List.take_of_length_le (by decide)
  have g : ∀ d : BitVec 256, (file0 d ++ dir0).drop 0x90 = fileTail ++ dir0 := fun d => by
    rw [file0, List.append_assoc, List.drop_append, List.drop_of_length_le (by simp [leBytes_length]; decide)]
    simp [leBytes_length, show fileHead.length = 0x70 by decide]
  simp only [planDigest, h, g]

/-- Where the parts of the file lie. -/
theorem bytesAt_head (a r : Bytes) (o n : Nat) (h : o + n ≤ a.length) : bytesAt (a ++ r) o n = bytesAt a o n := by
  have h1 : ((a ++ r).drop o).take n = (a.drop o).take n := by
    rw [List.drop_append_of_le_length (by omega), List.take_append_of_le_length (by simp; omega)]
  simp only [bytesAt, h1]

theorem bytesAt_tail (a r : Bytes) (o n : Nat) (h : a.length ≤ o) : bytesAt (a ++ r) o n = bytesAt r (o - a.length) n := by
  have h1 : (a ++ r).drop o = r.drop (o - a.length) := by rw [List.drop_append, List.drop_of_length_le h, List.nil_append]
  simp only [bytesAt, h1]

theorem file0_head (d : BitVec 256) (o n : Nat) (h : o + n ≤ 112) : bytesAt (file0 d) o n = bytesAt fileHead o n := by
  have e : fileHead.length = 112 := by decide
  rw [file0, List.append_assoc, bytesAt_head _ _ _ _ (by omega)]

theorem file0_tail (d : BitVec 256) (o n : Nat) (h : 144 ≤ o) : bytesAt (file0 d) o n = bytesAt fileTail (o - 144) n := by
  have e : (fileHead ++ leBytes 32 d.toNat).length = 144 := by
    rw [List.length_append, leBytes_length]; decide
  rw [file0, bytesAt_tail _ _ _ _ (by omega), e]

theorem file0_field (d : BitVec 256) : BitVec.ofNat 256 (fieldAt (file0 d) 0x70 32) = d := by
  have e : fileHead.length = 112 := by decide
  have l : (leBytes 32 d.toNat).length = 32 := leBytes_length _ _
  rw [fieldAt, file0, List.append_assoc, bytesAt_tail _ _ _ _ (by omega), e, bytesAt_head _ _ _ _ (by omega)]
  simp only [bytesAt, Nat.sub_self, List.drop_zero]
  rw [List.take_of_length_le (by omega), l, Nat.sub_self, List.replicate_zero, List.append_nil, leNat_leBytes]
  apply BitVec.eq_of_toNat_eq
  simp only [BitVec.toNat_ofNat]
  omega

def head0 (d : BitVec 256) : PlanHeader := {
  isaLevel := 1, latClass := 1, budget := 512, periodFloor := 32, boost := false, regions := false, wafers := 1, cascade := 0
  rotations := 1, holeMask := [BitVec.ofNat 48 (2 ^ 3 + 2 ^ 4 + 2 ^ 43 + 2 ^ 44), 0, 0, 0], holeVariants := [0, 0, 0, 0], weightLayout := 0, digest := d, drain := 0, prologue := 0
  kvLayout := 0, sections := 2, length := 320 }

theorem file0_header (d : BitVec 256) : planHeader (file0 d) = head0 d := by
  have h0 : planHeader (file0 0) = head0 0 := by decide +kernel
  have h1 : planHeader (file0 d) = { planHeader (file0 0) with digest := d } := by
    simp only [planHeader, file0_field]
    simp (disch := decide) only [fieldAt, file0_tail, file0_head, List.range, List.range.loop, List.map]
  rw [h1, h0]
  rfl

theorem file0_headerOk (d : BitVec 256) : planHeaderOk (file0 d) 320 = true := by
  have h0 : planHeaderOk (file0 0) 320 = true := by decide +kernel
  rw [← h0]
  unfold planHeaderOk
  rw [file0_header, file0_header]
  simp (disch := decide) only [fieldAt, file0_tail, file0_head]
  rfl

/-- The two sections that the directory lists. -/
def entries0 : List DirEntry :=
  [{ type := 1, key := 0, pos := 0, field := 255, offset := 320, length := 0 },
   { type := 8, key := 0, pos := 0, field := 255, offset := 320, length := 0 }]

theorem file0_dir (d : BitVec 256) : (file0 d ++ dir0).drop 0x100 = dir0 := by
  rw [List.drop_append, List.drop_of_length_le (by rw [file0_length]), file0_length]; rfl

theorem file0_entries (d : BitVec 256) : dirEntries (head0 d) (file0 d ++ dir0) = entries0 := by
  have e : (file0 d ++ dir0).length = 320 := by
    rw [List.length_append, file0_length, show dir0.length = 64 by decide]
  rw [dirEntries, file0_dir, e]
  exact (show _ = (List.range 2).map (dirEntry dir0) from rfl).trans (by decide +kernel)

/-- The plan of the file. -/
def filePlan0 (d : BitVec 256) : Plan := {
  header := head0 d, body := { toPlanSections := sections0 }, bases := [], key := 0, regionsAt := [[]] }

theorem file0_plans (d : BitVec 256) : filePlans (head0 d) (file0 d ++ dir0) [sections0] = [filePlan0 d] := by
  rw [filePlans, file0_entries]
  rfl

theorem filePlan0_cells (d : BitVec 256) (f : Nat) : (withKey (filePlan0 d) 0).cellMap f = [] := by
  simp [Plan.cellMap, resolveFlat, resolve, filePlan0, sections0, withKey]

theorem filePlan0_relocs (d : BitVec 256) : (withKey (filePlan0 d) 0).relocs = [] := by
  simp [Plan.relocs, resolveFlat, resolve, filePlan0, sections0, withKey]

theorem filePlan0_short (d : BitVec 256) :
    variantShort entries0 (atPosition (check0 d) 0) (withKey (filePlan0 d) 0) 0 = false := by
  have e : (withKey (filePlan0 d) 0).powerMap = some { on := 0 } := by
    simp [Plan.powerMap, resolveFlat, resolve, withKey, filePlan0, sections0]
    decide
  have h : (withKey (filePlan0 d) 0).onFields = 0 := by rw [Plan.onFields, e]; rfl
  have hk : (withKey (filePlan0 d) 0).key.toNat = 0 := rfl
  have h1 : ∀ f : Nat, tb (0 : BitVec 48).toNat f = false := by simp [tb]
  simp only [variantShort, h, hk, h1, Bool.false_and, List.filter_false]
  decide +kernel

/-- The position's sections of the file pass every check of R282. -/
theorem filePlan0_finds (d : BitVec 256) (file : Bytes) :
    positionFinds (check0 d) entries0 file [0] (filePlan0 d) 0 = [] := by
  have h1 : recordsWhole entries0 file 0 = true := rfl
  simp [positionFinds, h1, filePlan0_cells, filePlan0_relocs, filePlan0_short, sharedFinds]
  simp [filePlan0, sections0, regionsOk, regionWrong]

/-- R282, R285: a plan file that matches its digest and uses no field passes every check: the witness of the clause of
PlansAreCheckedStagedAndRotated on a plan whose checks find nothing. -/
theorem witness_PlansAreCheckedStagedAndRotated_passes :
    ∃ s : State, s.tablesWf = true ∧ s.plan.stage = some .checking ∧
      (let head := winBytes s 1 0 256
       let h := planHeader head
       planFinds s head (winBytes s 1 0 (min h.length (s.window 1).top)) (s.window 1).top [sections0]) = [] := by
  refine ⟨check0 (planDigest (file0 0 ++ dir0)), rfl, rfl, ?_⟩
  generalize hd : planDigest (file0 0 ++ dir0) = d
  have hp : planDigest (file0 d ++ dir0) = d := (file0_digest d).trans hd
  have hw : winBytes (check0 d) 1 0 (min (head0 d).length ((check0 d).window 1).top) = file0 d ++ dir0 := check0_file d
  dsimp only
  rw [check0_head, file0_header, hw]
  have hk : variantKeys (head0 d) = [0] :=
    (show variantKeys (head0 d) = variantKeys (head0 0) from rfl).trans (by decide +kernel)
  simp only [planFinds, show ((check0 d).window 1).top = 320 from rfl, file0_header, file0_headerOk, hp, file0_dir, file0_entries,
    file0_plans, hk, ne_eq, Bool.false_eq_true, if_false, Bool.not_true, List.append_eq_nil_iff]
  and_intros
  · simp [head0]
  on_goal 8 =>
    exact (show _ = [0].flatMap (variantFinds (check0 0) [filePlan0 0]) from rfl).trans (by decide +kernel)
  on_goal 7 => simpa using filePlan0_finds d (file0 d ++ dir0)
  on_goal 2 =>
    exact (show _ = (if (!directoryOk (head0 0) dir0 entries0 || !sectionsWhole entries0 0 sections0) = true then
      [({ cause := 16, loc := locPlan (check0 0) 16 } : Finding)] else []) from rfl).trans (by decide +kernel)
  all_goals trivial

end Sys2Proof.Tests
end

section
/-! PROOFS. Records: what their entry into the ring does (R300, R488, R489). -/

namespace Sys2Proof.Machine

/-! ## Records -/

/-- What a record's entry into the ring does (R489): it stands behind the others, or before them joined with the record of lower
severity that was being handled. -/
theorem ringPush_cases (s : State) (r : ErrRec) : ∃ l m n,
    ringPush s r = { s with
      faults := { s.faults with ring := s.faults.ring ++ [r], log := l, nextSeq := s.faults.nextSeq + 1 }, mgmt := m, sent := n } ∨
    ∃ h, s.faults.handling = some h ∧ h.severity < r.severity ∧ ringPush s r = { s with
      faults := { s.faults with
        ring := joinRec r h :: s.faults.ring, handling := none, log := l, nextSeq := s.faults.nextSeq + 1 }, mgmt := m, sent := n } := by
  obtain ⟨l, hl⟩ := logAdd_eq s 1 (recWords r)
  obtain ⟨m, n, hm⟩ : ∃ m n, haltBoard (if 1 ≤ r.severity then raiseAlert (logAdd s 1 (recWords r)) alLog else logAdd s 1 (recWords r)) r =
      { s with faults := { s.faults with log := l, nextSeq := s.faults.nextSeq + 1 }, mgmt := m, sent := n } := by
    rw [haltBoard_eq, hl]
    split
    · rw [raiseAlert_eq]; exact ⟨_, _, rfl⟩
    · exact ⟨_, _, rfl⟩
  refine ⟨l, m, n, ?_⟩
  unfold ringPush
  dsimp only
  rw [hm]
  dsimp only
  split
  · rename_i h hh
    split
    · rename_i hlt; exact .inr ⟨h, hh, hlt, rfl⟩
    · exact .inl (by rw [hh])
  · rename_i hh; exact .inl (by rw [hh])

/-- The record, or the one that joins it with another, stands in the ring. -/
theorem mem_ringPush (s : State) (r : ErrRec) :
    ∃ x ∈ (ringPush s r).faults.ring, x.severity = r.severity ∧ x.location = r.location := by
  obtain ⟨l, m, n, h | ⟨h', -, -, h⟩⟩ := ringPush_cases s r <;> rw [h]
  · exact ⟨r, by simp, rfl, rfl⟩
  · exact ⟨joinRec r h', by simp, rfl, rfl⟩

/-- CAUSE stands in the low byte of a location word (R300). -/
theorem locWord_cause (s : State) (scope seg bundle task cell cl field cause : Nat) :
    bf (locWord s scope seg bundle task cell cl field cause).toNat 7 0 = cause % 256 := by
  simp only [bf, locWord, BitVec.toNat_ofNat, Nat.shiftRight_zero]
  omega

/-- A record of the module as a whole stands on the ring with its severity and code. -/
theorem onRing_raiseModule (s : State) (sev code field detail scope : Nat) (hc : code < 256) :
    onRing (raiseModule s sev code field detail scope) sev code := by
  obtain ⟨x, hx, hsev, hloc⟩ := mem_ringPush s {
    severity := sev, stroke := BitVec.ofNat 60 (strokeNo s), location := locWord s scope 0 0 0 0 0 field code
    detail := BitVec.ofNat 32 detail }
  refine ⟨x, hx, hsev.ge, ?_⟩
  rw [recCause, hloc, locWord_cause, Nat.mod_eq_of_lt hc]

/-- Such a record changes the records, the alerts and what left, and nothing else. -/
theorem raiseModule_eq (s : State) (sev code field detail scope : Nat) :
    ∃ f m l, raiseModule s sev code field detail scope = { s with faults := f, mgmt := m, sent := l } := ringPush_eq s _

end Sys2Proof.Machine
end

section
/-! PROOFS. Board time: ticks, beats, missed beats, the return of the reference (R37 to R42, R44, R46). -/

namespace Sys2Proof.Machine

/-! ## Time faults (R38, R39) -/

/-- A module that loses its admission changes its board and its links, and nothing else. -/
theorem loseAdmission_eq (s : State) : ∃ b c, loseAdmission s = { s with board := b, casc := c } := ⟨_, _, rfl⟩

@[simp] theorem timeFault_time (s : State) : (timeFault s).time = { s.time with timeFault := true, realign := true } := by
  obtain ⟨f, m, l, h⟩ := raiseModule_eq s 4 0x8D 0 0 1
  unfold timeFault
  rw [h]
  dsimp only
  split <;> rfl

/-- A time fault is recorded at fatal-wafer with code 0x8D. -/
theorem onRing_timeFault (s : State) : onRing (timeFault s) 4 0x8D := by
  obtain ⟨x, hx, hsev, hcode⟩ := onRing_raiseModule s 4 0x8D 0 0 1 (by decide)
  refine ⟨x, ?_, hsev, hcode⟩
  unfold timeFault
  dsimp only
  split <;> exact hx

/-! ## Ticks (R37, R41, R44) -/

/-- A tick counts; one of a hold takes one from the trim. -/
theorem tickOnce_eq (t : TimeState) : tickOnce t = { t with
    localTicks := t.localTicks + 1, hold := t.hold - 1, trim := if 0 < t.hold then t.trim - 1 else t.trim } := by
  unfold tickOnce
  split
  · rfl
  · rename_i h; rw [Nat.eq_zero_of_not_pos h]

/-- Settles O8: REFCLK_BT counts while it is present, the oscillator while it is lost, each by `tickOnce_eq`. -/
theorem ticksCountOnTheirSource : Obligations.TicksCountOnTheirSource := by
  unfold Obligations.TicksCountOnTheirSource
  intro s
  constructor <;> intro h <;> simp [exec, execRefclkTick, execAlwaysOnOscillatorTick, h, tickOnce_eq, done]

/-- Settles O9: the count rises by one, and in a hold the trim falls by one with it. -/
theorem boardTimeFollowsTicks : Obligations.BoardTimeFollowsTicks := by
  unfold Obligations.BoardTimeFollowsTicks
  intro s hlost hmax hpos
  refine ⟨_, (ticksCountOnTheirSource s).1 hlost |>.1, ?_⟩
  have hcount : (s.time.localTicks + 1).toNat = s.time.localTicks.toNat + 1 := by
    rw [BitVec.toNat_add]; exact Nat.mod_eq_of_lt hmax
  simp only [boardTime, hcount]
  by_cases hold : s.time.hold = 0
  · simp only [hold, if_true, Nat.lt_irrefl, if_false]; omega
  · simp only [hold, if_false, Nat.pos_of_ne_zero hold, if_true]; omega

/-! ## Re-alignment to a multiple of 100 (R39, R41) -/

/-- The count moved to the next beat: a multiple of 100, 0 to 99 ticks on. -/
theorem toBeat_spec {n : BitVec 64} (h : n.toNat + 100 < 2 ^ 64) :
    (n + BitVec.ofNat 64 (toBeat n.toNat)).toNat = n.toNat + toBeat n.toNat ∧ (n.toNat + toBeat n.toNat) % 100 = 0 ∧
      toBeat n.toNat < 100 := by
  have hlt : toBeat n.toNat < 100 := Nat.mod_lt _ (by decide)
  refine ⟨?_, ?_, hlt⟩
  · rw [BitVec.toNat_add, BitVec.toNat_ofNat]; omega
  · unfold toBeat; omega

/-! ## SYNC_BEAT edges (R38, R39, R42, R46) -/

section
variable {s : State}

theorem syncBeatEdge_realigns (h : s.time.realign = true) : exec .syncBeatEdge s = .next { s with time := { s.time with
    localTicks := s.time.localTicks + BitVec.ofNat 64 (toBeat s.time.localTicks.toNat), realign := false, missRun := 0 } } := by
  simp only [exec, execSyncBeatEdge, h, if_true, done]

theorem syncBeatEdge_aligned (h : s.time.realign = false) (ha : beatAligned s.time.localTicks.toNat = true)
    (he : s.time.established = true) : exec .syncBeatEdge s = .next { s with time := { s.time with missRun := 0 } } := by
  simp [exec, execSyncBeatEdge, h, ha, he, done]

theorem syncBeatEdge_first (h : s.time.realign = false) (ha : beatAligned s.time.localTicks.toNat = true)
    (hr : s.mgmt.ready = true) (he : s.time.established = false) (hp : s.board.position = 0) (hh : s.mgmt.hold = 0) :
    exec .syncBeatEdge s = .next (establish { s with time := { s.time with missRun := 0 } }) := by
  simp [exec, execSyncBeatEdge, h, ha, hr, he, hp, hh, done]

theorem syncBeatEdge_faults (h : s.time.realign = false) (ha : beatAligned s.time.localTicks.toNat = false)
    (hr : s.mgmt.ready = true) : exec .syncBeatEdge s =
      .next (timeFault { s with time := { s.time with missRun := 0, beatErrors := s.time.beatErrors + 1 } }) := by
  simp [exec, execSyncBeatEdge, h, ha, hr, done]

theorem syncBeatEdge_counts (h : s.time.realign = false) (ha : beatAligned s.time.localTicks.toNat = false)
    (hr : s.mgmt.ready = false) : exec .syncBeatEdge s =
      .next { s with time := { s.time with missRun := 0, beatErrors := s.time.beatErrors + 1 } } := by
  simp [exec, execSyncBeatEdge, h, ha, hr, done]

end

/-- Epoch 0 begins at the board time that is set (R42). -/
theorem boardTime_establish (s : State) : boardTime (establish s) = (establish s).time.epochStart := by
  simp [boardTime, establish]

/-- A beat is an error: it lies 2 or more ticks off and no time fault awaits it (R38). -/
def beatIsError (s : State) : Bool := !s.time.realign && !beatAligned s.time.localTicks.toNat

/-- What a beat finds, whatever the trim: the new count, the errors and the time fault (R38, R39, R46). -/
theorem syncBeatEdge_finds (s : State) : ∃ t, exec .syncBeatEdge s = .next t ∧
    t.time.beatErrors = s.time.beatErrors + b2n (beatIsError s) ∧
    t.time.timeFault = (s.time.timeFault || beatIsError s && s.mgmt.ready) ∧
    t.time.localTicks = s.time.localTicks + (if s.time.realign then BitVec.ofNat 64 (toBeat s.time.localTicks.toNat) else 0) := by
  unfold beatIsError
  cases hre : s.time.realign with
  | true => exact ⟨_, syncBeatEdge_realigns hre, by simp [b2n]⟩
  | false =>
    cases hal : beatAligned s.time.localTicks.toNat with
    | true =>
      simp only [exec, execSyncBeatEdge, hre, hal, if_true, Bool.false_eq_true, if_false]
      split <;> exact ⟨_, rfl, by simp [b2n, establish]⟩
    | false =>
      cases hready : s.mgmt.ready with
      | true => exact ⟨_, syncBeatEdge_faults hre hal hready, by simp [b2n]⟩
      | false => exact ⟨_, syncBeatEdge_counts hre hal hready, by simp [b2n]⟩

/-- Settles O10: what a beat finds (`syncBeatEdge_finds`) does not speak of the trim. -/
theorem trimCausesNoBeatError : Obligations.TrimCausesNoBeatError := by
  unfold Obligations.TrimCausesNoBeatError
  constructor
  · intro s u v
    obtain ⟨t, ht, te, tf, tn⟩ := syncBeatEdge_finds { s with time := { s.time with trim := u } }
    obtain ⟨w, hw, we, wf, wn⟩ := syncBeatEdge_finds { s with time := { s.time with trim := v } }
    exact ⟨t, w, ht, hw, te.trans we.symm, tf.trans wf.symm, tn.trans wn.symm⟩
  · intro s trim hre hest hal
    exact ⟨_, syncBeatEdge_aligned (s := { s with time := { s.time with trim := trim } }) hre hal hest, rfl, rfl, rfl⟩

/-- Settles O11: one equation of the edge for each of its four cases. -/
theorem beatEdgeOutcomes : Obligations.BeatEdgeOutcomes := by
  unfold Obligations.BeatEdgeOutcomes
  intro s
  refine ⟨syncBeatEdge_aligned, fun hre hal hready => ?_, fun hre hmax => ?_, fun hre hal hready hest hpos hhold => ?_⟩
  · refine ⟨_, syncBeatEdge_faults hre hal hready, ?_, ?_, ?_, onRing_timeFault _⟩ <;> rw [timeFault_time]
  · obtain ⟨hsum, hmod, hlt⟩ := toBeat_spec hmax
    refine ⟨_, syncBeatEdge_realigns hre, ?_, ?_, ?_, rfl, rfl⟩ <;> dsimp only <;> omega
  · refine ⟨_, syncBeatEdge_first hre hal hready hest hpos hhold, rfl, rfl, rfl, rfl, rfl,
      (boardTime_establish _).symm, boardTime_establish _⟩

/-! ## Missed beats, loss and return of the reference (R38, R40, R41) -/

/-- A missed beat is counted; the third in a row, once the module is ready, is a time fault. -/
theorem missedBeat_eq (s : State) : exec .missedBeat s =
    let m : State := { s with time := { s.time with missRun := s.time.missRun + 1, missCount := s.time.missCount + 1 } }
    .next (if s.time.missRun = 2 ∧ s.mgmt.ready = true then timeFault m else m) := by
  simp only [exec, execMissedBeat, done, Nat.reduceEqDiff]
  split <;> rfl

/-- A reference that is back is noted, by a start-up that waits for it too (R40, R521). -/
theorem referenceReturn_eq {s : State} (h : s.time.refLost = true) : exec .referenceReturn s = .next { s with
    time := { s.time with refReturned := true }
    mgmt := { s.mgmt with startup := s.mgmt.startup.map fun e => { e with refclk := true } } } := by
  simp only [exec, execReferenceReturn, h, if_true, done]

/-- A module of a board that re-aligns its count loses its admission and has told its followers to prime again. -/
theorem tickRealign_eq {s : State} (hl : s.time.refLost = true) (hr : s.time.refReturned = true) : exec .tickRealign s =
    let m : State := { s with time := { s.time with
      localTicks := s.time.localTicks + BitVec.ofNat 64 (toBeat s.time.localTicks.toNat), refLost := false, refReturned := false
      missRun := 0, lossStep := toBeat s.time.localTicks.toNat, lossTicks := s.time.lostTicks } }
    .next (if onBoard s || s.board.position != 0 then loseAdmission (boardTell m .primeAgain) else m) := by
  simp only [exec, execTickRealign, hl, hr, Bool.and_self, if_true, done]
  rfl

/-- Settles O12: the third missed beat in a row, and the three states of a reference that comes back. -/
theorem missedBeatsAndRealignment : Obligations.MissedBeatsAndRealignment := by
  unfold Obligations.MissedBeatsAndRealignment
  refine ⟨fun s hready => ⟨_, missedBeat_eq s, ?_⟩, fun s hlost => ?_, fun s hlost hret hmax => ⟨_, tickRealign_eq hlost hret, ?_⟩⟩
  · by_cases h : s.time.missRun = 2
    · simp only [h, hready, and_self, if_true]
      simp [onRing_timeFault]
    · simp [h]
  · exact ⟨_, referenceReturn_eq hlost, rfl⟩
  · obtain ⟨hsum, hmod, hlt⟩ := toBeat_spec hmax
    dsimp only
    rw [boardTell_eq]
    split
    · refine ⟨?_, ?_, ?_, rfl, rfl, ?_, rfl, ?_⟩ <;> simp only [loseAdmission]
      · omega
      · omega
      · omega
      · omega
      · intro hp hm; simp_all [onBoard]
    · refine ⟨?_, ?_, ?_, rfl, rfl, ?_, rfl, fun _ _ => rfl⟩ <;> dsimp only <;> omega

end Sys2Proof.Machine
end

section
/-! PROOFS. Cells: tables mapped whole, deliveries and the issue of a scalar instruction (R52, R72, R79, R131, R140). -/

namespace Sys2Proof.Machine

/-! ## Folds -/

/-- What no step of a fold changes, the fold does not change. -/
theorem foldl_keeps {σ α β : Type} (g : σ → β) {f : σ → α → σ} (h : ∀ s x, g (f s x) = g s) (l : List α) :
    ∀ s, g (l.foldl f s) = g s := by
  induction l with
  | nil => intro s; rfl
  | cons x l ih => intro s; exact (ih _).trans (h s x)

/-! ## Tables mapped whole -/

/-- What a key reads after every entry has changed, where the change leaves the default alone. -/
theorem tget_tmapAll {α : Type} [DecidableEq α] (d : α) (f : Nat → α → α) {i b : Nat} {m : Tbl α} (hm : keysGe b m)
    (hf : f i d = d) : tget d (tmapAll d f m) i = f i (tget d m i) := by
  induction m generalizing b with
  | nil => exact hf.symm
  | cons p m ih =>
    obtain ⟨k, v⟩ := p
    have ih := ih hm.2
    simp only [tmapAll]
    by_cases hk : k = i
    · subst hk
      have hnone : tget d m k = d := tget_of_lt d hm.2 (Nat.lt_succ_self k)
      rw [hnone, hf] at ih
      split
      · rename_i hd; simp [tget, ih, hd]
      · simp [tget]
    · split <;> simp [tget, hk, ih]

/-! ## What the settling of a site's writes leaves of a cell (R201) -/

/-- The parts of a cell that invalidated cache lines reach. -/
structure Invalidated (c d : CellState) : Prop where
  eq : d = { c with cache := d.cache, fills := d.fills }

theorem invalidated_trans {a b c : CellState} (h : Invalidated a b) (g : Invalidated b c) : Invalidated a c := by
  refine ⟨?_⟩
  rw [g.eq, h.eq]

/-- Every cell of one state is that of another but for its cache and fills, the tables canonical in both. -/
structure CachesOnly (s t : State) : Prop where
  wf : tblWf {} t.cells = true
  cell : ∀ k, Invalidated (s.cell k) (t.cell k)

theorem invalidateLines_cachesOnly {s : State} (h : tblWf {} s.cells = true) (k : Nat) (lines : List Nat) (due : Nat) :
    CachesOnly s (invalidateLines s k lines due) := by
  unfold invalidateLines
  split
  · exact ⟨h, fun _ => ⟨rfl⟩⟩
  · refine ⟨tblWf_tmapAll _ _ h, fun j => ?_⟩
    simp only [State.cell]
    rw [tget_tmapAll _ _ ((tblWf_iff _ _).mp h).1 (by split <;> rfl)]
    split <;> exact ⟨rfl⟩

theorem foldl_invalidateLines_cachesOnly (k : Nat) (gs : List GuardEntry) : ∀ {s : State}, tblWf {} s.cells = true →
    CachesOnly s (gs.foldl (fun s g => invalidateLines s k [g.line] g.due) s) := by
  induction gs with
  | nil => intro s h; exact ⟨h, fun _ => ⟨rfl⟩⟩
  | cons g gs ih =>
    intro s h
    have first := invalidateLines_cachesOnly h k [g.line] g.due
    have rest := ih first.wf
    exact ⟨rest.wf, fun j => invalidated_trans (first.cell j) (rest.cell j)⟩

/-- The writes of a site's guard reach caches and fills alone. -/
theorem settleGuard_cachesOnly {s : State} (h : tblWf {} s.cells = true) (k now : Nat) : CachesOnly s (settleGuard s k now) := by
  unfold settleGuard
  dsimp only
  split
  · exact ⟨h, fun _ => ⟨rfl⟩⟩
  · have := foldl_invalidateLines_cachesOnly k ((s.site k).guard.filter fun g => !g.seen && g.live && decide (g.due ≤ now)) h
    exact ⟨this.wf, this.cell⟩

@[simp] theorem invalidateLines_time (s : State) (k : Nat) (lines : List Nat) (due : Nat) :
    (invalidateLines s k lines due).time = s.time := by
  unfold invalidateLines; split <;> rfl

@[simp] theorem settleGuard_time (s : State) (k now : Nat) : (settleGuard s k now).time = s.time := by
  unfold settleGuard
  dsimp only
  split
  · rfl
  · exact foldl_keeps State.time (fun s (g : GuardEntry) => invalidateLines_time s k [g.line] g.due) _ s

/-! ## Scalar registers (R79) -/

theorem sGet_zero (c : CellState) : sGet c 0 = {} := rfl

@[simp] theorem sSet_sp (c : CellState) (n : Nat) (v : PWord) : (sSet c n v).sp = c.sp := by unfold sSet; split <;> rfl
@[simp] theorem sSet_vreg (c : CellState) (n : Nat) (v : PWord) : (sSet c n v).vreg = c.vreg := by unfold sSet; split <;> rfl

theorem sGet_sSet_same {c : CellState} {n : Nat} (hn : n ≠ 0) (v : PWord) (h : tblWf {} c.sreg = true) :
    sGet (sSet c n v) n = v := by
  simp only [sGet, sSet, hn, if_false]
  exact tget_tset_same _ n v ((tblWf_iff _ _).mp h).1

theorem sGet_sSet_other (c : CellState) {n m : Nat} (v : PWord) (h : m ≠ n) : sGet (sSet c n v) m = sGet c m := by
  unfold sGet sSet
  split
  · rfl
  · split
    · rfl
    · exact tget_tset_other _ _ v h

/-! ## Deliveries (R52, R72, R79) -/

/-- A delivery on a cell that issues no more settles it at the cycle. -/
theorem resultDelivery_eq {c : CellAddr} {cycle : Fin 512} {s : State} (hw : working s = true)
    (hs : siteRuns s (cellSite (cellKey c)) = true) (hi : (s.cell (cellKey c)).issue = .ended) :
    exec (.resultDelivery c cycle) s =
      let n := budgetBase s + cycle.val
      let t := settleGuard s (cellSite (cellKey c)) n
      .next (t.setCell (cellKey c) (settle (fieldIsP c.field.val) n (strokeNo s) (t.cell (cellKey c)))) := by
  simp [exec, execResultDelivery, hw, hs, hi, done, budgetBase, strokeNo]

/-- The only result of a cell, once it is due, is delivered by itself. -/
theorem settle_single {p : Bool} {now stroke : Nat} {c : CellState} {q : Pending} (h : c.pend = [q]) (hq : q.due ≤ now) :
    settle p now stroke c = deliverDue p (now / 512) stroke { c with pend := [] } q := by
  have hlate : ¬ now < q.due := Nat.not_lt.mpr hq
  simp [settle, h, hq, hlate, sortBy, insertBy]

/-- A scalar result enters its register and nothing else. -/
theorem deliverDue_scalar (p : Bool) (work stroke : Nat) (c : CellState) (due slot sd : Nat) (v : PWord) (task bundle : Nat) :
    deliverDue p work stroke c { due := due, slot := slot, what := .scalar sd v, task := task, bundle := bundle } = sSet c sd v :=
  rfl

/-- Settles O18: a delivery settles the cell; of its list the later results stay, and the one scalar result due is written. -/
theorem deliveryTakesDueResults : Obligations.DeliveryTakesDueResults := by
  unfold Obligations.DeliveryTakesDueResults
  intro c cycle s hwf hw hs hi
  have hcells : tblWf {} s.cells = true := ((tablesWf_iff s).mp hwf).1
  refine ⟨⟨_, resultDelivery_eq hw hs hi, ?_⟩, fun due slot sd v hguard hsreg hpend hdue => ⟨_, resultDelivery_eq hw hs hi, ?_⟩⟩
  · have hg := settleGuard_cachesOnly hcells (cellSite (cellKey c)) (budgetBase s + cycle.val)
    rw [State.setCell_cell_same _ hg.wf, settle_pend, (hg.cell (cellKey c)).eq]
  · rw [settleGuard_nil hguard, State.setCell_cell_same _ hcells, settle_single hpend hdue, deliverDue_scalar]
    refine ⟨?_, fun n hn => sGet_sSet_other _ v hn, sSet_sp _ sd v, sSet_vreg _ sd v⟩
    by_cases h0 : sd = 0
    · rw [if_pos h0, h0, sGet_zero]
    · rw [if_neg h0]; exact sGet_sSet_same h0 v hsreg

/-! ## The issue of a scalar instruction (R128, R131, R140) -/

/-- With no slot's check failed nothing is recorded. -/
theorem raiseChecks_nil (a : IssueAcc) : a.raiseChecks [] [] = a := rfl

/-- A scalar instruction of format R by itself in a bundle: its result is queued, six cycles on (R79, R140). -/
theorem issueSlots_alu {ctx : IssueCtx} {a : IssueAcc} {w op sd x y z : Nat} (hm : mDecode ctx.p w = .nop)
    (hv : vDecode ctx.p w = .alu op sd x y z) (hx : xDecode ctx.p w = .nop) (hn : nDecode ctx.p w = .nop) :
    issueSlots ctx a w = toScalar ctx a sd 6
      (aluR op (srcGet a.c x).val.toNat (srcGet a.c y).val.toNat (srcGet a.c z).val.toNat)
      ((srcGet a.c x).poison || (srcGet a.c y).poison || (srcGet a.c z).poison) := by
  simp only [issueSlots, hm, hv, hx, hn, issueM, issueV, issueX, issueN, vInteger, vFloat, Bool.false_eq_true, if_false,
    raiseChecks_nil]

/-- What the end of a bundle's issue leaves: registers, tiles, the scratchpad and the results that wait. -/
structure DataKept (c d : CellState) : Prop where
  sreg : d.sreg = c.sreg
  acc : d.acc = c.acc
  sp : d.sp = c.sp
  pend : d.pend = c.pend

theorem checkTally_dataKept (a : IssueAcc) (e : BitVec 16) : DataKept a.c (checkTally a e).c := by
  unfold checkTally
  dsimp only
  split <;> exact ⟨rfl, rfl, rfl, rfl⟩

/-- A bundle fetched without an error: its slots issue on the settled cell, whose tally has taken it, and what follows keeps the data. -/
theorem issueBundle_dataKept {ctx : IssueCtx} {c : CellState} (henv : ctx.env = {})
    (hpc : c.pc < (taskRegs c c.task).ibound) :
    let y := settle ctx.p ctx.now ctx.stroke c
    let w := (tget 0 c.istore ((taskRegs c c.task).ibase + c.pc)).toNat
    DataKept (issueSlots ctx { c := { y with crc := foldTally y.crc c.pc w } } w).c (issueBundle ctx c).c := by
  have hup : applyUpsets c ctx.env.upsets = c := by rw [henv]; rfl
  have hregs : taskRegs (settle ctx.p ctx.now ctx.stroke c) c.task = taskRegs c c.task := by
    unfold taskRegs; rw [settle_active]
  have hfetch : ctx.env.fetch = none := by rw [henv]
  have hbound : ¬ (taskRegs c c.task).ibound < c.pc + 1 := by omega
  unfold issueBundle
  simp only [hup, settle_task, hregs, settle_pc, settle_istore, hbound, if_false, hfetch, reduceCtorEq]
  generalize issueSlots _ _ _ = a
  split
  · have h := checkTally_dataKept { a with c := endIssue { a.c with cycle := a.c.cycle + 1 } }
      (BitVec.ofNat 16 (bf (tget 0 a.c.active.segtab a.c.seg).toNat 111 96))
    exact ⟨h.sreg, h.acc, h.sp, h.pend⟩
  · split <;> exact ⟨rfl, rfl, rfl, rfl⟩

/-- The result of a format R instruction on the sources of a cell (R131, R140). -/
def aluResult (y : CellState) (op a b z : Nat) : PWord :=
  { val := BitVec.ofNat 32 (aluR op (srcGet y a).val.toNat (srcGet y b).val.toNat (srcGet y z).val.toNat)
    poison := (srcGet y a).poison || (srcGet y b).poison || (srcGet y z).poison }

/-- The tally takes no part in a result. -/
theorem aluResult_crc (y : CellState) (crc : BitVec 16) (op a b z : Nat) :
    aluResult { y with crc := crc } op a b z = aluResult y op a b z := rfl

/-- A bundle of one format R instruction: the cell settles, and the result on its sources then is queued. -/
theorem issueBundle_alu {ctx : IssueCtx} {c : CellState} {op sd a b z : Nat} (henv : ctx.env = {})
    (hpc : c.pc < (taskRegs c c.task).ibound) :
    let w := (tget 0 c.istore ((taskRegs c c.task).ibase + c.pc)).toNat
    mDecode ctx.p w = .nop → vDecode ctx.p w = .alu op sd a b z → xDecode ctx.p w = .nop → nDecode ctx.p w = .nop →
    let y := settle ctx.p ctx.now ctx.stroke c
    let d := (issueBundle ctx c).c
    d.sp = y.sp ∧ d.sreg = y.sreg ∧ d.acc = y.acc ∧ d.pend = y.pend ++ [{
      due := ctx.now + 6, slot := 1, what := .scalar sd (aluResult y op a b z), task := c.task, bundle := c.pc }] := by
  intro w hm hv hx hn y d
  have kept : DataKept (issueSlots ctx { c := { y with crc := foldTally y.crc c.pc w } } w).c d := issueBundle_dataKept henv hpc
  rw [issueSlots_alu hm hv hx hn] at kept
  refine ⟨kept.sp, kept.sreg, kept.acc, kept.pend.trans ?_⟩
  have htask : y.task = c.task := settle_task ..
  have hpc : y.pc = c.pc := settle_pc ..
  simp only [toScalar, IssueAcc.deliver, htask, hpc]
  rw [← aluResult_crc y (foldTally y.crc c.pc w)]
  rfl

/-- A bundle that opens no tree meets no assay (R355). -/
theorem assayOpen_of_nop {s : State} {k : Nat}
    (h : mDecode (fieldIsP (cellField k)) (tget 0 (s.cell k).istore ((taskRegs (s.cell k) (s.cell k).task).ibase + (s.cell k).pc)).toNat
      = .nop) : assayOpen s k = s := by
  unfold assayOpen
  simp only [h]
  split
  · rfl
  · cases hl : (s.cell k).layer <;> rfl

/-- A post enters the posts and nothing else. -/
theorem putPost_cells (s : State) (c : CellAddr) (q : Nat × Option (BitVec 4)) : (putPost s c q).cells = s.cells := by
  unfold putPost
  dsimp only
  split <;> rfl

/-- The cell of an issue is as the issue left it. -/
theorem applyIssue_cell {s : State} (h : tblWf {} s.cells = true) (c : CellAddr) (a : IssueAcc) :
    (applyIssue s c a).cell (cellKey c) = a.c := by
  have hposts : (applyIssue s c a).cells = (s.setCell (cellKey c) a.c).cells :=
    foldl_keeps State.cells (fun s q => putPost_cells s c q) _ _
  rw [State.cell, hposts]
  exact State.setCell_cell_same s h

/-- A cell that runs issues its bundle, with no write of its site waiting and no tree to open. -/
theorem bundleIssue_eq {c : CellAddr} {env : IssueEnv} {s : State} (hw : working s = true)
    (hs : siteRuns s (cellSite (cellKey c)) = true) (hi : (s.cell (cellKey c)).issue = .running)
    (hc : (s.cell (cellKey c)).cycle < 512) (hg : (s.site (cellSite (cellKey c))).guard = [])
    (ha : assayOpen s (cellKey c) = s) : exec (.bundleIssue c env) s =
      .next (applyIssue s c (issueBundle (issueCtx s (cellKey c) env) (s.cell (cellKey c)))) := by
  simp only [exec, execBundleIssue, hw, hs, hi, hc, settleGuard_nil hg, ha, BEq.rfl, Bool.and_self, decide_true, if_true, done]

/-- Settles O17: the issue queues the one result, computed on the settled cell, and leaves the rest of the data (`issueBundle_dataKept`). -/
theorem scalarResultDueSixCyclesOn : Obligations.ScalarResultDueSixCyclesOn := by
  unfold Obligations.ScalarResultDueSixCyclesOn
  intro c s op sd a b z hwf k x r p w now y hw hs hi hc hpc hg hm hv hx hn
  have hcells : tblWf {} s.cells = true := ((tablesWf_iff s).mp hwf).1
  refine ⟨_, bundleIssue_eq hw hs hi hc hg (assayOpen_of_nop hm), ?_⟩
  rw [applyIssue_cell hcells]
  exact issueBundle_alu (ctx := issueCtx s k {}) rfl hpc hm hv hx hn

end Sys2Proof.Machine
end

section
/-! PROOFS. Scheduled events: the checks of their epoch, their entry and their cancelling (R54 to R57). -/

namespace Sys2Proof.Machine

/-! ## Bits gathered into a number -/

theorem bitsOf_succ (n : Nat) (p : Nat → Bool) : bitsOf (n + 1) p = 2 ^ n * b2n (p n) + bitsOf n p := by
  simp only [bitsOf, List.range_succ, List.foldl_append, List.foldl_cons, List.foldl_nil]
  rw [Nat.add_comm, Nat.mul_comm]

theorem bitsOf_lt (n : Nat) (p : Nat → Bool) : bitsOf n p < 2 ^ n := by
  induction n with
  | zero => exact Nat.one_pos
  | succ n ih =>
    rw [bitsOf_succ, Nat.pow_succ]
    have : b2n (p n) ≤ 1 := by unfold b2n; split <;> omega
    have := Nat.mul_le_mul_left (2 ^ n) this
    omega

/-- Each bit of the number is the flag it was made from. -/
theorem tb_bitsOf {n i : Nat} (p : Nat → Bool) (h : i < n) : tb (bitsOf n p) i = p i := by
  induction n with
  | zero => omega
  | succ n ih =>
    rw [bitsOf_succ, tb, Nat.testBit_two_pow_mul_add _ (bitsOf_lt n p)]
    split
    · exact ih ‹_›
    · obtain rfl : i = n := by omega
      cases p i <;> simp [b2n]

/-! ## Management requests (R514) -/

theorem serve_servedFully {s : State} (h : servedFully s) (op : Nat) (tag : BitVec 16) (f : State → State) :
    serve s op tag f = f s := by
  unfold serve
  rw [h.1, if_neg h.2]
  rfl

/-- What a master tells leaves as messages on a virtual channel, behind what left before (R423). -/
theorem boardTell_sent (s : State) (c : VcContent) :
    ∃ vs : List Sent, (∀ m ∈ vs, ∃ v d, m = .vc v d) ∧ (boardTell s c).sent = s.sent ++ vs := by
  unfold boardTell
  split
  · exact ⟨[], by simp, by simp⟩
  · rw [foldl_emit_eq]
    refine ⟨_, ?_, rfl⟩
    intro m hm
    obtain ⟨w, -, rfl⟩ := List.mem_map.mp hm
    exact ⟨_, _, rfl⟩

/-- Every follower that the master has admitted hears it (R419, R423). -/
theorem mem_boardTell {s : State} (c : VcContent) {w : Nat} (hp : s.board.position = 0) (h0 : 0 < w) (h4 : w < 4)
    (hw : tb s.board.admittedMask.toNat w = true) :
    ∃ d, Sent.vc { src := 0, dst := BitVec.ofNat 2 w, content := c } d ∈ (boardTell s c).sent := by
  unfold boardTell
  rw [if_neg (by simp [hp]), foldl_emit_eq]
  refine ⟨_, List.mem_append_right _ (List.mem_map.mpr ⟨w, ?_, rfl⟩)⟩
  simp [h4, hw, Nat.pos_iff_ne_zero.mp h0]

/-- A response behind what a master tells is the last word of its request. -/
theorem answersLast_respond {s t : State} (c : VcContent) (op : Nat) (tag : BitVec 16) (st : Nat) (b : List (BitVec 64))
    (h : t.sent = s.sent) : answersLast s (respond (boardTell t c) op tag st b) op tag st b := by
  obtain ⟨vs, hvs, hsent⟩ := boardTell_sent t c
  exact ⟨vs, hvs, by simp [respond, hsent, h]⟩

/-! ## What the epoch of an event is refused with (R55 to R57) -/

section
variable {s : State} {e : Nat} {occupies : Bool}

theorem epochRefusal_early (ho : eventsShut s = false) (h : e < s.time.epoch + curbLead s) :
    epochRefusal s e 0 occupies = some stTooLate := by
  simp [epochRefusal, ho, h]

theorem epochRefusal_occupied (ho : eventsShut s = false) (h : s.time.epoch + curbLead s ≤ e) (ht : epochTaken s e = true) :
    epochRefusal s e 0 true = some stOccupied := by
  simp [epochRefusal, ho, Nat.not_lt.mpr h, ht]

theorem epochRefusal_full (ho : eventsShut s = false) (h : s.time.epoch + curbLead s ≤ e) (hf : 16 ≤ s.events.length) :
    epochRefusal s e 0 false = some stQueueFull := by
  simp [epochRefusal, ho, Nat.not_lt.mpr h, eventsFull, hf]

theorem epochRefusal_none (ho : eventsShut s = false) (h : s.time.epoch + curbLead s ≤ e) (hf : s.events.length < 16)
    (ht : (occupies && epochTaken s e) = false) : epochRefusal s e 0 occupies = none := by
  simp [epochRefusal, ho, Nat.not_lt.mpr h, eventsFull, Nat.not_le.mpr hf, ht]

end

/-! ## Accepted and cancelled events (R57) -/

/-- An event enters the list under the next number, and a master names it; nothing else changes. -/
theorem addEvent_eq (s : State) (e : Nat) (k : EventKind) : addEvent s e k = { s with
    events := s.events ++ [{ number := s.mgmt.nextEvent, epoch := e, kind := k }]
    mgmt := { s.mgmt with nextEvent := s.mgmt.nextEvent + 1 }, sent := (addEvent s e k).sent } := by
  unfold addEvent
  rw [boardTell_eq]

theorem acceptEvent_eq (s : State) (tag : BitVec 16) (e : Nat) (k : EventKind) : acceptEvent s tag e k = { s with
    events := s.events ++ [{ number := s.mgmt.nextEvent, epoch := e, kind := k }]
    mgmt := { s.mgmt with nextEvent := s.mgmt.nextEvent + 1 }, sent := (acceptEvent s tag e k).sent } := by
  unfold acceptEvent respond
  rw [addEvent_eq]
  rfl

/-- The response to an accepted event carries its number. -/
theorem answersLast_acceptEvent (s : State) (tag : BitVec 16) (e : Nat) (k : EventKind) :
    answersLast s (acceptEvent s tag e k) 6 tag stAccepted [BitVec.ofNat 64 s.mgmt.nextEvent] :=
  answersLast_respond _ 6 tag stAccepted _ rfl

/-- A transaction that ends without a commit changes itself and the alerts (R525). -/
theorem abortTxn_eq (s : State) (st : Nat) :
    abortTxn s st = { s with txn := (abortTxn s st).txn, mgmt := (abortTxn s st).mgmt } := by
  unfold abortTxn
  split <;> rfl

/-- An install that goes back to a staged set changes the set and the transfers of the slices. -/
theorem stopInstall_eq (s : State) :
    stopInstall s = { s with weights := (stopInstall s).weights, sites := (stopInstall s).sites } := by
  unfold stopInstall
  split <;> rfl

/-- What the cancelling of an event undoes lies in the plan, the weights, the slices, the transaction, the alerts and the firmware. -/
theorem undoEvent_eq (s : State) (k : EventKind) : undoEvent s k = { s with
    plan := (undoEvent s k).plan, weights := (undoEvent s k).weights, sites := (undoEvent s k).sites, txn := (undoEvent s k).txn
    mgmt := (undoEvent s k).mgmt, fw := (undoEvent s k).fw } := by
  cases k with
  | commit t => simp only [undoEvent]; rw [abortTxn_eq]
  | install => simp only [undoEvent]; rw [stopInstall_eq]; rfl
  | _ => rfl

/-- An event that is cancelled is gone, what it had begun undone. -/
theorem cancelEvent_eq (s : State) (v : Event) : cancelEvent s v =
    { undoEvent (dropEvents s fun u => u.number == v.number) v.kind with sent := (cancelEvent s v).sent } := boardTell_eq _ _

section
variable (s : State) (v : Event)

theorem mem_cancelEvent (u : Event) : u ∈ (cancelEvent s v).events ↔ u ∈ s.events ∧ u.number ≠ v.number := by
  rw [cancelEvent_eq, undoEvent_eq]
  simp [dropEvents]

theorem cancelEvent_time : (cancelEvent s v).time = s.time := by
  rw [cancelEvent_eq, undoEvent_eq]
  rfl

/-- A cancelled activation closes the input barrier no longer (R309). -/
theorem cancelEvent_activation {r : Option (List Nat)} (h : v.kind = .activation r) :
    BarrierHold.activation ∉ (cancelEvent s v).plan.holds := by
  rw [cancelEvent_eq, h]
  exact not_mem_freeBarrier _ _

/-- The response follows what the master tells. -/
theorem answersLast_cancelEvent (tag : BitVec 16) :
    answersLast s (respond (cancelEvent s v) 7 tag stAccepted) 7 tag stAccepted [] :=
  answersLast_respond _ 7 tag stAccepted [] (by rw [undoEvent_eq]; rfl)

/-- The master names the cancelled event to every follower that it has admitted (R54, R423). -/
theorem cancelEvent_heard {w : Nat} (hp : s.board.position = 0) (h0 : 0 < w) (h4 : w < 4)
    (hw : tb s.board.admittedMask.toNat w = true) : ∃ d, Sent.vc {
      src := 0, dst := BitVec.ofNat 2 w
      content := .cancelName (eventCode v.kind).1 (eventCode v.kind).2 (BitVec.ofNat 48 v.epoch) } d ∈ (cancelEvent s v).sent := by
  have hboard : (undoEvent (dropEvents s fun u => u.number == v.number) v.kind).board = s.board := by rw [undoEvent_eq]; rfl
  exact mem_boardTell _ (by rw [hboard, hp]) h0 h4 (by rw [hboard, hw])

theorem cancelEvent_firmware (h : v.kind = .firmware) : (cancelEvent s v).fw.pending = 0 := by
  rw [cancelEvent_eq, h]
  rfl

end

/-! ## The requests of this family -/

/-- A proof window meets the checks of any event, and no other (R509). -/
theorem scheduleProofWindow_eq {s : State} (h : servedFully s) (tag : BitVec 16) (e : BitVec 48) :
    exec (.scheduleProofWindow tag e) s = .next (scheduleEvent s tag e.toNat 0 false .proof) :=
  congrArg Host.Outcome.next (serve_servedFully h ..)

theorem scheduleEvent_refused {s : State} {tag : BitVec 16} {e more st : Nat} {occupies : Bool} {k : EventKind}
    (h : epochRefusal s e more occupies = some st) : scheduleEvent s tag e more occupies k = respond s 6 tag st := by
  simp only [scheduleEvent, h]

theorem scheduleEvent_accepted {s : State} {tag : BitVec 16} {e more : Nat} {occupies : Bool} {k : EventKind}
    (h : epochRefusal s e more occupies = none) : scheduleEvent s tag e more occupies k = acceptEvent s tag e k := by
  simp only [scheduleEvent, h]

/-- The firmware classes that are READY, as a number of four bits (R534). -/
def readyClasses (s : State) : Nat := bitsOf 4 fun c => (tget none s.fw.ready c).isSome

/-- Firmware is scheduled where a class is READY; every class that is switches (R534). -/
theorem scheduleFirmware_accepted {s : State} (h : servedFully s) (tag : BitVec 16) {e : BitVec 48} (hc : readyClasses s ≠ 0)
    (he : epochRefusal s e.toNat 0 false = none) : exec (.scheduleFirmware tag e) s =
      .next (acceptEvent { s with fw := { s.fw with pending := BitVec.ofNat 4 (readyClasses s) } } tag e.toNat .firmware) := by
  simp only [exec, execScheduleFirmware, done, serve_servedFully h]
  change Host.Outcome.next (if readyClasses s = 0 then _ else _) = _
  rw [if_neg hc, he]
  rfl

/-- A staged set of another version, of the layout of the active plan, may swap where no recipe and no activation stands in its way
(R381). -/
theorem scheduleSwap_eq {s : State} (h : servedFully s) (tag : BitVec 16) (e : BitVec 48) {w r : WeightSet} {p : Plan}
    (hw : s.weights.loading = some w) (hst : s.weights.state = some .staged) (hr : s.weights.resident = some r)
    (hp : s.plan.active = some p) (hl : p.header.weightLayout = w.layout) (hv : r.version ≠ w.version)
    (hrec : s.plan.recipe = []) (ha : activationPending s = false) :
    exec (.scheduleSwap tag e) s = .next (scheduleEvent s tag e.toNat 0 true .swap) := by
  simp [exec, execScheduleSwap, done, serve_servedFully h, hw, hst, hr, hp, hl, hv, hrec, ha]

/-- A pending event is cancelled by its number while its lead is met (R57). -/
theorem cancelEvent_found {s : State} (h : servedFully s) (tag : BitVec 16) {v : Event}
    (hv : (s.events.find? fun u => u.number == v.number) = some v) : exec (.cancelEvent tag v.number) s =
      .next (if v.epoch < s.time.epoch + curbLead s then respond s 7 tag stTooLate
        else respond (cancelEvent s v) 7 tag stAccepted) := by
  simp only [exec, execCancelEvent, done, serve_servedFully h, hv]

/-- The four bits that stand for the classes to switch are those of the classes that are READY. -/
theorem tb_readyClasses (s : State) {c : Nat} (h : c < 4) :
    tb (BitVec.ofNat 4 (readyClasses s)).toNat c = (tget none s.fw.ready c).isSome := by
  rw [BitVec.toNat_ofNat, readyClasses, Nat.mod_eq_of_lt (bitsOf_lt 4 _)]
  exact tb_bitsOf _ h

theorem readyClasses_ne_zero {s : State} {c : Nat} (h : c < 4) (hc : (tget none s.fw.ready c).isSome = true) :
    readyClasses s ≠ 0 := by
  intro h0
  have := tb_readyClasses s h
  rw [h0, hc] at this
  simp [tb] at this

/-- Settles O52: each request is the shared check of an event's epoch (`epochRefusal`) and, where it passes, the event's entry; a
cancelled event is undone and named to the board. -/
theorem eventsAreNumberedLedAndCancelled : Obligations.EventsAreNumberedLedAndCancelled := by
  unfold Obligations.EventsAreNumberedLedAndCancelled
  refine ⟨fun tag e s hs ho => ⟨fun he => ?_, fun he hf => ?_, fun he hf => ?_, ?_, ?_⟩, fun tag v s hs hv => ⟨fun he => ?_, fun he => ?_⟩⟩
  · exact ⟨_, scheduleProofWindow_eq hs tag e, by rw [scheduleEvent_refused (epochRefusal_early ho he)]; exact ⟨rfl, rfl⟩⟩
  · exact ⟨_, scheduleProofWindow_eq hs tag e, by rw [scheduleEvent_refused (epochRefusal_full ho he hf)]; exact ⟨rfl, rfl⟩⟩
  · refine ⟨_, scheduleProofWindow_eq hs tag e, ?_⟩
    rw [scheduleEvent_accepted (epochRefusal_none ho he hf rfl)]
    exact ⟨congrArg State.events (acceptEvent_eq ..), congrArg (fun t => t.mgmt.nextEvent) (acceptEvent_eq ..),
      answersLast_acceptEvent .., by rw [acceptEvent_eq]⟩
  · rintro ⟨c, hc, hready⟩ he hf
    refine ⟨_, scheduleFirmware_accepted hs tag (readyClasses_ne_zero hc hready) (epochRefusal_none ho he hf rfl), ?_, ?_,
      answersLast_acceptEvent ..⟩
    · rw [acceptEvent_eq]
    · intro c hc
      rw [acceptEvent_eq]
      exact tb_readyClasses s hc
  · intro w r p hw hst hr hp hl hv hrec ha he
    have hswap := scheduleSwap_eq hs tag e hw hst hr hp hl hv hrec ha
    refine ⟨fun ht => ⟨_, hswap, ?_⟩, fun ht hf => ⟨_, hswap, ?_⟩⟩
    · rw [scheduleEvent_refused (epochRefusal_occupied ho he ht)]
      exact ⟨rfl, rfl⟩
    · rw [scheduleEvent_accepted (epochRefusal_none ho he hf (by rw [ht]; rfl)), acceptEvent_eq]
      exact ⟨rfl, rfl⟩
  · exact ⟨_, cancelEvent_found hs tag hv, by rw [if_pos he]; exact ⟨rfl, rfl⟩⟩
  · refine ⟨_, cancelEvent_found hs tag hv, ?_⟩
    rw [if_neg (Nat.not_lt.mpr he)]
    refine ⟨fun u => mem_cancelEvent s v u, answersLast_cancelEvent s v tag, cancelEvent_time s v, fun hp w h0 h4 hw => ?_,
      fun r => cancelEvent_activation s v, cancelEvent_firmware s v⟩
    obtain ⟨d, hd⟩ := cancelEvent_heard s v hp h0 h4 hw
    exact ⟨d, List.mem_append_left _ hd⟩

end Sys2Proof.Machine
end

section
/-! PROOFS. The end of requests and the forced entry into Held (R40, R462, R498). -/

namespace Sys2Proof.Machine

/-! ## What serving changes -/

/-- The parts of the state that the end of a request, a dispatch or a report of tokens can reach; the far tier keeps its number of
stored conversations. -/
structure Serving (s t : State) : Prop where
  eq : t = { s with ports := t.ports, kv := t.kv, serve := t.serve, mgmt := t.mgmt, sent := t.sent }
  stored : t.kv.stored.length = s.kv.stored.length

theorem serving_refl (s : State) : Serving s s := ⟨rfl, rfl⟩

theorem serving_trans {s t u : State} (h : Serving s t) (g : Serving t u) : Serving s u := by
  refine ⟨?_, g.stored.trans h.stored⟩
  rw [g.eq, h.eq]

theorem serving_foldl {α : Type} {f : State → α → State} (h : ∀ s x, Serving s (f s x)) (l : List α) :
    ∀ s, Serving s (l.foldl f s) := by
  induction l with
  | nil => exact serving_refl
  | cons x l ih => exact fun s => serving_trans (h s x) (ih _)

theorem serving_ite {s t u : State} {p : Prop} [Decidable p] (h : Serving s t) (g : Serving s u) :
    Serving s (if p then t else u) := by
  split
  · exact h
  · exact g

theorem serving_setRequest (s : State) (i : Nat) (r : Option Request) : Serving s (s.setRequest i r) := ⟨rfl, rfl⟩

/-- What serving changes beside the request table. -/
structure BesideTable (s t : State) : Prop extends Serving s t where
  table : t.serve.table = s.serve.table

theorem besideTable_refl (s : State) : BesideTable s s := ⟨serving_refl s, rfl⟩

theorem besideTable_trans {s t u : State} (h : BesideTable s t) (g : BesideTable t u) : BesideTable s u :=
  ⟨serving_trans h.toServing g.toServing, g.table.trans h.table⟩

theorem besideTable_ite {s t u : State} {p : Prop} [Decidable p] (h : BesideTable s t) (g : BesideTable s u) :
    BesideTable s (if p then t else u) := by
  split
  · exact h
  · exact g

theorem besideTable_freeSets (s : State) (i : Nat) : BesideTable s (freeSets s i) := ⟨⟨rfl, rfl⟩, rfl⟩
theorem besideTable_startPause (s : State) (i : Nat) (r : Request) : BesideTable s (startPause s i r) := ⟨⟨rfl, rfl⟩, rfl⟩
theorem besideTable_releaseConv (s : State) (c : BitVec 64) : BesideTable s (releaseConv s c) :=
  ⟨⟨rfl, by simp [releaseConv]⟩, rfl⟩
theorem besideTable_pushCompletion (s : State) (b : Bytes) : BesideTable s (pushCompletion s b) := by
  unfold pushCompletion
  exact besideTable_ite ⟨⟨rfl, rfl⟩, rfl⟩ ⟨⟨rfl, rfl⟩, rfl⟩
theorem besideTable_refusalRecord (s : State) (h : BitVec 64) (st : Nat) : BesideTable s (refusalRecord s h st) :=
  besideTable_pushCompletion _ _

/-! ## The end of requests (R326, R327, R339, R349) -/

/-- A request that has not ended gets its final or refusal record and its mark; its pages are freed, or move to the far tier. -/
theorem endRequest_live {s : State} {i : Nat} {r : Request} (h : s.request i = some r) (hr : r.state ≠ .ended) (status : Nat)
    (cause : Word) : Serving s (endRequest s i status cause) ∧
      (endRequest s i status cause).serve.table = tset none s.serve.table i (some { r with state := .ended }) := by
  unfold endRequest
  rw [h]
  dsimp -zeta only
  rw [if_neg hr]
  lift_lets
  intro recorded marked _ dropped released
  have hrec : BesideTable s recorded := besideTable_ite (besideTable_refusalRecord ..) (besideTable_pushCompletion ..)
  have hmark : Serving recorded dropped := ⟨rfl, rfl⟩
  have hrel : BesideTable dropped released := besideTable_ite (besideTable_releaseConv ..) (besideTable_refl _)
  have hmarked : dropped.serve.table = tset none s.serve.table i (some { r with state := .ended }) := by
    rw [← hrec.table]; rfl
  suffices hpages : ∀ t, BesideTable dropped t →
      Serving s t ∧ t.serve.table = tset none s.serve.table i (some { r with state := .ended }) from
    hpages _ (besideTable_trans hrel (besideTable_ite (besideTable_startPause ..)
      (besideTable_ite (besideTable_refl _) (besideTable_freeSets ..))))
  exact fun t ht => ⟨serving_trans (serving_trans hrec.toServing hmark) ht.toServing, ht.table.trans hmarked⟩

/-- Nothing ends a second time. -/
theorem endRequest_ended {s : State} {i : Nat} (h : ∀ r, s.request i = some r → r.state = .ended) (status : Nat) (cause : Word) :
    endRequest s i status cause = s := by
  unfold endRequest
  split
  · rfl
  · rename_i r hr
    rw [if_pos (h r hr)]

theorem endRequest_serving (s : State) (i status : Nat) (cause : Word) : Serving s (endRequest s i status cause) := by
  by_cases h : ∀ r, s.request i = some r → r.state = .ended
  · rw [endRequest_ended h]; exact serving_refl s
  · push Not at h
    obtain ⟨r, hi, hr⟩ := h
    exact (endRequest_live hi hr status cause).1

/-- An entry of the request table is in flight. -/
def InFlight (s : State) (i : Nat) : Prop := ∃ r, s.request i = some r ∧ r.state ≠ .ended

/-- The end of a request takes it, and no other, out of flight. -/
theorem inFlight_endRequest {s : State} (h : tblWf none s.serve.table = true) (i status : Nat) (cause : Word) :
    tblWf none (endRequest s i status cause).serve.table = true ∧
    ∀ j, InFlight (endRequest s i status cause) j → InFlight s j ∧ j ≠ i := by
  by_cases hl : InFlight s i
  · obtain ⟨r, hi, hr⟩ := hl
    have htab := (endRequest_live hi hr status cause).2
    refine ⟨by rw [htab]; exact tblWf_tset none i _ h, fun j ⟨x, hx, hxs⟩ => ?_⟩
    rw [State.request, htab] at hx
    by_cases hj : j = i
    · subst hj
      rw [tget_tset_same none j _ ((tblWf_iff _ _).mp h).1] at hx
      cases hx
      exact absurd rfl hxs
    · rw [tget_tset_other none _ _ hj] at hx
      exact ⟨⟨x, hx, hxs⟩, hj⟩
  · have hended : ∀ r, s.request i = some r → r.state = .ended := fun r hi => by
      by_contra hr; exact hl ⟨r, hi, hr⟩
    rw [endRequest_ended hended]
    exact ⟨h, fun j hj => ⟨hj, fun hji => hl (hji ▸ hj)⟩⟩

/-- Ending every request of a list takes all of them out of flight. -/
theorem inFlight_foldl_endRequest (status : Nat) (l : List (Nat × Request)) : ∀ {s : State},
    tblWf none s.serve.table = true → (∀ j, InFlight s j → ∃ q ∈ l, q.1 = j) →
    tblWf none (l.foldl (fun s q => endRequest s q.1 status) s).serve.table = true ∧
      ∀ j, ¬ InFlight (l.foldl (fun s q => endRequest s q.1 status) s) j := by
  induction l with
  | nil => intro s hwf hall; exact ⟨hwf, fun j hj => by obtain ⟨q, hq, -⟩ := hall j hj; cases hq⟩
  | cons q l ih =>
    intro s hwf hall
    obtain ⟨hwf', hstep⟩ := inFlight_endRequest hwf q.1 status 0
    refine ih hwf' fun j hj => ?_
    obtain ⟨hjs, hne⟩ := hstep j hj
    obtain ⟨x, hx, rfl⟩ := hall j hjs
    rcases List.mem_cons.mp hx with rfl | hx
    · exact absurd rfl hne
    · exact ⟨x, hx, rfl⟩

/-- A key that does not read the default is listed. -/
theorem mem_of_tget {α : Type} {d : α} {m : Tbl α} {i : Nat} (h : tget d m i ≠ d) : (i, tget d m i) ∈ m := by
  induction m with
  | nil => exact absurd rfl h
  | cons p m ih =>
    obtain ⟨k, v⟩ := p
    by_cases hk : k = i
    · simp [tget, hk]
    · simp only [tget, hk, if_false] at h ⊢
      exact List.mem_cons_of_mem _ (ih h)

/-- In a canonical table a listed key reads its value. -/
theorem tget_of_mem {α : Type} (d : α) {b : Nat} {m : Tbl α} (hm : keysGe b m) {i : Nat} {v : α} (h : (i, v) ∈ m) :
    b ≤ i ∧ tget d m i = v := by
  induction m generalizing b with
  | nil => cases h
  | cons p m ih =>
    obtain ⟨k, w⟩ := p
    rcases List.mem_cons.mp h with heq | h
    · cases heq
      exact ⟨hm.1, by simp [tget]⟩
    · obtain ⟨hlt, hv⟩ := ih hm.2 h
      have hk : k ≠ i := by omega
      exact ⟨Nat.le_trans hm.1 (by omega), by simp [tget, hk, hv]⟩

theorem mem_liveRequests {s : State} {j : Nat} (h : InFlight s j) : ∃ q ∈ liveRequests s, q.1 = j := by
  obtain ⟨r, hr, hs⟩ := h
  have hmem : (j, some r) ∈ s.serve.table := by
    rw [← hr]; exact mem_of_tget (by rw [← State.request, hr]; simp)
  exact ⟨(j, r), List.mem_filterMap.mpr ⟨_, hmem, by simp [hs]⟩, rfl⟩

theorem liveRequests_eq_nil {s : State} (hwf : tblWf none s.serve.table = true) (h : ∀ j, ¬ InFlight s j) : liveRequests s = [] := by
  refine List.filterMap_eq_nil_iff.mpr fun q hq => ?_
  obtain ⟨j, o⟩ := q
  cases o with
  | none => rfl
  | some r =>
    have hr : s.request j = some r := (tget_of_mem none ((tblWf_iff _ _).mp hwf).1 hq).2
    by_cases hs : r.state = .ended
    · simp [hs]
    · exact absurd ⟨r, hr, hs⟩ (h j)

theorem endWhere_serving (s : State) (p : Nat → Request → Bool) (status : Nat) : Serving s (endWhere s p status) :=
  serving_foldl (fun _ _ => serving_ite (endRequest_serving ..) (serving_refl _)) _ _

/-- Every request in flight ends (R495, R496). -/
theorem endAll_serving (s : State) (status : Nat) : Serving s (endAll s status) :=
  serving_trans (endWhere_serving s _ status) ⟨rfl, rfl⟩

theorem endAll_liveRequests {s : State} (hwf : tblWf none s.serve.table = true) (status : Nat) :
    liveRequests (endAll s status) = [] := by
  obtain ⟨hwf', hnone⟩ := inFlight_foldl_endRequest status (liveRequests s) hwf fun _ => mem_liveRequests
  have hall : endWhere s (fun _ _ => true) status = (liveRequests s).foldl (fun s q => endRequest s q.1 status) s := rfl
  rw [← hall] at hwf' hnone
  exact liveRequests_eq_nil (s := endAll s status) hwf' hnone

/-! ## The entry into Held (R40, R458, R462) -/

/-- What the entry into a lower state cancels (R460). -/
theorem cancelPending_eq (s : State) : cancelPending s = { s with
    events := [], own := [], fw := { s.fw with pending := 0 }, plan := (cancelPending s).plan, txn := (cancelPending s).txn
    mgmt := (cancelPending s).mgmt } := by
  unfold cancelPending
  rw [abortTxn_eq]
  dsimp only
  split <;> rfl

/-- The parts of the state that the entry into Held leaves, and what it sets. -/
structure HeldFrom (s t : State) : Prop where
  time : t.time = { s.time with dataPath := false }
  ladder : t.power.ladder = .held
  serve : t.serve = s.serve
  kv : t.kv = s.kv
  faults : t.faults = s.faults
  flits : t.flits = []

theorem enterHeld_heldFrom (s : State) : HeldFrom s (enterHeld s) := by
  have h := cancelPending_eq (stopDataPath s)
  unfold enterHeld
  rw [h]
  exact ⟨rfl, rfl, rfl, rfl, rfl, rfl⟩

/-- A forced entry into Held: every request ends, the data path stops, the records stay (R40, R462). -/
structure ForcedHeld (s t : State) : Prop where
  time : t.time = { s.time with dataPath := false }
  ladder : t.power.ladder = .held
  live : liveRequests t = []
  jobs : t.serve.jobP = none ∧ t.serve.jobD = none
  faults : t.faults = s.faults
  flits : t.flits = []
  stored : t.kv.stored.length = s.kv.stored.length

theorem forceLadder_held {s : State} (hwf : tblWf none s.serve.table = true) : ForcedHeld s (forceLadder s enterHeld) := by
  have held := enterHeld_heldFrom (stopDataPath (endAll s stWaferFault))
  have ended := endAll_serving s stWaferFault
  have live : liveRequests (forceLadder s enterHeld) = liveRequests (endAll s stWaferFault) := by
    unfold liveRequests forceLadder; rw [held.serve]; rfl
  refine ⟨?_, held.ladder, live.trans (endAll_liveRequests hwf _), ?_, ?_, held.flits, ?_⟩
  · exact held.time.trans (by rw [ended.eq]; rfl)
  · exact ⟨congrArg ServeState.jobP held.serve, congrArg ServeState.jobD held.serve⟩
  · exact held.faults.trans (by rw [ended.eq]; rfl)
  · exact (congrArg (fun k => k.stored.length) held.kv).trans ended.stored

/-- The state in which the loss of the reference is noted, and that in which it is recorded too, before the entry into Held. -/
def lossNoted (s : State) : State := { s with time := { s.time with refLost := true, refReturned := false, lostTicks := 0 } }
def lossRecorded (s : State) : State :=
  let a := raiseModule (lossNoted s) 4 0x8D
  { a with
    time := { a.time with clock := .base, boost := .none, boostVolts := false }
    faults := { a.faults with waitClear := true, restart := true } }

theorem lossRecorded_eq (s : State) : ∃ f m l, lossRecorded s = { s with
    time := { s.time with refLost := true, refReturned := false, lostTicks := 0, clock := .base, boost := .none, boostVolts := false }
    faults := f, mgmt := m, sent := l } := by
  obtain ⟨f, m, l, ha⟩ := raiseModule_eq (lossNoted s) 4 0x8D 0 0 1
  unfold lossRecorded
  rw [ha]
  exact ⟨_, m, l, rfl⟩

theorem lossRecorded_ring (s : State) : (lossRecorded s).faults.ring = (raiseModule (lossNoted s) 4 0x8D).faults.ring := rfl

theorem onRing_lossRecorded (s : State) : onRing (lossRecorded s) 4 0x8D := by
  obtain ⟨x, hx, h⟩ := onRing_raiseModule (lossNoted s) 4 0x8D 0 0 1 (by decide)
  exact ⟨x, by rw [lossRecorded_ring]; exact hx, h⟩

/-- The loss of the reference on a module that runs or is Poised forces it into Held. -/
theorem referenceLoss_eq {s : State} (hlost : s.time.refLost = false) (hready : s.mgmt.ready = true)
    (hl : s.power.ladder = .running ∨ s.power.ladder = .poised) :
    exec .referenceLoss s = .next (forceLadder (lossRecorded s) enterHeld) := by
  obtain ⟨f, m, l, h⟩ := lossRecorded_eq s
  have hpower : (lossRecorded s).power = s.power := by rw [h]
  change (if s.time.refLost = true then done s else if (!s.mgmt.ready) = true then done (lossNoted s)
    else if (lossRecorded s).power.ladder = .running ∨ (lossRecorded s).power.ladder = .poised then
      done (forceLadder (lossRecorded s) enterHeld)
    else done (endAll (lossRecorded s) stWaferFault)) = _
  rw [hlost, hready, hpower, if_neg Bool.false_ne_true, if_neg (by decide), if_pos hl]
  rfl

/-- Settles O13: the loss is recorded (`lossRecorded`), then every request ends and the module enters Held (`forceLadder_held`). -/
theorem referenceLossForcesHeld : Obligations.ReferenceLossForcesHeld := by
  unfold Obligations.ReferenceLossForcesHeld
  intro s hwf hlost hready hladder
  obtain ⟨-, -, -, -, -, -, -, -, htable⟩ := (tablesWf_iff s).mp hwf
  obtain ⟨f, m, l, h⟩ := lossRecorded_eq s
  obtain ⟨x, hx, hsev, hcode⟩ := onRing_lossRecorded s
  have held := forceLadder_held (s := lossRecorded s) (by rw [h]; exact htable)
  refine ⟨_, referenceLoss_eq hlost hready hladder, ?_, ?_, held.ladder, ?_, held.live, held.jobs.1, held.jobs.2, ?_, ?_, ?_,
    held.flits, ?_⟩
  · rw [held.time, h]
  · rw [held.time, h]
  · rw [held.time]
  · rw [held.faults]; rfl
  · rw [held.faults]; rfl
  · exact ⟨x, by rw [held.faults]; exact hx, hsev, hcode⟩
  · rw [held.stored, h]

end Sys2Proof.Machine
end

section
/-! PROOFS. Strokes: the start of a stroke and its call tick (R47, R51, R263). -/

namespace Sys2Proof.Machine

/-! ## Chunks and steps reach what serving reaches (R309 to R345, R429) -/

theorem serving_emit (s : State) (m : Sent) : Serving s (s.emit m) := ⟨rfl, rfl⟩
theorem serving_sendVc (s : State) (m : VcMessage) : Serving s (sendVc s m) := ⟨rfl, rfl⟩
theorem serving_boardTell (s : State) (c : VcContent) : Serving s (boardTell s c) := by
  rw [boardTell_eq]; exact ⟨rfl, rfl⟩
theorem serving_tellMaster (s : State) (c : VcContent) : Serving s (tellMaster s c) := by
  rw [tellMaster_eq]; exact ⟨rfl, rfl⟩

theorem serving_setWork (s : State) (w : Nat) (x : ReplicaWork) : Serving s (s.setWork w x) := by
  unfold State.setWork
  split <;> exact ⟨rfl, rfl⟩

theorem dropRequest_serving (s : State) (i : Nat) : Serving s (dropRequest s i) := by
  unfold dropRequest
  split
  · exact serving_trans (besideTable_freeSets s i).toServing (serving_setRequest ..)
  · exact serving_refl s

theorem makeRoom_serving (t : ServingTables) (need : List (Nat × Nat × Nat)) (vs : List (FarMove ⊕ Nat)) :
    ∀ {s u : State}, makeRoom t need vs s = some u → Serving s u := by
  induction vs with
  | nil =>
    intro s u h
    unfold makeRoom at h
    split at h
    · cases h; exact serving_refl s
    · cases h
  | cons v vs ih =>
    intro s u h
    unfold makeRoom at h
    split at h
    · cases h; exact serving_refl s
    · cases v with
      | inl m => exact serving_trans (t := dropMove s m) ⟨rfl, rfl⟩ (ih h)
      | inr i => exact serving_trans (dropRequest_serving s i) (ih h)

theorem addParcel_serving (s : State) (t : ServingTables) (type index : Nat) (b : Bytes) : Serving s (addParcel s t type index b) := by
  unfold addParcel
  dsimp only
  refine serving_ite (serving_refl s) (serving_trans ?_ (serving_foldl (fun s w => serving_sendVc s _) _ _))
  exact ⟨rfl, rfl⟩

theorem pageMaps_serving (s : State) (t : ServingTables) (i : Nat) (bound : List PageSet) : Serving s (pageMaps s t i bound) := by
  refine serving_foldl (fun s n => serving_foldl (fun s h => ?_) _ _) _ s
  split
  · exact serving_refl s
  · exact addParcel_serving ..

theorem bindSets_serving (s : State) (t : ServingTables) (i : Nat) (need : List (Nat × Nat × Nat)) (st : SetState) :
    Serving s (bindSets s t i need st) := by
  refine serving_trans (serving_foldl (fun s q => ?_) need s) (pageMaps_serving ..)
  dsimp only
  split
  · exact ⟨rfl, rfl⟩
  · exact serving_refl s

theorem bindFor_serving {s u : State} {t : ServingTables} {i : Nat} {r : Request} {chunk : Bool}
    (h : bindFor s t i r chunk = some u) : Serving s u := by
  obtain ⟨v, hv, rfl⟩ := Option.map_eq_some_iff.mp h
  exact serving_trans (makeRoom_serving _ _ _ hv) (bindSets_serving ..)

theorem tryChunk_serving (p : Plan) (t : ServingTables) (s : State) (i : Nat) : Serving s (tryChunk p t s i) := by
  unfold tryChunk
  split
  · exact serving_refl s
  · lift_lets
    intro dropped r'
    have hdrop : Serving s dropped := serving_ite (dropRequest_serving s i) (serving_refl s)
    refine serving_trans hdrop ?_
    split
    · exact endRequest_serving ..
    · split
      · exact serving_refl _
      · dsimp only
        split
        · exact serving_refl _
        · split
          · exact serving_refl _
          · rename_i u hu
            exact serving_trans (bindFor_serving hu) (serving_trans (serving_setRequest ..) (serving_setWork ..))

theorem decideChunk_serving (s : State) (w : Nat) : Serving s (decideChunk s w) := by
  unfold decideChunk
  split
  · refine serving_ite (serving_refl s) (serving_foldl (fun s q => ?_) _ _)
    exact serving_ite (serving_refl s) (tryChunk_serving ..)
  · exact serving_refl s

theorem joinStep_serving (p : Plan) (t : ServingTables) (s : State) (i : Nat) : Serving s (joinStep p t s i) := by
  unfold joinStep
  split
  · exact serving_refl s
  · split
    · exact serving_ite (endRequest_serving ..) (dropRequest_serving ..)
    · split
      · exact serving_refl s
      · lift_lets
        intro len columns room
        split
        · exact serving_refl s
        · split
          · exact serving_refl s
          · rename_i u hu
            exact serving_trans (bindFor_serving hu)
              (serving_trans (serving_ite (addParcel_serving ..) (serving_refl u)) (serving_setWork ..))

theorem decideStep_serving (s : State) (w : Nat) : Serving s (decideStep s w) := by
  unfold decideStep
  split
  · exact serving_ite (serving_refl s) (serving_foldl (fun s q => joinStep_serving ..) _ _)
  · exact serving_refl s

/-! ## Work that begins and ends reaches the same (R314, R323, R326, R337, R429, R491) -/

theorem tellDispatch_serving (s : State) (w : Nat) (p : Bool) (schedule stroke : Nat) :
    Serving s (tellDispatch s w p schedule stroke) :=
  serving_ite (serving_boardTell ..) (serving_ite (serving_sendVc ..) (serving_refl s))

theorem serving_ite_fst {α : Type} {s : State} {x y : State × α} {p : Prop} [Decidable p] (h : Serving s x.1) (g : Serving s y.1) :
    Serving s (if p then x else y).1 := by
  split
  · exact h
  · exact g

theorem latchJob_serving (s : State) (w : Nat) (p : Bool) : Serving s (latchJob s w p).1 := by
  unfold latchJob
  split
  · exact serving_refl s
  · rename_i j _
    lift_lets
    intro put live
    have hput : ∀ x, Serving s (put s x) := fun x => serving_setWork ..
    have hrun : ∀ x, Serving s ((put s none).setWork w x) := fun x => serving_trans (hput none) (serving_setWork ..)
    have hprefill : ∀ (u : State) i, Serving u (match u.request i with
        | some r => u.setRequest i (some { r with state := .prefill })
        | none => u) := fun u i => by
      split
      · exact serving_setRequest ..
      · exact serving_refl u
    refine serving_ite_fst ?_ (serving_ite_fst (hput _) (serving_ite_fst
      (serving_trans (hput _) (tellDispatch_serving ..)) (serving_ite_fst (serving_refl s) ?_)))
    · cases j.told with
      | some n => exact serving_trans (hput none) (tellDispatch_serving ..)
      | none => exact hput none
    · exact serving_trans (hrun _) (serving_ite (serving_foldl hprefill _ _) (serving_refl _))

theorem noteWork_serving (s : State) (p : Bool) : Serving s (noteWork s p) := by
  unfold noteWork
  split
  · split
    · exact serving_setWork ..
    · exact serving_refl s
  · exact serving_refl s

theorem latchAccepted_serving (s : State) (valid conflict : Bool) (v : Nat) : Serving s (latchAccepted s valid conflict v) := by
  unfold latchAccepted
  refine serving_ite (serving_refl s) (serving_ite (serving_ite (serving_tellMaster ..) (serving_refl s)) ?_)
  split
  · exact serving_ite ⟨rfl, rfl⟩ (serving_refl s)
  · exact serving_refl s

theorem endJob_serving (s : State) (w : Nat) (p : Bool) : Serving s (endJob s w p) := by
  unfold endJob
  split
  · exact serving_refl s
  · exact serving_ite (serving_refl s) (serving_trans (serving_setWork ..) ⟨rfl, rfl⟩)

theorem reportTokens_serving (s : State) (i : Nat) (toks : List Word) (position time : Nat) :
    Serving s (reportTokens s i toks position time) := by
  unfold reportTokens
  split
  · exact serving_refl s
  · dsimp only
    refine serving_ite (serving_refl s) (serving_trans (serving_trans (besideTable_pushCompletion ..).toServing
      (serving_setRequest ..)) (serving_ite (endRequest_serving ..) (serving_ite (endRequest_serving ..) (serving_refl _))))

theorem endWork_serving (s : State) (j : Job) (mine : List OutResult) (i : Nat) : Serving s (endWork s j mine i) := by
  unfold endWork
  split
  · exact serving_refl s
  · refine serving_ite (serving_refl s) ?_
    lift_lets
    intro rs cause bad silent r next r' marked reported
    have hrep : Serving s reported := serving_trans (serving_setRequest s i (some r'))
      (serving_ite (serving_refl _) (serving_foldl (fun s o => reportTokens_serving ..) _ _))
    refine serving_ite (endRequest_serving ..) (serving_trans hrep ?_)
    split
    · exact serving_ite (endRequest_serving ..) (serving_refl _)
    · exact serving_refl _

theorem finishJobs_serving (s : State) : Serving s (finishJobs s) := by
  refine serving_foldl (fun s j => ?_) _ s
  dsimp only
  refine serving_ite (serving_refl s) (serving_trans ?_ (serving_foldl (fun s i => endWork_serving ..) _ _))
  exact ⟨rfl, rfl⟩

theorem endIntake_serving (s : State) : Serving s (endIntake s) :=
  serving_foldl (fun _ _ => serving_ite (serving_ite (endRequest_serving ..)
    (serving_ite (serving_setRequest ..) (serving_refl _))) (serving_refl _)) _ s

/-! ## What leaves board time and the causes of a stop alone -/

/-- Board time, the records and a halt of the board stand. -/
structure Aside (s t : State) : Prop where
  time : t.time = s.time
  faults : t.faults = s.faults
  halted : t.board.halted = s.board.halted

theorem aside_refl (s : State) : Aside s s := ⟨rfl, rfl, rfl⟩

theorem aside_trans {s t u : State} (h : Aside s t) (g : Aside t u) : Aside s u :=
  ⟨g.time.trans h.time, g.faults.trans h.faults, g.halted.trans h.halted⟩

theorem aside_foldl {α : Type} {f : State → α → State} (h : ∀ s x, Aside s (f s x)) (l : List α) :
    ∀ s, Aside s (l.foldl f s) := by
  induction l with
  | nil => exact aside_refl
  | cons x l ih => exact fun s => aside_trans (h s x) (ih _)

theorem aside_ite {s t u : State} {p : Prop} [Decidable p] (h : Aside s t) (g : Aside s u) : Aside s (if p then t else u) := by
  split
  · exact h
  · exact g

theorem serving_aside {s t : State} (h : Serving s t) : Aside s t := by
  rw [h.eq]; exact ⟨rfl, rfl, rfl⟩

/-! ## Sweeps, shadows, refills -/

theorem setCell_aside (s : State) (k : Nat) (v : CellState) : Aside s (s.setCell k v) :=
  ⟨State.setCell_time .., State.setCell_faults .., by rw [State.setCell_board]⟩

theorem modCell_aside (s : State) (k : Nat) (g : CellState → CellState) : Aside s (s.modCell k g) := setCell_aside ..
theorem modSite_aside (s : State) (k : Nat) (g : SiteState → SiteState) : Aside s (s.modSite k g) := ⟨rfl, rfl, rfl⟩
theorem modField_aside (s : State) (f : Nat) (g : FieldState → FieldState) : Aside s (s.modField f g) := ⟨rfl, rfl, rfl⟩
theorem setField_aside (s : State) (f : Nat) (v : FieldState) : Aside s (s.setField f v) := ⟨rfl, rfl, rfl⟩
theorem modPort_aside (s : State) (p : Nat) (g : PortState → PortState) : Aside s (s.modPort p g) := ⟨rfl, rfl, rfl⟩
theorem weights_aside (s : State) (w : WeightState) : Aside s { s with weights := w } := ⟨rfl, rfl, rfl⟩

theorem freeBarrier_aside (s : State) (h : BarrierHold) : Aside s (freeBarrier s h) := ⟨rfl, rfl, rfl⟩
theorem holdBarrier_aside (s : State) (h : BarrierHold) : Aside s (holdBarrier s h) := aside_ite (aside_refl s) ⟨rfl, rfl, rfl⟩

theorem invalidateLines_aside (s : State) (k : Nat) (lines : List Nat) (due : Nat) : Aside s (invalidateLines s k lines due) :=
  aside_ite (aside_refl s) ⟨rfl, rfl, rfl⟩

theorem sendHost_aside (s : State) (v : Via) (m : HostMsg) : Aside s (sendHost s v m) :=
  aside_ite (aside_refl s) (aside_ite ⟨rfl, rfl, rfl⟩ ⟨rfl, rfl, rfl⟩)

theorem askHost_aside (s : State) (w : WeightSet) (k line : Nat) : Aside s (askHost s w k line) := by
  unfold askHost
  split
  · exact aside_refl s
  · split
    · exact sendHost_aside ..
    · exact aside_refl s

theorem askRefill_aside (s : State) (k line : Nat) : Aside s (askRefill s k line) := by
  unfold askRefill
  split
  · exact aside_refl s
  · dsimp only
    split
    · exact ⟨rfl, rfl, rfl⟩
    · split
      · exact ⟨rfl, rfl, rfl⟩
      · exact aside_trans (weights_aside s _) (askHost_aside ..)
    · exact ⟨rfl, rfl, rfl⟩

theorem countMismatch_aside (s : State) (n : Nat) : Aside s (countMismatch s n) := aside_ite (aside_refl s) ⟨rfl, rfl, rfl⟩

theorem sweepAdvance_aside (s : State) : Aside s (sweepAdvance s) := by
  unfold sweepAdvance
  split
  · refine aside_ite (aside_refl s) ?_
    lift_lets
    intro sw x
    split
    · exact weights_aside s _
    · intro _ n c move keys bad wrong busy copied _ asked _ advanced regions
      have hcopied : Aside s copied := aside_foldl (fun s k => aside_trans (modSite_aside s k _) (invalidateLines_aside ..)) _ s
      have hasked : Aside copied asked :=
        aside_trans (aside_trans (weights_aside copied _) (countMismatch_aside ..)) (aside_foldl (fun s q => askHost_aside ..) _ _)
      have hdone := aside_trans hcopied hasked
      refine aside_trans hdone (aside_ite (aside_trans (weights_aside asked _) (aside_ite (freeBarrier_aside ..) (aside_refl _))) ?_)
      exact weights_aside asked _
  · exact aside_refl s

theorem askShadows_aside (s : State) : Aside s (askShadows s) := by
  refine aside_foldl (fun s q => ?_) _ s
  unfold askShadow
  split
  · exact aside_refl s
  · dsimp only
    split
    · exact aside_refl s
    · split
      · exact aside_refl s
      · refine aside_ite (aside_refl s) (aside_trans (modCell_aside ..) (modSite_aside ..))

/-! ## The control links of the fields (R256 to R260, R262, R512) -/

theorem emit_aside (s : State) (m : Sent) : Aside s (s.emit m) := ⟨rfl, rfl, rfl⟩
theorem noteDark_aside (s : State) (a : RegAddr) : Aside s (noteDark s a) := aside_ite (modField_aside ..) (aside_refl s)

theorem writeW1c_aside (s : State) (a : RegAddr) (v : Nat) : Aside s (writeW1c s a v) := by
  fun_cases writeW1c s a v
  -- the faults of a cell: the one register of these that is written through `modCell`
  case case12 => exact modCell_aside ..
  all_goals exact ⟨rfl, rfl, rfl⟩

theorem writeLoader_aside (s : State) (a : RegAddr) (v : Nat) : Aside s (writeLoader s a v) := by
  unfold writeLoader
  split
  · exact aside_ite (modCell_aside ..) (aside_refl s)
  · exact aside_ite (modSite_aside ..) (aside_refl s)
  · exact aside_ite ⟨rfl, rfl, rfl⟩ (aside_refl s)
  · exact aside_refl s

theorem writeControl_aside (s : State) (a : RegAddr) (v : Nat) : Aside s (writeControl s a v) :=
  aside_trans (writeW1c_aside s a v) (writeLoader_aside ..)

theorem isolatePorts_aside (s : State) : Aside s (isolatePorts s) :=
  aside_foldl (fun _ _ => aside_ite (modPort_aside ..) (aside_refl _)) _ s

theorem makeHole_aside (s : State) (f : Nat) : Aside s (makeHole s f) := by
  refine aside_trans ?_ (isolatePorts_aside _)
  exact ⟨rfl, rfl, rfl⟩

theorem settleHoles_aside (s : State) : Aside s (settleHoles s) := by
  unfold settleHoles
  lift_lets
  intro cut made
  have hmade : Aside s made := by
    refine aside_foldl (fun s _ => ?_) _ s
    split
    · exact makeHole_aside ..
    · exact aside_refl s
  exact aside_trans hmade (aside_foldl (fun s f => aside_ite (aside_refl s) (modField_aside ..)) allFields made)

theorem registerAccess_aside (s : State) (addr : BitVec 64) (write : Option (BitVec 128)) :
    Aside s (registerAccess s addr write) := by
  unfold registerAccess
  refine aside_ite (aside_trans (noteDark_aside ..) (emit_aside ..)) ?_
  split
  · exact aside_refl s
  · split
    · exact aside_refl s
    · exact emit_aside ..
    · exact writeControl_aside ..

theorem fieldAct_aside (s : State) (f : Nat) (cmd : FcCmd) : Aside s (fieldAct s f cmd) := by
  unfold fieldAct
  cases cmd with
  | publish chan v => exact modField_aside ..
  | writeRegister addr v => exact aside_ite (noteDark_aside ..) (writeControl_aside ..)
  | goDark => exact modField_aside ..
  | markHole => exact aside_ite (makeHole_aside ..) (aside_trans (makeHole_aside ..) (settleHoles_aside _))

theorem ctrlAct_aside (s : State) (f : Nat) (m : CtrlMsg) : Aside s (ctrlAct s f m) := by
  unfold ctrlAct
  split
  · exact registerAccess_aside ..
  · exact fieldAct_aside ..

theorem ctrlWord_aside (s : State) (f : Nat) : Aside s (ctrlWord s f) := by
  unfold ctrlWord
  dsimp only
  split
  · exact aside_refl s
  · split
    · exact aside_refl s
    · exact aside_ite (aside_trans (setField_aside ..) (ctrlAct_aside ..)) (setField_aside ..)

theorem ctrlServe_aside (f n : Nat) : ∀ s : State, Aside s (ctrlServe s f n) := by
  induction n with
  | zero => exact aside_refl
  | succ n ih => exact fun s => aside_ite (aside_refl s) (aside_trans (ctrlWord_aside s f) (ih _))

theorem ctrlDrain_aside (s : State) : Aside s (ctrlDrain s) := by
  unfold ctrlDrain
  exact aside_foldl (fun s (q : Nat × FieldState) => ctrlServe_aside q.1 _ s) _ s

/-! ## What the modules of a board tell each other (R61, R265, R423, R448) -/

theorem boardTell_aside (s : State) (c : VcContent) : Aside s (boardTell s c) := by rw [boardTell_eq]; exact ⟨rfl, rfl, rfl⟩
theorem tellMaster_aside (s : State) (c : VcContent) : Aside s (tellMaster s c) := by rw [tellMaster_eq]; exact ⟨rfl, rfl, rfl⟩
theorem nameOwn_aside (s : State) (k : OwnKind) (e : Nat) : Aside s (nameOwn s k e) := by rw [nameOwn_eq]; exact ⟨rfl, rfl, rfl⟩

theorem moveOwn_aside (s : State) (o : OwnEvent) (e : Nat) : Aside s (moveOwn s o e) := by
  refine aside_trans ?_ (nameOwn_aside ..)
  exact ⟨rfl, rfl, rfl⟩

theorem moveEvent_aside (s : State) (v : Event) (e : Nat) : Aside s (moveEvent s v e) := by
  refine aside_trans ?_ (boardTell_aside ..)
  exact ⟨rfl, rfl, rfl⟩

theorem boardDefer_aside (s : State) : Aside s (boardDefer s) := by
  unfold boardDefer
  lift_lets
  intro e slow own moved acts
  have hmoved : Aside s moved := aside_foldl (fun s o => moveOwn_aside s o _) own s
  exact aside_ite (aside_trans hmoved (aside_foldl (fun s v => moveEvent_aside s v _) acts moved)) hmoved

theorem boardTalk_aside (s : State) : Aside s (boardTalk s) := by
  refine aside_ite (tellMaster_aside ..) (aside_ite ?_ (aside_refl s))
  refine aside_trans (boardDefer_aside s) (aside_trans ?_ (boardTell_aside ..))
  exact ⟨rfl, rfl, rfl⟩

theorem carryEpoch_aside (s : State) : Aside s (carryEpoch s) := aside_ite (aside_refl s) ⟨rfl, rfl, rfl⟩

theorem arrivePosts_aside (s : State) (ended : Bool) : Aside s (arrivePosts s ended) := ⟨rfl, rfl, rfl⟩

/-! ## Reports of the stroke that ends (R211, R302, R489) -/

/-- Board time stands, and a record that stops the data path goes on stopping it (R51). -/
structure StopKept (s t : State) : Prop where
  time : t.time = s.time
  stops : pathStops s = true → pathStops t = true

theorem stopKept_refl (s : State) : StopKept s s := ⟨rfl, id⟩

theorem stopKept_trans {s t u : State} (h : StopKept s t) (g : StopKept t u) : StopKept s u :=
  ⟨g.time.trans h.time, fun hs => g.stops (h.stops hs)⟩

theorem stopKept_foldl {α : Type} {f : State → α → State} (h : ∀ s x, StopKept s (f s x)) (l : List α) :
    ∀ s, StopKept s (l.foldl f s) := by
  induction l with
  | nil => exact stopKept_refl
  | cons x l ih => exact fun s => stopKept_trans (h s x) (ih _)

theorem stopKept_ite {s t u : State} {p : Prop} [Decidable p] (h : StopKept s t) (g : StopKept s u) :
    StopKept s (if p then t else u) := by
  split
  · exact h
  · exact g

/-- What stops the data path: a record at fatal-wafer in the ring or being handled, a restart, a wait for a host clear, a time fault,
or a halt of the board (R51, R496, R500). -/
theorem pathStops_iff (s : State) : pathStops s = true ↔
    (∃ r ∈ s.faults.ring, 4 ≤ r.severity) ∨ (∃ r, s.faults.handling = some r ∧ 4 ≤ r.severity) ∨ s.faults.restart = true ∨
    s.faults.waitClear = true ∨ s.time.timeFault = true ∨ ∃ n, s.board.halted = some n ∧ n.toNat ≤ strokeNo s := by
  unfold pathStops
  cases s.faults.handling <;> cases s.board.halted <;> simp [or_assoc]

theorem aside_stopKept {s t : State} (h : Aside s t) : StopKept s t := by
  refine ⟨h.time, fun hs => ?_⟩
  rw [pathStops_iff] at hs ⊢
  rw [h.faults, h.halted, strokeNo, h.time]
  exact hs

theorem logAdd_stopKept (s : State) (type : Nat) (w : List (BitVec 64)) : StopKept s (logAdd s type w) := by
  obtain ⟨l, h⟩ := logAdd_eq s type w
  rw [h]
  exact ⟨rfl, id⟩

theorem ringPush_stopKept (s : State) (r : ErrRec) : StopKept s (ringPush s r) := by
  obtain ⟨f, m, l, heq⟩ := ringPush_eq s r
  refine ⟨by rw [heq], fun hs => ?_⟩
  rw [pathStops_iff] at hs ⊢
  obtain ⟨l, m, n, h | ⟨r', hr', hlt, h⟩⟩ := ringPush_cases s r <;> rw [h]
  · obtain ⟨x, hx, hsev⟩ | hs := hs
    · exact .inl ⟨x, List.mem_append_left _ hx, hsev⟩
    · exact .inr hs
  · obtain ⟨x, hx, hsev⟩ | ⟨x, hx, hsev⟩ | hs := hs
    · exact .inl ⟨x, List.mem_cons_of_mem _ hx, hsev⟩
    · obtain rfl : r' = x := Option.some.inj (hr'.symm.trans hx)
      exact .inl ⟨joinRec r r', List.mem_cons_self .., hsev.trans hlt.le⟩
    · exact .inr (.inr hs)

theorem raiseModule_stopKept (s : State) (sev code field detail scope : Nat) :
    StopKept s (raiseModule s sev code field detail scope) := ringPush_stopKept ..

theorem modField_stopKept (s : State) (f : Nat) (g : FieldState → FieldState) : StopKept s (s.modField f g) :=
  aside_stopKept (modField_aside ..)

theorem raiseField_stopKept (s : State) (f : Nat) (r : ErrRec) : StopKept s (raiseField s f r) := by
  obtain ⟨v, h⟩ := raiseField_eq s f r
  rw [h]
  exact aside_stopKept (setField_aside ..)

theorem raiseAtSite_stopKept (s : State) (k sev code detail count : Nat) : StopKept s (raiseAtSite s k sev code detail count) :=
  raiseField_stopKept ..

theorem raiseAlert_stopKept (s : State) (bit : Nat) : StopKept s (raiseAlert s bit) := aside_stopKept ⟨rfl, rfl, rfl⟩

theorem countCorrected_stopKept (s : State) (f n : Nat) : StopKept s (countCorrected s f n) := by
  unfold countCorrected
  lift_lets
  intro now fs times counted
  have hcounted : StopKept s counted := aside_stopKept (setField_aside ..)
  exact stopKept_ite (stopKept_trans hcounted (raiseAlert_stopKept ..)) hcounted

theorem reportBit_stopKept (s : State) (k : Nat) (c : CellState) (bit : Nat) : StopKept s (reportBit s k c bit) :=
  stopKept_trans (stopKept_ite (logAdd_stopKept ..) (stopKept_refl s)) (raiseField_stopKept ..)

theorem reportScratch_stopKept (s : State) (k : Nat) (c : CellState) : StopKept s (reportScratch s k c) := by
  unfold reportScratch
  lift_lets
  intro f lg
  refine stopKept_foldl (fun s q => ?_) _ s
  exact stopKept_ite (stopKept_trans (modField_stopKept ..) (countCorrected_stopKept ..))
    (stopKept_ite (stopKept_trans (modField_stopKept ..) (countCorrected_stopKept ..))
      (stopKept_trans (modField_stopKept ..) (raiseField_stopKept ..)))

theorem reactivate_stopKept (s : State) : StopKept s (reactivate s) :=
  aside_stopKept (aside_trans (nameOwn_aside ..) (holdBarrier_aside ..))

theorem reportCell_stopKept (s : State) (k : Nat) : StopKept s (reportCell s k) := by
  unfold reportCell
  lift_lets
  intro c bits scratch cleared
  have hbits : StopKept s bits := stopKept_foldl (fun s b => stopKept_ite (reportBit_stopKept ..) (stopKept_refl s)) _ s
  have hscratch : StopKept s scratch := stopKept_trans hbits (reportScratch_stopKept ..)
  have hcleared : StopKept s cleared :=
    stopKept_trans hscratch (stopKept_ite (reactivate_stopKept ..) (stopKept_refl _))
  exact stopKept_ite (stopKept_refl s) (stopKept_trans hcleared (aside_stopKept (modCell_aside ..)))

theorem routerRecord_stopKept (s : State) (rk sev code count : Nat) : StopKept s (routerRecord s rk sev code count) :=
  stopKept_ite (stopKept_refl s) (raiseField_stopKept ..)

theorem modRouter_stopKept (s : State) (k : Nat) (g : RouterState → RouterState) : StopKept s (s.modRouter k g) :=
  aside_stopKept ⟨rfl, rfl, rfl⟩

theorem reportRouter_stopKept (s : State) (rk : Nat) : StopKept s (reportRouter s rk) := by
  unfold reportRouter
  lift_lets
  intro r counted corrected refused
  have hcorrected : StopKept s corrected := stopKept_trans (modField_stopKept ..) (routerRecord_stopKept ..)
  have hrefused : StopKept s refused := stopKept_trans hcorrected (routerRecord_stopKept ..)
  exact stopKept_ite (stopKept_refl s) (stopKept_trans hrefused (modRouter_stopKept ..))

theorem ledgerUpdate_stopKept (s : State) (l : Nat) (g : LedgerRec → LedgerRec) : StopKept s (ledgerUpdate s l g) :=
  aside_stopKept ⟨rfl, rfl, rfl⟩

theorem reportSite_stopKept (s : State) (k : Nat) : StopKept s (reportSite s k) := by
  unfold reportSite
  lift_lets
  intro st counted poisoned asked reported
  have hpoisoned : StopKept s poisoned :=
    stopKept_trans (countCorrected_stopKept ..) (stopKept_ite (stopKept_refl _) (raiseAtSite_stopKept ..))
  have hasked : StopKept s asked :=
    stopKept_trans hpoisoned (stopKept_foldl (fun s x => aside_stopKept (askRefill_aside ..)) _ _)
  have hreported : StopKept asked reported := by
    unfold reported
    generalize st.report = report
    obtain _ | ⟨layer, dev, exc, fault, phys, stroke⟩ := report
    · exact stopKept_refl _
    · exact stopKept_trans (ledgerUpdate_stopKept ..) (stopKept_trans
        (stopKept_ite (raiseAlert_stopKept ..) (stopKept_refl _)) (stopKept_ite (raiseField_stopKept ..) (stopKept_refl _)))
  exact stopKept_ite (stopKept_refl s)
    (stopKept_trans (stopKept_trans hasked hreported) (aside_stopKept (modSite_aside ..)))

theorem drainQueues_stopKept (s : State) : StopKept s (drainQueues s) := by
  unfold drainQueues
  lift_lets
  intro all sorted take pushed
  have hpushed : StopKept s pushed := stopKept_foldl (fun s q => ringPush_stopKept ..) _ s
  exact stopKept_trans hpushed (stopKept_foldl (fun s q => modField_stopKept ..) _ _)

theorem overrunRecord_stopKept (s : State) : StopKept s (overrunRecord s) := by
  unfold overrunRecord
  lift_lets
  intro f
  refine stopKept_ite (stopKept_refl s) ?_
  split
  · exact ringPush_stopKept ..
  · exact raiseModule_stopKept ..

/-- A step that the end of a stroke takes: the numbers of epoch, stroke and working stroke stand, and a record that stops the data
path goes on stopping it. -/
structure StrokeEnds (s t : State) : Prop where
  epoch : t.time.epoch = s.time.epoch
  stroke : t.time.stroke = s.time.stroke
  work : t.time.work = s.time.work
  stops : pathStops s = true → pathStops t = true

theorem stopKept_ends {s t : State} (h : StopKept s t) : StrokeEnds s t := ⟨by rw [h.time], by rw [h.time], by rw [h.time], h.stops⟩

theorem strokeEnds_trans {s t u : State} (h : StrokeEnds s t) (g : StrokeEnds t u) : StrokeEnds s u :=
  ⟨g.epoch.trans h.epoch, g.stroke.trans h.stroke, g.work.trans h.work, fun hs => g.stops (h.stops hs)⟩

theorem sampleCall_ends (s : State) : StrokeEnds s (sampleCall s) := ⟨rfl, rfl, rfl, id⟩

theorem reportBarriers_ends (s : State) : StrokeEnds s (reportBarriers s) := by
  unfold reportBarriers
  split
  · exact stopKept_ends (stopKept_refl s)
  · lift_lets
    intro raised
    have hraised : StopKept s raised := by
      refine stopKept_foldl (fun s b => stopKept_ite (stopKept_refl s) ?_) _ s
      refine stopKept_foldl (fun s q => stopKept_ite (stopKept_refl s) ?_) _ s
      exact stopKept_foldl (fun s x => stopKept_ite (raiseField_stopKept ..) (stopKept_refl s)) _ s
    exact strokeEnds_trans (stopKept_ends hraised) ⟨rfl, rfl, rfl, id⟩

theorem takeReports_ends (s : State) : StrokeEnds s (takeReports s) := by
  unfold takeReports
  lift_lets
  intro cells routers sites
  have hcells : StopKept s cells := stopKept_foldl (fun s q => reportCell_stopKept ..) _ s
  have hrouters : StopKept cells routers := stopKept_foldl (fun s q => reportRouter_stopKept ..) _ cells
  have hsites : StopKept routers sites := stopKept_foldl (fun s q => reportSite_stopKept ..) _ routers
  exact strokeEnds_trans (stopKept_ends (stopKept_trans (stopKept_trans hcells hrouters) hsites))
    (strokeEnds_trans (reportBarriers_ends sites) (stopKept_ends (drainQueues_stopKept _)))

/-! ## The start of a stroke (R47, R51) -/

/-- What stops the data path still stops it once the stroke's number has risen. -/
theorem pathStops_mono {s t : State} (hf : t.faults = s.faults) (hb : t.board = s.board)
    (ht : t.time.timeFault = s.time.timeFault) (hn : strokeNo s ≤ strokeNo t) (h : pathStops s = true) : pathStops t = true := by
  rw [pathStops_iff] at h ⊢
  rw [hf, hb, ht]
  obtain h | h | h | h | h | ⟨n, hn', hle⟩ := h
  · exact .inl h
  · exact .inr (.inl h)
  · exact .inr (.inr (.inl h))
  · exact .inr (.inr (.inr (.inl h)))
  · exact .inr (.inr (.inr (.inr (.inl h))))
  · exact .inr (.inr (.inr (.inr (.inr ⟨n, hn', hle.trans hn⟩))))

theorem timeFault_pathStops (s : State) : pathStops (timeFault s) = true :=
  (pathStops_iff _).mpr (.inr (.inr (.inr (.inr (.inl (by rw [timeFault_time]))))))

/-- The number of the stroke that begins is the next one, and the rest of the account stands. -/
structure StrokeCounted (s t : State) : Prop where
  epoch : t.time.epoch = s.time.epoch
  stroke : t.time.stroke = s.time.stroke
  work : t.time.work = s.time.work
  called : t.time.called = s.time.called
  overrun : t.time.overrun = s.time.overrun
  droop : t.time.droop = s.time.droop

theorem aside_counted {s t : State} (h : Aside s t) : StrokeCounted s t := by
  constructor <;> rw [h.time]

/-- A check of board time, then the stop of the data path where a record or a missed call tick asks for it: the stop follows from
whatever stopped it before. -/
theorem stop_counted (s : State) (late missed : Bool) :
    let faulted := if late then timeFault s else s
    let stopped := if pathStops faulted || missed then stopDataPath faulted else faulted
    StrokeCounted s stopped ∧ (pathStops s = true → stopped.time.dataPath = false) := by
  intro faulted stopped
  have hfaulted : StrokeCounted s faulted ∧ (pathStops s = true → pathStops faulted = true) := by
    unfold faulted
    split
    · exact ⟨by constructor <;> rw [timeFault_time], fun _ => timeFault_pathStops s⟩
    · exact ⟨⟨rfl, rfl, rfl, rfl, rfl, rfl⟩, id⟩
  obtain ⟨⟨hepoch, hstroke, hwork, hcalled, hoverrun, hdroop⟩, hstops⟩ := hfaulted
  unfold stopped
  refine ⟨?_, fun hs => ?_⟩
  · split <;> exact ⟨hepoch, hstroke, hwork, hcalled, hoverrun, hdroop⟩
  · rw [if_pos (by simp [hstops hs])]
    rfl

/-- Board time stands but for a resumption that has begun. -/
def OnlyResumes (s t : State) : Prop := ∃ r, t.time = { s.time with resumeAt := r }

/-- The end of a stroke: its call tick if that has not been, the record of its overrun, its reports, its posts. -/
theorem closeStroke_ends (s : State) : StrokeEnds s
    (arrivePosts (takeReports (overrunRecord (if working s && !s.time.called then sampleCall s else s))) true) := by
  have hcall : StrokeEnds s (if working s && !s.time.called then sampleCall s else s) := by
    split
    · exact sampleCall_ends s
    · exact stopKept_ends (stopKept_refl s)
  exact strokeEnds_trans hcall (strokeEnds_trans (stopKept_ends (overrunRecord_stopKept _))
    (strokeEnds_trans (takeReports_ends _) (stopKept_ends (aside_stopKept (arrivePosts_aside ..)))))

theorem strokeStart_due {s : State} (hrun : s.time.running = true) (hlast : s.time.stroke < 4095)
    (hdue : s.time.epochStart + (s.time.stroke + 1) * s.time.period ≤ boardTime s) :
    ∃ t, exec .strokeStart s = .next t ∧ t.time.stroke = s.time.stroke + 1 ∧ t.time.epoch = s.time.epoch ∧
      t.time.called = false ∧ t.time.overrun = false ∧ t.time.droop = 0 ∧
      (t.time.work = s.time.work + 1 ∧ t.time.inStroke = true ∨ t.time.work = s.time.work ∧ t.time.inStroke = false) ∧
      (pathStops s = true → t.time.inStroke = false ∧ t.time.dataPath = false) := by
  have hguard : (!s.time.running || decide (4095 ≤ s.time.stroke) ||
      decide (boardTime s < s.time.epochStart + (s.time.stroke + 1) * s.time.period)) = false := by
    simp [hrun, Nat.not_le.mpr hlast, Nat.not_lt.mpr hdue]
  change ∃ t, execStrokeStart s = .next t ∧ _
  unfold execStrokeStart
  rw [if_neg (by simp [hguard])]
  lift_lets
  intro called reported ended
  have hended : StrokeEnds s ended := closeStroke_ends s
  clear_value ended
  intro missed _ counted
  have hlater : strokeNo ended ≤ strokeNo counted := Nat.add_le_add_left (Nat.le_succ ended.time.stroke) (ended.time.epoch * 4096)
  have hcounted : pathStops ended = true → pathStops counted = true := pathStops_mono rfl rfl rfl hlater
  obtain ⟨w, hnext⟩ : ∃ w, counted.time = { ended.time with
    stroke := ended.time.stroke + 1, w := w, wStart := false, droop := 0, called := false, overrun := false } := ⟨_, rfl⟩
  clear_value missed counted
  intro told
  have htold : Aside counted told :=
    aside_trans (aside_trans (carryEpoch_aside _) (ctrlDrain_aside _)) (boardTalk_aside _)
  clear_value told
  intro faulted stopped
  have hstopped := stop_counted told (told.time.stroke = 4047 && epochDisagrees told) missed
  change StrokeCounted told stopped ∧ (pathStops told = true → stopped.time.dataPath = false) at hstopped
  clear_value stopped
  intro go _ entered
  have hgo : stopped.time.dataPath = false → go = false := fun h => by simp [go, h]
  obtain ⟨tick, hentered⟩ : ∃ tick, entered.time = { stopped.time with
    inStroke := go, work := if go then stopped.time.work + 1 else stopped.time.work, workTick := tick } := ⟨_, rfl⟩
  clear_value go entered
  intro jobs intake latched p d noted
  have hnoted : Serving entered noted := by
    have hjobs : Serving entered jobs :=
      serving_foldl (fun s w => serving_trans (endJob_serving ..) (endJob_serving ..)) _ entered
    have hintake : Serving jobs intake := serving_trans (finishJobs_serving _) (endIntake_serving _)
    have hlatched : Serving intake latched :=
      serving_foldl (fun s w => serving_trans (latchJob_serving ..) (latchJob_serving ..)) _ intake
    have hd : Serving latched d.1 := serving_trans (latchJob_serving ..) (latchJob_serving ..)
    have hnote : Serving d.1 noted :=
      serving_ite (serving_trans (noteWork_serving ..) (noteWork_serving ..)) (serving_refl _)
    exact serving_trans hjobs (serving_trans hintake (serving_trans hlatched (serving_trans hd hnote)))
  intro shadowed
  have hshadowed : Aside entered shadowed :=
    aside_trans (serving_aside hnoted) (aside_trans (sweepAdvance_aside _) (askShadows_aside _))
  clear_value shadowed
  intro all chans c13 accepted
  have haccepted : Aside shadowed accepted := aside_ite (serving_aside (latchAccepted_serving ..)) (aside_refl _)
  clear_value accepted
  intro resume served
  have hserved : served.time = entered.time := by
    rw [← hshadowed.time, ← haccepted.time]
    unfold served
    split <;> rfl
  clear_value served
  intro _ resumed
  have hresumed : OnlyResumes entered resumed := by
    unfold OnlyResumes
    rw [← hserved]
    unfold resumed
    split <;> exact ⟨_, rfl⟩
  clear_value resumed
  intro _ boarded decided
  have hdecided : OnlyResumes entered decided := by
    have h : Aside boarded decided :=
      serving_aside (serving_foldl (fun s w => serving_trans (decideChunk_serving ..) (decideStep_serving ..)) _ boarded)
    unfold OnlyResumes
    rw [h.time]
    exact hresumed
  clear_value decided
  intro busy _
  refine ⟨_, rfl, ?_⟩
  obtain ⟨r, hr⟩ := hdecided
  obtain ⟨⟨hepoch, hstroke, hwork, hcalled, hoverrun, hdroop⟩, hoff⟩ := hstopped
  rw [htold.time, hnext] at hepoch hstroke hwork hcalled hoverrun hdroop
  dsimp only at hepoch hstroke hwork hcalled hoverrun hdroop ⊢
  rw [hr, hentered]
  refine ⟨hstroke.trans (by rw [hended.stroke]), hepoch.trans hended.epoch, hcalled, hoverrun, hdroop, ?_, fun hs => ?_⟩
  · cases go with
    | true => exact .inl ⟨congrArg (· + 1) (hwork.trans hended.work), rfl⟩
    | false => exact .inr ⟨hwork.trans hended.work, rfl⟩
  · have hpath := hoff ((aside_stopKept htold).stops (hcounted (hended.stops hs)))
    exact ⟨hgo hpath, hpath⟩

/-! ## The call tick (R51, R263) -/

/-- A site with a cell that runs and still issues is not done at the call tick. -/
theorem siteUndone_of_issuing {s : State} {k p : Nat} (hp : p < 18) (hrun : cellRuns (s.cell (k * 18 + p)) = true)
    (hissue : (s.cell (k * 18 + p)).issue = .running) : siteUndone s k = true := by
  have hcell : s.cell (k * 18 + p) ∈ ((List.range 18).map fun p => s.cell (k * 18 + p)).filter cellRuns :=
    List.mem_filter.mpr ⟨List.mem_map.mpr ⟨p, List.mem_range.mpr hp, rfl⟩, hrun⟩
  unfold siteUndone
  simp only [Bool.or_eq_true, List.any_eq_true]
  exact .inl (.inl (.inl (.inr ⟨_, hcell, .inl (by rw [hissue]; rfl)⟩)))

/-- A site that is not done makes the stroke an overrun. -/
theorem sampleCall_overrun {s : State} {k : Nat} {st : SiteState} (hk : (k, st) ∈ s.sites)
    (hundone : siteUndone (arrivePosts s false) k = true) : (sampleCall s).time.overrun = true := by
  have hmem : k ∈ ((s.sites.filter fun q => siteUndone (arrivePosts s false) q.1).map (·.1)) :=
    List.mem_map.mpr ⟨(k, st), List.mem_filter.mpr ⟨hk, hundone⟩, rfl⟩
  change (!((s.sites.filter fun q => siteUndone (arrivePosts s false) q.1).map (·.1)).isEmpty || _) = true
  rw [Bool.or_eq_true, Bool.not_eq_true', List.isEmpty_eq_false_iff]
  exact .inl (List.ne_nil_of_mem hmem)

theorem callTick_samples {s : State} (hwork : working s = true) (hopen : s.time.called = false)
    (htick : boardTime s + 3 = s.time.epochStart + (s.time.stroke + 1) * s.time.period) :
    exec .callTick s = .next (sampleCall s) := by
  change execCallTick s = _
  unfold execCallTick
  rw [if_pos (by simp [hwork, hopen, htick])]
  rfl

/-- Settles O14, along the stages of a stroke start: the stroke that ends, the next number, the stop of the data path, what serving
decides and the cells. -/
theorem strokeStartAndCallTick : Obligations.StrokeStartAndCallTick := by
  unfold Obligations.StrokeStartAndCallTick
  refine ⟨fun s => strokeStart_due, fun s _ hearly => ?_, fun s hwork hopen htick => ?_, fun s hother => ?_⟩
  · change execStrokeStart s = _
    unfold execStrokeStart
    rw [if_pos (by simp [hearly])]
    rfl
  · refine ⟨_, callTick_samples hwork hopen htick, rfl, rfl, fun k p st hk hp hrun hissue => ?_⟩
    exact sampleCall_overrun hk (siteUndone_of_issuing hp hrun hissue)
  · change execCallTick s = _
    unfold execCallTick
    rw [if_neg (by simp [hother])]
    rfl

end Sys2Proof.Machine
end

section
/-! PROOFS. The curb stroke (R47, R432, R433). -/

namespace Sys2Proof.Machine

/-- A master whose epoch 7 is in its last stroke. -/
def compactSender : State := {
  time := { localTicks := 1048575, established := true, running := true, epoch := 7, epochStart := 917504, stroke := 4095 }
  mgmt := { step := 5, ready := true }
  power := { ladder := .running }
  board := { admitted := true } }

/-- A module at position 1 that runs, is no longer admitted, and whose link to the master is being primed: the master's compact
waits on it as the verdict that the next curb stroke applies (R432, R433). Its own curb stroke is due. -/
def followerWithVerdict : State := {
  time := { localTicks := 131072, established := true, running := true, stroke := 4095 }
  mgmt := { step := 5, ready := true }
  power := { ladder := .running }
  board := { position := 1 }
  casc := [(2, { prime := .priming, verdict := some (compactBytes compactSender, 0) })] }

theorem curbStroke_followerWithVerdict :
    (match exec .curbStroke followerWithVerdict with
    | .next t => some (t.time.epoch, t.time.stroke)
    | _ => none) = some (7, 4095) := by decide +kernel

/-- Refutes O15: where a compact waits as a link's verdict, the curb stroke applies it after it has begun the epoch, and a follower
that is not admitted takes the master's epoch and stroke instead (R432, R433). -/
theorem not_curbStrokeBeginsEpoch : ¬ Obligations.CurbStrokeBeginsEpoch := by
  unfold Obligations.CurbStrokeBeginsEpoch
  rintro ⟨hbegin, -⟩
  obtain ⟨t, ht, -, hstroke, -⟩ := hbegin followerWithVerdict (by decide) (by decide) (by decide)
  have hrun := curbStroke_followerWithVerdict
  rw [ht] at hrun
  simp [hstroke] at hrun

end Sys2Proof.Machine
end

section
/-! PROOFS. What the registers hold at reset (R98, R99, R235, R416, R435, R464, R483, R537, R538). -/
namespace Sys2Proof.Machine

/-- Settles O7: at reset no table lists anything, so that every part reads as its type's default. -/
theorem resetRegisterValues : Obligations.ResetRegisterValues := by
  unfold Obligations.ResetRegisterValues
  refine ⟨fun k => ?_, ?_, ?_, ?_, ?_, ?_, ?_, ?_, ?_⟩
  · exact ⟨⟨rfl, rfl, rfl⟩, ⟨rfl, rfl, rfl⟩, ⟨rfl, rfl⟩, ⟨rfl, rfl⟩, rfl, ⟨rfl, rfl⟩⟩
  all_goals rfl

end Sys2Proof.Machine
end

section
/-! PROOFS. Selector posts: their way to the managers and their publication (R89, R90, R145, R258). -/

namespace Sys2Proof.Machine

/-- A post whose links stand goes one stage on: to its field controller, and on a wafer-wide channel from there to the wafer manager. -/
theorem selectorPostArrival_front {s : State} {p : Post} {rest : List Post} (hp : s.posts = p :: rest)
    (hl : linksUp s p.cell.field.val = true) : exec (.selectorPostArrival 0) s = .next (
      if p.stage = 0 then { s with posts := { p with stage := 1 } :: rest }
      else if p.stage = 1 ∧ 12 ≤ p.chan.val then { s with posts := { p with stage := 2 } :: rest }
      else s) := by
  simp only [exec, execSelectorPostArrival, hp, List.getElem?_cons_zero, hl, Bool.not_true, Bool.false_eq_true, if_false,
    List.set_cons_zero, done]
  split
  · rfl
  · split <;> rfl

/-- A publication takes the posts of a channel: on a field's channel those of the field one working stroke and more ago, on a
wafer-wide one those two and more ago (R89). -/
def publishes (s : State) (chan : Fin 16) (field : Field) (p : Post) : Bool :=
  p.chan == chan && (if 12 ≤ chan.val then p.stage == 2 && decide (p.work + 2 ≤ s.time.work)
    else p.stage == 1 && p.cell.field == field && decide (p.work + 1 ≤ s.time.work))

/-- A channel on which one more post is published: the value of the last stands (R89). -/
def published (v : BitVec 4) (q : Publication) : Publication := { q with value := v, count := q.count + 1 }

section
variable {s : State} {p : Post} {chan : Fin 16} {field : Field}

theorem publishes_field (hw : chan.val < 12) (hc : p.chan = chan) (hst : p.stage = 1) (hf : p.cell.field = field)
    (hd : p.work + 1 ≤ s.time.work) : publishes s chan field p = true := by
  simp [publishes, Nat.not_le.mpr hw, hc, hst, hf, hd]

theorem publishes_wide (hw : 12 ≤ chan.val) (hc : p.chan = chan) (hst : p.stage = 2) :
    publishes s chan field p = decide (p.work + 2 ≤ s.time.work) := by
  simp [publishes, hw, hc, hst]

/-- The only post of a field's channel, if a publication takes it, leaves the posts and is published to the field. -/
theorem selectorPublication_field (hp : s.posts = [p]) (hw : chan.val < 12) (h : publishes s chan field p = true) (crcOk : Bool) :
    exec (.selectorPublication chan field crcOk) s = .next (({ s with posts := [] } : State).modField field.val fun fs =>
      { fs with pubs := tmod {} fs.pubs chan.val (published p.value) }) := by
  simp only [publishes, Nat.not_le.mpr hw, if_false] at h
  simp only [exec, execSelectorPublication, hp, decide_eq_true_eq, Nat.not_le.mpr hw, List.filter_cons, List.filter_nil, h, if_true,
    Bool.not_true, Bool.false_eq_true, if_false, List.getLast?_singleton, List.length_singleton, done]
  rfl

/-- The only post of a wafer-wide channel, if a publication takes it, leaves the posts and is published to the wafer. -/
theorem selectorPublication_wide (hp : s.posts = [p]) (hw : 12 ≤ chan.val) (h : publishes s chan field p = true) :
    exec (.selectorPublication chan field true) s =
      .next { s with posts := [], wafer := tmod {} s.wafer chan.val (published p.value) } := by
  simp only [publishes, hw, if_true] at h
  simp only [exec, execSelectorPublication, hp, decide_eq_true_eq, hw, List.filter_cons, List.filter_nil, h, if_true,
    Bool.not_true, Bool.false_eq_true, if_false, List.getLast?_singleton, List.length_singleton, done]
  rfl

/-- A publication that takes none of the posts changes nothing. -/
theorem selectorPublication_idle (hp : s.posts = [p]) (h : publishes s chan field p = false) (crcOk : Bool) :
    exec (.selectorPublication chan field crcOk) s = .next s := by
  simp only [publishes] at h
  simp only [exec, execSelectorPublication, hp, decide_eq_true_eq, List.filter_cons, List.filter_nil, h, Bool.not_false,
    if_true, Bool.false_eq_true, if_false, List.getLast?_nil, done]
  rw [← hp]

end

/-- Reading a key just changed in a canonical table gives the change. -/
theorem tget_tmod_same {α : Type} [DecidableEq α] {d : α} {m : Tbl α} (h : tblWf d m = true) (i : Nat) (f : α → α) :
    tget d (tmod d m i f) i = f (tget d m i) :=
  tget_tset_same d i _ ((tblWf_iff d m).mp h).1

theorem State.modField_field_same {s : State} (h : tblWf {} s.fields = true) (f : Nat) (g : FieldState → FieldState) :
    (s.modField f g).field f = g (s.field f) := tget_tmod_same h f g

/-- Settles O28: a post goes one stage on (`selectorPostArrival_front`); a publication takes the post where its working stroke lies
far enough back (`publishes`), and else leaves it. -/
theorem postsArePublishedInTime : Obligations.PostsArePublishedInTime := by
  unfold Obligations.PostsArePublishedInTime
  refine ⟨fun s p rest hp hl hst => ?_, fun s p rest hp hl hst => ?_, fun chan field s p hwf hpubs hp hc => ?_⟩
  · rw [selectorPostArrival_front hp hl, if_pos hst]
  · rw [selectorPostArrival_front hp hl, if_neg (by rw [hst]; decide)]
    simp only [hst, true_and]
  obtain ⟨-, -, -, hfields, -, -, -, hwafer, -⟩ := (tablesWf_iff s).mp hwf
  refine ⟨?_, ?_, ?_⟩
  · intro hw hst hf hd
    refine ⟨_, selectorPublication_field hp hw (publishes_field hw hc hst hf hd) true, rfl, ?_⟩
    rw [State.modField_field_same (by exact hfields), tget_tmod_same (by exact hpubs)]
    exact ⟨rfl, rfl⟩
  · intro hw hst hd
    refine ⟨_, selectorPublication_wide hp hw ((publishes_wide hw hc hst).trans (decide_eq_true hd)), rfl, ?_⟩
    rw [tget_tmod_same hwafer]
    exact ⟨rfl, rfl⟩
  · intro hw hst hd
    exact selectorPublication_idle hp ((publishes_wide hw hc hst).trans (decide_eq_false (Nat.not_le.mpr hd))) true

end Sys2Proof.Machine
end

section
/-! PROOFS. What the issue of a bundle changes of its cell (R81, R93, R128, R129, R556). -/

namespace Sys2Proof.Machine

/-! ## What the slots of a bundle reach (R128) -/

/-- The parts of a cell that the slots of a bundle reach as they issue: results that wait, tiles that are read, loop counters, the
cache and its fills, the barriers, the sample. -/
structure Issued (c d : CellState) : Prop where
  eq : d = { c with
    pend := d.pend, acc := d.acc, lc := d.lc, loops := d.loops, bars := d.bars, cache := d.cache, fills := d.fills
    sample := d.sample, wlds := d.wlds }

theorem issued_refl (c : CellState) : Issued c c := ⟨rfl⟩

theorem issued_trans {a b c : CellState} (h : Issued a b) (g : Issued b c) : Issued a c := by
  refine ⟨?_⟩
  rw [g.eq, h.eq]

theorem issued_of_eq {c d : CellState} (h : d = c) : Issued c d := h ▸ issued_refl c

section
variable (ctx : IssueCtx) (a : IssueAcc)

theorem deliver_issued (due slot : Nat) (w : Delivery) : Issued a.c (a.deliver due slot w).c := ⟨rfl⟩

@[simp] theorem raiseChecks_c (residue fp : List Nat) : (a.raiseChecks residue fp).c = a.c := by
  unfold IssueAcc.raiseChecks
  dsimp only
  split <;> split <;> rfl

/-- Reading units records reads and at most a plan fault. -/
@[simp] theorem readUnits_c (addr : Nat × Bool) (n : Nat) : (readUnits ctx a addr n).1.c = a.c := by
  unfold readUnits
  dsimp only
  split
  · split <;> rfl
  · rfl

/-- Reading lines records at most a plan fault. -/
@[simp] theorem readLines_c (addr : Nat × Bool) (n : Nat) : (readLines ctx a addr n).1.c = a.c := by
  unfold readLines
  dsimp only
  split
  · split <;> rfl
  · rfl

/-- Lines that are put enter the guard, not the cell. -/
@[simp] theorem putLines_c (i0 : Nat) (addr : Nat × Bool) (items : List (Nat × Bytes × Bool)) (n : Nat) :
    (putLines ctx a i0 addr items n).c = a.c := by
  unfold putLines
  split
  · rfl
  · dsimp only
    split <;> rfl

end

/-- What each step of a fold reaches, the fold reaches. -/
theorem foldl_issued {α β : Type} {f : β → α → β} (g : β → CellState) (h : ∀ q x, Issued (g q) (g (f q x))) (l : List α) :
    ∀ q, Issued (g q) (g (l.foldl f q)) := by
  induction l with
  | nil => exact fun q => issued_refl _
  | cons x l ih => exact fun q => issued_trans (h q x) (ih _)

/-- Units that are written are results that wait. -/
theorem writeUnits_issued (a : IssueAcc) (addr : Nat × Bool) (due slot : Nat) (words : List PWord) :
    Issued a.c (writeUnits a addr due slot words).c := by
  unfold writeUnits
  split
  · exact issued_refl _
  · refine foldl_issued (fun q : IssueAcc × Bool => q.1.c) (fun q i => ?_) _ (a, false)
    split
    · exact deliver_issued _ _ _ _
    · split <;> exact issued_refl _

/-! ## The M slot -/

section
variable (ctx : IssueCtx) (a : IssueAcc)

theorem mWld_issued (ws fmt sB : Nat) (h : Bool) (off : Nat) : Issued a.c (mWld ctx a ws fmt sB h off).c :=
  issued_trans (issued_of_eq (readUnits_c ctx a (addrOf a.c sB off)
    (((if h then 32 else 0) + rowBytes fmt (cellKb ctx.p) (cellRows ctx.p) + 63) / 64))) ⟨rfl⟩

theorem mAccLd_issued (int : Bool) (t c0 n sB : Nat) : Issued a.c (mAccLd ctx a int t c0 n sB).c :=
  issued_trans (issued_of_eq (readUnits_c ctx a (addrOf a.c sB 0) (cellRows ctx.p / 16 * n))) ⟨rfl⟩

theorem mAccRestore_issued (t sB off : Nat) : Issued a.c (mAccRestore ctx a t sB off).c :=
  issued_trans (issued_of_eq (readUnits_c ctx a (addrOf a.c sB off) (5 * cellRows ctx.p * cellCols ctx.p / 64))) ⟨rfl⟩

/-- Tile elements that a read marks, with the checks of the read. -/
theorem marked_issued (acc : Tbl AccElem) (residue fp : List Nat) :
    Issued a.c ({ a with c := { a.c with acc := acc } }.raiseChecks residue fp).c :=
  issued_trans ⟨rfl⟩ (issued_of_eq (raiseChecks_c { a with c := { a.c with acc := acc } } residue fp))

theorem mAccSt_issued (t c0 n sB : Nat) : Issued a.c (mAccSt ctx a t c0 n sB).c :=
  issued_trans (marked_issued a _ _ _) (writeUnits_issued _ _ _ _ _)

theorem mAccSave_issued (t sB off : Nat) : Issued a.c (mAccSave ctx a t sB off).c :=
  issued_trans (marked_issued a _ _ _) (writeUnits_issued _ _ _ _ _)

theorem mMma_issued (ws t c0 n sA fa : Nat) (first ref int : Bool) : Issued a.c (mMma ctx a ws t c0 n sA fa first ref int).c := by
  unfold mMma
  extract_lets slot addr covers residue fp a₁ rowsFailed nb
  generalize hq : List.foldl _ _ _ = q
  have hc : q.1.c = a₁.c := hq ▸ foldl_keeps (fun q : IssueAcc × List (Bytes × List Bool) => q.1.c)
    (fun q j => readUnits_c ctx q.1 ((addr.1 + 2 * j) % 2 ^ 32, addr.2) (colUnits ctx.p fa)) _ _
  exact issued_trans (issued_of_eq (hc.trans (raiseChecks_c a residue fp))) ⟨rfl⟩

theorem issueM_issued (op : MOp) : Issued a.c (issueM ctx a op).c := by
  cases op with
  | nop => exact issued_refl _
  | reserved => exact issued_refl _
  | wld ws fmt sB h off => exact mWld_issued ctx a ws fmt sB h off
  | accLd int t c0 n sB => exact mAccLd_issued ctx a int t c0 n sB
  | accSt t c0 n sB => exact mAccSt_issued ctx a t c0 n sB
  | accSave t sB off => exact mAccSave_issued ctx a t sB off
  | accRestore t sB off => exact mAccRestore_issued ctx a t sB off
  | mma ws t c0 n sA fmt first ref int => exact mMma_issued ctx a ws t c0 n sA fmt first ref int

/-! ## The V slot -/

theorem issueV_issued (op : VOp) : Issued a.c (issueV ctx a op).c := by
  unfold issueV
  extract_lets residue fp hit a₁
  have hc : a₁.c = a.c := raiseChecks_c a residue fp
  rw [← hc]
  clear_value a₁
  cases op <;> exact ⟨rfl⟩

/-! ## The X slot -/

theorem xCisGet_issued (sS sC soff n : Nat) : Issued a.c (xCisGet ctx a sS sC soff n).c := by
  unfold xCisGet
  dsimp only
  have hc := readLines_c ctx a (addrOf a.c sC 0) n
  generalize readLines ctx a (addrOf a.c sC 0) n = q at hc ⊢
  rw [← hc]
  split
  · split <;> exact ⟨rfl⟩
  · exact ⟨rfl⟩

theorem xCisPut_issued (sS sC soff n : Nat) : Issued a.c (xCisPut ctx a sS sC soff n).c :=
  issued_of_eq ((putLines_c ..).trans (readUnits_c ..))

theorem xKvAppend_issued (sS sP sQ : Nat) (v f4 : Bool) : Issued a.c (xKvAppend ctx a sS sP sQ v f4).c := by
  refine issued_of_eq ?_
  unfold xKvAppend
  dsimp only
  have hc := readUnits_c ctx a (addrOf a.c sS 0) (if f4 then 2 else 3)
  generalize readUnits ctx a (addrOf a.c sS 0) (if f4 then 2 else 3) = q at hc ⊢
  generalize (if f4 then 64 else 128) = e
  split
  · exact hc
  · split
    · exact hc
    · rw [putLines_c, putLines_c, hc]

theorem xCchLd_issued (vd sC off : Nat) : Issued a.c (xCchLd ctx a vd sC off).c := by
  unfold xCchLd
  extract_lets addr r x inb rd a₁
  have hc : a₁.c = a.c := by
    simp only [a₁]
    split
    · rfl
    · split
      · rfl
      · split <;> rfl
  rw [← hc]
  clear_value a₁
  split
  · exact ⟨rfl⟩
  · split
    · exact ⟨rfl⟩
    · dsimp only
      split <;> exact ⟨rfl⟩

@[simp] theorem tileFault_c (addr : Nat × Bool) (base : Nat) (inb : List Bool) : (tileFault a addr base inb).c = a.c := by
  unfold tileFault
  split
  · split <;> rfl
  · rfl

theorem issueX_issued (op : XOp) : Issued a.c (issueX ctx a op).c := by
  cases op with
  | nop => exact issued_refl _
  | reserved => exact issued_refl _
  | spLdr vd sB off => exact issued_trans (issued_of_eq (readUnits_c ctx a (addrOf a.c sB off) 2)) ⟨rfl⟩
  | spStr vs sB off => exact writeUnits_issued ..
  | spLdc vd sB off col =>
    refine issued_trans ?_ (deliver_issued ..)
    exact issued_of_eq (tileFault_c ..)
  | spStc vs sB off col =>
    refine issued_trans (foldl_issued IssueAcc.c (fun q j => ?_) _ a) (issued_of_eq (tileFault_c ..))
    split
    · exact deliver_issued ..
    · exact issued_refl _
  | cchLd vd sC off => exact xCchLd_issued ctx a vd sC off
  | cisGet sS sC soff n => exact xCisGet_issued ctx a sS sC soff n
  | cisPut sS sC soff n => exact xCisPut_issued ctx a sS sC soff n
  | kvAppend sS sP sQ v f4 => exact xKvAppend_issued ctx a sS sP sQ v f4
  | cmpcnt sd sB sT len fmt sum =>
    exact issued_trans (issued_of_eq ((readUnits_c ..).trans (raiseChecks_c ..))) (deliver_issued ..)

/-! ## The N slot, and the bundle -/

theorem issueN_issued (op : NOp) : Issued a.c (issueN ctx a op).c := by
  cases op with
  | nop => exact issued_refl _
  | reserved => exact issued_refl _
  | drain t => exact issued_trans (issued_of_eq (raiseChecks_c ..)) ⟨rfl⟩
  | routePut sS rid n =>
    refine issued_of_eq (.trans ?_ (readUnits_c ctx a (addrOf a.c sS 0) n))
    simp only [issueN]
    split <;> rfl
  | routeGet sD sR rid n =>
    refine issued_of_eq ?_
    simp only [issueN]
    split <;> rfl
  | redAdd sS tid n op => exact issued_of_eq (readUnits_c ctx a (addrOf a.c sS 0) n)
  | bar sd bid => exact ⟨rfl⟩

/-- The slots of a bundle, whatever they hold, leave the tally, the budget cycle and the issue of their cell. -/
theorem issueSlots_issued (w : Nat) : Issued a.c (issueSlots ctx a w).c :=
  issued_trans (issueM_issued ..) (issued_trans (issueV_issued ..) (issued_trans (issueX_issued ..) (issueN_issued ..)))

end

/-! ## The issue of a bundle (R93, R129, R556) -/

/-- The bundle at a cell's address, as its instruction store holds it (R85, R128). -/
def nextBundle (c : CellState) : Nat := (tget 0 c.istore ((taskRegs c c.task).ibase + c.pc)).toNat

/-- What the issue of a bundle makes of its cell: one cycle on, the bundle in its tally, its issue ended where END says so. -/
structure Advanced (c d : CellState) (w : Nat) : Prop where
  cycle : d.cycle = c.cycle + 1
  crc : d.crc = foldTally c.crc c.pc w
  issue : d.issue = if bEnd w then .ended else c.issue

/-- The comparison of the tally at the stroke's end leaves what it compares (R94). -/
theorem checkTally_keeps (a : IssueAcc) (e : BitVec 16) :
    (checkTally a e).c.cycle = a.c.cycle ∧ (checkTally a e).c.crc = a.c.crc ∧ (checkTally a e).c.issue = a.c.issue := by
  unfold checkTally
  dsimp only
  split <;> exact ⟨rfl, rfl, rfl⟩

/-- What is delivered before an issue reaches data alone: flipped bits of tiles, and the results due (R52, R124). -/
theorem settle_applyUpsets_reached (p : Bool) (now stroke : Nat) (c : CellState) (l : List TileUpset) :
    Reached { c with pend := c.pend.filter fun q => decide (now < q.due) } (settle p now stroke (applyUpsets c l)) :=
  reached_trans ⟨rfl⟩ (settle_reached p now stroke (applyUpsets c l))

/-- A bundle that is in bound and fetched advances its cell: neither what is delivered before it nor its slots touch the tally, the
cycle or the issue. -/
theorem issueBundle_advanced {ctx : IssueCtx} {c : CellState} (hpc : c.pc < (taskRegs c c.task).ibound)
    (hfetch : ctx.env.fetch ≠ some .uncorrectable) :
    Advanced c (issueBundle ctx c).c (nextBundle c) := by
  unfold issueBundle
  extract_lets y r done z w z' a expected last
  have hy : Reached { c with pend := c.pend.filter fun q => decide (ctx.now < q.due) } y := settle_applyUpsets_reached ..
  have hpc' : y.pc = c.pc := by rw [hy.eq]
  have hr : r = taskRegs c c.task := by simp only [r, taskRegs]; rw [hy.eq]
  have hz : z = { y with storeCorr := z.storeCorr } := by simp only [z]; split <;> rfl
  have hw : w = nextBundle c := by simp only [w, hr, nextBundle]; rw [hz, hy.eq]
  have hz' : z' = { z with crc := foldTally z.crc z.pc w } := rfl
  have ha : Issued z' a.c := issueSlots_issued ctx { c := z' } w
  have hcycle : a.c.cycle = c.cycle := by rw [ha.eq, hz', hz, hy.eq]
  have hcrc : a.c.crc = foldTally c.crc c.pc w := by rw [ha.eq, hz', hz, hy.eq]
  have hissue : a.c.issue = c.issue := by rw [ha.eq, hz', hz, hy.eq]
  have hdone {x : IssueAcc} (h : Advanced c x.c w) : Advanced c (done x).c w := ⟨h.cycle, h.crc, h.issue⟩
  rw [← hw, if_neg (by rw [hpc', hr]; omega), if_neg hfetch]
  clear_value y r done z w z' a expected
  split
  · rename_i hend
    refine hdone ?_
    obtain ⟨tcycle, tcrc, tissue⟩ := checkTally_keeps { a with c := endIssue { a.c with cycle := a.c.cycle + 1 } } expected
    refine ⟨tcycle.trans (congrArg (· + 1) hcycle), tcrc.trans hcrc, tissue.trans ?_⟩
    rw [if_pos hend]; rfl
  · rename_i hend
    have goesOn : a.c.issue = if bEnd w then .ended else c.issue := by rw [if_neg hend, hissue]
    split <;> exact hdone ⟨congrArg (· + 1) hcycle, hcrc, goesOn⟩

end Sys2Proof.Machine
end

section
/-! PROOFS. Commands of a cell: the issue of a bundle, its deadline, and a fill of the cache (R96, R97, R200, R217, R220, R556). -/

namespace Sys2Proof.Machine

/-! ## What stays within a site -/

/-- A cell put back changes the cells and, where it has a new capture, its site. -/
theorem setCell_eq (s : State) (k : Nat) (v : CellState) :
    s.setCell k v = { s with cells := (s.setCell k v).cells, sites := (s.setCell k v).sites } := by
  unfold State.setCell
  dsimp only
  split <;> rfl

/-- A site's work changes cells, sites, flits and posts, and of the cells those of the site alone. -/
structure WithinSite (k : Nat) (s t : State) : Prop where
  eq : t = { s with cells := t.cells, sites := t.sites, flits := t.flits, posts := t.posts }
  wf : tblWf {} t.cells = true
  other : ∀ j, cellSite j ≠ k → t.cell j = s.cell j

section
variable {s : State} (h : tblWf {} s.cells = true)
include h

theorem withinSite_refl (k : Nat) : WithinSite k s s := ⟨rfl, h, fun _ _ => rfl⟩

theorem withinSite_setCell (k : Nat) (v : CellState) : WithinSite (cellSite k) s (s.setCell k v) := by
  refine ⟨by rw [setCell_eq], ?_, fun j hj => State.setCell_cell_other _ (fun e => hj (e ▸ rfl))⟩
  rw [State.setCell_cells]
  exact tblWf_tset _ k v h

theorem withinSite_setSite (k i : Nat) (v : SiteState) : WithinSite k s (s.setSite i v) := ⟨rfl, h, fun _ _ => rfl⟩

theorem withinSite_putPost (k : Nat) (c : CellAddr) (q : Nat × Option (BitVec 4)) : WithinSite k s (putPost s c q) := by
  refine ⟨?_, by rw [putPost_cells]; exact h, fun j _ => by unfold State.cell; rw [putPost_cells]⟩
  unfold putPost
  dsimp only
  split <;> rfl

theorem withinSite_invalidateLines (k : Nat) (lines : List Nat) (due : Nat) : WithinSite k s (invalidateLines s k lines due) := by
  refine ⟨?_, (invalidateLines_cachesOnly h k lines due).wf, fun j hj => ?_⟩
  · unfold invalidateLines
    split <;> rfl
  · unfold invalidateLines
    split
    · rfl
    · simp only [State.cell]
      rw [tget_tmapAll _ _ ((tblWf_iff _ _).mp h).1 (if_neg hj), if_neg hj]

end

theorem withinSite_trans {k : Nat} {s t u : State} (h : WithinSite k s t) (g : WithinSite k t u) : WithinSite k s u :=
  ⟨by rw [g.eq, h.eq], g.wf, fun j hj => (g.other j hj).trans (h.other j hj)⟩

theorem withinSite_foldl {α : Type} {k : Nat} {f : State → α → State}
    (hf : ∀ s x, tblWf {} s.cells = true → WithinSite k s (f s x)) (l : List α) :
    ∀ {s : State}, tblWf {} s.cells = true → WithinSite k s (l.foldl f s) := by
  induction l with
  | nil => exact fun h => withinSite_refl h k
  | cons x l ih => exact fun h => withinSite_trans (hf _ x h) (ih (hf _ x h).wf)

section
variable {s : State} (h : tblWf {} s.cells = true)
include h

theorem withinSite_settleGuard (k now : Nat) : WithinSite k s (settleGuard s k now) := by
  unfold settleGuard
  dsimp only
  split
  · exact withinSite_refl h k
  · have hf := withinSite_foldl (fun s (g : GuardEntry) w => withinSite_invalidateLines w k [g.line] g.due)
      ((s.site k).guard.filter fun g => !g.seen && g.live && decide (g.due ≤ now)) h
    exact withinSite_trans hf (withinSite_setSite hf.wf k k _)

/-- The assay works at the cell's own site (R355, R356). -/
theorem withinSite_assayOpen (k : Nat) : WithinSite (cellSite k) s (assayOpen s k) := by
  unfold assayOpen
  dsimp only
  split
  · exact withinSite_refl h _
  · split
    · split
      · split
        · refine withinSite_trans ?_ (withinSite_setCell (by exact h) k _)
          exact withinSite_trans (withinSite_setSite h _ _ _) (withinSite_setSite (by exact h) _ _ _)
        · exact withinSite_setSite h _ _ _
      · exact withinSite_refl h _
    · exact withinSite_refl h _

/-- What an issue sends out stays in its site, but for flits and posts. -/
theorem withinSite_applyIssue (c : CellAddr) (a : IssueAcc) : WithinSite (cellSite (cellKey c)) s (applyIssue s c a) := by
  have hcell := withinSite_setCell h (cellKey c) a.c
  refine withinSite_trans hcell (withinSite_trans ?_
    (withinSite_foldl (fun s q w => withinSite_putPost w _ c q) a.posts (by exact hcell.wf)))
  exact ⟨rfl, hcell.wf, fun _ _ => rfl⟩

end

/-! ## The issue of a bundle (R81, R93, R128, R129) -/

/-- What comes before an issue reaches the cache, the fills and the sample of its cell (R201, R356). -/
structure Prepared (c d : CellState) : Prop where
  eq : d = { c with cache := d.cache, fills := d.fills, sample := d.sample }

/-- The bundle that issues and what it advances are the same before. -/
theorem advanced_of_prepared {c u d : CellState} (h : Prepared c u) (g : Advanced u d (nextBundle u)) :
    Advanced c d (nextBundle c) := by
  have hcycle : u.cycle = c.cycle := by rw [h.eq]
  have hcrc : u.crc = c.crc := by rw [h.eq]
  have hpc : u.pc = c.pc := by rw [h.eq]
  have hissue : u.issue = c.issue := by rw [h.eq]
  have hnext : nextBundle u = nextBundle c := by rw [h.eq]; rfl
  obtain ⟨gcycle, gcrc, gissue⟩ := g
  rw [hcycle] at gcycle
  rw [hcrc, hpc, hnext] at gcrc
  rw [hissue, hnext] at gissue
  exact ⟨gcycle, gcrc, gissue⟩

theorem assayOpen_prepared {s : State} (h : tblWf {} s.cells = true) (k : Nat) : Prepared (s.cell k) ((assayOpen s k).cell k) := by
  unfold assayOpen
  dsimp only
  split
  · exact ⟨rfl⟩
  · split
    · split
      · split
        · rw [State.setCell_cell_same _ (by exact h)]; exact ⟨rfl⟩
        · exact ⟨rfl⟩
      · exact ⟨rfl⟩
    · exact ⟨rfl⟩

/-- The state in which a cell issues: the writes due at its site are seen, a tree that opens is counted. -/
def beforeIssue (s : State) (k : Nat) : State :=
  assayOpen (settleGuard s (cellSite k) (budgetBase s + (s.cell k).cycle)) k

theorem beforeIssue_withinSite {s : State} (h : tblWf {} s.cells = true) (k : Nat) :
    WithinSite (cellSite k) s (beforeIssue s k) := by
  have hg := withinSite_settleGuard h (cellSite k) (budgetBase s + (s.cell k).cycle)
  exact withinSite_trans hg (withinSite_assayOpen hg.wf k)

theorem beforeIssue_prepared {s : State} (h : tblWf {} s.cells = true) (k : Nat) :
    Prepared (s.cell k) ((beforeIssue s k).cell k) := by
  have hg := settleGuard_cachesOnly h (cellSite k) (budgetBase s + (s.cell k).cycle)
  have ha := assayOpen_prepared hg.wf k
  refine ⟨?_⟩
  unfold beforeIssue
  rw [ha.eq, (hg.cell k).eq]

/-- A cell that issues: its bundle issues on the cell as `beforeIssue` leaves it. -/
theorem bundleIssue_running {c : CellAddr} {env : IssueEnv} {s : State} (hw : working s = true)
    (hs : siteRuns s (cellSite (cellKey c)) = true) (hi : (s.cell (cellKey c)).issue = .running)
    (hc : (s.cell (cellKey c)).cycle < 512) : exec (.bundleIssue c env) s =
      let u := beforeIssue s (cellKey c)
      .next (applyIssue u c (issueBundle (issueCtx u (cellKey c) env) (u.cell (cellKey c)))) := by
  simp only [exec, execBundleIssue, hw, hs, hi, hc, BEq.rfl, Bool.and_self, decide_true, if_true, done, beforeIssue]

/-- A cell that does not run issues nothing (R81, R556). -/
theorem bundleIssue_idle {c : CellAddr} {s : State} (env : IssueEnv) (hi : (s.cell (cellKey c)).issue ≠ .running) :
    exec (.bundleIssue c env) s = .next s := by
  simp only [exec, execBundleIssue, beq_eq_false_iff_ne.mpr hi, Bool.and_false, Bool.false_and, Bool.false_eq_true, if_false, done]

/-- Settles O16: the bundle advances its cell (`issueBundle_advanced`), and its issue stays within the cell's site but for flits
and posts (`withinSite_applyIssue`). -/
theorem issueAdvancesRunningCell : Obligations.IssueAdvancesRunningCell := by
  unfold Obligations.IssueAdvancesRunningCell
  intro c env s hwf k x r b
  refine ⟨fun hw hs hi hc hpc hfetch => ⟨_, bundleIssue_running hw hs hi hc, ?_⟩, bundleIssue_idle env⟩
  have hcells : tblWf {} s.cells = true := ((tablesWf_iff s).mp hwf).1
  have hu := beforeIssue_withinSite hcells k
  have hprep := beforeIssue_prepared hcells k
  have hbound : ((beforeIssue s k).cell k).pc < (taskRegs ((beforeIssue s k).cell k) ((beforeIssue s k).cell k).task).ibound := by
    rw [hprep.eq]; exact hpc
  have hadv := advanced_of_prepared hprep (issueBundle_advanced (ctx := issueCtx (beforeIssue s k) k env) hbound hfetch)
  generalize issueBundle (issueCtx (beforeIssue s k) k env) ((beforeIssue s k).cell k) = a at hadv ⊢
  have hsite := withinSite_trans hu (withinSite_applyIssue hu.wf c a)
  rw [applyIssue_cell hu.wf]
  exact ⟨hadv.cycle, hadv.crc, fun hend => hadv.issue.trans (if_pos hend),
    fun hend => hadv.issue.trans ((if_neg (Bool.not_eq_true _ |>.mpr hend)).trans hi), hsite.eq, hsite.other⟩

/-! ## The issue deadline (R96, R97, R556) -/

/-- A mask of one bit has the bit. -/
theorem tb_ofNat_two_pow {n bit : Nat} (h : bit < n) : tb (BitVec.ofNat n (2 ^ bit)).toNat bit = true := by
  rw [tb, BitVec.toNat_ofNat, Nat.testBit_mod_two_pow, Nat.testBit_two_pow_self, Bool.and_true, decide_eq_true h]

/-- A bit that a register takes in stands in it. -/
theorem tb_or_right {n bit : Nat} (x : BitVec n) {y : BitVec n} (h : tb y.toNat bit = true) : tb (x ||| y).toNat bit = true := by
  unfold tb at *
  rw [BitVec.toNat_or, Nat.testBit_or, h, Bool.or_true]

/-- A cause that is captured sets its bit of CE_FAULT_STATUS. -/
theorem captureFault_sets (f : CellFaults) {bit : Nat} (hb : bit < 11) (addr task bundle stroke : Nat) (remote : Bool) (now : Nat) :
    tb (captureFault f [(bit, addr)] task bundle stroke remote now).status.toNat bit = true := by
  have hmask : tb (BitVec.ofNat 11 (bitMask [bit])).toNat bit = true := by
    rw [bitMask, List.foldl_cons, List.foldl_nil, Nat.zero_or]
    exact tb_ofNat_two_pow hb
  unfold captureFault
  simp only [List.isEmpty_cons, Bool.false_eq_true, if_false, List.map_cons, List.map_nil]
  split
  · exact hmask
  · exact tb_or_right _ hmask

/-- The first capture since the last clear keeps the task and the bundle. -/
theorem captureFault_first {f : CellFaults} (hf : f.status = 0) (bit addr task bundle stroke : Nat) (remote : Bool) (now : Nat) :
    (captureFault f [(bit, addr)] task bundle stroke remote now).task = BitVec.ofNat 3 task ∧
      (captureFault f [(bit, addr)] task bundle stroke remote now).bundle = BitVec.ofNat 12 bundle := by
  unfold captureFault
  simp only [List.isEmpty_cons, Bool.false_eq_true, if_false, hf, if_true]
  exact ⟨trivial, trivial⟩

/-- A cell that issues past the last budget cycle ends its issue with cause no stroke end. -/
theorem issueDeadline_late {c : CellAddr} {s : State} (hw : working s = true) (hs : siteRuns s (cellSite (cellKey c)) = true)
    (hi : (s.cell (cellKey c)).issue = .running) (hc : 512 ≤ (s.cell (cellKey c)).cycle) : exec (.issueDeadline c) s =
      let x := s.cell (cellKey c)
      .next (s.setCell (cellKey c) { endIssue x with
        faults := captureFault x.faults [(fbNoEnd, 0)] x.task x.pc (strokeNo s) false (budgetBase s + 511) }) := by
  simp only [exec, execIssueDeadline, hw, hs, hi, hc, BEq.rfl, Bool.and_self, decide_true, if_true, done]

/-! ## A fill of the cache (R200, R201, R217, R220) -/

/-- A way still waits for a fill: it carries the fill's line and nothing has filled it. -/
def awaits (f : CacheFillRec) (w : CacheWay) : Bool := w.way == f.way && w.line == f.line && !w.filled

/-- The key of a fill's set among the tags (R199). -/
def fillKey (f : CacheFillRec) : Nat := f.task * 65536 + f.set

section
variable {c : CellAddr} {s : State} {f : CacheFillRec} (hw : working s = true) (hs : siteRuns s (cellSite (cellKey c)) = true)
  (hi : (s.cell (cellKey c)).issue = .ended) (hg : (s.site (cellSite (cellKey c))).guard = [])
  (hf : (s.cell (cellKey c)).fills = [f]) (hdue : f.due ≤ budgetBase s + 511) (hstale : f.stale = false)
  (hany : (tget [] (s.cell (cellKey c)).cache (fillKey f)).any (awaits f) = true)
include hw hs hi hg hf hdue hstale hany

/-- The only fill of a cell, in the landing buffer in time and clean, is written at its way. -/
theorem cacheFill_written {r n : Nat} (hr : f.readyAt = some r) (hn : budgetSlot s false f.due = some n) (hle : r ≤ n)
    (hp : f.data.any (·.poison) = false) : exec (.cacheFill c) s =
      let x := s.cell (cellKey c)
      .next (s.setCell (cellKey c) { x with
        fills := [], sp := spWordsSet x.sp f.word f.data
        cache := tset [] x.cache (fillKey f)
          ((tget [] x.cache (fillKey f)).map fun w => if awaits f w then { w with filled := true } else w) }) := by
  unfold fillKey awaits at *
  simp [exec, execCacheFill, hi, settleGuard_nil hg, hf, hdue, hw, hs, hstale, hany, hr, hn, hle, hp, done]

/-- The only fill of a cell, not in the landing buffer, is late: its way is given up. -/
theorem cacheFill_late (hr : f.readyAt = none) : exec (.cacheFill c) s =
      let x := s.cell (cellKey c)
      .next (lateLine (s.setCell (cellKey c) { x with
        fills := [], cache := tset [] x.cache (fillKey f) ((tget [] x.cache (fillKey f)).filter fun w => !awaits f w) })
        (cellSite (cellKey c)) f.line) := by
  unfold fillKey awaits at *
  simp [exec, execCacheFill, hi, settleGuard_nil hg, hf, hdue, hw, hs, hstale, hany, hr, done]

end

/-- An error of a controller sets its bit of CS_ERR_STATUS. -/
theorem csError_sets (st : SiteState) {bit : Nat} (hb : bit < 7) (line stroke : Nat) :
    tb (csError st bit line stroke).errStatus.toNat bit = true :=
  tb_or_right _ (tb_ofNat_two_pow hb)

theorem lateLine_cell (s : State) (k line j : Nat) : (lateLine s k line).cell j = s.cell j := rfl

/-- A late line at a site: LATE is set and counted, and the cluster is not done (R220). -/
theorem lateLine_site {s : State} (h : tblWf {} s.sites = true) (k line : Nat) :
    ((lateLine s k line).site k).late = true ∧ tb ((lateLine s k line).site k).errStatus.toNat csLate = true ∧
      ((lateLine s k line).site k).lateCount = satAdd (s.site k).lateCount 1 := by
  unfold lateLine State.modSite
  rw [State.setSite_site_same _ h]
  exact ⟨rfl, csError_sets _ (by decide) line _, rfl⟩

/-- Settles O19: the deadline captures its cause (`captureFault_sets`), a fill in time is written (`cacheFill_written`), and one that
has not landed is late (`cacheFill_late`). -/
theorem deadlineAndCacheFill : Obligations.DeadlineAndCacheFill := by
  unfold Obligations.DeadlineAndCacheFill
  constructor
  · intro c s hwf k x hw hs hi hc
    have hcells : tblWf {} s.cells = true := ((tablesWf_iff s).mp hwf).1
    refine ⟨_, issueDeadline_late hw hs hi hc, ?_⟩
    rw [State.setCell_cell_same _ hcells]
    exact ⟨rfl, captureFault_sets _ (by decide) .., fun h0 => captureFault_first h0 ..,
      fun j hj => State.setCell_cell_other _ hj, setCell_eq ..⟩
  · intro c s f hwf k x key hw hs hi hg mine hcache hf hdue hstale hany
    obtain ⟨hcells, hsites, -⟩ := (tablesWf_iff s).mp hwf
    have htags : keysGe 0 x.cache := ((tblWf_iff _ _).mp hcache).1
    refine ⟨fun r n hr hn hle hp => ?_, fun hr => ?_⟩
    · refine ⟨_, cacheFill_written hw hs hi hg hf hdue hstale hany hr hn hle hp, ?_⟩
      rw [State.setCell_cell_same _ hcells]
      exact ⟨rfl, tget_tset_same _ _ _ htags, rfl, fun j hj => State.setCell_cell_other _ hj⟩
    · refine ⟨_, cacheFill_late hw hs hi hg hf hdue hstale hany hr, ?_⟩
      rw [lateLine_cell, State.setCell_cell_same _ hcells]
      refine ⟨rfl, tget_tset_same _ _ _ htags, rfl, ?_⟩
      have hkeep : (s.setCell k { x with
          fills := [], cache := tset [] x.cache (fillKey f) ((tget [] x.cache (fillKey f)).filter fun w => !awaits f w) }).sites =
          s.sites := State.setCell_sites _ (em (x.faults.status = 0)).symm
      obtain ⟨hlate, herr, hcount⟩ := lateLine_site (by rw [hkeep]; exact hsites) (cellSite k) f.line
      exact ⟨hlate, herr, hcount.trans (by rw [State.site, hkeep]; rfl)⟩

end Sys2Proof.Machine
end



section
/-! PROOFS. Units and get requests at their far cells (R85, R97, R179 to R181, R245, R266). -/

namespace Sys2Proof.Machine

/-! ## A unit at its cell (R85, R97, R179, R181) -/

@[simp] theorem settleTo_flits (s : State) (k due : Nat) : (settleTo s k due).flits = s.flits := by
  unfold settleTo; dsimp only; split <;> simp

@[simp] theorem settleTo_gets (s : State) (k due : Nat) : (settleTo s k due).gets = s.gets := by
  unfold settleTo; dsimp only; split <;> simp

/-- A cell that issues no more settles at once. -/
theorem settleTo_ended {s : State} {k : Nat} (hi : (s.cell k).issue = .ended) (due : Nat) :
    settleTo s k due = s.setCell k (settle (fieldIsP (cellField k)) due (strokeNo s) (s.cell k)) := by
  simp [settleTo, hi]

/-- A unit beyond the bound of its task is discarded and captured (R97). -/
theorem unitArrive_outOfBound {s : State} {k task unit : Nat} (h : spUnit (taskRegs (s.cell k) task) unit = none) (due : Nat)
    (data : List PWord) : unitArrive s k task unit due data = s.setCell k { s.cell k with
      faults := captureFault (s.cell k).faults [(fbScratch, unit)] task 0 (strokeNo s) true due } := by
  simp only [unitArrive, h]

/-- A unit from the network that waits for its arrival cycle (R181). -/
def unitPending (due w : Nat) (data : List PWord) : Pending := { due := due, slot := 4, what := .spWrite w data }

/-- A unit in bound is delivered at its arrival cycle. -/
theorem unitArrive_inBound {s : State} {k task unit u : Nat} (h : spUnit (taskRegs (s.cell k) task) unit = some u) (due : Nat)
    (data : List PWord) : unitArrive s k task unit due data =
      settleTo (s.setCell k { s.cell k with pend := (s.cell k).pend ++ [unitPending due (u * 16) data] }) k due := by
  simp only [unitArrive, h, unitPending]

/-- A cell that awaits nothing but a unit has it written, once it is due, and is else unchanged. -/
theorem settle_unit {p : Bool} {stroke due w : Nat} {data : List PWord} {c : CellState} (hp : c.pend = []) :
    settle p due stroke { c with pend := c.pend ++ [unitPending due w data] } = { c with sp := spWordsSet c.sp w data } := by
  have hone : ({ c with pend := c.pend ++ [unitPending due w data] } : CellState).pend = [unitPending due w data] := by
    rw [hp]; rfl
  refine (settle_single hone le_rfl).trans ?_
  rw [← hp]
  rfl

/-- A unit in bound at a cell that issues no more and awaits nothing is written, and nothing else of any cell changes. -/
theorem unitArrive_written {s : State} {k task unit u : Nat} (hcells : tblWf {} s.cells = true)
    (h : spUnit (taskRegs (s.cell k) task) unit = some u) (hi : (s.cell k).issue = .ended) (hp : (s.cell k).pend = []) (due : Nat)
    (data : List PWord) : let t := unitArrive s k task unit due data
      t.flits = s.flits ∧ t.cell k = { s.cell k with sp := spWordsSet (s.cell k).sp (u * 16) data } ∧
        ∀ j, j ≠ k → t.cell j = s.cell j := by
  intro t
  have hcell {v : CellState} : (s.setCell k v).cell k = v := State.setCell_cell_same s hcells
  have hwf {v : CellState} : tblWf {} (s.setCell k v).cells = true := by rw [State.setCell_cells]; exact tblWf_tset _ _ _ hcells
  simp only [t, unitArrive_inBound h]
  rw [settleTo_ended (by rw [hcell]; exact hi), hcell, settle_unit hp, State.setCell_cell_same _ hwf]
  refine ⟨by simp, rfl, fun j hj => ?_⟩
  rw [State.setCell_cell_other _ hj, State.setCell_cell_other _ hj]

/-! ## The front flit leaves its router (R179, R180, R245, R266) -/

section
variable {s : State} {f : Flit} {rest : List Flit} (hf : s.flits = f :: rest) (hw : working s = true) (hhome : f.home = true)
  (hdue : f.due < budgetBase s + 512)
include hf hw hhome hdue

/-- A flit for the crossbar of a dark field is discarded and counted (R266). -/
theorem routeUnitArrival_dark (hk : flitKind f.bits.toNat ≠ 3) (hdark : (s.field (fieldAtXY f.x f.y)).domain = .dark) :
    exec (.routeUnitArrival 0) s = .next (({ s with flits := rest } : State).modRouter (routerKeyXY f.x f.y) fun r =>
      { r with evDark := r.evDark + 1 }) := by
  have hfield : (({ s with flits := rest } : State).field (fieldAtXY f.x f.y)).domain = .dark := hdark
  simp [exec, execRouteUnitArrival, hf, hw, hhome, hdue, hk, hfield, done]

/-- A unit goes to the cell that serves its address. -/
theorem routeUnitArrival_unit {k : Nat} (hvia : f.via = 0) (hlost : f.lost = false)
    (hlit : (s.field (fieldAtXY f.x f.y)).domain ≠ .dark) (hk : flitKind f.bits.toNat = 0)
    (hserved : servedCell s f.x f.y (bf (flitHead f.bits.toNat) 21 18) = some k) :
    let h := flitHead f.bits.toNat
    exec (.routeUnitArrival 0) s = .next (unitArrive { s with flits := rest } k (bf h 17 15) (bf h 14 1 + f.beyond * 2 ^ 14) f.due
      (flitData f.bits.toNat)) := by
  have hfield : (({ s with flits := rest } : State).field (fieldAtXY f.x f.y)).domain ≠ .dark := hlit
  have hcell : servedCell { s with flits := rest } f.x f.y (bf (flitHead f.bits.toNat) 21 18) = some k := hserved
  simp [exec, execRouteUnitArrival, hf, hw, hhome, hdue, hk, hfield, hvia, hlost, hcell, done]

/-- A get request joins the requests of its far cell (R180). -/
theorem routeUnitArrival_get (hvia : f.via = 0) (hlit : (s.field (fieldAtXY f.x f.y)).domain ≠ .dark)
    (hk : flitKind f.bits.toNat = 1) : ∃ g : GetReq, g.x = f.x ∧ g.y = f.y ∧ g.time = f.due ∧
      exec (.routeUnitArrival 0) s = .next { s with flits := rest, gets := s.gets ++ [g] } := by
  have hfield : (({ s with flits := rest } : State).field (fieldAtXY f.x f.y)).domain ≠ .dark := hlit
  simp only [exec, execRouteUnitArrival, hf, hw, hhome, hdue, hk, hfield, hvia, List.getElem?_cons_zero, List.eraseIdx_cons_zero,
    OfNat.one_ne_ofNat, if_false, if_true, bne_self_eq_false, Bool.and_false, Bool.and_self, Bool.false_eq_true, decide_true, ne_eq,
    not_true_eq_false, done]
  exact ⟨_, rfl, rfl, rfl, rfl⟩

end

/-! ## A get at its source (R180) -/

/-- A source gives as many units as the request asks for. -/
theorem sourceUnits_length (p : Bool) (found : List (Nat × CodeError)) (c : CellState) (g : GetReq) (stroke : Nat) :
    (sourceUnits p found c g stroke).2.length = g.n := by
  simp [sourceUnits]

theorem returnFlits_length (g : GetReq) (words : List (List PWord)) : (returnFlits g words).length = words.length := by
  simp [returnFlits]

/-- The units of a get arrive in order, one a cycle. -/
theorem returnFlits_due {g : GetReq} {words : List (List PWord)} {u : Nat} {f : Flit} (h : (returnFlits g words)[u]? = some f) :
    f.due = g.time + g.lat + 4 + u := by
  simp only [returnFlits, List.getElem?_map, List.getElem?_zipIdx, Option.map_eq_some_iff, Nat.zero_add] at h
  obtain ⟨-, ⟨w, -, rfl⟩, rfl⟩ := h
  rfl

/-- The front request, at a cell that issues no more, is answered with the units of the settled cell. -/
theorem routeGetSourceRead_ended {s : State} {g : GetReq} {rest : List GetReq} {k : Nat} (found : List (Nat × CodeError))
    (hg : s.gets = g :: rest) (hserved : servedCell s g.x g.y g.cell = some k) (hw : working s = true)
    (hdue : g.time < budgetBase s + 512) (hi : (s.cell k).issue = .ended) :
    let t := settleTo { s with gets := rest } k g.time
    ∃ c : CellState, exec (.routeGetSourceRead { get := 0, found := found }) s = .next { t.setCell k c with
      flits := (t.setCell k c).flits ++
        returnFlits g (sourceUnits (fieldIsP (cellField k)) found (t.cell k) g (strokeNo t)).2 } := by
  have hturn : (working s && decide (g.time < budgetBase s + 512) &&
      ((s.cell k).issue != .running || decide (g.time ≤ budgetBase s + (s.cell k).cycle))) = true := by simp [hw, hdue, hi]
  simp only [exec, execRouteGetSourceRead, hg, List.getElem?_cons_zero, List.eraseIdx_cons_zero, hserved, hturn, if_true, done]
  exact ⟨_, rfl⟩

/-- Settles O26: a unit goes to its cell (`routeUnitArrival_unit`), which captures it (`unitArrive_outOfBound`) or has it written
(`unitArrive_written`); the flits of a get's answer are one for each unit read at the source, in order (`returnFlits_due`). -/
theorem unitsAndGetsReachTheirCells : Obligations.UnitsAndGetsReachTheirCells := by
  unfold Obligations.UnitsAndGetsReachTheirCells
  refine ⟨?_, ?_, ?_, ?_, ?_⟩
  · intro s f rest k hwf h hf hw hhome hdue hvia hlost hlit hk hbeyond hserved hout
    have hcells : tblWf {} s.cells = true := ((tablesWf_iff s).mp hwf).1
    have hunit : bf h 14 1 + f.beyond * 2 ^ 14 = bf h 14 1 := by rw [hbeyond]; rfl
    refine ⟨_, routeUnitArrival_unit hf hw hhome hdue hvia hlost hlit hk hserved, ?_⟩
    rw [hunit, unitArrive_outOfBound (by exact hout), State.setCell_cell_same _ (by exact hcells)]
    exact ⟨State.setCell_flits .., rfl, captureFault_sets _ (by decide) .., fun j hj => State.setCell_cell_other _ hj⟩
  · intro s f rest k u hwf h hf hw hhome hdue hvia hlost hlit hk hserved hin hi hp
    have hcells : tblWf {} s.cells = true := ((tablesWf_iff s).mp hwf).1
    exact ⟨_, routeUnitArrival_unit hf hw hhome hdue hvia hlost hlit hk hserved,
      unitArrive_written (s := { s with flits := rest }) hcells hin hi hp f.due _⟩
  · intro s f rest hf hw hhome hdue hvia hk hlit
    obtain ⟨g, hx, hy, htime, hexec⟩ := routeUnitArrival_get hf hw hhome hdue hvia hlit hk
    exact ⟨_, g, hexec, rfl, rfl, hx, hy, htime, rfl⟩
  · intro s f rest hwf hf hw hhome hdue hk hdark
    obtain ⟨-, -, hrouters, -⟩ := (tablesWf_iff s).mp hwf
    refine ⟨_, routeUnitArrival_dark hf hw hhome hdue hk hdark, rfl, rfl, ?_⟩
    rw [State.modRouter, State.setRouter_router_same _ (by exact hrouters)]
    rfl
  · intro s g rest k found hg hserved hw hdue hi
    obtain ⟨c, hexec⟩ := routeGetSourceRead_ended found hg hserved hw hdue hi
    refine ⟨_, _, hexec, by simp, by rw [State.setCell_flits, settleTo_flits], ?_, fun u f hu => returnFlits_due hu⟩
    rw [returnFlits_length, sourceUnits_length]

end Sys2Proof.Machine
end



section
/-! PROOFS. The nodes of a router: their inputs, their results and the north link (R183, R252 to R254). -/

namespace Sys2Proof.Machine

/-! ## Inputs and output of a node -/

/-- An entry that only relays has the one input that its first code names (R253). -/
theorem entryLegs_relay {e : Nat} (h : bf e 49 47 = 7) (s : State) (rk unit : Nat) : entryLegs s rk e unit =
    (nodeLeg (s.router rk) (s.site (routerSite s rk)) (bf e 62 53) unit (bf e 52 50), (none, false), true) := by
  simp only [entryLegs, h, decide_true, if_true]

/-- Any other entry has the inputs that its two codes name (R253). -/
theorem entryLegs_two {e : Nat} (h : bf e 49 47 ≠ 7) (s : State) (rk unit : Nat) :
    let leg := nodeLeg (s.router rk) (s.site (routerSite s rk)) (bf e 62 53) unit
    entryLegs s rk e unit = (leg (bf e 52 50), leg (bf e 49 47), false) := by
  simp only [entryLegs, h, decide_false, Bool.false_eq_true, if_false]

@[simp] theorem takeLeg_flits (s : State) (rk sk tid unit code : Nat) : (takeLeg s rk sk tid unit code).flits = s.flits := by
  unfold takeLeg; split <;> rfl

/-- What a node takes at a router's input leaves the units held there. -/
theorem takeLeg_held {s : State} (hrouters : tblWf {} s.routers = true) (rk sk tid unit : Nat) {code : Nat} (hc : code < 4) :
    ((takeLeg s rk sk tid unit code).router rk).held = takeHeld (s.router rk).held tid unit code := by
  rw [takeLeg, if_neg (Nat.ne_of_lt hc), State.modRouter, State.setRouter_router_same _ hrouters]

/-- The state after an entry has taken what its inputs held: both, or the first where it relays (R253). -/
def takeInputs (s : State) (rk e unit : Nat) (relay : Bool) : State :=
  let first := takeLeg s rk (routerSite s rk) (bf e 62 53) unit (bf e 52 50)
  if relay then first else takeLeg first rk (routerSite s rk) (bf e 62 53) unit (bf e 49 47)

@[simp] theorem takeInputs_flits (s : State) (rk e unit : Nat) (relay : Bool) : (takeInputs s rk e unit relay).flits = s.flits := by
  unfold takeInputs; dsimp only; split <;> simp

/-- The flit in which an entry's result enters the north link (R253, R254). -/
def northFlit (x y e unit op : Nat) (n : NodeLeg) : Flit where
  bits := flitMake n.leg.u (bf e 39 38) 2 (bf e 62 53 * 2 ^ 41 + op % 4 * 2 ^ 39 + unit * 2 ^ 33)
  x := x
  y := y
  leg := 0
  plane := bf e 41 40
  out := 0
  enter := n.due
  due := n.home
  home := false

/-- An entry whose only output is the north link sends its result there. -/
theorem nodeOut_north {e : Nat} (hout : bf e 46 42 = 1) (s : State) (rk x y unit op : Nat) (n : NodeLeg) :
    nodeOut s rk x y e unit op n = { s with flits := s.flits ++ [northFlit x y e unit op n] } := by
  have hnorth : (List.range 5).filter (tb 1) = [0] := by decide
  simp only [nodeOut, hout, Nat.one_ne_zero, if_false, hnorth, List.map_cons, List.map_nil]
  rfl

/-! ## One entry of a router (R254) -/

section
variable {r : RouterAddr} {entry : Fin 256} {unit : Fin 64} {s : State} {e : Nat}

/-- An entry waits for those before it that are ready. -/
theorem reductionNodeCombine_ahead
    (he : (tget 0 (s.router (routerKey r)).active.nodes entry.val).toNat = e)
    (hready : nodeReady s (routerKey r) (bf e 62 53) unit.val (fun i => decide (i < entry.val)) = true)
    (check : Option StageCheck) : exec (.reductionNodeCombine r entry unit check) s = .next s := by
  simp only [exec, execReductionNodeCombine, he, hready, Bool.or_true, if_true, done]

variable {left right : Option NodeLeg × Bool} {relay : Bool} {n : NodeLeg}
  (he : (tget 0 (s.router (routerKey r)).active.nodes entry.val).toNat = e)
  (hw : working s = true) (hl : linksUp s r.field.val = true) (hvalid : tb e 63 = true)
  (hfirst : nodeReady s (routerKey r) (bf e 62 53) unit.val (fun i => decide (i < entry.val)) = false)
  (hlegs : entryLegs s (routerKey r) e unit.val = (left, right, relay))
include he hw hl hvalid hfirst hlegs

/-- An entry that misses an input waits as long as something of its tree is still to come. -/
theorem reductionNodeCombine_awaits (hres : entryResult (bf e 62 53) unit.val left right relay = some (n, true))
    (hmoves : treeMoves s (bf e 62 53) unit.val n.due = true) (check : Option StageCheck) :
    exec (.reductionNodeCombine r entry unit check) s = .next s := by
  simp only [exec, execReductionNodeCombine, he, hw, hl, hvalid, hfirst, hlegs, hres, hmoves, Bool.and_self, Bool.not_true, Bool.or_self,
    Bool.false_eq_true, if_false, if_true, done]

/-- An entry with all its inputs, no clamp among them and its output the north link, takes them and sends its result on. -/
theorem reductionNodeCombine_north (hres : entryResult (bf e 62 53) unit.val left right relay = some (n, false))
    (hclamps : n.leg.clamps = 0) (hout : bf e 46 42 = 1) :
    ∃ x y, exec (.reductionNodeCombine r entry unit none) s = .next { takeInputs s (routerKey r) e unit.val relay with
      flits := s.flits ++ [northFlit x y e unit.val n.op n] } := by
  rw [← takeInputs_flits s (routerKey r) e unit.val relay]
  simp only [exec, execReductionNodeCombine, he, hw, hl, hvalid, hfirst, hlegs, hres, hclamps, nodeOut_north hout, Bool.and_self,
    Bool.not_true, Bool.or_self, Bool.false_and, Bool.false_eq_true, if_false, bne_self_eq_false, Option.isSome_none, done]
  exact ⟨_, _, rfl⟩

end

/-- Settles O27: an entry behind a ready one waits (`reductionNodeCombine_ahead`), one that misses an input waits for it
(`reductionNodeCombine_awaits`), and one that relays or has both its inputs sends its result north (`reductionNodeCombine_north`). -/
theorem reductionNodesTakeTheirInputs : Obligations.ReductionNodesTakeTheirInputs := by
  unfold Obligations.ReductionNodesTakeTheirInputs
  intro r entry unit s a hwf rk e leg hw hl hvalid hcode ha
  obtain ⟨-, -, hrouters, -⟩ := (tablesWf_iff s).mp hwf
  refine ⟨fun hready => reductionNodeCombine_ahead rfl hready none, fun hfirst => ⟨?_, ?_, ?_⟩⟩
  · intro hrelay hout hclamps
    have hlegs : entryLegs s rk e unit.val = ((some a, false), (none, false), true) :=
      (entryLegs_relay hrelay s rk unit.val).trans (congrArg (·, (none, false), true) ha)
    obtain ⟨x, y, hexec⟩ := reductionNodeCombine_north rfl hw hl hvalid hfirst hlegs rfl hclamps hout
    exact ⟨_, _, hexec, rfl, rfl, rfl, rfl, takeLeg_held hrouters _ _ _ _ hcode⟩
  · intro b hcode' hb hout hclamps
    have hlegs : entryLegs s rk e unit.val = ((some a, false), (some b, false), false) :=
      (entryLegs_two (by omega) s rk unit.val).trans (congrArg₂ (·, ·, false) ha hb)
    obtain ⟨x, y, hexec⟩ := reductionNodeCombine_north rfl hw hl hvalid hfirst hlegs rfl hclamps hout
    exact ⟨_, _, hexec, rfl, rfl, rfl, rfl, rfl⟩
  · intro hrelay hb hmoves
    have hlegs : entryLegs s rk e unit.val = ((some a, false), (none, false), false) :=
      (entryLegs_two hrelay s rk unit.val).trans (congrArg₂ (·, ·, false) ha hb)
    exact reductionNodeCombine_awaits rfl hw hl hvalid hfirst hlegs rfl hmoves none

end Sys2Proof.Machine
end

section
/-! PROOFS. The canonical form of a table (R206, R234, R405) bears writes and removals of entries; what keeps a state's tables
canonical composes. -/

namespace Sys2Proof.Machine

theorem keysGe_filter {α : Type} (p : Nat × α → Bool) {b : Nat} {m : Tbl α} (h : keysGe b m) : keysGe b (m.filter p) := by
  induction m generalizing b with
  | nil => trivial
  | cons q m ih =>
    have hm : keysGe (q.1 + 1) (m.filter p) := ih h.2
    simp only [List.filter_cons]
    split
    · exact ⟨h.1, hm⟩
    · exact keysGe_mono hm (Nat.le_succ_of_le h.1)

/-- Taking entries away keeps the canonical form. -/
theorem tblWf_filter {α : Type} [DecidableEq α] (d : α) (p : Nat × α → Bool) {m : Tbl α} (h : tblWf d m = true) :
    tblWf d (m.filter p) = true := by
  rw [tblWf_iff] at *
  exact ⟨keysGe_filter p h.1, fun q hq => h.2 q (List.mem_filter.mp hq).1⟩

theorem tblWf_tmod {α : Type} [DecidableEq α] (d : α) {m : Tbl α} (i : Nat) (f : α → α) (h : tblWf d m = true) :
    tblWf d (tmod d m i f) = true := tblWf_tset d i _ h

theorem tblWf_ite {α : Type} [DecidableEq α] {d : α} {p : Prop} [Decidable p] {m n : Tbl α} (h : tblWf d m = true)
    (g : tblWf d n = true) : tblWf d (if p then m else n) = true := by
  split
  · exact h
  · exact g

/-- Writing many entries one after the other keeps the canonical form. -/
theorem tblWf_foldl {α β : Type} [DecidableEq α] (d : α) {f : Tbl α → β → Tbl α}
    (hf : ∀ m x, tblWf d m = true → tblWf d (f m x) = true) (l : List β) {m : Tbl α} (h : tblWf d m = true) :
    tblWf d (l.foldl f m) = true := by
  induction l generalizing m with
  | nil => exact h
  | cons x l ih => exact ih (hf m x h)

variable {s₀ s t : State} {p : Prop} [Decidable p]

theorem Keeps.trans (h : Keeps s₀ s) (g : Keeps s t) : Keeps s₀ t := keeps_trans h g

theorem Keeps.ite (h : Keeps s₀ s) (g : Keeps s₀ t) : Keeps s₀ (if p then s else t) := by
  split
  · exact h
  · exact g

theorem Keeps.foldl {α : Type} {f : State → α → State} {l : List α} (h : Keeps s₀ s)
    (g : ∀ t x, Keeps s₀ t → Keeps s₀ (f t x)) : Keeps s₀ (l.foldl f s) := by
  induction l generalizing s with
  | nil => exact h
  | cons x l ih => exact ih (g s x h)

/-- A command answers a next state, with the queue and the canonical form kept. -/
def Answers (s₀ : State) (o : Host.Outcome State Fault Refusal) : Prop := ∃ t, o = .next t ∧ Keeps s₀ t

theorem Keeps.done (h : Keeps s₀ s) : Answers s₀ (done s) := ⟨s, rfl, h⟩

theorem Answers.ite {o q : Host.Outcome State Fault Refusal} (h : Answers s₀ o) (g : Answers s₀ q) :
    Answers s₀ (if p then o else q) := by
  split
  · exact h
  · exact g

section
variable
  {time : TimeState} {cells : Tbl CellState} {sites : Tbl SiteState} {routers : Tbl RouterState} {fields : Tbl FieldState}
  {flits : List Flit} {gets : List GetReq} {posts : List Post} {wafer : Tbl Publication} {events : List Event}
  {own : List OwnEvent} {plan : PlanState} {kv : KvState} {ledger : List LedgerRec} {weights : WeightState}
  {windows : Tbl Window} {ports : Tbl PortState} {ep : EpShared} {ptp : PtpState} {casc : Tbl CascState} {board : BoardState}
  {power : PowerState} {heat : ThermalState} {txn : Txn} {fw : FwState} {otp : OtpState} {faults : FaultState}
  {mgmt : MgmtState} {sent : List Sent} {freeCount : Nat}

/-- An update of parts of a state, each table among them kept canonical. -/
theorem Keeps.updateTable {serve : ServeState} (h : Keeps s₀ s)
    (tableWf : tblWf none s.serve.table = true → tblWf none serve.table = true)
    (cellsWf : tblWf {} s.cells = true → tblWf {} cells = true := by exact id)
    (sitesWf : tblWf {} s.sites = true → tblWf {} sites = true := by exact id)
    (routersWf : tblWf {} s.routers = true → tblWf {} routers = true := by exact id)
    (fieldsWf : tblWf {} s.fields = true → tblWf {} fields = true := by exact id)
    (windowsWf : tblWf {} s.windows = true → tblWf {} windows = true := by exact id)
    (portsWf : tblWf {} s.ports = true → tblWf {} ports = true := by exact id)
    (cascWf : tblWf {} s.casc = true → tblWf {} casc = true := by exact id)
    (waferWf : tblWf {} s.wafer = true → tblWf {} wafer = true := by exact id) :
    Keeps s₀ { s with
      time := time, cells := cells, sites := sites, routers := routers, fields := fields, flits := flits, gets := gets,
      posts := posts, wafer := wafer, events := events, own := own, plan := plan, serve := serve, kv := kv, ledger := ledger,
      weights := weights, windows := windows, ports := ports, ep := ep, ptp := ptp, casc := casc, board := board,
      power := power, heat := heat, txn := txn, fw := fw, otp := otp, faults := faults, mgmt := mgmt, sent := sent,
      freeCount := freeCount } := by
  refine keeps_trans h ⟨rfl, fun w => (tablesWf_iff _).mpr ?_⟩
  obtain ⟨hc, hs, hr, hf, hw, hp, hca, hwa, ht⟩ := (tablesWf_iff s).mp w
  exact ⟨cellsWf hc, sitesWf hs, routersWf hr, fieldsWf hf, windowsWf hw, portsWf hp, cascWf hca, waferWf hwa, tableWf ht⟩

theorem Keeps.update (h : Keeps s₀ s)
    (cellsWf : tblWf {} s.cells = true → tblWf {} cells = true := by exact id)
    (sitesWf : tblWf {} s.sites = true → tblWf {} sites = true := by exact id)
    (routersWf : tblWf {} s.routers = true → tblWf {} routers = true := by exact id)
    (fieldsWf : tblWf {} s.fields = true → tblWf {} fields = true := by exact id)
    (windowsWf : tblWf {} s.windows = true → tblWf {} windows = true := by exact id)
    (portsWf : tblWf {} s.ports = true → tblWf {} ports = true := by exact id)
    (cascWf : tblWf {} s.casc = true → tblWf {} casc = true := by exact id)
    (waferWf : tblWf {} s.wafer = true → tblWf {} wafer = true := by exact id) :
    Keeps s₀ { s with
      time := time, cells := cells, sites := sites, routers := routers, fields := fields, flits := flits, gets := gets,
      posts := posts, wafer := wafer, events := events, own := own, plan := plan, kv := kv, ledger := ledger,
      weights := weights, windows := windows, ports := ports, ep := ep, ptp := ptp, casc := casc, board := board,
      power := power, heat := heat, txn := txn, fw := fw, otp := otp, faults := faults, mgmt := mgmt, sent := sent,
      freeCount := freeCount } :=
  h.updateTable id cellsWf sitesWf routersWf fieldsWf windowsWf portsWf cascWf waferWf

theorem Keeps.updateServe
    {reqTaken : BitVec 64} {cqMade : BitVec 64} {cqSeen : BitVec 64} {draw : DrawStep} {drawTime : Nat} {drawAt : Option Nat}
    {drawFails : Nat} {useAlt : Bool} {buffer : List Completion} {cqLost : Word} {drawSkip : Word} {jobP : Option Job}
    {jobD : Option Job} {planP : Option Job} {planD : Option Job} {away : List ReplicaWork} {ending : List Job}
    {parcels : List Parcel} {parcelNo : Nat} {results : List OutResult}
    (h : Keeps s₀ s)
    (cellsWf : tblWf {} s.cells = true → tblWf {} cells = true := by exact id)
    (sitesWf : tblWf {} s.sites = true → tblWf {} sites = true := by exact id)
    (routersWf : tblWf {} s.routers = true → tblWf {} routers = true := by exact id)
    (fieldsWf : tblWf {} s.fields = true → tblWf {} fields = true := by exact id)
    (windowsWf : tblWf {} s.windows = true → tblWf {} windows = true := by exact id)
    (portsWf : tblWf {} s.ports = true → tblWf {} ports = true := by exact id)
    (cascWf : tblWf {} s.casc = true → tblWf {} casc = true := by exact id)
    (waferWf : tblWf {} s.wafer = true → tblWf {} wafer = true := by exact id) :
    Keeps s₀ { s with
      time := time, cells := cells, sites := sites, routers := routers, fields := fields, flits := flits, gets := gets,
      posts := posts, wafer := wafer, events := events, own := own, plan := plan, kv := kv, ledger := ledger,
      weights := weights, windows := windows, ports := ports, ep := ep, ptp := ptp, casc := casc, board := board,
      power := power, heat := heat, txn := txn, fw := fw, otp := otp, faults := faults, mgmt := mgmt, sent := sent,
      freeCount := freeCount,
      serve := { s.serve with
        reqTaken := reqTaken, cqMade := cqMade, cqSeen := cqSeen, draw := draw, drawTime := drawTime, drawAt := drawAt,
        drawFails := drawFails, useAlt := useAlt, buffer := buffer, cqLost := cqLost, drawSkip := drawSkip, jobP := jobP,
        jobD := jobD, planP := planP, planD := planD, away := away, ending := ending, parcels := parcels, parcelNo := parcelNo,
        results := results } } :=
  h.updateTable id cellsWf sitesWf routersWf fieldsWf windowsWf portsWf cascWf waferWf
end

end Sys2Proof.Machine
end

section
/-! PROOFS. Operations and commands that keep the tables canonical:
the state's operations, a cell, a field and a cistern controller. -/

namespace Sys2Proof.Machine

-- one proof is elaborated at a time: side by side they ask for more threads than the memory limit allows
set_option Elab.async false

variable {s₀ s : State}

section
variable (h : Keeps s₀ s)
include h

theorem Keeps.setCell {k : Nat} {v : CellState} : Keeps s₀ (s.setCell k v) := h.trans (keeps_setCell s k v)
theorem Keeps.setSite {k : Nat} {v : SiteState} : Keeps s₀ (s.setSite k v) := h.trans (keeps_setSite s k v)
theorem Keeps.setRouter {k : Nat} {v : RouterState} : Keeps s₀ (s.setRouter k v) := h.trans (keeps_setRouter s k v)
theorem Keeps.setField {f : Nat} {v : FieldState} : Keeps s₀ (s.setField f v) := h.trans (keeps_setField s f v)
theorem Keeps.setPort {p : Nat} {v : PortState} : Keeps s₀ (s.setPort p v) := h.trans (keeps_setPort s p v)
theorem Keeps.setCascPort {p : Nat} {v : CascState} : Keeps s₀ (s.setCascPort p v) := h.trans (keeps_setCascPort s p v)
theorem Keeps.setWindow {w : Nat} {v : Window} : Keeps s₀ (s.setWindow w v) := h.trans (keeps_setWindow s w v)
theorem Keeps.modCell {k : Nat} {g : CellState → CellState} : Keeps s₀ (s.modCell k g) := h.setCell
theorem Keeps.modSite {k : Nat} {g : SiteState → SiteState} : Keeps s₀ (s.modSite k g) := h.setSite
theorem Keeps.modRouter {k : Nat} {g : RouterState → RouterState} : Keeps s₀ (s.modRouter k g) := h.setRouter
theorem Keeps.modField {f : Nat} {g : FieldState → FieldState} : Keeps s₀ (s.modField f g) := h.setField
theorem Keeps.modPort {p : Nat} {g : PortState → PortState} : Keeps s₀ (s.modPort p g) := h.setPort
theorem Keeps.modCasc {p : Nat} {g : CascState → CascState} : Keeps s₀ (s.modCasc p g) := h.setCascPort
theorem Keeps.takeFree : Keeps s₀ (takeFree s).2 := h.update
theorem Keeps.emit {m : Sent} : Keeps s₀ (s.emit m) := h.update
theorem Keeps.respond {op : Nat} {tag : BitVec 16} {st : Nat} {b : List (BitVec 64)} : Keeps s₀ (respond s op tag st b) := h.emit
theorem Keeps.raiseAlert {bit : Nat} : Keeps s₀ (raiseAlert s bit) := h.trans (keeps_raiseAlert s bit)
theorem Keeps.holdBarrier {b : BarrierHold} : Keeps s₀ (holdBarrier s b) := h.trans (keeps_holdBarrier s b)
theorem Keeps.freeBarrier {b : BarrierHold} : Keeps s₀ (freeBarrier s b) := h.trans (keeps_freeBarrier s b)
theorem Keeps.logAdd {type : Nat} {w : List (BitVec 64)} : Keeps s₀ (logAdd s type w) := h.trans (keeps_logAdd s type w)
theorem Keeps.boardTell {c : VcContent} : Keeps s₀ (boardTell s c) := h.trans (keeps_boardTell s c)
theorem Keeps.ringPush {r : ErrRec} : Keeps s₀ (ringPush s r) := h.trans (keeps_ringPush s r)
theorem Keeps.raiseField {f : Nat} {r : ErrRec} : Keeps s₀ (raiseField s f r) := h.trans (keeps_raiseField s f r)
theorem Keeps.raiseModule {sev code field detail scope : Nat} : Keeps s₀ (raiseModule s sev code field detail scope) := h.ringPush
theorem Keeps.raiseAtSite {k sev code detail count : Nat} : Keeps s₀ (raiseAtSite s k sev code detail count) := h.raiseField
theorem Keeps.countCorrected {f n : Nat} : Keeps s₀ (countCorrected s f n) := h.trans (keeps_countCorrected s f n)
theorem Keeps.drainQueues : Keeps s₀ (drainQueues s) := h.trans (keeps_drainQueues s)
theorem Keeps.closeWin {w : Nat} : Keeps s₀ (closeWin s w) := h.setWindow
theorem Keeps.dropEvents {p : Event → Bool} : Keeps s₀ (dropEvents s p) := h.update
theorem Keeps.nameOwn {k : OwnKind} {e : Nat} : Keeps s₀ (nameOwn s k e) := h.trans (keeps_nameOwn s k e)
theorem Keeps.sendVc {m : VcMessage} : Keeps s₀ (sendVc s m) := h.emit
theorem Keeps.tellMaster {c : VcContent} : Keeps s₀ (tellMaster s c) := h.sendVc.ite h
theorem Keeps.haltOthers : Keeps s₀ (haltOthers s) := h.emit.boardTell.ite h
theorem Keeps.unnameOwn {o : OwnEvent} : Keeps s₀ (unnameOwn s o) := h.update.boardTell.tellMaster
theorem Keeps.moveOwn {o : OwnEvent} {e : Nat} : Keeps s₀ (moveOwn s o e) := h.update.nameOwn

theorem Keeps.invalidateLines {k : Nat} {lines : List Nat} {due : Nat} : Keeps s₀ (invalidateLines s k lines due) :=
  h.ite (h.update (cellsWf := tblWf_tmapAll _ _))

theorem Keeps.settleGuard {k now : Nat} : Keeps s₀ (settleGuard s k now) :=
  h.ite (h.foldl fun _ _ h => h.invalidateLines).modSite

theorem Keeps.lateLine {k line : Nat} : Keeps s₀ (lateLine s k line) := h.modSite

theorem Keeps.assayOpen {k : Nat} : Keeps s₀ (assayOpen s k) := by
  unfold Machine.assayOpen
  refine .ite h ?_
  split
  exacts [(h.setSite.setSite.setCell.ite h.setSite).ite h, h]

theorem Keeps.putPost {c : CellAddr} {q : Nat × Option (BitVec 4)} : Keeps s₀ (putPost s c q) := by
  unfold Machine.putPost
  dsimp only
  split
  exacts [h.update, h.update]

theorem Keeps.applyIssue {c : CellAddr} {a : IssueAcc} : Keeps s₀ (applyIssue s c a) :=
  h.setCell.modSite.update.foldl fun _ _ h => h.putPost

theorem Keeps.execBundleIssue {c : CellAddr} {env : IssueEnv} : Answers s₀ (execBundleIssue c env s) :=
  h.settleGuard.assayOpen.applyIssue.done.ite h.done

theorem Keeps.execIssueDeadline {c : CellAddr} : Answers s₀ (execIssueDeadline c s) := h.setCell.done.ite h.done

theorem Keeps.execResultDelivery {c : CellAddr} {cycle : Fin 512} : Answers s₀ (execResultDelivery c cycle s) :=
  h.settleGuard.setCell.done.ite h.done

theorem Keeps.execCacheFill {c : CellAddr} : Answers s₀ (execCacheFill c s) := by
  unfold Machine.execCacheFill
  extract_lets +onlyGivenNames k x y guarded held
  have hguarded : Keeps s₀ guarded := h.settleGuard
  split
  · refine .ite ?_ hguarded.done
    exact .ite hguarded.setCell.done <| .ite hguarded.setCell.lateLine.done <|
      .ite hguarded.setCell.done hguarded.setCell.done
  · exact hguarded.done

theorem Keeps.execSlackBackground {c : CellAddr} {cycles : Fin 65} {found : List (Nat × CodeError)} :
    Answers s₀ (execSlackBackground c cycles found s) := by
  unfold Machine.execSlackBackground
  refine .ite ?_ h.done
  refine .ite ?_ h.setCell.done
  split
  exacts [h.setCell.raiseField.done.ite h.setCell.modCell.done, h.setCell.done]

theorem Keeps.meshSend {src dst : Nat × Nat} {tag tenant : Nat} {data : Bytes} :
    Keeps s₀ (meshSend s src dst tag tenant data) :=
  h.update

theorem Keeps.portDown {p : Nat} : Keeps s₀ (portDown s p) := h.modPort
theorem Keeps.isolatePorts : Keeps s₀ (isolatePorts s) := h.foldl fun _ _ h => h.modPort.ite h
theorem Keeps.sendHost {v : Via} {m : HostMsg} : Keeps s₀ (sendHost s v m) := h.ite (h.modPort.ite h.emit)
theorem Keeps.releaseHeld {p : Nat} : Keeps s₀ (releaseHeld s p) := h.ite (h.modPort.foldl fun _ _ h => h.emit)

theorem Keeps.makeHole {f : Nat} : Keeps s₀ (makeHole s f) :=
  Keeps.isolatePorts <| h.modField.update (cellsWf := tblWf_filter _ _) (sitesWf := tblWf_tmapAll _ _)
    (routersWf := tblWf_filter _ _)

theorem Keeps.makeDark {f : Nat} : Keeps s₀ (makeDark s f) := h.modField

theorem Keeps.settleHoles : Keeps s₀ (settleHoles s) := by
  unfold Machine.settleHoles
  refine Keeps.foldl ?_ fun _ _ h => ?_
  · refine h.foldl fun _ _ h => ?_
    split
    exacts [h.makeHole, h]
  · exact h.ite h.modField

theorem Keeps.loseSupply {f : Nat} : Keeps s₀ (loseSupply s f) := h.ite h.makeHole.modField.ringPush

theorem Keeps.firmwareOff : Keeps s₀ (firmwareOff s) :=
  (h.ite h.update.boardTell.tellMaster).ite (h.dropEvents.update.boardTell.tellMaster.ite h)

theorem Keeps.coreEvent {core : Nat} : Keeps s₀ (coreEvent s core) := (h.update.firmwareOff.ite h.update).raiseModule
theorem Keeps.denyAccess {k : Nat} {a : AccessReq} {d : Denied} : Keeps s₀ (denyAccess s k a d) := h.modSite.modCell

theorem Keeps.execCisternAccessStart {site : SiteAddr} {chanB : Bool} {found : List LineError} :
    Answers s₀ (execCisternAccessStart site chanB found s) := by
  unfold Machine.execCisternAccessStart
  extract_lets +onlyGivenNames k st q
  clear_value q
  split
  · exact h.done
  · split
    · exact h.done
    · refine .ite h.done ?_
      extract_lets +onlyGivenNames guarded taken recorded
      have htaken : Keeps s₀ taken := h.settleGuard.modSite
      have hrecorded : Keeps s₀ recorded := htaken.ite htaken.modSite
      split
      exacts [hrecorded.modSite.denyAccess.done, hrecorded.modSite.done, hrecorded.denyAccess.modCell.done,
        hrecorded.setSite.modCell.done]

theorem Keeps.execLineLanding {site : SiteAddr} {index : Nat} : Answers s₀ (execLineLanding site index s) := by
  unfold Machine.execLineLanding
  dsimp only
  split
  · exact h.done
  · split
    · exact h.done
    · split
      exacts [h.done, h.done.ite (h.modCell.done.ite h.lateLine.modCell.done)]

theorem Keeps.execRefreshCommand {site : SiteAddr} {slot : Nat} : Answers s₀ (execRefreshCommand site slot s) :=
  h.modSite.done.ite h.done

theorem Keeps.execCisternScrub {site : SiteAddr} {chanB : Bool} {found : List LineError} :
    Answers s₀ (execCisternScrub site chanB found s) :=
  h.setSite.done.ite h.done

theorem Keeps.execChannelTraining {site : SiteAddr} {aOk bOk : Bool} : Answers s₀ (execChannelTraining site aOk bOk s) :=
  h.done.ite (h.setSite.done.ite h.setSite.update.done)
end

end Sys2Proof.Machine
end

section
/-! PROOFS. Operations and commands that keep the tables canonical:
registers, staged plans, serving, the ladder and the weights. -/

namespace Sys2Proof.Machine

-- one proof is elaborated at a time: side by side they ask for more threads than the memory limit allows
set_option Elab.async false

variable {s₀ s : State}

section
variable (h : Keeps s₀ s)
include h

theorem Keeps.noteDark {a : RegAddr} : Keeps s₀ (noteDark s a) := h.modField.ite h

theorem Keeps.writeW1c {a : RegAddr} {v : Nat} : Keeps s₀ (writeW1c s a v) := by
  unfold Machine.writeW1c
  split
  exacts [h.update, h.modField.ite h, h.update, h.update, h.modField.ite h, h.modPort, h.modCasc,
    h.modSite.ite h, h.modCell.ite h, h]

theorem Keeps.modSites {ks : List Nat} {g : SiteState → SiteState} : Keeps s₀ (modSites s ks g) :=
  h.update (sitesWf := tblWf_foldl _ (fun _ _ w => tblWf_ite (tblWf_tmod _ _ _ w) w) _)

theorem Keeps.writeCl {a : RegAddr} {v : Nat} : Keeps s₀ (writeCl s a v) := by
  unfold Machine.writeCl
  split
  · exact h
  · dsimp only
    split
    exacts [h.update, h.modField.ite h, h.update, h.update, h.update, h.update, h.update, h.modPort, h.modPort,
      h.modPort, h.update, h.update, h.update, h.update, h.update, h.update, h.update, h.update, h.update,
      h.update, h.update, h.modCasc, h.modSites, h.modSites]

theorem Keeps.writeLoader {a : RegAddr} {v : Nat} : Keeps s₀ (writeLoader s a v) := by
  unfold Machine.writeLoader
  split
  exacts [h.modCell.ite h, h.modSite.ite h, h.modCasc.ite h, h]

theorem Keeps.writeControl {a : RegAddr} {v : Nat} : Keeps s₀ (writeControl s a v) := h.writeW1c.writeLoader

theorem Keeps.stagePlan {p : Plan} {recipe : List Nat} : Keeps s₀ (stagePlan s p recipe) := by
  unfold Machine.stagePlan
  refine Keeps.foldl (Keeps.foldl (h.update (cellsWf := tblWf_tmapAll _ _) (sitesWf := tblWf_tmapAll _ _)
    (routersWf := tblWf_tmapAll _ _) (cascWf := tblWf_tmapAll _ _)) fun _ _ h => .ite h ?_) fun _ _ h => ?_
  · refine Keeps.foldl (h.foldl fun _ _ h => ?_) fun _ _ h => ?_
    · dsimp only
      split
      exacts [h.modRouter.modSite, h.modRouter]
    · split
      exacts [h.modCell, h]
  · split
    exact h.modCasc

theorem Keeps.activateImages {m : ActMarks} : Keeps s₀ (activateImages s m) :=
  h.update (cellsWf := tblWf_tmapAll _ _) (sitesWf := tblWf_tmapAll _ _) (routersWf := tblWf_tmapAll _ _)
    (cascWf := tblWf_tmapAll _ _)

theorem Keeps.dropStaged : Keeps s₀ (dropStaged s) :=
  h.update (cellsWf := tblWf_tmapAll _ _) (sitesWf := tblWf_tmapAll _ _) (routersWf := tblWf_tmapAll _ _)

theorem Keeps.wakeSegments {t : State} : Keeps s₀ (wakeSegments s t) := by
  unfold Machine.wakeSegments
  refine h.foldl fun _ _ h => ?_
  split
  exacts [h.ite h.modCell, h]

theorem Keeps.applyDefects : Keeps s₀ (applyDefects s) := h.update
theorem Keeps.svcErr {bit : Nat} : Keeps s₀ (svcErr s bit) := h.modPort
theorem Keeps.pushCompletion {b : Bytes} : Keeps s₀ (pushCompletion s b) := h.updateServe.ite h.updateServe.svcErr.raiseAlert
theorem Keeps.setRequest {i : Nat} {r : Option Request} : Keeps s₀ (s.setRequest i r) := h.updateTable (tblWf_tset _ _ _)
theorem Keeps.refusalRecord {handle : BitVec 64} {status : Nat} : Keeps s₀ (refusalRecord s handle status) := h.pushCompletion
theorem Keeps.setWork {w : Nat} {x : ReplicaWork} : Keeps s₀ (s.setWork w x) := h.updateServe.ite h.updateServe
theorem Keeps.freeSets {i : Nat} : Keeps s₀ (freeSets s i) := h.update
theorem Keeps.releaseConv {conv : BitVec 64} : Keeps s₀ (releaseConv s conv) := h.update
theorem Keeps.startPause {i : Nat} {r : Request} : Keeps s₀ (startPause s i r) := h.update

theorem Keeps.endRequest {i status : Nat} {cause : Word} : Keeps s₀ (endRequest s i status cause) := by
  unfold Machine.endRequest
  split
  · exact h
  · refine .ite h ?_
    extract_lets +onlyGivenNames recorded ended _ dropped released
    have hdropped : Keeps s₀ dropped := (h.refusalRecord.ite h.pushCompletion).setRequest.updateServe
    have hreleased : Keeps s₀ released := hdropped.releaseConv.ite hdropped
    exact hreleased.startPause.ite (hreleased.ite hreleased.freeSets)

theorem Keeps.endWhere {p : Nat → Request → Bool} {status : Nat} : Keeps s₀ (endWhere s p status) :=
  h.foldl fun _ _ h => h.endRequest.ite h

theorem Keeps.endAll {status : Nat} : Keeps s₀ (endAll s status) := h.endWhere.updateServe
theorem Keeps.endReplica {w status : Nat} : Keeps s₀ (endReplica s w status) := h.endWhere.setWork.updateServe

theorem Keeps.reportTokens {i : Nat} {toks : List Word} {position time : Nat} :
    Keeps s₀ (reportTokens s i toks position time) := by
  unfold Machine.reportTokens
  split
  · exact h
  · refine .ite h <| .ite h.pushCompletion.setRequest.endRequest ?_
    exact h.pushCompletion.setRequest.endRequest.ite h.pushCompletion.setRequest

theorem Keeps.drainPort {p : Nat} {bulk : Bool} : Keeps s₀ (drainPort s p bulk) := h.setPort.emit.ite h.setPort
theorem Keeps.stopDataPath : Keeps s₀ (stopDataPath s) := h.update

theorem Keeps.abortTxn {status : Nat} : Keeps s₀ (abortTxn s status) := by
  unfold Machine.abortTxn
  split
  exacts [h.update.raiseAlert, h.update.raiseAlert, h.update.raiseAlert, h.update.raiseAlert, h]

theorem Keeps.cancelPending : Keeps s₀ (cancelPending s) := (h.abortTxn.update.update.ite h.abortTxn.update).update
theorem Keeps.enterPoised : Keeps s₀ (enterPoised s) := h.update

theorem Keeps.enterHeld : Keeps s₀ (enterHeld s) :=
  h.stopDataPath.cancelPending.update (sitesWf := tblWf_tmapAll _ _) (routersWf := fun _ => rfl)
    (fieldsWf := tblWf_foldl _ (fun _ _ => tblWf_tmod _ _ _) _) (waferWf := fun _ => rfl)

theorem Keeps.enterBanked : Keeps s₀ (enterBanked s) :=
  h.enterHeld.update (cellsWf := tblWf_tmapAll _ _) (sitesWf := tblWf_tmapAll _ _)

theorem Keeps.enterDry : Keeps s₀ (enterDry s) :=
  h.enterBanked.updateTable (tblWf_tmapAll _ _) (sitesWf := tblWf_tmapAll _ _) (windowsWf := tblWf_tmapAll _ _)
    (portsWf := tblWf_tmapAll _ _) (cascWf := tblWf_tmapAll _ _)

theorem Keeps.forceLadder {enter : State → State} (hf : ∀ t, Keeps s₀ t → Keeps s₀ (enter t)) :
    Keeps s₀ (forceLadder s enter) :=
  hf _ h.endAll.stopDataPath

theorem Keeps.wakeAll : Keeps s₀ (wakeAll s) :=
  (h.foldl fun _ _ h => h.modField.ite h).update (sitesWf := tblWf_foldl _ (fun _ _ w => tblWf_ite (tblWf_tmod _ _ _ w) w) _)

theorem Keeps.restoreRouters : Keeps s₀ (restoreRouters s) := by
  unfold Machine.restoreRouters
  split
  exacts [h, h.foldl fun _ _ h => h.ite (h.foldl fun _ _ h => h.modRouter)]

theorem Keeps.resumeCells : Keeps s₀ (resumeCells s) := h.update
theorem Keeps.thErr {bit : Nat} : Keeps s₀ (thErr s bit) := h.update

theorem Keeps.clearShutdown : Keeps s₀ (clearShutdown s).1 := by
  unfold Machine.clearShutdown
  split
  exacts [h.update, h.thErr]

theorem Keeps.addEvent {e : Nat} {k : EventKind} : Keeps s₀ (addEvent s e k) := h.update.boardTell
theorem Keeps.ladderOutcome {o : Nat} : Keeps s₀ (ladderOutcome s o) := h.update
theorem Keeps.askLeave : Keeps s₀ (askLeave s) := h.update.boardTell

theorem Keeps.enterLower {target : Nat} : Keeps s₀ (enterLower s target) := by
  unfold Machine.enterLower
  split
  exacts [h.enterHeld, h.enterBanked, h.enterDry]

theorem Keeps.followLadder {target : Nat} : Keeps s₀ (followLadder s target) := by
  unfold Machine.followLadder
  dsimp only
  split
  exacts [h.enterPoised.ite h, h.update.ite h, h.enterLower.ite h]

theorem Keeps.ladderLeave : Keeps s₀ (ladderLeave s).1 := by
  unfold Machine.ladderLeave
  split
  · exact h.ladderOutcome
  · split
    exacts [h.ladderOutcome, h.askLeave.ladderOutcome]
  · exact h.askLeave.ladderOutcome
  · split
    exacts [h.ladderOutcome, h.askLeave.ladderOutcome]
  · exact h.ladderOutcome

theorem Keeps.ladderEnter {target epoch : Nat} : Keeps s₀ (ladderEnter s target epoch).1 := by
  unfold Machine.ladderEnter
  split
  · split
    · exact h.ladderOutcome
    · split
      exacts [h, h.addEvent.ladderOutcome]
  · exact h.ladderOutcome

theorem Keeps.writeWo {a : RegAddr} {v : Nat} : Keeps s₀ (writeWo s a v) := by
  unfold Machine.writeWo
  split
  · split
    exacts [h.ladderLeave, h.ladderEnter, h.ladderEnter, h.ladderEnter, h]
  · exact h.clearShutdown.ite h
  · exact h

theorem Keeps.vaonLost : Keeps s₀ (vaonLost s) := h.trans ⟨rfl, fun _ => rfl⟩
theorem Keeps.countMismatch {n : Nat} : Keeps s₀ (countMismatch s n) := h.ite h.modPort

theorem Keeps.becomeResident {w : WeightSet} : Keeps s₀ (becomeResident s w) :=
  h.closeWin.update.update (sitesWf := tblWf_tmapAll _ _)

theorem Keeps.askHost {w : WeightSet} {k line : Nat} : Keeps s₀ (askHost s w k line) := by
  unfold Machine.askHost
  split
  · exact h
  · split
    exacts [h.sendHost, h]

theorem Keeps.askRefill {k line : Nat} : Keeps s₀ (askRefill s k line) := by
  unfold Machine.askRefill
  refine .ite h ?_
  dsimp only
  split
  exacts [h.update.meshSend.modSite, h.update.ite h.update.askHost, h.update]

theorem Keeps.sweepAdvance : Keeps s₀ (sweepAdvance s) := by
  unfold Machine.sweepAdvance
  split
  · refine .ite h <| .ite h.update ?_
    extract_lets +onlyGivenNames n c move keys bad wrong busy copied _ asked
    have hasked : Keeps s₀ asked :=
      (h.foldl fun _ _ h => h.modSite.invalidateLines).update.countMismatch.foldl fun _ _ h => h.askHost
    exact .ite (hasked.update.freeBarrier.ite hasked.update) hasked.update
  · exact h

theorem Keeps.startSwap : Keeps s₀ (startSwap s) := by
  unfold Machine.startSwap
  split
  exacts [h.holdBarrier.update, h]

theorem Keeps.startInstall : Keeps s₀ (startInstall s) := by
  unfold Machine.startInstall
  split
  exacts [h.update.foldl fun _ _ h => h.foldl fun _ _ h => h.modSite, h]

theorem Keeps.dropLoad {status : Nat} : Keeps s₀ (dropLoad s status) :=
  (h.foldl fun _ _ h => h.sendVc).closeWin.update (sitesWf := tblWf_tmapAll _ _) (cascWf := tblWf_tmapAll _ _)

theorem Keeps.dropRequest {i : Nat} : Keeps s₀ (dropRequest s i) := by
  unfold Machine.dropRequest
  split
  exacts [h.freeSets.setRequest, h]

theorem Keeps.dropMove {m : FarMove} : Keeps s₀ (dropMove s m) := h.update
end

theorem Keeps.makeRoom {t : ServingTables} {need : List (Nat × Nat × Nat)} {vs : List (FarMove ⊕ Nat)} {u : State}
    (h : Keeps s₀ s) (e : makeRoom t need vs s = some u) : Keeps s₀ u := by
  induction vs generalizing s with
  | nil =>
    unfold Machine.makeRoom at e
    split at e
    · exact Option.some.inj e ▸ h
    · cases e
  | cons v rest ih =>
    unfold Machine.makeRoom at e
    split at e
    · exact Option.some.inj e ▸ h
    · cases v with
      | inl m => exact ih h.dropMove e
      | inr i => exact ih h.dropRequest e

section
variable (h : Keeps s₀ s)
include h

theorem Keeps.addParcel {t : ServingTables} {type index : Nat} {payload : Bytes} :
    Keeps s₀ (addParcel s t type index payload) :=
  h.ite (h.updateServe.foldl fun _ _ h => h.sendVc)

theorem Keeps.takeParcel {number type index : Nat} {payload : Bytes} : Keeps s₀ (takeParcel s number type index payload) :=
  h.tellMaster.ite h.updateServe

theorem Keeps.parcelTaken {w number : Nat} : Keeps s₀ (parcelTaken s w number) := h.updateServe

theorem Keeps.pageMaps {t : ServingTables} {i : Nat} {bound : List PageSet} : Keeps s₀ (pageMaps s t i bound) := by
  unfold Machine.pageMaps
  refine h.foldl fun _ _ h => ?_
  refine h.foldl fun _ _ h => ?_
  split
  exacts [h, h.addParcel]

theorem Keeps.bindSets {t : ServingTables} {i : Nat} {need : List (Nat × Nat × Nat)} {state : SetState} :
    Keeps s₀ (bindSets s t i need state) := by
  unfold Machine.bindSets
  refine Keeps.pageMaps ?_
  refine h.foldl fun _ _ h => ?_
  split
  exacts [h.update, h]
end

theorem Keeps.bindFor {t : ServingTables} {i : Nat} {r : Request} {chunk : Bool} {u : State} (h : Keeps s₀ s)
    (e : bindFor s t i r chunk = some u) : Keeps s₀ u := by
  unfold Machine.bindFor at e
  obtain ⟨v, hv, rfl⟩ := Option.map_eq_some_iff.mp e
  exact (h.makeRoom hv).bindSets

section
variable (h : Keeps s₀ s)
include h

theorem Keeps.tryChunk {p : Plan} {t : ServingTables} {i : Nat} : Keeps s₀ (tryChunk p t s i) := by
  unfold Machine.tryChunk
  split
  · exact h
  · refine .ite (h.dropRequest.ite h).endRequest ?_
    split
    · exact h.dropRequest.ite h
    · refine .ite (h.dropRequest.ite h) ?_
      split
      · exact h.dropRequest.ite h
      next u hu => exact ((h.dropRequest.ite h).bindFor hu).setRequest.setWork

theorem Keeps.decideChunk {w : Nat} : Keeps s₀ (decideChunk s w) := by
  unfold Machine.decideChunk
  split
  exacts [h.ite (h.foldl fun _ _ h => h.ite h.tryChunk), h]

theorem Keeps.joinStep {p : Plan} {t : ServingTables} {i : Nat} : Keeps s₀ (joinStep p t s i) := by
  unfold Machine.joinStep
  split
  · exact h
  · refine .ite (h.endRequest.ite h.dropRequest) ?_
    split
    · exact h
    · refine .ite h ?_
      split
      · exact h
      next u hu => exact ((h.bindFor hu).addParcel.ite (h.bindFor hu)).setWork

theorem Keeps.decideStep {w : Nat} : Keeps s₀ (decideStep s w) := by
  unfold Machine.decideStep
  split
  exacts [h.ite (h.foldl fun _ _ h => h.joinStep), h]

theorem Keeps.tellDispatch {w : Nat} {p : Bool} {schedule stroke : Nat} : Keeps s₀ (tellDispatch s w p schedule stroke) :=
  h.boardTell.ite (h.sendVc.ite h)

theorem Keeps.latchJob {w : Nat} {p : Bool} : Keeps s₀ (latchJob s w p).1 := by
  unfold Machine.latchJob
  split
  · exact h
  · extract_lets +onlyGivenNames put live
    split
    · split
      exacts [h.setWork.tellDispatch, h.setWork]
    · split
      · exact h.setWork
      · split
        · exact h.setWork.tellDispatch
        · rw [apply_ite Prod.fst]
          · refine .ite h <| .ite (h.setWork.setWork.foldl fun _ _ h => ?_) h.setWork.setWork
            split
            exacts [h.setRequest, h]

theorem Keeps.noteWork {p : Bool} : Keeps s₀ (noteWork s p) := by
  unfold Machine.noteWork
  split
  · split
    exacts [h.setWork, h]
  · exact h

theorem Keeps.endWork {j : Job} {mine : List OutResult} {i : Nat} : Keeps s₀ (endWork s j mine i) := by
  unfold Machine.endWork
  split
  · exact h
  · refine .ite h <| .ite h.endRequest ?_
    extract_lets +onlyGivenNames silent rows next r placed reported
    have hreported : Keeps s₀ reported := h.setRequest.ite (h.setRequest.foldl fun _ _ h => h.reportTokens)
    split
    exacts [hreported.endRequest.ite hreported, hreported]

theorem Keeps.endJob {w : Nat} {p : Bool} : Keeps s₀ (endJob s w p) := by
  unfold Machine.endJob
  split
  exacts [h, h.ite h.setWork.updateServe]

theorem Keeps.finishJobs : Keeps s₀ (finishJobs s) := h.foldl fun _ _ h => h.ite (h.updateServe.foldl fun _ _ h => h.endWork)

theorem Keeps.takeAccepted {w v : Nat} : Keeps s₀ (takeAccepted s w v) := by
  unfold Machine.takeAccepted
  refine .ite h.updateServe ?_
  split
  exacts [h.setWork.ite h, h]
end

/-- The acceptance of a board's count changes what serving holds and what left, and nothing else (R326, R429). -/
theorem latchAccepted_eq (s : State) (valid conflict : Bool) (n : Nat) :
    ∃ v l, latchAccepted s valid conflict n = { s with serve := v, sent := l } := by
  unfold Machine.latchAccepted
  split
  · exact ⟨_, _, rfl⟩
  · split
    · split
      · exact ⟨_, _, tellMaster_eq ..⟩
      · exact ⟨_, _, rfl⟩
    · split
      · split <;> exact ⟨_, _, rfl⟩
      · exact ⟨_, _, rfl⟩

section
variable (h : Keeps s₀ s)
include h

theorem Keeps.latchAccepted {valid conflict : Bool} {v : Nat} : Keeps s₀ (latchAccepted s valid conflict v) := by
  unfold Machine.latchAccepted
  refine .ite h <| .ite (h.tellMaster.ite h) ?_
  split
  exacts [h.updateServe.ite h, h]

theorem Keeps.endIntake : Keeps s₀ (endIntake s) := h.foldl fun _ _ h => (h.endRequest.ite (h.setRequest.ite h)).ite h

theorem Keeps.execMailboxWrite {c : CellAddr} {slack : Nat} : Answers s₀ (execMailboxWrite c slack s) := by
  unfold Machine.execMailboxWrite
  have hput : ∀ (x : CellState) (ps : List Parcel),
      Keeps s₀ { s.setCell (cellKey c) x with serve := { s.serve with parcels := ps } } :=
    fun x ps => h.setCell.updateTable (by rw [State.setCell_serve]; exact id)
  dsimp only
  split
  · exact h.done
  · split
    · exact h.done
    · refine .ite h.done ?_
      split
      · exact h.setCell.done
      · split
        · exact h.done
        · exact .ite h.setCell.done ((hput _ _).tellMaster.ite (hput _ _)).done

theorem Keeps.execOutboxRead {c : CellAddr} : Answers s₀ (execOutboxRead c s) := by
  unfold Machine.execOutboxRead
  extract_lets +onlyGivenNames k x
  split
  · exact h.done
  · split
    · exact h.done
    · refine .ite h.done ?_
      extract_lets +onlyGivenNames u w y read pk _ add
      have hread : Keeps s₀ read := h.setCell
      have hadd : ∀ o, Keeps s₀ (add o) := fun _ => hread.tellMaster.ite hread.updateServe
      exact .ite (hadd _).done <| .ite hread.done <| .ite (hadd _).done <| .ite (hadd _).done hread.done
end

end Sys2Proof.Machine
end

section
/-! PROOFS. Operations and commands that keep the tables canonical:
a stroke's end: reports, activations, power, recovery, the cascade's links and the curb stroke. -/

namespace Sys2Proof.Machine

-- one proof is elaborated at a time: side by side they ask for more threads than the memory limit allows
set_option Elab.async false

variable {s₀ s : State}

section
variable (h : Keeps s₀ s)
include h

theorem Keeps.reportBit {k : Nat} {c : CellState} {bit : Nat} : Keeps s₀ (reportBit s k c bit) := (h.logAdd.ite h).raiseField

theorem Keeps.reportScratch {k : Nat} {c : CellState} : Keeps s₀ (reportScratch s k c) := by
  unfold Machine.reportScratch
  exact h.foldl fun _ _ h => h.modField.countCorrected.ite (h.modField.countCorrected.ite h.modField.raiseField)

theorem Keeps.reactivate : Keeps s₀ (reactivate s) := h.nameOwn.holdBarrier

theorem Keeps.reportCell {k : Nat} : Keeps s₀ (reportCell s k) := by
  unfold Machine.reportCell
  refine .ite h ?_
  extract_lets +onlyGivenNames bits scratch
  have hscratch : Keeps s₀ scratch := (h.foldl fun _ _ h => h.reportBit.ite h).reportScratch
  exact (hscratch.reactivate.ite hscratch).modCell

theorem Keeps.routerRecord {rk sev code count : Nat} : Keeps s₀ (routerRecord s rk sev code count) := h.ite h.raiseField
theorem Keeps.reportRouter {rk : Nat} : Keeps s₀ (reportRouter s rk) := h.ite h.modField.routerRecord.routerRecord.modRouter
theorem Keeps.ledgerUpdate {l : Nat} {g : LedgerRec → LedgerRec} : Keeps s₀ (ledgerUpdate s l g) := h.update

theorem Keeps.reportSite {k : Nat} : Keeps s₀ (reportSite s k) := by
  unfold Machine.reportSite
  refine .ite h ?_
  extract_lets +onlyGivenNames counted raised asked
  have hasked : Keeps s₀ asked := (h.countCorrected.ite h.countCorrected.raiseAtSite).foldl fun _ _ h => h.askRefill
  refine Keeps.modSite ?_
  split
  · exact hasked
  · extract_lets +onlyGivenNames flag old c lg noted alerted
    have halerted : Keeps s₀ alerted := hasked.ledgerUpdate.raiseAlert.ite hasked.ledgerUpdate
    exact halerted.raiseField.ite halerted

theorem Keeps.reportBarriers : Keeps s₀ (reportBarriers s) := by
  unfold Machine.reportBarriers
  exact .ite h <| (h.foldl fun _ _ h => h.ite (h.foldl fun _ _ h => h.ite (h.foldl fun _ _ h => h.raiseField.ite h))).update

theorem Keeps.takeReports : Keeps s₀ (takeReports s) :=
  (((h.foldl fun _ _ h => h.reportCell).foldl fun _ _ h => h.reportRouter).foldl fun _ _ h =>
    h.reportSite).reportBarriers.drainQueues

theorem Keeps.arrivePosts {ended : Bool} : Keeps s₀ (arrivePosts s ended) := h.update
theorem Keeps.sampleCall : Keeps s₀ (sampleCall s) := h.arrivePosts.update
theorem Keeps.execCallTick : Answers s₀ (execCallTick s) := h.sampleCall.done.ite h.done
theorem Keeps.carryEpoch : Keeps s₀ (carryEpoch s) := h.ite (h.update (fieldsWf := tblWf_tmapAll _ _))
theorem Keeps.loseAdmission : Keeps s₀ (loseAdmission s) := h.update (cascWf := tblWf_tmapAll _ _)
theorem Keeps.timeFault : Keeps s₀ (timeFault s) := h.raiseModule.update.ite h.raiseModule.update.loseAdmission

theorem Keeps.overrunRecord : Keeps s₀ (overrunRecord s) := by
  unfold Machine.overrunRecord
  refine .ite h ?_
  dsimp only
  split
  exacts [h.ringPush, h.raiseModule]

theorem Keeps.beginWakes {p : Plan} : Keeps s₀ (beginWakes s p) := h.ite (h.foldl fun _ _ h => h.modField)
theorem Keeps.coolField {f : Nat} : Keeps s₀ (coolField s f) := h.makeDark.update (sitesWf := tblWf_tmapAll _ _)

theorem Keeps.settleDomains {p : Plan} : Keeps s₀ (settleDomains s p) := by
  unfold Machine.settleDomains
  refine h.foldl fun _ _ h => ?_
  refine .ite (h.ite h.modField) ?_
  split
  exacts [(h.ite h.modField).coolField, (h.ite h.modField).modField, h.ite h.modField]

theorem Keeps.beginPrologue {p : Plan} : Keeps s₀ (beginPrologue s p) := h.ite h.holdBarrier.update

theorem Keeps.stageUnder {am : List Amendment} {p : Plan} {recipe : List Nat} : Keeps s₀ (stageUnder s am p recipe) :=
  h.update.stagePlan.update

theorem Keeps.restagePending : Keeps s₀ (restagePending s) := by
  unfold Machine.restagePending
  split
  exacts [h.stageUnder, h]

theorem Keeps.runPath : Keeps s₀ (runPath s) := h.update.tellMaster.ite h.update

theorem Keeps.activateKey {key : Nat} {m : ActMarks} : Keeps s₀ (activateKey s key m) := by
  unfold Machine.activateKey
  split
  exacts [h, h.stagePlan.activateImages.update.settleDomains.restagePending]

theorem Keeps.activateLayout {key : Nat} : Keeps s₀ (activateLayout s key) := by
  unfold Machine.activateLayout
  dsimp only
  split
  exacts [h.activateKey.runPath.beginPrologue, h.activateKey.runPath]

theorem Keeps.refuseActivation {status : Nat} : Keeps s₀ (refuseActivation s status) := h.update.freeBarrier
theorem Keeps.movesUnder {p : Plan} : Keeps s₀ (movesUnder s p) := h.update

theorem Keeps.activatePlan {p : Plan} {recipe : List Nat} : Keeps s₀ (activatePlan s p recipe) := by
  unfold Machine.activatePlan
  extract_lets +onlyGivenNames keep moved _ applied closed _ _ renewed
  have hclosed : Keeps s₀ closed := (h.ite h.endAll).movesUnder.update.stagePlan.activateImages.closeWin
  have hrenewed : Keeps s₀ renewed := hclosed.update (sitesWf := tblWf_tmapAll _ _)
  exact hrenewed.settleDomains.freeBarrier.freeBarrier.freeBarrier.runPath.beginPrologue

theorem Keeps.curbActivation {v : Event} {recipe : Option (List Nat)} : Keeps s₀ (curbActivation s v recipe) := by
  unfold Machine.curbActivation
  split
  · exact h.freeBarrier
  · refine .ite h.refuseActivation ?_
    exact h.refuseActivation.ite (h.update.refuseActivation.ite (h.beginWakes.update.ite h.activatePlan))

theorem Keeps.moveContents : Keeps s₀ (moveContents s) :=
  (h.update.foldl fun _ _ h => h.modCell).foldl fun _ _ h => h.modSite.ite h.modSite.update

theorem Keeps.curbOwn {o : OwnEvent} : Keeps s₀ (curbOwn s o) := by
  unfold Machine.curbOwn
  split
  · exact h
  · refine .ite h <| .ite h.nameOwn <| .ite h.beginWakes.nameOwn ?_
    dsimp only
    split
    exacts [h.activateLayout.update.freeBarrier, h.activateLayout.update.freeBarrier,
      (h.activateLayout.modField.ite h.activateLayout).update.freeBarrier,
      (h.activateLayout.modField.ite h.activateLayout).update.freeBarrier,
      h.moveContents.applyDefects.activateLayout.update.freeBarrier, h.activateLayout.update.freeBarrier]

theorem Keeps.curbRecipe {layers : List Nat} : Keeps s₀ (curbRecipe s layers) := by
  unfold Machine.curbRecipe
  refine .ite h.update.freeBarrier.update <| .ite h.update.freeBarrier.update ?_
  split
  exacts [h.update.freeBarrier, h.update.freeBarrier.update.activateKey]

theorem Keeps.endPrologue : Keeps s₀ (endPrologue s) := by
  unfold Machine.endPrologue
  split
  exacts [(h.update.freeBarrier.update (cellsWf := tblWf_tmapAll _ _)).ite h, h]

theorem Keeps.pwErr {bit : Nat} : Keeps s₀ (pwErr s bit) := h.update
theorem Keeps.execFuseOpen {f : Field} : Answers s₀ (execFuseOpen f s) := h.done.ite h.modField.pwErr.loseSupply.done

theorem Keeps.execConverterFailure {f : Field} {i : Fin 2} : Answers s₀ (execConverterFailure f i s) := by
  unfold Machine.execConverterFailure
  exact .ite h.done <| h.setField.pwErr.raiseAlert.done.ite h.setField.pwErr.raiseAlert.modField.pwErr.loseSupply.done

theorem Keeps.execAuxConverterFailure {i : Fin 4} : Answers s₀ (execAuxConverterFailure i s) := by
  unfold Machine.execAuxConverterFailure
  refine .ite h.done <| .ite (h.update.pwErr.raiseAlert.raiseModule.forceLadder fun _ h => h.enterDry).done ?_
  exact h.update.pwErr.raiseAlert.done

theorem Keeps.failPhase {k : Nat} {array : Bool} {i : Nat} : Keeps s₀ (failPhase s k array i) := by
  unfold Machine.failPhase
  exact .ite h <| (h.setSite.modField.pwErr.update (cellsWf := tblWf_tmapAll _ _)).ite h.setSite.modField.pwErr

theorem Keeps.execPhaseFailure {site : SiteAddr} {array : Bool} {i : Fin 4} : Answers s₀ (execPhaseFailure site array i s) :=
  h.done.ite h.failPhase.done

theorem Keeps.execPhaseShareTest {site : SiteAddr} {logic array : List Nat} :
    Answers s₀ (execPhaseShareTest site logic array s) :=
  ((h.foldl fun _ _ h => h.failPhase).foldl fun _ _ h => h.failPhase).done

theorem Keeps.execDroopStretch {site : SiteAddr} : Answers s₀ (execDroopStretch site s) := h.update.done.ite h.done

theorem Keeps.execInputVoltageExcursion {centivolts : BitVec 16} {ticks : Nat} :
    Answers s₀ (execInputVoltageExcursion centivolts ticks s) :=
  h.update.done.ite (h.update.vaonLost.done.ite h.update.pwErr.raiseAlert.done)

theorem Keeps.execPowerSample {main : List (Nat × Nat)} {aux amps : List Nat} :
    Answers s₀ (execPowerSample main aux amps s) := by
  unfold Machine.execPowerSample
  refine .ite h.done ?_
  extract_lets +onlyGivenNames counts sampled
  have hsampled : Keeps s₀ sampled := h.update (fieldsWf := tblWf_foldl _ (fun _ _ => tblWf_tmod _ _ _) _)
  split
  · exact .ite (hsampled.update.done.ite hsampled.update.done) hsampled.done
  · exact hsampled.done

theorem Keeps.execWakeStep {f : Field} : Answers s₀ (execWakeStep f s) := by
  unfold Machine.execWakeStep
  refine .ite h.done <| .ite h.setField.done ?_
  extract_lets +onlyGivenNames fs up woken
  have hup : Keeps s₀ up := h.foldl fun _ _ h => h.modSite
  have hwoken : Keeps s₀ woken := (hup.update (sitesWf := tblWf_tmapAll _ _)).ite hup
  exact hwoken.setField.done.ite (hwoken.setField.done.ite hwoken.setField.done)

theorem Keeps.thermalLatch : Keeps s₀ (thermalLatch s) := h.ite (h.update.ite h.update)

theorem Keeps.heatOff : Keeps s₀ (heatOff s) := by
  unfold Machine.heatOff
  extract_lets +onlyGivenNames counted
  have hcounted : Keeps s₀ counted := h.update (fieldsWf := tblWf_tmapAll _ _)
  extract_lets +onlyGivenNames must
  split
  exacts [hcounted.nameOwn.ite hcounted, hcounted]

theorem Keeps.adjustFloor {m : Nat} : Keeps s₀ (adjustFloor s m) := h.update.ite (h.update.pwErr.ite h.update)

theorem Keeps.execCappingLatch : Answers s₀ (execCappingLatch s) :=
  h.done.ite (h.adjustFloor.update (fieldsWf := tblWf_tmapAll _ _)).thermalLatch.heatOff.done

theorem Keeps.endStroke {w : Nat} {onP onD : Bool} {stroke : Nat} : Keeps s₀ (endStroke s w onP onD stroke) := h.endWhere
theorem Keeps.stopReplica : Keeps s₀ (stopReplica s) := h.endReplica.ite (h.endAll.tellMaster.ite h.endAll)

theorem Keeps.discardPending {status : Nat} : Keeps s₀ (discardPending s status) := by
  unfold Machine.discardPending
  split
  exacts [h, (h.update.dropStaged.closeWin.update (cascWf := tblWf_tmapAll _ _)).freeBarrier]

theorem Keeps.amend {kind f index phys code : Nat} : Keeps s₀ (amend s kind f index phys code) := h.update.ite h.update

theorem Keeps.permanent {el : Element} {code : Nat} : Keeps s₀ (permanent s el code) := by
  unfold Machine.permanent
  extract_lets +onlyGivenNames discarded settled
  have hsettled : Keeps s₀ settled := by
    unfold settled
    split
    · exact h.discardPending.amend.modCell.update
    · exact h.discardPending.amend.update.stopDataPath.stopReplica.update.ite h.discardPending.amend.update
    · exact h.discardPending.amend
  exact hsettled.loseSupply.ite hsettled

theorem Keeps.transient {el : Element} {code : Nat} : Keeps s₀ (transient s el code) := h.update.permanent.ite h.update

theorem Keeps.settleRestart {e : Nat} : Keeps s₀ (settleRestart s e) :=
  ((h.update.freeBarrier.ite h.update).freeBarrier.ite (h.update.freeBarrier.ite h.update)).freeBarrier.freeBarrier

theorem Keeps.nameRestart : Keeps s₀ (nameRestart s) :=
  h.ite (h.update.ite (h.ite (h.nameOwn.holdBarrier.ite h.settleRestart.nameOwn.holdBarrier)))

theorem Keeps.endHandling : Keeps s₀ (endHandling s) := h.update.nameRestart
theorem Keeps.freeCells : Keeps s₀ (freeCells s) := h.update (cellsWf := tblWf_tmapAll _ _)

theorem Keeps.closeWindow : Keeps s₀ (closeWindow s) := by
  unfold Machine.closeWindow
  split
  · exact h
  · refine .ite h ?_
    refine Keeps.endHandling ?_
    refine Keeps.freeCells ?_
    refine Keeps.update ?_
    split
    · split
      exacts [h.transient, h]
    · exact h

theorem Keeps.closeProof : Keeps s₀ (closeProof s) := by
  unfold Machine.closeProof
  split
  exacts [h.update.ite h, h]

theorem Keeps.fieldDark {f : Nat} : Keeps s₀ (fieldDark s f) := h.ite h.coolField.modField
theorem Keeps.noVariant : Keeps s₀ (noVariant s) := h.stopDataPath.stopReplica.update
theorem Keeps.logFix {old new : ErrRec} : Keeps s₀ (logFix s old new) := h.update
theorem Keeps.modQuad {p q : Nat} {g : QuadState → QuadState} : Keeps s₀ (modQuad s p q g) := h.modCasc
theorem Keeps.ckErr {p bit : Nat} : Keeps s₀ (ckErr s p bit) := h.modCasc

theorem Keeps.quadDown {p q : Nat} : Keeps s₀ (quadDown s p q) :=
  h.modQuad.ckErr.modCasc.raiseModule.ite h.modQuad.ckErr.modCasc

theorem Keeps.dropDisabled {p : Nat} : Keeps s₀ (dropDisabled s p) := h.foldl fun _ _ h => h.quadDown.ite h
theorem Keeps.notAdmitted {p reason : Nat} : Keeps s₀ (notAdmitted s p reason) := h.modCasc.update
theorem Keeps.primeAgain {p : Nat} {v : Prime} : Keeps s₀ (primeAgain s p v) := h.modCasc

theorem Keeps.followTime {p : Nat} {b : Bytes} {diff : Int} : Keeps s₀ (followTime s p b diff).1 := by
  unfold Machine.followTime
  split
  · exact h.update (fieldsWf := tblWf_tmapAll _ _)
  · split
    exacts [h.update, h.stopDataPath.update.primeAgain]

theorem Keeps.followCompact {p : Nat} {b : Bytes} {diff : Int} : Keeps s₀ (followCompact s p b diff) :=
  h.notAdmitted.ite (h.notAdmitted.ite (h.followTime.ite (h.followTime.primeAgain.ite h.followTime)))

theorem Keeps.leadCompact {p : Nat} {b : Bytes} {diff : Int} : Keeps s₀ (leadCompact s p b diff) :=
  h.notAdmitted.ite (h.notAdmitted.ite (h.update.primeAgain.ite (h.primeAgain.ite h.update.sendVc)))

theorem Keeps.judgeCompact {p : Nat} {b : Bytes} {diff : Int} : Keeps s₀ (judgeCompact s p b diff) :=
  h.leadCompact.ite (h.followCompact.ite h.primeAgain)

theorem Keeps.applyVerdicts : Keeps s₀ (applyVerdicts s) := by
  unfold Machine.applyVerdicts
  refine h.foldl fun _ _ h => ?_
  split
  exacts [h.modCasc.judgeCompact.ite h.modCasc, h]

theorem Keeps.applyTrim : Keeps s₀ (applyTrim s) := h.update

theorem Keeps.vlogicStep : Keeps s₀ (vlogicStep s) := by
  unfold Machine.vlogicStep
  split
  exacts [h.modField, h]

theorem Keeps.applyBoost {n : PeriodName} : Keeps s₀ (applyBoost s n) :=
  h.update.activateKey.ite (h.update.activateKey.ite (h.update.vlogicStep.ite h.update))

theorem Keeps.setPeriod : Keeps s₀ (setPeriod s) := h.update.applyBoost.update
theorem Keeps.boardReport : Keeps s₀ (boardReport s) := h.tellMaster
theorem Keeps.moveEvent {v : Event} {e : Nat} : Keeps s₀ (moveEvent s v e) := h.update.boardTell

theorem Keeps.boardDefer : Keeps s₀ (boardDefer s) := by
  unfold Machine.boardDefer
  exact .ite ((h.foldl fun _ _ h => h.moveOwn).foldl fun _ _ h => h.moveEvent) <| h.foldl fun _ _ h => h.moveOwn

theorem Keeps.boardDecide : Keeps s₀ (boardDecide s) := h.boardDefer.update.boardTell
theorem Keeps.boardTalk : Keeps s₀ (boardTalk s) := h.boardReport.ite (h.boardDecide.ite h)

theorem Keeps.approach : Keeps s₀ (approach s) := by
  unfold Machine.approach
  refine Keeps.foldl ?_ fun _ _ h => ?_
  · refine ((h.ite h.freeBarrier).ite (h.ite h.freeBarrier).freeBarrier).foldl fun _ _ h => ?_
    split
    · refine .ite ?_ (h.holdBarrier.ite h)
      split
      exacts [(h.holdBarrier.ite h).beginWakes.wakeSegments, h.holdBarrier.ite h]
    · exact h.holdBarrier.ite h
    · exact (h.holdBarrier.ite h).startInstall.ite (h.holdBarrier.ite h)
    · exact h
  · extract_lets +onlyGivenNames near held
    have hheld : Keeps s₀ held := by
      unfold held
      split
      exacts [h.holdBarrier.ite h, h.holdBarrier.ite h, h.holdBarrier.ite h, h]
    refine .ite ?_ hheld
    split
    exacts [hheld.beginWakes.wakeSegments, hheld]

theorem Keeps.restartRotation : Keeps s₀ (restartRotation s) := by
  unfold Machine.restartRotation
  exact ((h.foldl fun _ _ h => h.unnameOwn).update).freeBarrier

theorem Keeps.commitWrite {q : BitVec 64 × BitVec 64} : Keeps s₀ (commitWrite s q) := by
  unfold Machine.commitWrite
  extract_lets +onlyGivenNames a old written _ settled
  have hwritten : Keeps s₀ written := h.writeWo.writeCl
  have hsettled : Keeps s₀ settled :=
    .ite hwritten.updateServe <| .ite hwritten.updateServe <| .ite hwritten.portDown <|
      .ite hwritten.modPort.releaseHeld <| .ite hwritten.dropDisabled hwritten
  exact hsettled.ite hsettled.restartRotation

theorem Keeps.commitClears {e : Nat} : Keeps s₀ (commitClears s e) := (h.foldl fun _ _ h => h.writeW1c).ite h

theorem Keeps.curbCommit {txn : BitVec 16} : Keeps s₀ (curbCommit s txn) := by
  unfold Machine.curbCommit
  exact .ite h <| .ite h.abortTxn <| (h.foldl fun _ _ h => h.commitWrite).update

theorem Keeps.curbFirmware : Keeps s₀ (curbFirmware s) := h.update

theorem Keeps.revertFirmware : Keeps s₀ (revertFirmware s) := by
  unfold Machine.revertFirmware
  refine .ite h ?_
  split
  exacts [h.update.raiseAlert, h.update]

theorem Keeps.replacePack : Keeps s₀ (replacePack s) := by
  unfold Machine.replacePack
  split
  exacts [h.update, h]

theorem Keeps.curbInstall {v : Event} : Keeps s₀ (curbInstall s v) := by
  unfold Machine.curbInstall
  split
  exacts [h.becomeResident.freeBarrier.ite h.update, h.freeBarrier]

theorem Keeps.curbSwap : Keeps s₀ (curbSwap s) := h.startSwap.ite h

theorem Keeps.curbLadder {v : Event} {target : Nat} : Keeps s₀ (curbLadder s v target) :=
  h.ite (h.update.ite (h.update.ite h.boardTell.enterLower))

theorem Keeps.autoPoise : Keeps s₀ (autoPoise s) := h.update.boardTell.enterPoised.ite h.update
theorem Keeps.admitBoard : Keeps s₀ (admitBoard s) := (h.update (cascWf := tblWf_tmapAll _ _)).ite h
theorem Keeps.setBound : Keeps s₀ (setBound s) := h.update.raiseAlert.ite h.update

theorem Keeps.curbEvent {v : Event} : Keeps s₀ (curbEvent s v) := by
  unfold Machine.curbEvent
  split
  exacts [h.curbCommit, h.curbFirmware, h.replacePack, h.curbInstall, h.curbActivation, h.curbRecipe,
    h.curbSwap, h.update, h.curbLadder]

theorem Keeps.runEvents {rank : Nat} : Keeps s₀ (runEvents s rank) := by
  unfold Machine.runEvents
  exact h.update.foldl fun _ _ h => h.curbEvent

theorem Keeps.runOwn {rotation : Bool} : Keeps s₀ (runOwn s rotation) := by
  unfold Machine.runOwn
  exact h.update.foldl fun _ _ h => h.curbOwn

theorem Keeps.curbEvents : Keeps s₀ (curbEvents s) := by
  unfold Machine.curbEvents
  exact h.applyTrim.setPeriod.runEvents.runEvents.revertFirmware.runEvents.replacePack.runEvents.runEvents.runOwn.runOwn
    |>.runEvents.approach.runEvents.runEvents

theorem Keeps.execCurbStroke : Answers s₀ (execCurbStroke s) := by
  unfold Machine.execCurbStroke
  refine .ite h.done ?_
  extract_lets +onlyGivenNames cleared sampled reported
  have hreported : Keeps s₀ reported := (h.commitClears.sampleCall.ite h.commitClears).overrunRecord.takeReports
  exact ((hreported.stopDataPath.ite hreported).update (fieldsWf := tblWf_tmapAll _ _)).closeWindow.closeProof.endPrologue
    |>.admitBoard.autoPoise.applyVerdicts.curbEvents.setBound.done
end

end Sys2Proof.Machine
end

section
/-! PROOFS. Operations and commands that keep the tables canonical:
the assay, the ladder's commands, the mesh and the loss of a field. -/

namespace Sys2Proof.Machine

-- one proof is elaborated at a time: side by side they ask for more threads than the memory limit allows
set_option Elab.async false

variable {s₀ s : State}

section
variable (h : Keeps s₀ s)
include h

theorem Keeps.askShadow {sk : Nat} : Keeps s₀ (askShadow s sk) := by
  unfold Machine.askShadow
  split
  · exact h
  · dsimp only
    split
    · exact h
    · split
      exacts [h, h.ite h.modCell.modSite]

theorem Keeps.askShadows : Keeps s₀ (askShadows s) := h.foldl fun _ _ h => h.askShadow
theorem Keeps.abandonSample {sk k layer : Nat} : Keeps s₀ (abandonSample s sk k layer) := h.modSite.modCell.ledgerUpdate

theorem Keeps.execWideRecompute {site : SiteAddr} : Answers s₀ (execWideRecompute site s) := by
  unfold Machine.execWideRecompute
  dsimp only
  split
  · exact h.done
  · split
    · exact h.done
    · split
      exacts [h.done.ite (h.abandonSample.done.ite h.takeFree.modCell.modSite.done), h.done]

theorem Keeps.execSampleAbandon {site : SiteAddr} : Answers s₀ (execSampleAbandon site s) := by
  unfold Machine.execSampleAbandon
  dsimp only
  split
  · exact h.done
  · split
    exacts [h.done, h.abandonSample.done.ite h.done]
end

theorem Keeps.ladderAnswer {q : State × Nat} {tag : Option (BitVec 16)} (h : Keeps s₀ q.1) : Keeps s₀ (ladderAnswer q tag) := by
  unfold Machine.ladderAnswer
  split
  exacts [h.respond, h]

section
variable (h : Keeps s₀ s)
include h

theorem Keeps.execLadderLeave {tag : Option (BitVec 16)} {_epoch : BitVec 48} : Answers s₀ (execLadderLeave tag _epoch s) :=
  h.ladderLeave.ladderAnswer.done

theorem Keeps.execLadderHeld {tag : Option (BitVec 16)} {epoch : BitVec 48} : Answers s₀ (execLadderHeld tag epoch s) :=
  h.ladderEnter.ladderAnswer.done

theorem Keeps.execLadderBanked {tag : Option (BitVec 16)} {epoch : BitVec 48} : Answers s₀ (execLadderBanked tag epoch s) :=
  h.ladderEnter.ladderAnswer.done

theorem Keeps.execLadderDry {tag : Option (BitVec 16)} {epoch : BitVec 48} : Answers s₀ (execLadderDry tag epoch s) :=
  h.ladderEnter.ladderAnswer.done

theorem Keeps.leaveTo : Keeps s₀ (leaveTo s) := h.update
theorem Keeps.execPoisedExit : Answers s₀ (execPoisedExit s) := h.leaveTo.resumeCells.nameRestart.done.ite h.done

theorem Keeps.execHeldExit : Answers s₀ (execHeldExit s) :=
  h.wakeAll.restoreRouters.update.leaveTo.resumeCells.nameRestart.done.ite h.done

theorem Keeps.execBankedExit : Answers s₀ (execBankedExit s) := by
  unfold Machine.execBankedExit
  split
  exacts [h.update.wakeAll.activateLayout.update.done.ite h.done, h.done]

theorem Keeps.standReady : Keeps s₀ (standReady s) :=
  h.update (sitesWf := tblWf_foldl _ (fun _ _ => tblWf_tmod _ _ _) _)
    (fieldsWf := tblWf_foldl _ (fun _ _ => tblWf_tmod _ _ _) _)

theorem Keeps.execDryExit : Answers s₀ (execDryExit s) := (h.standReady.update (cascWf := tblWf_tmapAll _ _)).done.ite h.done

theorem Keeps.leavePort {f : Flit} : Keeps s₀ (leavePort s f) := by
  unfold Machine.leavePort
  dsimp only
  split
  exacts [h, (h.emit.modCasc.ite h.emit).ite h]

theorem Keeps.redArrive {rk port due b : Nat} : Keeps s₀ (redArrive s rk port due b) := h.modRouter

theorem Keeps.inputCheck {rk b : Nat} : Keeps s₀ (inputCheck s rk b).1 := by
  unfold Machine.inputCheck
  split
  exacts [h, h.modRouter]

theorem Keeps.hopFlit {f : Flit} {wire : BitVec 600} : Keeps s₀ (hopFlit s f wire) := by
  rw [Machine.hopFlit]
  obtain ⟨⟨u, b⟩, hq⟩ : ∃ q, Machine.inputCheck s (routerKeyXY f.x f.y) f.bits.toNat = q := ⟨_, rfl⟩
  have hu : Keeps s₀ u := by simpa only [hq] using h.inputCheck (rk := routerKeyXY f.x f.y) (b := f.bits.toNat)
  rw [hq]
  refine .ite hu <| .ite (hu.leavePort.ite hu.update) <| .ite hu.modRouter <| .ite hu ?_
  split
  next x y _ =>
  refine .ite hu.modRouter <| .ite hu ?_
  extract_lets +onlyGivenNames far
  obtain ⟨⟨v, w⟩, hv⟩ : ∃ q, Machine.inputCheck u far (b ^^^ wire.toNat) = q := ⟨_, rfl⟩
  have hv' : Keeps s₀ v := by simpa only [hv] using hu.inputCheck (rk := far) (b := b ^^^ wire.toNat)
  rw [hv]
  exact .ite hv'.redArrive <| .ite hv'.update <| .ite hv'.leavePort <| .ite hv'.modRouter hv'.update

theorem Keeps.execFlitArrival {index : Nat} {wire : BitVec 600} : Answers s₀ (execFlitArrival index wire s) := by
  unfold Machine.execFlitArrival
  split
  exacts [h.done, h.update.hopFlit.done.ite h.done]

theorem Keeps.settleTo {k due : Nat} : Keeps s₀ (settleTo s k due) := h.ite h.setCell

theorem Keeps.unitArrive {k task unit due : Nat} {data : List PWord} : Keeps s₀ (unitArrive s k task unit due data) := by
  unfold Machine.unitArrive
  dsimp only
  split
  exacts [h.setCell.settleTo, h.setCell]

theorem Keeps.execRouteUnitArrival {index : Nat} : Answers s₀ (execRouteUnitArrival index s) := by
  unfold Machine.execRouteUnitArrival
  split
  · exact h.done
  · refine .ite (h.update.done.ite h.done) ?_
    refine .ite ?_ h.done
    refine .ite h.update.modRouter.done <| .ite h.update.done ?_
    refine .ite ?_ ?_
    · refine Keeps.done ?_
      refine h.update.foldl fun _ _ h => ?_
      refine .ite ?_ h
      split
      exacts [h.unitArrive, h]
    · refine .ite h.update.update.done ?_
      split
      exacts [h.update.unitArrive.done, h.update.done]

theorem Keeps.execRouteGetSourceRead {index : SourceRead} : Answers s₀ (execRouteGetSourceRead index s) := by
  unfold Machine.execRouteGetSourceRead
  split
  · exact h.done
  · split
    exacts [h.update.done, h.update.settleTo.setCell.update.done.ite h.done]

theorem Keeps.takeLeg {rk sk tid unit code : Nat} : Keeps s₀ (takeLeg s rk sk tid unit code) := h.modSite.ite h.modRouter

theorem Keeps.nodeOut {rk x y e unit op : Nat} {n : NodeLeg} : Keeps s₀ (nodeOut s rk x y e unit op n) :=
  h.modRouter.ite h.update

theorem Keeps.execReductionNodeCombine {r : RouterAddr} {entry : Fin 256} {unit : Fin 64} {check : Option StageCheck} :
    Answers s₀ (execReductionNodeCombine r entry unit check s) := by
  unfold Machine.execReductionNodeCombine
  extract_lets +onlyGivenNames rk f cl xy e tid sk
  refine .ite h.done ?_
  extract_lets +onlyGivenNames q
  split
  · exact h.done
  · refine .ite h.done ?_
    extract_lets +onlyGivenNames one both
    have hboth : Keeps s₀ both := h.takeLeg.ite h.takeLeg.takeLeg
    exact (hboth.modRouter.ite hboth).nodeOut.done

theorem Keeps.execSelectorPostArrival {index : Nat} : Answers s₀ (execSelectorPostArrival index s) := by
  unfold Machine.execSelectorPostArrival
  split
  exacts [h.done, h.update.done.ite (h.update.done.ite (h.update.done.ite h.done))]

theorem Keeps.execSelectorPublication {chan : Fin 16} {field : Field} {crcOk : Bool} :
    Answers s₀ (execSelectorPublication chan field crcOk s) := by
  unfold Machine.execSelectorPublication
  dsimp only
  split
  · exact h.update.done
  · refine .ite ?_ ?_
    · refine .ite (h.update (waferWf := tblWf_tmod _ _ _)).done ?_
      exact (h.update (waferWf := tblWf_tmod _ _ _)).modField.update.coreEvent.done
    · exact h.update.modField.done

theorem Keeps.registerAccess {addr : BitVec 64} {write : Option (BitVec 128)} : Keeps s₀ (registerAccess s addr write) := by
  unfold Machine.registerAccess
  refine .ite h.noteDark.emit ?_
  split
  · exact h
  · split
    exacts [h, h.emit, h.writeControl]

theorem Keeps.fieldAct {f : Nat} {cmd : FcCmd} : Keeps s₀ (fieldAct s f cmd) := by
  unfold Machine.fieldAct
  split
  · exact h.modField
  · exact h.noteDark.ite h.writeControl
  · exact h.makeDark
  · exact h.makeHole.ite h.makeHole.settleHoles

theorem Keeps.ctrlAct {f : Nat} {m : CtrlMsg} : Keeps s₀ (ctrlAct s f m) := by
  unfold Machine.ctrlAct
  split
  exacts [h.registerAccess, h.fieldAct]

theorem Keeps.ctrlWord {f : Nat} : Keeps s₀ (ctrlWord s f) := by
  unfold Machine.ctrlWord
  dsimp only
  split
  · exact h
  · split
    exacts [h, h.setField.ctrlAct.ite h.setField]

theorem Keeps.ctrlServe {f n : Nat} : Keeps s₀ (ctrlServe s f n) := by
  induction n generalizing s with
  | zero => exact h
  | succ n ih => exact h.ite (ih h.ctrlWord)

theorem Keeps.ctrlSend {f : Nat} {m : CtrlMsg} : Keeps s₀ (ctrlSend s f m) := h.modField.ctrlServe

theorem Keeps.execFcCommand {f : Field} {cmd : FcCmd} {crcOk : Bool} : Answers s₀ (execFcCommand f cmd crcOk s) := by
  unfold Machine.execFcCommand
  refine .ite h.done <| .ite h.modField.update.coreEvent.done ?_
  split
  exacts [h.ctrlSend.done, h.ctrlSend.done, h.ctrlSend.done]

theorem Keeps.execControlRegisterAccess {addr : BitVec 64} {write : Option (BitVec 128)} :
    Answers s₀ (execControlRegisterAccess addr write s) :=
  h.ctrlSend.done.ite h.registerAccess.done

theorem Keeps.injectUnit {p e unit : Nat} {quad : Option Nat} {due : Nat} {data : List PWord} :
    Keeps s₀ (injectUnit s p e unit quad due data) :=
  h.update

theorem Keeps.unitLate {p rid : Nat} : Keeps s₀ (unitLate s p rid) := h.ckErr.modCasc.raiseModule

theorem Keeps.loseField {w : BitVec 2} {f : Field} {whole : Bool} : Keeps s₀ (loseField s w f whole) :=
  h.stopDataPath.update.holdBarrier.ite h.noVariant

theorem Keeps.deskew {cut : List Nat} : Keeps s₀ (deskew s cut) := h.foldl fun _ _ h => h.modField

theorem Keeps.execFieldHoleMark {f : Field} : Answers s₀ (execFieldHoleMark f s) := by
  unfold Machine.execFieldHoleMark
  split
  · exact h.done
  · refine .ite h.done ?_
    extract_lets +onlyGivenNames before dim holed cut raised unmarked cutOff told
    have htold : Keeps s₀ told :=
      ((h.settleHoles.ite h).foldl fun _ _ h => h.raiseModule).modField.deskew.discardPending.boardTell.tellMaster
    exact htold.done.ite htold.loseField.done

theorem Keeps.fieldLostThere {w : BitVec 2} {f : Field} : Keeps s₀ (fieldLostThere s w f) := by
  unfold Machine.fieldLostThere
  refine .ite h.discardPending.endWhere <| .ite h.discardPending.endWhere.loseField ?_
  exact h.discardPending.endWhere.update.holdBarrier.ite h.discardPending.endWhere

theorem Keeps.nameVariant : Keeps s₀ (nameVariant s) := by
  unfold Machine.nameVariant
  split
  exacts [h.update.nameOwn.ite h, h]

theorem Keeps.noteStaged {w : BitVec 2} : Keeps s₀ (noteStaged s w) := h.update.nameVariant

theorem Keeps.execHoleVariantStaged : Answers s₀ (execHoleVariantStaged s) := by
  unfold Machine.execHoleVariantStaged
  split
  exacts [h.tellMaster.done.ite (h.noteStaged.done.ite h.update.nameOwn.done), h.done]
end

end Sys2Proof.Machine
end

section
/-! PROOFS. Operations and commands that keep the tables canonical:
conversations, serving's commands and the loading of weights. -/

namespace Sys2Proof.Machine

-- one proof is elaborated at a time: side by side they ask for more threads than the memory limit allows
set_option Elab.async false

variable {s₀ s : State}

section
variable (h : Keeps s₀ s)
include h

theorem Keeps.endMove {m : FarMove} : Keeps s₀ (endMove s m) := h.update
theorem Keeps.storeConv {m : FarMove} {pages : Bool} : Keeps s₀ (storeConv s m pages) := h.update
theorem Keeps.forgetConv {conv : BitVec 64} : Keeps s₀ (forgetConv s conv) := h.update

theorem Keeps.tokenParcels {t : ServingTables} {i first : Nat} {toks : List Word} : Keeps s₀ (tokenParcels s t i first toks) :=
  h.foldl fun _ _ h => h.addParcel

theorem Keeps.beginReturn {t : ServingTables} {i : Nat} {r : Request} {v : StoredConv} : Keeps s₀ (beginReturn s t i r v) := by
  unfold Machine.beginReturn
  refine .ite h.update.freeSets.setRequest.sendHost ?_
  split
  · exact h.update.freeSets.setRequest.sendHost
  next u hu => exact (h.update.makeRoom hu).bindSets.setRequest.sendHost

theorem Keeps.endReturn {i : Nat} {r : Request} : Keeps s₀ (endReturn s i r) := h.freeSets.releaseConv.setRequest

theorem Keeps.settleWaiters {t : ServingTables} {conv : BitVec 64} : Keeps s₀ (settleWaiters s t conv) := by
  unfold Machine.settleWaiters
  extract_lets +onlyGivenNames returned
  have hreturned : Keeps s₀ returned := h.foldl fun _ q h => by
    split
    exacts [h.endReturn.ite h, h]
  split
  exacts [hreturned.beginReturn, hreturned.setRequest.endRequest, hreturned]

theorem Keeps.dropReads {ps : List PagePlace} : Keeps s₀ (dropReads s ps) := h.foldl fun _ _ h => h.modSite

theorem Keeps.finishCopy : Keeps s₀ (finishCopy s) := by
  unfold Machine.finishCopy
  split
  next m _ _ _ _ =>
    refine .ite h ?_
    extract_lets +onlyGivenNames pages data blocks
    split
    · exact h.endMove.forgetConv.settleWaiters
    · exact h.forgetConv.update.sendHost
  · exact h

theorem Keeps.abandonPages : Keeps s₀ (abandonPages s) := by
  unfold Machine.abandonPages
  split
  exacts [h.ite h.update.dropReads, h]

theorem Keeps.execFarTierCopy {poisonedPages : Bool} {egressFails : Nat} :
    Answers s₀ (execFarTierCopy poisonedPages egressFails s) := by
  unfold Machine.execFarTierCopy
  split
  · refine .ite h.finishCopy.done <| .ite h.done <| .ite h.endMove.forgetConv.done ?_
    exact ((h.ite h.svcErr).update.foldl fun _ _ h => h.modSite).finishCopy.done
  · exact h.done

theorem Keeps.execFarTierWriteComplete {ok headerDone : Bool} : Answers s₀ (execFarTierWriteComplete ok headerDone s) := by
  unfold Machine.execFarTierWriteComplete
  split
  exacts [h.done.ite (h.endMove.storeConv.ite h.endMove).settleWaiters.done, h.done]

theorem Keeps.recomputePath {i : Nat} {r : Request} : Keeps s₀ (recomputePath s i r) := h.freeSets.forgetConv.setRequest

theorem Keeps.execFarTierReadComplete {index : Nat} {data : Option FarTierData} :
    Answers s₀ (execFarTierReadComplete index data s) := by
  unfold Machine.execFarTierReadComplete
  split
  · split
    · exact h.done
    · refine .ite h.done <| .ite h.endReturn.done ?_
      split
      · exact (h.tokenParcels.ite h).recomputePath.done
      · refine .ite h.setRequest.endRequest.done ?_
        extract_lets +onlyGivenNames words history whole
        have hwhole : Keeps s₀ whole := h.tokenParcels.tokenParcels.ite h.tokenParcels
        refine .ite hwhole.recomputePath.done <| .ite ?_ hwhole.recomputePath.done
        refine (Keeps.foldl hwhole fun _ _ h => Keeps.modSite (h.foldl fun _ _ h => ?_)).setRequest.done
        split
        exacts [h.meshSend, h]
  · exact h.done

theorem Keeps.settleReturns : Keeps s₀ (settleReturns s) := by
  unfold Machine.settleReturns
  split
  · exact h
  · refine h.foldl fun _ _ h => ?_
    split
    exacts [h.ite (h.ite (h.endReturn.ite h.update.forgetConv.setRequest)), h]

theorem Keeps.execTtlExpiry {conv : BitVec 64} : Answers s₀ (execTtlExpiry conv s) := h.update.done
theorem Keeps.freeEnded : Keeps s₀ (freeEnded s) := h.updateTable (tblWf_filter _ _)

theorem Keeps.execDraw : Answers s₀ (execDraw s) := by
  unfold Machine.execDraw
  refine .ite h.done <| .ite h.updateServe.freeEnded.done ?_
  exact h.updateServe.freeEnded.updateServe.done.ite h.updateServe.freeEnded.updateServe.sendHost.done

theorem Keeps.drawFailed : Keeps s₀ (drawFailed s) := h.updateServe.svcErr.updateServe.ite h.updateServe.svcErr

theorem Keeps.readDescriptors {n count : Nat} : Keeps s₀ (readDescriptors s n count) :=
  (h.ite h.sendHost).ite (h.ite h.sendHost).sendHost

theorem Keeps.execIndexReadComplete {data : Option Bytes} : Answers s₀ (execIndexReadComplete data s) := by
  unfold Machine.execIndexReadComplete
  refine .ite h.done ?_
  split
  · exact h.drawFailed.done
  · extract_lets +onlyGivenNames drained producer _ seen
    have hseen : Keeps s₀ seen := h.drainPort.updateServe
    exact .ite hseen.updateServe.svcErr.done <| .ite hseen.updateServe.done hseen.updateServe.readDescriptors.done

theorem Keeps.cancelRequest {handle : Nat} : Keeps s₀ (cancelRequest s handle) := by
  unfold Machine.cancelRequest
  split
  exacts [h, h.setRequest.ite h.endRequest]

theorem Keeps.reviveMove {i : Nat} {m : FarMove} : Keeps s₀ (reviveMove s i m) := h.update
theorem Keeps.takeUnread {i : Nat} {m : FarMove} : Keeps s₀ (takeUnread s i m) := h.dropReads.update

theorem Keeps.resumeRequest {t : ServingTables} {i : Nat} {r : Request} : Keeps s₀ (resumeRequest s t i r) := by
  unfold Machine.resumeRequest
  split
  · exact h.beginReturn
  · split
    · exact h
    · refine .ite (h.takeUnread.pageMaps.ite h).setRequest.finishCopy ?_
      have hplaced {u : State} (hu : Keeps s₀ u) : Keeps s₀ u := hu
      exact ((h.reviveMove.ite h.endMove).dropReads.setRequest.pageMaps.ite
        (h.reviveMove.ite h.endMove).dropReads.setRequest).tokenParcels

theorem Keeps.takeIn {t : ServingTables} {d : Bytes} : Keeps s₀ (takeIn s t d) := by
  unfold Machine.takeIn
  extract_lets +onlyGivenNames i flags len resume word r named told asked resumed
  have hasked : Keeps s₀ asked := h.setRequest.addParcel.sendHost
  have hresumed : Keeps s₀ resumed := hasked.resumeRequest.ite hasked
  exact hresumed.askLeave.ite hresumed

theorem Keeps.takeDescriptor {d : Bytes} : Keeps s₀ (takeDescriptor s d) := by
  unfold Machine.takeDescriptor
  refine .ite (h.cancelRequest.ite h) ?_
  split
  · exact h.refusalRecord
  · split
    exacts [h.refusalRecord, h.takeIn]

theorem Keeps.execDescriptorReadComplete {data : Option (List Bytes)} : Answers s₀ (execDescriptorReadComplete data s) := by
  unfold Machine.execDescriptorReadComplete
  split
  · split
    · exact h.drawFailed.done
    · exact (h.drainPort.meshSend.updateServe.sendHost.foldl fun _ _ h => h.takeDescriptor).done
  · exact h.done

theorem Keeps.execPromptReadComplete {index : Nat} {tokens : List Word} :
    Answers s₀ (execPromptReadComplete index tokens s) := by
  unfold Machine.execPromptReadComplete
  split
  · refine .ite h.done ?_
    dsimp only
    split
    · exact (h.drainPort.tokenParcels.ite h.drainPort).setRequest.done
    · exact (h.drainPort.tokenParcels.ite h.drainPort).done
  · exact h.done

theorem Keeps.execPromptReadFailure {index : Nat} : Answers s₀ (execPromptReadFailure index s) := by
  unfold Machine.execPromptReadFailure
  split
  exacts [h.done.ite (h.setRequest.sendHost.done.ite h.svcErr.endRequest.done), h.done]

theorem Keeps.execCompletionRecordWrite {egressFails : Nat} : Answers s₀ (execCompletionRecordWrite egressFails s) := by
  unfold Machine.execCompletionRecordWrite
  split
  · exact h.done
  · refine .ite h.done <| .ite (h.ite h.svcErr).updateServe.ringPush.done ?_
    exact (h.ite h.svcErr).updateServe.meshSend.sendHost.updateServe.sendHost.done

theorem Keeps.placeProvisional {w : WeightSet} : Keeps s₀ (placeProvisional s w) := by
  unfold Machine.placeProvisional
  refine h.foldl fun _ _ h => ?_
  split
  exacts [h, h.foldl fun _ _ h => h.modSite]

theorem Keeps.askShard {w : WeightSet} {i : Nat} : Keeps s₀ (askShard s w i) := by
  unfold Machine.askShard
  split
  exacts [h, h.update.sendHost]

theorem Keeps.requestShards {w : WeightSet} : Keeps s₀ (requestShards s w) := h.foldl fun _ _ h => h.askShard
theorem Keeps.beginLoad {w : WeightSet} : Keeps s₀ (beginLoad s w) := (h.placeProvisional.ite h).update

theorem Keeps.startLoad {w : WeightSet} {manifest : Bytes} : Keeps s₀ (startLoad s w manifest) :=
  (h.beginLoad.foldl fun _ _ h => h.sendVc).requestShards

theorem Keeps.followLoad {b : Bytes} : Keeps s₀ (followLoad s b) := h.beginLoad

theorem Keeps.settleLoad : Keeps s₀ (settleLoad s) := by
  unfold Machine.settleLoad
  split
  exacts [h, (h.update.startInstall.ite h.update).ite h]

theorem Keeps.stagePieces {w : WeightSet} {origin : Nat × Nat} {pieces : List (Nat × Bytes)} {damaged : List Nat} :
    Keeps s₀ (stagePieces s w origin pieces damaged) := by
  unfold Machine.stagePieces
  refine h.foldl fun _ _ h => ?_
  split
  exacts [h, h.meshSend.modSite]

theorem Keeps.stageShard {w : WeightSet} {i : Nat} {plain : Bytes} {damaged : List Nat} :
    Keeps s₀ (stageShard s w i plain damaged) :=
  h.stagePieces.foldl fun _ _ h => h.sendVc

theorem Keeps.followShard {origin : Nat × Nat} {i : Nat} {pieces : List (Nat × Bytes)} :
    Keeps s₀ (followShard s origin i pieces) := by
  unfold Machine.followShard
  split
  exacts [h, h.ite h.stagePieces.update.settleLoad]

theorem Keeps.retryShard {w : WeightSet} {i : Nat} : Keeps s₀ (retryShard s w i) := h.dropLoad.ite h.update.askShard
end

end Sys2Proof.Machine
end

section
/-! PROOFS. Operations and commands that keep the tables canonical:
heat, start-up, images, plans, windows, host ports and a weight set's commands. -/

namespace Sys2Proof.Machine

-- one proof is elaborated at a time: side by side they ask for more threads than the memory limit allows
set_option Elab.async false

variable {s₀ s : State}

section
variable (h : Keeps s₀ s)
include h

theorem Keeps.orFree {q : Option (Nat × Nat)} {n : Nat} : Keeps s₀ (orFree s q n).1 := by
  unfold Machine.orFree
  split
  exacts [h, h.takeFree]

theorem Keeps.noteSuspect : Keeps s₀ (noteSuspect s) := h.thErr.raiseAlert

theorem Keeps.fieldRound {r : FieldSensors} : Keeps s₀ (fieldRound s r) := by
  unfold Machine.fieldRound
  refine .ite h ?_
  extract_lets +onlyGivenNames inlet logic dram n counted pairs drams
  have hpairs : Keeps s₀ pairs := (h.ite h.modField.thErr).foldl fun _ _ h => h.setSite.noteSuspect.ite h.setSite
  have hdrams : Keeps s₀ drams := hpairs.foldl fun _ _ h => h.setField.noteSuspect.ite h.setField
  exact hdrams.orFree.orFree.modField

theorem Keeps.startGrace : Keeps s₀ (startGrace s) := h.update.raiseAlert.ite h.update.raiseAlert.update

theorem Keeps.shutDown {cause : Nat} : Keeps s₀ (shutDown s cause) :=
  h.ite ((h.update.ite h.thErr).haltOthers.update.forceLadder fun _ h => h.enterDry)

theorem Keeps.shutdownTest : Keeps s₀ (shutdownTest s) := h.shutDown.ite (h.shutDown.ite h)

theorem Keeps.spreadTest : Keeps s₀ (spreadTest s) := by
  unfold Machine.spreadTest
  dsimp only
  split
  exacts [h, h.thErr.raiseAlert.ite h]

theorem Keeps.heatReturns : Keeps s₀ (heatReturns s) := by
  unfold Machine.heatReturns
  refine h.foldl fun _ _ h => ?_
  refine .ite ?_ h
  dsimp only
  split
  exacts [h.modField.nameOwn.ite h.modField, h.modField.modField]

theorem Keeps.pollControllers {missed : List Field} : Keeps s₀ (pollControllers s missed) :=
  h.update (fieldsWf := tblWf_foldl _ (fun _ _ => tblWf_tmod _ _ _) _)

theorem Keeps.execOnWaferRound {readings : List FieldSensors} {missedPolls : List Field} :
    Answers s₀ (execOnWaferRound readings missedPolls s) := by
  unfold Machine.execOnWaferRound
  refine .ite h.done ?_
  extract_lets +onlyGivenNames _ stamped before read
  have hread : Keeps s₀ read := h.update.foldl fun _ _ h => h.fieldRound
  exact (hread.startGrace.ite hread).spreadTest.shutdownTest.heatReturns.pollControllers.done

theorem Keeps.execGraceEnd : Answers s₀ (execGraceEnd s) := h.done.ite (h.update.update.done.ite h.update.update.done)
theorem Keeps.execThClearShutdown : Answers s₀ (execThClearShutdown s) := h.clearShutdown.done
theorem Keeps.trayReadings {r : TrayReading} : Keeps s₀ (trayReadings s r) := h.update.thErr.ite h.update
theorem Keeps.flowWarning : Keeps s₀ (flowWarning s) := (h.update.ite h.update.startGrace).ite h.update

theorem Keeps.flowStopTest : Keeps s₀ (flowStopTest s) :=
  h.update.ite (h.ite (h.update (fieldsWf := tblWf_tmapAll _ _)).raiseAlert)

theorem Keeps.hostCmd {c : Byte} : Keeps s₀ (hostCmd s c) :=
  h.update.ite ((h.update.update.ite h.update).ite (h.clearShutdown.update.ite h.update))

theorem Keeps.trayStep {r : TrayReading} : Keeps s₀ (trayStep s r) := by
  unfold Machine.trayStep
  extract_lets +onlyGivenNames read cold flowing heat calm counted
  have hcounted : Keeps s₀ counted := (h.trayReadings.raiseAlert.ite h.trayReadings).flowWarning.flowStopTest.update
  exact (hcounted.shutDown.ite hcounted).hostCmd

theorem Keeps.execForcedPoise : Answers s₀ (execForcedPoise s) := by
  unfold Machine.execForcedPoise
  exact .ite h.done <| (h.update.update.forceLadder fun _ h => h.enterPoised).haltOthers.done.ite h.update.done

theorem Keeps.execAnalogTrip {f : Field} {dram : Bool} : Answers s₀ (execAnalogTrip f dram s) :=
  h.done.ite (h.modField.fieldDark.ringPush.done.ite h.modField.done)

theorem Keeps.execAgeingMeasurement {f : Field} {m : AgeMonitor} {value months : Nat} :
    Answers s₀ (execAgeingMeasurement f m value months s) :=
  h.done.ite (h.modField.raiseAlert.done.ite h.modField.done)

theorem Keeps.startFields {e : StartupEnv} : Keeps s₀ (startFields s e) :=
  (h.foldl fun _ _ h => h.modField).foldl fun _ _ h => h.modField

theorem Keeps.startMap {e : StartupEnv} : Keeps s₀ (startMap s e) := by
  unfold Machine.startMap
  extract_lets +onlyGivenNames t found tested _ noted known bad mapped
  have hmapped : Keeps s₀ mapped := h.update.applyDefects.update (sitesWf := tblWf_foldl _ (fun _ _ => tblWf_tmod _ _ _) _)
  exact (hmapped.foldl fun _ _ h => h.makeHole.ite h).settleHoles

theorem Keeps.startSteps {e : StartupEnv} : Keeps s₀ (startSteps s e) := by
  unfold Machine.startSteps
  extract_lets +onlyGivenNames _ _ _ begun cause
  have hbegun : Keeps s₀ begun := h.update
  refine .ite hbegun.update ?_
  extract_lets +onlyGivenNames g _ held plate mapped _ _ _ ready last read alerted
  have hread : Keeps s₀ read :=
    (hbegun.update.ite hbegun.update.raiseAlert).startFields.startMap.update.foldl fun _ _ h => h.trayReadings
  have halerted : Keeps s₀ alerted := hread.raiseAlert.ite hread
  exact (halerted.raiseModule.forceLadder fun _ h => h.enterDry).ite halerted

theorem Keeps.startUp {e : StartupEnv} : Keeps s₀ (startUp s e) := by
  unfold Machine.startUp
  split
  exacts [h.update.modPort, h.update.startSteps]

theorem Keeps.execModResetRelease {env : StartupEnv} : Answers s₀ (execModResetRelease env s) :=
  h.update.done.ite (h.update.update.done.ite h.update.startUp.done)

theorem Keeps.execBusRise : Answers s₀ (execBusRise s) := by
  unfold Machine.execBusRise
  dsimp only
  split
  exacts [h.update.startUp.done.ite h.update.done, h.update.done]

theorem Keeps.execPwrEnHigh : Answers s₀ (execPwrEnHigh s) := h.update.done
theorem Keeps.execPwrEnLow : Answers s₀ (execPwrEnLow s) := h.vaonLost.update.done
theorem Keeps.execModResetAssert : Answers s₀ (execModResetAssert s) := h.update.done.ite h.vaonLost.update.done

theorem Keeps.execTrayRound {r : TrayReading} : Answers s₀ (execTrayRound r s) := by
  unfold Machine.execTrayRound
  refine .ite (h.done.ite h.update.trayStep.done) ?_
  split
  exacts [h.startSteps.done.ite h.done, h.done]

theorem Keeps.acceptImage {cls : Nat} {i : FwImage} : Keeps s₀ (acceptImage s cls i) := by
  unfold Machine.acceptImage
  refine .ite ?_ h.update
  split
  exacts [h.update.startUp, h.update]

theorem Keeps.acceptPack {p : TestPack} {d : BitVec 256} {counter : Nat} : Keeps s₀ (acceptPack s p d counter) := h.update
theorem Keeps.keepFinds {p : Plan} {l : List Finding} : Keeps s₀ (keepFinds s p l) := h.update.foldl fun _ _ h => h.logAdd

theorem Keeps.answerWin {w status : Nat} {body : List (BitVec 64)} : Keeps s₀ (answerWin s w status body) := by
  unfold Machine.answerWin
  split
  exacts [h.setWindow.respond, h]

theorem Keeps.segmentCorrupt {p : HostPort} : Keeps s₀ (segmentCorrupt s p) := h.modPort
theorem Keeps.dropPlanFile : Keeps s₀ (dropPlanFile s) := h.update.closeWin

theorem Keeps.execPlanCheckComplete {files : List PlanSections} {corrupt : Option HostPort} :
    Answers s₀ (execPlanCheckComplete files corrupt s) := by
  unfold Machine.execPlanCheckComplete
  refine .ite h.done ?_
  cases corrupt with
  | some p => exact h.segmentCorrupt.answerWin.update.dropPlanFile.done
  | none =>
    -- what the checks find is left open, so that nothing evaluates them
    generalize planFinds = finds
    extract_lets +onlyGivenNames head header top file own
    cases finds s head file top files with
    | nil => exact h.answerWin.update.done
    | cons => exact h.keepFinds.answerWin.dropPlanFile.done

theorem Keeps.execPlanStagingComplete : Answers s₀ (execPlanStagingComplete s) := by
  unfold Machine.execPlanStagingComplete
  split
  · exact h.done
  · refine .ite h.done ?_
    split
    exacts [h.stageUnder.update.done, h.keepFinds.done]

theorem Keeps.nameRotation : Keeps s₀ (nameRotation s) := h.update.ite h.update.nameOwn.update
theorem Keeps.execRotationDue : Answers s₀ (execRotationDue s) := h.nameRotation.done.ite h.done

theorem Keeps.retryOwn {k : OwnKind} : Keeps s₀ (retryOwn s k) := by
  unfold Machine.retryOwn
  split
  exacts [h.update, h.update]

theorem Keeps.abandonOwn {o : OwnEvent} : Keeps s₀ (abandonOwn s o) := h.unnameOwn.retryOwn

theorem Keeps.execRotationIdleCheck : Answers s₀ (execRotationIdleCheck s) := by
  unfold Machine.execRotationIdleCheck
  refine .ite ?_ h.done
  exact (h.foldl fun _ _ h => h.abandonOwn).done

theorem Keeps.execRotationRetry : Answers s₀ (execRotationRetry s) := h.update.nameRotation.done.ite h.done
theorem Keeps.openWin {w : Nat} : Keeps s₀ (openWin s w) := h.setWindow.update.ite h.setWindow

theorem Keeps.takeManifest : Keeps s₀ (takeManifest s) := by
  unfold Machine.takeManifest
  refine .ite h.answerWin.closeWin ?_
  split
  exacts [h.update.answerWin.closeWin, h.answerWin.startLoad]

theorem Keeps.takeImage : Keeps s₀ (takeImage s) := by
  unfold Machine.takeImage
  dsimp only
  split
  exacts [h.update.answerWin.closeWin, h.answerWin.closeWin.acceptImage]

theorem Keeps.takePack {pack : Option TestPack} : Keeps s₀ (takePack s pack) := by
  unfold Machine.takePack
  dsimp only
  split
  exacts [h.answerWin.closeWin, h.answerWin.closeWin.acceptPack]

theorem Keeps.corruptStatus {w : Nat} : Keeps s₀ (corruptStatus s w) := by
  unfold Machine.corruptStatus
  split
  exacts [h.update, h.update, h.update, h]

theorem Keeps.takeClose {w : Nat} : Keeps s₀ (takeClose s w) := by
  unfold Machine.takeClose
  dsimp only
  split
  · exact h
  · split
    · exact h.setWindow.segmentCorrupt.corruptStatus.answerWin.closeWin
    · split
      exacts [h.setWindow.takeManifest, h.setWindow.update, h.setWindow.takeImage, h.setWindow.takePack,
        h.setWindow.closeWin]

theorem Keeps.settleClose {w : Nat} : Keeps s₀ (settleClose s w) := h.takeClose.ite h
theorem Keeps.modQp {p qp : Nat} {g : Qp → Qp} : Keeps s₀ (modQp s p qp g) := h.modPort

theorem Keeps.ingress {p : Nat} {bulk : Bool} {n : Nat} : Keeps s₀ (ingress s p bulk n) :=
  h.setPort.ite (h.setPort.emit.ite h.setPort)

theorem Keeps.sendCnp {p qp : Nat} : Keeps s₀ (sendCnp s p qp) := by
  unfold Machine.sendCnp
  split
  exacts [h, h.ite h.modQp.sendHost]

theorem Keeps.execEthernetFrameReceive {p : HostPort} {frame : Frame} : Answers s₀ (execEthernetFrameReceive p frame s) := by
  unfold Machine.execEthernetFrameReceive
  refine .ite h.done <| .ite h.setPort.modPort.done <| .ite h.setPort.done <| .ite h.setPort.done ?_
  extract_lets +onlyGivenNames pcp taken
  have htaken : Keeps s₀ taken := h.setPort.ingress.ite (h.setPort.ite h.setPort.ingress)
  split
  · extract_lets +onlyGivenNames noted
    have hnoted : Keeps s₀ noted := htaken.sendCnp.ite htaken
    exact (hnoted.sendHost.ite hnoted).done
  · exact htaken.done

theorem Keeps.execPfcPauseReceive {p : HostPort} {pcp : BitVec 3} {pause : Bool} :
    Answers s₀ (execPfcPauseReceive p pcp pause s) :=
  h.setPort.releaseHeld.done.ite h.done

theorem Keeps.execCnpReceive {p : HostPort} {qp : Fin 512} : Answers s₀ (execCnpReceive p qp s) := by
  unfold Machine.execCnpReceive
  refine .ite h.done ?_
  dsimp only
  split
  exacts [h.modPort.done, h.modPort.done.ite h.modPort.modQp.done]

theorem Keeps.execRateRecovery {p : HostPort} {qp : Fin 512} : Answers s₀ (execRateRecovery p qp s) := by
  unfold Machine.execRateRecovery
  dsimp only
  split
  exacts [h.done, h.done.ite h.modQp.done]

theorem Keeps.execConnectionRequest {p : HostPort} {gid : BitVec 128} {mtu : Nat} :
    Answers s₀ (execConnectionRequest p gid mtu s) := by
  unfold Machine.execConnectionRequest
  refine .ite h.done ?_
  refine .ite ?_ h.emit.done
  split
  exacts [h.modPort.emit.done, h.emit.done]

theorem Keeps.latePacket {p qp w : Nat} : Keeps s₀ (latePacket s p qp w) := h.modPort.sendHost.setWindow.settleClose

theorem Keeps.execRdmaWritePacket {p : HostPort} {qp : Fin 512} {rkey : Word} {offset : Nat} {data : Bytes} {_first last : Bool} :
    Answers s₀ (execRdmaWritePacket p qp rkey offset data _first last s) := by
  unfold Machine.execRdmaWritePacket
  exact .ite h.done <| .ite h.drainPort.sendHost.done <| h.drainPort.latePacket.done.ite h.drainPort.setWindow.settleClose.done

theorem Keeps.execRdmaReadWindow {p : HostPort} {qp : Fin 512} {rkey : Word} {offset length : Nat} :
    Answers s₀ (execRdmaReadWindow p qp rkey offset length s) :=
  h.done.ite (h.sendHost.done.ite h.sendHost.done)

theorem Keeps.execWindowCloseTimeout {w : Fin 4} : Answers s₀ (execWindowCloseTimeout w s) := h.takeClose.done.ite h.done
theorem Keeps.execLinkDown {p : HostPort} : Answers s₀ (execLinkDown p s) := h.done.ite h.portDown.done

theorem Keeps.execLinkUp {p : HostPort} {assembly copper : Bool} : Answers s₀ (execLinkUp p assembly copper s) :=
  h.done.ite h.setPort.done

theorem Keeps.execPtpSyncExchange {seconds nanoseconds : Nat} {offsetNs : Int} :
    Answers s₀ (execPtpSyncExchange seconds nanoseconds offsetNs s) := by
  unfold Machine.execPtpSyncExchange
  split
  exacts [h.done, h.modPort.update.done]

theorem Keeps.execPtpSyncTimeout : Answers s₀ (execPtpSyncTimeout s) := by
  unfold Machine.execPtpSyncTimeout
  split
  exacts [h.done, h.done.ite h.modPort.done]

theorem Keeps.execPtpServo : Answers s₀ (execPtpServo s) := h.done.ite (h.ite h.modPort).update.boardTell.done

theorem Keeps.execShardArrival {index : Nat} {ciphertext : Bytes} {delivery : ShardDelivery} :
    Answers s₀ (execShardArrival index ciphertext delivery s) := by
  unfold Machine.execShardArrival
  split
  · exact h.done
  · split
    · exact h.done
    · refine .ite h.done <| .ite (h.dropLoad.done.ite h.update.askShard.done) ?_
      exact h.update.retryShard.done.ite h.stageShard.update.requestShards.settleLoad.done

theorem Keeps.execShardTimeout {index : Nat} : Answers s₀ (execShardTimeout index s) := by
  unfold Machine.execShardTimeout
  split
  exacts [h.done, h.retryShard.done.ite h.done]

theorem Keeps.execInstallComplete : Answers s₀ (execInstallComplete s) := by
  unfold Machine.execInstallComplete
  split
  exacts [h.done, h.becomeResident.done.ite h.done]

theorem Keeps.execSwapLate : Answers s₀ (execSwapLate s) := by
  unfold Machine.execSwapLate
  split
  exacts [h.done, h.raiseModule.done]

theorem Keeps.execSwapEnd : Answers s₀ (execSwapEnd s) := by
  unfold Machine.execSwapEnd
  split
  exacts [h.done.ite (h.becomeResident.reactivate.ite h.becomeResident).freeBarrier.done, h.done]

theorem Keeps.execDiscardSet {tag : BitVec 16} : Answers s₀ (execDiscardSet tag s) :=
  h.respond.done.ite (h.respond.done.ite h.dropEvents.freeBarrier.dropLoad.respond.done)

theorem Keeps.execRefillComplete {site : SiteAddr} {line : Nat} {data : Option Bytes} :
    Answers s₀ (execRefillComplete site line data s) := by
  unfold Machine.execRefillComplete
  refine .ite h.done ?_
  split
  exacts [h.raiseModule.done, h.meshSend.modSite.done]

theorem Keeps.execDigestPassStart : Answers s₀ (execDigestPassStart s) := by
  unfold Machine.execDigestPassStart
  split
  · exact h.done
  · refine .ite h.done ?_
    refine Keeps.done ?_
    refine ((h.raiseAlert.ite h).update (sitesWf := tblWf_tmapAll _ _)).foldl fun _ _ h => ?_
    split
    exacts [h.modSite, h]

theorem Keeps.diverge {w : WeightSet} {r : Nat × Nat} : Keeps s₀ (diverge s w r) := by
  unfold Machine.diverge
  split
  exacts [h, h.raiseField.update.foldl fun _ _ h => h.askRefill]

theorem Keeps.recheckExtents : Keeps s₀ (recheckExtents s) := by
  unfold Machine.recheckExtents
  split
  exacts [h, h.update.foldl fun _ _ h => h.diverge]

theorem Keeps.execDigestPassComplete {diverged : List (SiteAddr × Nat)} : Answers s₀ (execDigestPassComplete diverged s) := by
  unfold Machine.execDigestPassComplete
  split
  exacts [h.done.ite (h.foldl fun _ _ h => h.diverge).update.done, h.done]
end

end Sys2Proof.Machine
end

section
/-! PROOFS. Operations and commands that keep the tables canonical:
the management interface, the cascade and the handling of errors. -/

namespace Sys2Proof.Machine

-- one proof is elaborated at a time: side by side they ask for more threads than the memory limit allows
set_option Elab.async false

variable {s₀ s : State}

section
variable (h : Keeps s₀ s)
include h

theorem Keeps.serve {op : Nat} {tag : BitVec 16} {f : State → State} (hf : ∀ t, Keeps s₀ t → Keeps s₀ (f t)) :
    Keeps s₀ (serve s op tag f) :=
  h.ite (h.respond.ite (hf s h))

theorem Keeps.acceptEvent {tag : BitVec 16} {epoch : Nat} {k : EventKind} {more : List (BitVec 64)} :
    Keeps s₀ (acceptEvent s tag epoch k more) :=
  h.addEvent.respond

theorem Keeps.scheduleEvent {tag : BitVec 16} {epoch more : Nat} {occupies : Bool} {k : EventKind} :
    Keeps s₀ (scheduleEvent s tag epoch more occupies k) := by
  unfold Machine.scheduleEvent
  split
  exacts [h.respond, h.acceptEvent]

theorem Keeps.dropCommit : Keeps s₀ (dropCommit s) := h.dropEvents
theorem Keeps.endTxn {status : Nat} : Keeps s₀ (endTxn s status) := h.abortTxn.dropCommit
theorem Keeps.stopInstall : Keeps s₀ (stopInstall s) := (h.update (sitesWf := tblWf_tmapAll _ _)).ite h

theorem Keeps.undoEvent {k : EventKind} : Keeps s₀ (undoEvent s k) := by
  unfold Machine.undoEvent
  split
  exacts [h.freeBarrier, h.update.freeBarrier, h.stopInstall.freeBarrier, h.abortTxn, h.update, h, h, h, h]

theorem Keeps.execReadRegisters {tag : BitVec 16} {addr : BitVec 64} {count : Nat} :
    Answers s₀ (execReadRegisters tag addr count s) := by
  unfold Machine.execReadRegisters
  refine .ite h.done <| .ite h.respond.done <| .ite h.respond.done ?_
  split
  · exact h.respond.done
  · split
    exacts [h.respond.done, h.noteDark.respond.done.ite h.respond.done]

theorem Keeps.execStageWrite {tag txn : BitVec 16} {addr value : BitVec 64} :
    Answers s₀ (execStageWrite tag txn addr value s) :=
  (h.serve fun _ h => h.respond.ite (h.respond.ite h.update.respond)).done

theorem Keeps.execOpenTransaction {tag : BitVec 16} : Answers s₀ (execOpenTransaction tag s) :=
  (h.serve fun _ h => h.respond.ite h.update.respond).done

theorem Keeps.txnStatus {st : Nat} : Keeps s₀ (txnStatus s st) := h.update

theorem Keeps.execCommitTransaction {tag txn : BitVec 16} {epoch : BitVec 48} {board : Bool} :
    Answers s₀ (execCommitTransaction tag txn epoch board s) := by
  unfold Machine.execCommitTransaction
  refine Keeps.done ?_
  refine Keeps.serve h fun _ h => ?_
  refine .ite h.respond <| .ite h.txnStatus.respond ?_
  split
  exacts [h.txnStatus.respond, h.addEvent.update.respond]

theorem Keeps.execAbortTransaction {tag txn : BitVec 16} : Answers s₀ (execAbortTransaction tag txn s) :=
  (h.serve fun _ h => h.respond.ite (h.respond.ite h.endTxn.respond)).done

theorem Keeps.execCommitDeadline {allMatch : Bool} : Answers s₀ (execCommitDeadline allMatch s) :=
  ((h.update.ite h.endTxn).sendVc.ite (h.update.ite h.endTxn)).done.ite h.done

theorem Keeps.execBoardCommitDecision {go : Bool} : Answers s₀ (execBoardCommitDecision go s) :=
  (h.update.ite h.endTxn).boardTell.done.ite h.done

theorem Keeps.execSchedulePlanActivation {tag : BitVec 16} {epoch : BitVec 48} {recipe : Option (List Nat)} :
    Answers s₀ (execSchedulePlanActivation tag epoch recipe s) := by
  unfold Machine.execSchedulePlanActivation
  refine Keeps.done ?_
  refine Keeps.serve h fun _ h => ?_
  split
  · exact h.respond
  · refine .ite h.respond <| .ite h.respond <| .ite h.respond <| .ite h.respond ?_
    split
    exacts [h.respond, h.scheduleEvent]

theorem Keeps.execScheduleRecipe {tag : BitVec 16} {epoch : BitVec 48} {recipe : List Nat} :
    Answers s₀ (execScheduleRecipe tag epoch recipe s) := by
  unfold Machine.execScheduleRecipe
  refine Keeps.done ?_
  refine Keeps.serve h fun _ h => ?_
  dsimp only
  split
  · exact h.respond
  · split
    exacts [h.respond, h.update.acceptEvent]

theorem Keeps.execScheduleSwap {tag : BitVec 16} {epoch : BitVec 48} : Answers s₀ (execScheduleSwap tag epoch s) := by
  unfold Machine.execScheduleSwap
  refine Keeps.done ?_
  refine Keeps.serve h fun _ h => ?_
  split
  · exact h.respond
  · exact h.respond.ite (h.respond.ite (h.respond.ite (h.respond.ite (h.respond.ite h.scheduleEvent))))

theorem Keeps.execScheduleInstall {tag : BitVec 16} {epoch : BitVec 48} : Answers s₀ (execScheduleInstall tag epoch s) := by
  unfold Machine.execScheduleInstall
  refine Keeps.done ?_
  refine Keeps.serve h fun _ h => ?_
  split
  · exact h.respond
  · refine .ite h.respond ?_
    split
    exacts [h.respond, h.update.acceptEvent]

theorem Keeps.execScheduleFirmware {tag : BitVec 16} {epoch : BitVec 48} : Answers s₀ (execScheduleFirmware tag epoch s) := by
  unfold Machine.execScheduleFirmware
  refine Keeps.done ?_
  refine Keeps.serve h fun _ h => ?_
  refine .ite h.respond ?_
  split
  exacts [h.respond, h.update.acceptEvent]

theorem Keeps.execScheduleProofWindow {tag : BitVec 16} {epoch : BitVec 48} :
    Answers s₀ (execScheduleProofWindow tag epoch s) :=
  (h.serve fun _ h => h.scheduleEvent).done

theorem Keeps.cancelEvent {v : Event} : Keeps s₀ (cancelEvent s v) := h.dropEvents.undoEvent.boardTell

theorem Keeps.execCancelEvent {tag : BitVec 16} {number : Nat} : Answers s₀ (execCancelEvent tag number s) := by
  unfold Machine.execCancelEvent
  refine Keeps.done ?_
  refine Keeps.serve h fun _ h => ?_
  split
  exacts [h.respond, h.respond.ite h.cancelEvent.respond]

theorem Keeps.execOpenWindow {tag : BitVec 16} {w : BitVec 8} : Answers s₀ (execOpenWindow tag w s) := by
  unfold Machine.execOpenWindow
  refine .ite h.done ?_
  split
  exacts [h.respond.done, h.respond.done.ite h.openWin.respond.done]

theorem Keeps.execCloseWindow {tag : BitVec 16} {w : BitVec 8} {pack : Option TestPack} {corrupt : Option HostPort} :
    Answers s₀ (execCloseWindow tag w pack corrupt s) := by
  unfold Machine.execCloseWindow
  refine .ite h.done ?_
  split
  exacts [h.respond.done, h.respond.done.ite h.setWindow.settleClose.done]

theorem Keeps.execReadLog {tag : BitVec 16} {first : Word} {count : Nat} : Answers s₀ (execReadLog tag first count s) :=
  (h.serve fun _ h => h.respond).done

theorem Keeps.execReadLedger {tag : BitVec 16} {first last : Nat} {clear : BitVec 2} :
    Answers s₀ (execReadLedger tag first last clear s) :=
  (h.serve fun _ h => h.update.respond).done

theorem Keeps.execAttest {tag : BitVec 16} {nonce : BitVec 256} : Answers s₀ (execAttest tag nonce s) :=
  (h.serve fun _ h => h.respond).done

theorem Keeps.execIdentity {tag : BitVec 16} : Answers s₀ (execIdentity tag s) := (h.serve fun _ h => h.respond).done

theorem Keeps.execDump {tag : BitVec 16} {scope : DumpScope} : Answers s₀ (execDump tag scope s) :=
  (h.serve fun _ h => h.respond.ite h.update).done

theorem Keeps.execDumpReady : Answers s₀ (execDumpReady s) := by
  unfold Machine.execDumpReady
  split
  exacts [h.done, h.setWindow.update.respond.done]

theorem Keeps.execAcknowledgeDump {tag : BitVec 16} : Answers s₀ (execAcknowledgeDump tag s) :=
  (h.serve fun _ h => h.update.closeWin.respond.ite h.respond).done

theorem Keeps.execBurnSettings {tag : BitVec 16} {record : Bytes} : Answers s₀ (execBurnSettings tag record s) :=
  (h.serve fun _ h => h.respond.ite (h.respond.ite h.update.respond)).done

theorem Keeps.execDiscardPlan {tag : BitVec 16} : Answers s₀ (execDiscardPlan tag s) :=
  (h.serve fun _ h => h.respond.ite (h.respond.ite h.dropEvents.discardPending.respond)).done

theorem Keeps.execAlertMessage : Answers s₀ (execAlertMessage s) := h.update.emit.done.ite h.done

theorem Keeps.execRegisterWrite {addr value : BitVec 64} : Answers s₀ (execRegisterWrite addr value s) :=
  h.noteDark.done.ite h.writeW1c.writeWo.done

theorem Keeps.execFirmwareRevert : Answers s₀ (execFirmwareRevert s) := h.firmwareOff.done

theorem Keeps.execOtpCounterAdvance : Answers s₀ (execOtpCounterAdvance s) := by
  unfold Machine.execOtpCounterAdvance
  split
  exacts [h.done, h.done.ite h.update.done]

theorem Keeps.execWatchdogExpiry {core : Fin 4} : Answers s₀ (execWatchdogExpiry core s) := h.done.ite h.update.coreEvent.done
theorem Keeps.execManagementClear : Answers s₀ (execManagementClear s) := h.done.ite h.update.nameRestart.done

theorem Keeps.execUnassignedOp {tag op : BitVec 16} : Answers s₀ (execUnassignedOp tag op s) :=
  h.done.ite (h.serve fun _ h => h.respond).done

theorem Keeps.execYelziaFlitReceive {p : CascPort} {q : Quad} {flit : Bytes} {fec : FecCount} :
    Answers s₀ (execYelziaFlitReceive p q flit fec s) := by
  unfold Machine.execYelziaFlitReceive
  extract_lets +onlyGivenNames x fecOk counted
  have hcounted : Keeps s₀ counted := h.ite h.modCasc
  refine .ite hcounted.done <| .ite (hcounted.modCasc.quadDown.done.ite hcounted.modCasc.modQuad.emit.done) ?_
  exact hcounted.done.ite (hcounted.modQuad.modCasc.done.ite hcounted.modQuad.done)

theorem Keeps.execLaneLockLoss {p : CascPort} {q : Quad} : Answers s₀ (execLaneLockLoss p q s) := h.quadDown.done.ite h.done

theorem Keeps.execQuadTrainingComplete {p : CascPort} {q : Quad} {latency : Nat} :
    Answers s₀ (execQuadTrainingComplete p q latency s) :=
  h.done.ite (h.ckErr.done.ite h.modQuad.primeAgain.done)

theorem Keeps.execCascadeUnitInject {p : CascPort} {rid : Fin 1024} {unit : Fin 64} :
    Answers s₀ (execCascadeUnitInject p rid unit s) := by
  unfold Machine.execCascadeUnitInject
  refine .ite h.done ?_
  split
  · exact h.modCasc.unitLate.injectUnit.done.ite h.modCasc.injectUnit.done
  · exact h.unitLate.injectUnit.done

theorem Keeps.execExchangeAddCombine {p : CascPort} {rid : Fin 1024} {unit : Fin 64} :
    Answers s₀ (execExchangeAddCombine p rid unit s) := by
  unfold Machine.execExchangeAddCombine
  refine .ite h.done ?_
  dsimp only
  split <;> exact (h.modCasc.unitLate.ite h.modCasc).injectUnit.done

theorem Keeps.takeName {kind : Nat} {data : List Nat} {e : Nat} : Keeps s₀ (takeName s kind data e) := by
  unfold Machine.takeName
  refine .ite h.update <| .ite h ?_
  split
  · exact h.update.addEvent
  · exact h.update.settleRestart.holdBarrier.ite (h.update.holdBarrier.ite h.update)
  · exact h

theorem Keeps.takeCancel {kind : Nat} {data : List Nat} {e : Nat} : Keeps s₀ (takeCancel s kind data e) := by
  unfold Machine.takeCancel
  extract_lets +onlyGivenNames mine here own gone retried undone
  have hundone : Keeps s₀ undone :=
    (h.update.foldl fun _ _ h => h.retryOwn).dropEvents.foldl fun _ _ h => h.undoEvent
  exact hundone.ite hundone.boardTell

theorem Keeps.takeDue {kind : Nat} {data : List Nat} : Keeps s₀ (takeDue s kind data) := by
  unfold Machine.takeDue
  split
  exacts [h.nameOwn.holdBarrier, h.nameOwn.holdBarrier, h.nameOwn, h.nameOwn, h]

theorem Keeps.takeReplica {w : Nat} {runs : Bool} : Keeps s₀ (takeReplica s w runs) := h.update.ite h.endReplica.update

theorem Keeps.takeMessage {p : Nat} {m : VcMessage} : Keeps s₀ (takeMessage s p m) := by
  unfold Machine.takeMessage
  dsimp only
  split
  exacts [h.update.ite h, h.ite h.update, h.update.ite h, h.takeName.ite h, h.takeCancel.ite h,
    h.ite h.takeDue, h.ite h.boardTell.fieldLostThere, h.ite h.noteStaged, h.loseAdmission.ite h,
    h.update.ite h, h.takeParcel.ite h, h.followLoad.ite h, h.followShard.ite h, h.dropLoad.ite h,
    h.ite h.parcelTaken, h.ite h.updateServe, h.ite h.takeAccepted, h.ite h.takeReplica, h.enterPoised.ite h,
    h.ite h.endStroke, h.firmwareOff.ite h, h.followLadder.ite h,
    h.ite ((h.endTxn.ite h.endTxn.boardTell).ite (h.update.ite h)), h.modCasc]

theorem Keeps.execCascadeVcMessage {p : CascPort} {m : VcMessage} : Answers s₀ (execCascadeVcMessage p m s) :=
  h.done.ite (h.emit.done.ite h.takeMessage.done)

theorem Keeps.execHaltReceive {stroke : BitVec 60} : Answers s₀ (execHaltReceive stroke s) :=
  h.done.ite (h.endAll.discardPending.update (cascWf := tblWf_tmapAll _ _)).done

theorem Keeps.execCompactSend : Answers s₀ (execCompactSend s) := h.done.ite (h.foldl fun _ _ h => h.modCasc.emit.ite h).done

theorem Keeps.execCompactReceive {p : CascPort} {compact : Bytes} : Answers s₀ (execCompactReceive p compact s) := by
  unfold Machine.execCompactReceive
  refine .ite h.done <| .ite (h.modCasc.ckErr.done.ite h.modCasc.done) ?_
  exact h.modCasc.notAdmitted.done.ite (h.modCasc.modCasc.done.ite h.modCasc.judgeCompact.done)

theorem Keeps.handleField {f : Nat} : Keeps s₀ (handleField s f) :=
  (h.fieldDark.ite h).endWhere.ite (h.fieldDark.ite h).endWhere.noVariant

theorem Keeps.handleWafer {code : Nat} : Keeps s₀ (handleWafer s code) := h.stopReplica.discardPending.update

theorem Keeps.tellScope {r : ErrRec} : Keeps s₀ (tellScope s r) := by
  unfold Machine.tellScope
  refine .ite h ?_
  split
  exacts [h.ite h.tellMaster, h.tellMaster]

theorem Keeps.classify {r : ErrRec} : Keeps s₀ (classify s r) := by
  unfold Machine.classify
  split
  · exact h.endHandling
  · refine .ite h.endHandling ?_
    split
    exacts [h.update, h.transient.endHandling]

theorem Keeps.execRecordHandling : Answers s₀ (execRecordHandling s) := by
  unfold Machine.execRecordHandling
  split
  · refine Keeps.done ?_
    refine Keeps.classify ?_
    split
    · exact h.update.logFix.endWhere.tellScope.reactivate.ite h.update.logFix.endWhere.tellScope
    · exact h.update.logFix.handleField
    · exact h.update.logFix.handleWafer
    · exact h.update.logFix
  · exact h.done

theorem Keeps.execClassificationWindow : Answers s₀ (execClassificationWindow s) :=
  (h.update (cellsWf := tblWf_tmapAll _ _)).done.ite h.done

theorem Keeps.decideRecord {target : ProofTarget} {kernel : Nat} {pass : Bool} :
    Keeps s₀ (decideRecord s target kernel pass) := by
  unfold Machine.decideRecord
  split
  · exact h
  · split
    exacts [h, (h.transient.ite h.permanent).endHandling.ite h]

theorem Keeps.proofResult {target : ProofTarget} {kernel : Nat} {pass : Bool} :
    Keeps s₀ (proofResult s target kernel pass) := by
  unfold Machine.proofResult
  split
  exacts [h.modCell.ite h.raiseField, h.ite h.raiseAtSite]

theorem Keeps.execProofRun {c : ProofTarget} {kernel : Nat} {output : BitVec 256} :
    Answers s₀ (execProofRun c kernel output s) := by
  unfold Machine.execProofRun
  dsimp only
  split
  · exact h.done
  · split
    exacts [h.done, h.done.ite h.proofResult.decideRecord.closeProof.done]

theorem Keeps.execRePlacement : Answers s₀ (execRePlacement s) :=
  (h.settleRestart.ite h).update.freeBarrier.nameOwn.holdBarrier.done.ite h.done
end

end Sys2Proof.Machine
end

section
/-! PROOFS. Operations and commands that keep the tables canonical:
the start of a stroke, time and background transfers. -/

namespace Sys2Proof.Machine

-- one proof is elaborated at a time: side by side they ask for more threads than the memory limit allows
set_option Elab.async false

variable {s₀ s : State}

section
variable (h : Keeps s₀ s)
include h

theorem Keeps.ctrlDrain : Keeps s₀ (ctrlDrain s) := h.foldl fun _ _ h => h.ctrlServe

theorem Keeps.execStrokeStart : Answers s₀ (execStrokeStart s) := by
  unfold Machine.execStrokeStart
  refine .ite h.done ?_
  lift_lets
  intro called reported ended
  have hended : Keeps s₀ ended := (h.sampleCall.ite h).overrunRecord.takeReports.arrivePosts
  clear_value ended
  intro missed _ counted told
  have htold : Keeps s₀ told := hended.update.carryEpoch.ctrlDrain.boardTalk
  clear_value told
  intro faulted stopped
  have hstopped : Keeps s₀ stopped := (htold.timeFault.ite htold).stopDataPath.ite (htold.timeFault.ite htold)
  clear_value stopped
  intro go _ entered jobs intake latched p d noted
  have hentered : Keeps s₀ entered := hstopped.update
  have hlatched : Keeps s₀ latched :=
    (hentered.foldl fun _ _ h => h.endJob.endJob).finishJobs.endIntake.foldl fun _ _ h => h.latchJob.latchJob
  have hnoted : Keeps s₀ noted := hlatched.latchJob.latchJob.noteWork.noteWork.ite hlatched.latchJob.latchJob
  clear_value noted
  intro shadowed
  have hshadowed : Keeps s₀ shadowed := hnoted.sweepAdvance.askShadows
  clear_value shadowed
  intro all chans c13 accepted
  have haccepted : Keeps s₀ accepted := hshadowed.latchAccepted.ite hshadowed
  obtain ⟨v, l, heq⟩ : ∃ v l, accepted = { shadowed with serve := v, sent := l } := by
    unfold accepted
    split
    exacts [latchAccepted_eq .., ⟨_, _, rfl⟩]
  clear_value accepted
  subst heq
  intro resume served
  have hserved : Keeps s₀ served :=
    (haccepted.update (cellsWf := tblWf_tmapAll _ _) (sitesWf := tblWf_tmapAll _ _) (fieldsWf := tblWf_tmapAll _ _)
      (waferWf := fun _ => rfl)).ite (haccepted.update (cellsWf := tblWf_tmapAll _ _))
  clear_value served
  intro _ resumed _ boarded decided
  have hresumed : Keeps s₀ resumed := hserved.update.ite hserved
  have hdecided : Keeps s₀ decided := hresumed.update.foldl fun _ _ h => h.decideChunk.decideStep
  exact hdecided.update.done

theorem Keeps.execRefclkTick : Answers s₀ (execRefclkTick s) := h.done.ite h.update.done
theorem Keeps.execAlwaysOnOscillatorTick : Answers s₀ (execAlwaysOnOscillatorTick s) := h.update.done.ite h.done
theorem Keeps.establish : Keeps s₀ (establish s) := h.update (fieldsWf := tblWf_tmapAll _ _)

theorem Keeps.execSyncBeatEdge : Answers s₀ (execSyncBeatEdge s) := by
  unfold Machine.execSyncBeatEdge
  refine .ite h.update.done <| .ite (h.update.establish.done.ite h.update.done) ?_
  exact h.update.update.timeFault.done.ite h.update.update.done

theorem Keeps.execMissedBeat : Answers s₀ (execMissedBeat s) := h.update.timeFault.done.ite h.update.done

theorem Keeps.execReferenceLoss : Answers s₀ (execReferenceLoss s) := by
  unfold Machine.execReferenceLoss
  refine .ite h.done <| .ite h.update.done <| .ite (h.update.raiseModule.update.forceLadder fun _ h => h.enterHeld).done ?_
  exact h.update.raiseModule.update.endAll.done

theorem Keeps.execReferenceReturn : Answers s₀ (execReferenceReturn s) := h.update.update.done.ite h.update.done

theorem Keeps.execTickRealign : Answers s₀ (execTickRealign s) :=
  (h.update.boardTell.loseAdmission.ite h.update).done.ite h.done

theorem Keeps.settleRefill {k : Nat} {t : Transfer} : Keeps s₀ (settleRefill s k t) := by
  unfold Machine.settleRefill
  split
  exacts [h.update.recheckExtents, h]

theorem Keeps.copiedPoisoned {k dst n : Nat} : Keeps s₀ (copiedPoisoned s k dst n) := by
  unfold Machine.copiedPoisoned
  split
  exacts [h, h.update.foldl fun _ _ h => h.askHost]

theorem Keeps.takeShadow {k stroke : Nat} {found : List LineError} {before : SiteState} {x n : Nat} :
    Keeps s₀ (takeShadow s k stroke found before x n) := by
  unfold Machine.takeShadow
  dsimp only
  split
  exacts [h, h.modCell]

theorem Keeps.execBackgroundTransfer {site : SiteAddr} {found : List LineError} :
    Answers s₀ (execBackgroundTransfer site found s) := by
  unfold Machine.execBackgroundTransfer
  extract_lets +onlyGivenNames k st
  split
  · exact h.done
  next t _ _ =>
    refine .ite h.done ?_
    extract_lets +onlyGivenNames left _ moved stale arrived
    have hstale : Keeps s₀ stale := h.setSite.invalidateLines
    have harrived : Keeps s₀ arrived := by
      unfold arrived
      split
      exacts [hstale.countMismatch.copiedPoisoned, (hstale.ite hstale.abandonPages).meshSend, hstale.takeShadow,
        hstale.meshSend, hstale]
    exact (harrived.ite harrived.settleRefill.settleLoad.settleReturns.finishCopy).done
end

end Sys2Proof.Machine
end

section
/-! PROOFS. Every command and every step keeps the tables canonical, and they are canonical at reset (R206, R234, R405, R537). -/

namespace Sys2Proof.Machine

-- one proof is elaborated at a time: side by side they ask for more threads than the memory limit allows
set_option Elab.async false

/-- Every command answers a next state, with the queue and the canonical form kept. -/
theorem Keeps.exec {s₀ s : State} (h : Keeps s₀ s) (i : Instr) : Answers s₀ (exec i s) := by
  cases i with
  | refclkTick => exact h.execRefclkTick
  | syncBeatEdge => exact h.execSyncBeatEdge
  | missedBeat => exact h.execMissedBeat
  | referenceLoss => exact h.execReferenceLoss
  | referenceReturn => exact h.execReferenceReturn
  | tickRealign => exact h.execTickRealign
  | strokeStart => exact h.execStrokeStart
  | curbStroke => exact h.execCurbStroke
  | callTick => exact h.execCallTick
  | bundleIssue => exact h.execBundleIssue
  | issueDeadline => exact h.execIssueDeadline
  | resultDelivery => exact h.execResultDelivery
  | cacheFill => exact h.execCacheFill
  | slackBackground => exact h.execSlackBackground
  | mailboxWrite => exact h.execMailboxWrite
  | outboxRead => exact h.execOutboxRead
  | cisternAccessStart => exact h.execCisternAccessStart
  | lineLanding => exact h.execLineLanding
  | refreshCommand => exact h.execRefreshCommand
  | cisternScrub => exact h.execCisternScrub
  | backgroundTransfer => exact h.execBackgroundTransfer
  | flitArrival => exact h.execFlitArrival
  | routeUnitArrival => exact h.execRouteUnitArrival
  | routeGetSourceRead => exact h.execRouteGetSourceRead
  | reductionNodeCombine => exact h.execReductionNodeCombine
  | selectorPostArrival => exact h.execSelectorPostArrival
  | selectorPublication => exact h.execSelectorPublication
  | fcCommand => exact h.execFcCommand
  | controlRegisterAccess => exact h.execControlRegisterAccess
  | fuseOpen => exact h.execFuseOpen
  | fieldHoleMark => exact h.execFieldHoleMark
  | holeVariantStaged => exact h.execHoleVariantStaged
  | converterFailure => exact h.execConverterFailure
  | auxConverterFailure => exact h.execAuxConverterFailure
  | phaseFailure => exact h.execPhaseFailure
  | phaseShareTest => exact h.execPhaseShareTest
  | droopStretch => exact h.execDroopStretch
  | inputVoltageExcursion => exact h.execInputVoltageExcursion
  | powerSample => exact h.execPowerSample
  | wakeStep => exact h.execWakeStep
  | cappingLatch => exact h.execCappingLatch
  | ptpServo => exact h.execPtpServo
  | ptpSyncExchange => exact h.execPtpSyncExchange
  | ptpSyncTimeout => exact h.execPtpSyncTimeout
  | onWaferRound => exact h.execOnWaferRound
  | trayRound => exact h.execTrayRound
  | forcedPoise => exact h.execForcedPoise
  | graceEnd => exact h.execGraceEnd
  | analogTrip => exact h.execAnalogTrip
  | ageingMeasurement => exact h.execAgeingMeasurement
  | thClearShutdown => exact h.execThClearShutdown
  | pwrEnLow => exact h.execPwrEnLow
  | modResetAssert => exact h.execModResetAssert
  | modResetRelease => exact h.execModResetRelease
  | channelTraining => exact h.execChannelTraining
  | poisedExit => exact h.execPoisedExit
  | ladderLeave tag epoch => exact h.execLadderLeave (_epoch := epoch)
  | ladderHeld => exact h.execLadderHeld
  | ladderBanked => exact h.execLadderBanked
  | ladderDry => exact h.execLadderDry
  | heldExit => exact h.execHeldExit
  | bankedExit => exact h.execBankedExit
  | dryExit => exact h.execDryExit
  | draw => exact h.execDraw
  | indexReadComplete => exact h.execIndexReadComplete
  | descriptorReadComplete => exact h.execDescriptorReadComplete
  | promptReadComplete => exact h.execPromptReadComplete
  | promptReadFailure => exact h.execPromptReadFailure
  | completionRecordWrite => exact h.execCompletionRecordWrite
  | ttlExpiry => exact h.execTtlExpiry
  | farTierCopy => exact h.execFarTierCopy
  | farTierWriteComplete => exact h.execFarTierWriteComplete
  | farTierReadComplete => exact h.execFarTierReadComplete
  | wideRecompute => exact h.execWideRecompute
  | sampleAbandon => exact h.execSampleAbandon
  | planCheckComplete => exact h.execPlanCheckComplete
  | planStagingComplete => exact h.execPlanStagingComplete
  | rotationDue => exact h.execRotationDue
  | rotationIdleCheck => exact h.execRotationIdleCheck
  | rotationRetry => exact h.execRotationRetry
  | shardArrival => exact h.execShardArrival
  | shardTimeout => exact h.execShardTimeout
  | installComplete => exact h.execInstallComplete
  | swapLate => exact h.execSwapLate
  | swapEnd => exact h.execSwapEnd
  | ethernetFrameReceive => exact h.execEthernetFrameReceive
  | pfcPauseReceive => exact h.execPfcPauseReceive
  | cnpReceive => exact h.execCnpReceive
  | rateRecovery => exact h.execRateRecovery
  | connectionRequest p gid mtu => exact h.execConnectionRequest (p := p) (gid := gid) (mtu := mtu)
  | rdmaWritePacket p qp rkey offset data first => exact h.execRdmaWritePacket (_first := first)
  | rdmaReadWindow => exact h.execRdmaReadWindow
  | windowCloseTimeout => exact h.execWindowCloseTimeout
  | linkDown => exact h.execLinkDown
  | linkUp => exact h.execLinkUp
  | readRegisters => exact h.execReadRegisters
  | stageWrite => exact h.execStageWrite
  | openTransaction => exact h.execOpenTransaction
  | commitTransaction => exact h.execCommitTransaction
  | abortTransaction => exact h.execAbortTransaction
  | commitDeadline => exact h.execCommitDeadline
  | boardCommitDecision => exact h.execBoardCommitDecision
  | schedulePlanActivation => exact h.execSchedulePlanActivation
  | scheduleRecipe => exact h.execScheduleRecipe
  | scheduleSwap => exact h.execScheduleSwap
  | scheduleInstall => exact h.execScheduleInstall
  | scheduleFirmware => exact h.execScheduleFirmware
  | scheduleProofWindow => exact h.execScheduleProofWindow
  | cancelEvent => exact h.execCancelEvent
  | openWindow => exact h.execOpenWindow
  | closeWindow => exact h.execCloseWindow
  | readLog => exact h.execReadLog
  | readLedger => exact h.execReadLedger
  | attest => exact h.execAttest
  | identity => exact h.execIdentity
  | dump => exact h.execDump
  | dumpReady => exact h.execDumpReady
  | acknowledgeDump => exact h.execAcknowledgeDump
  | burnSettings => exact h.execBurnSettings
  | discardPlan => exact h.execDiscardPlan
  | discardSet => exact h.execDiscardSet
  | alertMessage => exact h.execAlertMessage
  | registerWrite => exact h.execRegisterWrite
  | firmwareRevert => exact h.execFirmwareRevert
  | otpCounterAdvance => exact h.execOtpCounterAdvance
  | watchdogExpiry => exact h.execWatchdogExpiry
  | recordHandling => exact h.execRecordHandling
  | classificationWindow => exact h.execClassificationWindow
  | proofRun => exact h.execProofRun
  | rePlacement => exact h.execRePlacement
  | refillComplete => exact h.execRefillComplete
  | digestPassStart => exact h.execDigestPassStart
  | digestPassComplete => exact h.execDigestPassComplete
  | yelziaFlitReceive => exact h.execYelziaFlitReceive
  | laneLockLoss => exact h.execLaneLockLoss
  | quadTrainingComplete => exact h.execQuadTrainingComplete
  | cascadeUnitInject => exact h.execCascadeUnitInject
  | exchangeAddCombine => exact h.execExchangeAddCombine
  | cascadeVcMessage => exact h.execCascadeVcMessage
  | haltReceive => exact h.execHaltReceive
  | compactSend => exact h.execCompactSend
  | compactReceive => exact h.execCompactReceive
  | alwaysOnOscillatorTick => exact h.execAlwaysOnOscillatorTick
  | managementClear => exact h.execManagementClear
  | unassignedOp => exact h.execUnassignedOp
  | pwrEnHigh => exact h.execPwrEnHigh
  | busRise => exact h.execBusRise

/-- Settles O5: every command keeps the queue and the canonical form, and a step is the command at the front of the queue. -/
theorem stepKeepsTablesCanonical : Obligations.StepKeepsTablesCanonical := by
  unfold Obligations.StepKeepsTablesCanonical
  intro s t hwf hstep
  unfold step at hstep
  split at hstep
  · cases hstep
    exact hwf
  next c rest _ =>
    obtain ⟨u, hu, hkeep⟩ := (keeps_refl { s with pending := rest }).exec c
    cases hu.symm.trans hstep
    exact hkeep.2 hwf

/-- Settles O6: at reset every table is empty. -/
theorem resetTablesCanonical : Obligations.ResetTablesCanonical :=
  ⟨(tablesWf_iff _).mpr ⟨rfl, rfl, rfl, rfl, rfl, rfl, rfl, rfl, rfl⟩, rfl⟩

end Sys2Proof.Machine
end

section
/-! PROOFS. The slack cycles, the mailbox and the outbox of a cell (R205, R210, R310 to R312, R429). -/

namespace Sys2Proof.Machine

-- one proof is elaborated at a time: side by side they ask for more threads than the memory limit allows
set_option Elab.async false

/-! ## Slack cycles -/

/-- A slack cycle takes the first tile off the list of those that wait to be cleared (R205, R210). -/
theorem slackCycle_waking (p : Bool) (found : List (Nat × CodeError)) (c : CellState) :
    (slackCycle p found c).waking = c.waking.drop 1 := by
  unfold slackCycle
  cases hw : c.waking with
  | cons t rest => rfl
  | nil =>
    dsimp only
    split
    · exact hw
    · exact hw

theorem slackCycles_waking (p : Bool) (found : List (Nat × CodeError)) (c : CellState) (n : Nat) :
    ((List.range n).foldl (fun c _ => slackCycle p found c) c).waking = c.waking.drop n := by
  induction n with
  | zero => rfl
  | succ n ih => rw [List.range_succ, List.foldl_append, List.foldl_cons, List.foldl_nil, slackCycle_waking, ih, List.drop_drop]

/-- A cell after `n` of its slack cycles in stroke `stroke`, where `used` were used before (R210). -/
def afterSlack (p : Bool) (found : List (Nat × CodeError)) (x : CellState) (stroke used n : Nat) : CellState :=
  { (List.range n).foldl (fun c _ => slackCycle p found c) x with slackAt := stroke, slackUsed := used + n }

/-- SLACK_BACKGROUND on a cell that does not issue: the cell has had its slack cycles, but for the moment of the last match with the
digest of its resident units; besides, a divergence is recorded with the cell's field (R210, R506, R507). -/
theorem slackBackground_runs {c : CellAddr} {n : Fin 65} {found : List (Nat × CodeError)} {s : State} {used : Nat}
    (hused : (if (s.cell (cellKey c)).slackAt = strokeNo s then (s.cell (cellKey c)).slackUsed else 0) = used)
    (hwf : tblWf {} s.cells = true) (hrun : s.time.running = true) (hsite : siteRuns s (cellSite (cellKey c)) = true)
    (hladder : s.power.ladder = .running) (hissue : (s.cell (cellKey c)).issue ≠ .running) :
    ∃ t m, exec (.slackBackground c n found) s = .next t ∧ t.time = s.time ∧
      t.cell (cellKey c) = { afterSlack (fieldIsP c.field.val) found (s.cell (cellKey c)) (strokeNo s) used
        (min n.val (64 - used)) with matchAt := m } ∧ ∀ j, j ≠ cellKey c → t.cell j = s.cell j := by
  have hgo : (s.time.running && siteRuns s (cellSite (cellKey c)) && (s.power.ladder == .running || s.power.ladder == .poised) &&
      (s.cell (cellKey c)).issue != .running) = true := by simp [hrun, hsite, hladder, hissue]
  show ∃ t m, execSlackBackground c n found s = .next t ∧ _
  unfold execSlackBackground
  dsimp only
  rw [if_pos hgo, hused]
  generalize hy : afterSlack (fieldIsP c.field.val) found (s.cell (cellKey c)) (strokeNo s) used (min n.val (64 - used)) = y
  have hsame : (s.setCell (cellKey c) y).cell (cellKey c) = y := State.setCell_cell_same _ hwf
  have hother : ∀ j, j ≠ cellKey c → (s.setCell (cellKey c) y).cell j = s.cell j := fun _ => State.setCell_cell_other _
  have hplain : ∃ t m, done (s.setCell (cellKey c) y) = .next t ∧ t.time = s.time ∧
      t.cell (cellKey c) = { y with matchAt := m } ∧ ∀ j, j ≠ cellKey c → t.cell j = s.cell j :=
    ⟨_, y.matchAt, rfl, State.setCell_time .., hsame, hother⟩
  rw [afterSlack] at hy
  rw [hy]
  split
  · split
    · split
      · obtain ⟨v, hv⟩ := raiseField_eq (s.setCell (cellKey c) y) c.field.val _
        rw [hv]
        exact ⟨_, y.matchAt, rfl, State.setCell_time .., hsame, hother⟩
      · refine ⟨_, boardTime (s.setCell (cellKey c) y), rfl, ?_, ?_, fun j hj => ?_⟩
        · rw [State.modCell, State.setCell_time, State.setCell_time]
        · rw [State.modCell, State.setCell_cell_same _ (by rw [State.setCell_cells]; exact tblWf_tset _ _ _ hwf), hsame]
        · rw [State.modCell, State.setCell_cell_other _ hj, hother j hj]
    · exact hplain
  · exact hplain

/-! ## The mailbox -/

/-- A cell whose mailbox was written in work stroke `work`, with its scratchpad then (R310). -/
def mailed (x : CellState) (work : Nat) (sp : Scratch) : CellState := { x with mailAt := work, sp := sp }

/-- The scratchpad with COUNT = 0 in the header of a half of the mailbox (R310). -/
def noParcel (sp : Scratch) (u : Nat) : Scratch := spWordsSet sp (u * 16) [{}]

/-- The units of a parcel (R311). -/
def parcelUnits (p : Parcel) : Nat := (p.payload.length + 63) / 64

/-- The scratchpad with a parcel in a half of the mailbox: its units, then its header (R311). -/
def withParcel (sp : Scratch) (u : Nat) (p : Parcel) : Scratch :=
  spWordsSet (spWordsSet sp (u * 16 + 16) (unitWords p.payload)) (u * 16) (unitWords (leBytes 4 (parcelUnits p) ++ leBytes 4 p.type))

/-- The parcels that still wait once cell `k` has the parcel at index `i` (R429). -/
def parcelsLeft (ps : List Parcel) (i : Nat) (p : Parcel) (k : Nat) : List Parcel :=
  let qs := ps.set i { p with left := p.left.filter (· != k) }
  if (p.left.filter (· != k)).isEmpty && p.others.isEmpty then qs.eraseIdx i else qs

theorem parcelsLeft_single {p : Parcel} {rest : List Parcel} {k : Nat} (hleft : p.left = [k]) (hothers : p.others = []) :
    parcelsLeft (p :: rest) 0 p k = rest := by simp [parcelsLeft, hleft, hothers]

theorem findIdx?_left_single {p : Parcel} {rest : List Parcel} {k : Nat} (hleft : p.left = [k]) :
    ((p :: rest).findIdx? fun q => q.left.contains k) = some 0 := by simp [List.findIdx?_cons, hleft]

/-- A follower's word to its master is sent, and no other board's (R419). -/
theorem tellMaster_sent (s : State) (told : VcContent) :
    (follows s = false → (tellMaster s told).sent = s.sent) ∧ (follows s = true → ∃ d, (tellMaster s told).sent =
      s.sent ++ [.vc { src := s.board.position, dst := 0, content := told } d]) := by
  unfold tellMaster
  exact ⟨fun h => by rw [if_neg (by simp [h])], fun h => by rw [if_pos h]; exact ⟨_, rfl⟩⟩

/-- A cell put back and a change of what serving holds: what they leave alone, and the word to the master where there is one. -/
theorem setCell_tellMaster (s : State) (k : Nat) (x : CellState) (v : ServeState) (told : VcContent) (p : Prop) [Decidable p] :
    ∃ l, (if p then tellMaster { s.setCell k x with serve := v } told else { s.setCell k x with serve := v }) =
        { s with cells := (s.setCell k x).cells, sites := (s.setCell k x).sites, serve := v, sent := l } ∧
      (follows s = false → l = s.sent) ∧
      (p → follows s = true → ∃ d, l = s.sent ++ [.vc { src := s.board.position, dst := 0, content := told } d]) := by
  rw [setCell_eq]
  split
  next hp =>
    obtain ⟨hmaster, hfollower⟩ :=
      tellMaster_sent { s with cells := (s.setCell k x).cells, sites := (s.setCell k x).sites, serve := v } told
    exact ⟨_, tellMaster_eq _ _, hmaster, fun _ => hfollower⟩
  next hp => exact ⟨s.sent, rfl, fun _ => rfl, fun h => absurd h hp⟩

section
variable {c : CellAddr} {slack : Nat} {s : State} {tab : ServingTables} {a : IoArea} (htab : servingTables s = some tab)
  (harea : areaOf s tab.intake (cellKey c) = some a) (hwork : working s = true) (hslack : slack ≠ 0)
  (hmail : (s.cell (cellKey c)).mailAt ≠ s.time.work)
include htab harea hwork hslack hmail

/-- Where no parcel waits for the cell, its mailbox takes a header with COUNT = 0 (R310). -/
theorem mailboxWrite_none (hnone : (s.serve.parcels.findIdx? fun p => p.left.contains (cellKey c)) = none) :
    exec (.mailboxWrite c slack) s = .next (s.setCell (cellKey c) (mailed (s.cell (cellKey c)) s.time.work
      (noParcel (s.cell (cellKey c)).sp (areaUnit (s.cell (cellKey c)) a s.time.w)))) := by
  show execMailboxWrite c slack s = _
  unfold execMailboxWrite
  simp only [htab, harea, hwork, hslack, beq_false_of_ne hmail, hnone]
  rfl

section
variable {i : Nat} {p : Parcel} (hfind : (s.serve.parcels.findIdx? fun p => p.left.contains (cellKey c)) = some i)
  (hget : s.serve.parcels[i]? = some p)
include hfind hget

/-- A parcel that the slack left does not hold waits, and the header has COUNT = 0 (R310). -/
theorem mailboxWrite_late (hlate : slack < parcelUnits p + 1) :
    exec (.mailboxWrite c slack) s = .next (s.setCell (cellKey c) (mailed (s.cell (cellKey c)) s.time.work
      (noParcel (s.cell (cellKey c)).sp (areaUnit (s.cell (cellKey c)) a s.time.w)))) := by
  show execMailboxWrite c slack s = _
  unfold execMailboxWrite
  rw [parcelUnits] at hlate
  simp only [htab, harea, hwork, hslack, beq_false_of_ne hmail, hfind, hget, hlate]
  rfl

/-- A parcel that fits goes into the mailbox, and once its last cell has it, a follower tells its master (R311, R429). -/
theorem mailboxWrite_parcel (hfit : parcelUnits p + 1 ≤ slack) :
    ∃ l, exec (.mailboxWrite c slack) s = .next { s with
        cells := (s.setCell (cellKey c) (mailed (s.cell (cellKey c)) s.time.work
          (withParcel (s.cell (cellKey c)).sp (areaUnit (s.cell (cellKey c)) a s.time.w) p))).cells
        sites := (s.setCell (cellKey c) (mailed (s.cell (cellKey c)) s.time.work
          (withParcel (s.cell (cellKey c)).sp (areaUnit (s.cell (cellKey c)) a s.time.w) p))).sites
        serve := { s.serve with parcels := parcelsLeft s.serve.parcels i p (cellKey c) }, sent := l } ∧
      (follows s = false → l = s.sent) ∧
      (p.left = [cellKey c] → p.board = true → follows s = true → ∃ d, l = s.sent ++
        [.vc { src := s.board.position, dst := 0, content := .parcelTaken p.number } d]) := by
  show ∃ l, execMailboxWrite c slack s = _ ∧ _
  unfold execMailboxWrite
  have hlate : ¬ slack < (p.payload.length + 63) / 64 + 1 := Nat.not_lt.mpr hfit
  simp only [htab, harea, hwork, hslack, beq_false_of_ne hmail, hfind, hget, hlate]
  obtain ⟨l, hl, hmaster, hfollower⟩ := setCell_tellMaster s (cellKey c) (mailed (s.cell (cellKey c)) s.time.work
    (withParcel (s.cell (cellKey c)).sp (areaUnit (s.cell (cellKey c)) a s.time.w) p))
    { s.serve with parcels := parcelsLeft s.serve.parcels i p (cellKey c) } (.parcelTaken p.number)
    (((p.left.filter (· != cellKey c)).isEmpty && p.board) = true)
  exact ⟨l, congrArg Host.Outcome.next hl, hmaster, fun hleft hboard => hfollower (by simp [hleft, hboard])⟩
end
end

/-- A mailbox is written once in a working stroke (R310). -/
theorem mailboxWrite_again {c : CellAddr} {s : State} (slack : Nat) (hmail : (s.cell (cellKey c)).mailAt = s.time.work) :
    exec (.mailboxWrite c slack) s = .next s := by
  show execMailboxWrite c slack s = _
  unfold execMailboxWrite
  dsimp only
  split
  · rfl
  · split
    · rfl
    · rw [if_pos (by simp [hmail])]
      rfl

/-- What the obligation says of a mailbox of cell `c` once written (R310, R311, R429). -/
def MailboxWritten (c : CellAddr) (slack : Nat) (a : IoArea) (s t : State) : Prop :=
  (t.cell (cellKey c)).mailAt = s.time.work ∧
  (s.serve.parcels = [] → (t.cell (cellKey c)).sp = noParcel (s.cell (cellKey c)).sp (areaUnit (s.cell (cellKey c)) a s.time.w)) ∧
  (∀ (p : Parcel) (rest : List Parcel), s.serve.parcels = p :: rest → p.left = [cellKey c] → p.others = [] →
    parcelUnits p + 1 ≤ slack →
    (t.cell (cellKey c)).sp = withParcel (s.cell (cellKey c)).sp (areaUnit (s.cell (cellKey c)) a s.time.w) p ∧
      t.serve.parcels = rest) ∧
  (follows s = false → t.sent = s.sent) ∧
  (∀ (p : Parcel) (rest : List Parcel), s.serve.parcels = p :: rest → p.left = [cellKey c] → p.board = true → follows s = true →
    parcelUnits p + 1 ≤ slack → ∃ d, t.sent = s.sent ++
      [.vc { src := s.board.position, dst := 0, content := .parcelTaken p.number } d]) ∧
  t = { s with cells := t.cells, sites := t.sites, serve := { s.serve with parcels := t.serve.parcels }, sent := t.sent }

section
variable {c : CellAddr} {slack : Nat} {s : State} (a : IoArea) (hwf : tblWf {} s.cells = true)
include hwf

/-- The clause where the header takes COUNT = 0: no parcel for this cell that fits stands first. -/
theorem mailboxWritten_noParcel (hno : ∀ (p : Parcel) (rest : List Parcel), s.serve.parcels = p :: rest →
    p.left = [cellKey c] → ¬ parcelUnits p + 1 ≤ slack) :
    MailboxWritten c slack a s (s.setCell (cellKey c) (mailed (s.cell (cellKey c)) s.time.work
      (noParcel (s.cell (cellKey c)).sp (areaUnit (s.cell (cellKey c)) a s.time.w)))) := by
  have hcell := State.setCell_cell_same s (k := cellKey c) (v := mailed (s.cell (cellKey c)) s.time.work
    (noParcel (s.cell (cellKey c)).sp (areaUnit (s.cell (cellKey c)) a s.time.w))) hwf
  refine ⟨by rw [hcell]; rfl, fun _ => by rw [hcell]; rfl, fun p rest hp hleft _ hfit => absurd hfit (hno p rest hp hleft),
    fun _ => State.setCell_sent .., fun p rest hp hleft _ _ hfit => absurd hfit (hno p rest hp hleft), ?_⟩
  rw [State.setCell_serve, State.setCell_sent]
  exact setCell_eq ..

/-- The clause where the parcel at index `i` goes into the mailbox. -/
theorem mailboxWritten_parcel {i : Nat} {p : Parcel} {sites : Tbl SiteState} {l : List Sent}
    (hfind : (s.serve.parcels.findIdx? fun p => p.left.contains (cellKey c)) = some i) (hget : s.serve.parcels[i]? = some p)
    (hmaster : follows s = false → l = s.sent)
    (hfollower : p.left = [cellKey c] → p.board = true → follows s = true → ∃ d, l = s.sent ++
      [.vc { src := s.board.position, dst := 0, content := .parcelTaken p.number } d]) :
    MailboxWritten c slack a s { s with
      cells := (s.setCell (cellKey c) (mailed (s.cell (cellKey c)) s.time.work
        (withParcel (s.cell (cellKey c)).sp (areaUnit (s.cell (cellKey c)) a s.time.w) p))).cells
      sites := sites, serve := { s.serve with parcels := parcelsLeft s.serve.parcels i p (cellKey c) }, sent := l } := by
  have hcell := State.setCell_cell_same s (k := cellKey c) (v := mailed (s.cell (cellKey c)) s.time.work
    (withParcel (s.cell (cellKey c)).sp (areaUnit (s.cell (cellKey c)) a s.time.w) p)) hwf
  have hfirst : ∀ (q : Parcel) (rest : List Parcel), s.serve.parcels = q :: rest → q.left = [cellKey c] → i = 0 ∧ p = q := by
    intro q rest hq hleft
    rw [hq, findIdx?_left_single hleft] at hfind
    cases hfind
    rw [hq] at hget
    exact ⟨rfl, (Option.some.inj hget).symm⟩
  refine ⟨(congrArg CellState.mailAt hcell :), fun hnil => ?_, fun q rest hq hleft hothers _ => ?_, hmaster,
    fun q rest hq hleft hboard hf _ => ?_, rfl⟩
  · simp [hnil] at hfind
  · obtain ⟨rfl, rfl⟩ := hfirst q rest hq hleft
    exact ⟨(congrArg CellState.sp hcell :), by rw [hq]; exact parcelsLeft_single hleft hothers⟩
  · obtain ⟨rfl, rfl⟩ := hfirst q rest hq hleft
    exact hfollower hleft hboard hf

/-- MAILBOX_WRITE meets the clauses of the obligation on a mailbox (R310, R311, R429). -/
theorem mailboxWrite_written {tab : ServingTables} (htab : servingTables s = some tab)
    (harea : areaOf s tab.intake (cellKey c) = some a) (hwork : working s = true) (hslack : slack ≠ 0)
    (hmail : (s.cell (cellKey c)).mailAt ≠ s.time.work) :
    ∃ t, exec (.mailboxWrite c slack) s = .next t ∧ MailboxWritten c slack a s t := by
  cases hfind : s.serve.parcels.findIdx? fun p => p.left.contains (cellKey c) with
  | none =>
    refine ⟨_, mailboxWrite_none htab harea hwork hslack hmail hfind, mailboxWritten_noParcel a hwf fun p rest hp hleft => ?_⟩
    rw [hp, findIdx?_left_single hleft] at hfind
    cases hfind
  | some i =>
    obtain ⟨p, hget⟩ : ∃ p, s.serve.parcels[i]? = some p :=
      ⟨_, List.getElem?_eq_getElem (List.findIdx?_eq_some_iff_getElem.mp hfind).1⟩
    by_cases hfit : parcelUnits p + 1 ≤ slack
    · obtain ⟨l, ht, hmaster, hfollower⟩ := mailboxWrite_parcel htab harea hwork hslack hmail hfind hget hfit
      exact ⟨_, ht, mailboxWritten_parcel a hwf hfind hget hmaster hfollower⟩
    · refine ⟨_, mailboxWrite_late htab harea hwork hslack hmail hfind hget (Nat.lt_of_not_le hfit),
        mailboxWritten_noParcel a hwf fun q rest hq hleft => ?_⟩
      rw [hq, findIdx?_left_single hleft] at hfind
      cases hfind
      rw [hq] at hget
      exact Option.some.inj hget ▸ hfit
end

/-! ## The outbox -/

/-- An outbox is read once in a working stroke (R312). -/
theorem outboxRead_again {c : CellAddr} {s : State} (hout : (s.cell (cellKey c)).outAt = s.time.work) :
    exec (.outboxRead c) s = .next s := by
  show execOutboxRead c s = _
  unfold execOutboxRead
  dsimp only
  split
  · rfl
  · split
    · rfl
    · rw [if_pos (by simp [settle_outAt, hout])]
      rfl

/-- What the obligation says of an outbox of cell `c` once read (R312, R429). -/
def OutboxTaken (c : CellAddr) (s t : State) : Prop :=
  (t.cell (cellKey c)).outAt = s.time.work ∧
  t = { s with
    cells := t.cells, sites := t.sites, fields := t.fields, serve := { s.serve with results := t.serve.results }, sent := t.sent } ∧
  (follows s = false → t.sent = s.sent) ∧ (follows s = true → boardServes s = true → t.serve.results = s.serve.results)

section
variable {c : CellAddr} {s : State} {x : CellState} (hwf : tblWf {} s.cells = true) (hx : x.outAt = s.time.work)
include hwf hx

/-- The clause where the outbox held nothing. -/
theorem outboxTaken_empty : OutboxTaken c s (s.setCell (cellKey c) x) := by
  refine ⟨by rw [State.setCell_cell_same s hwf, hx], ?_, fun _ => State.setCell_sent .., fun _ _ => by rw [State.setCell_serve]⟩
  rw [State.setCell_serve, State.setCell_sent, State.setCell_fields]
  exact setCell_eq ..

/-- The clause where a result was read: a follower of a board that serves sends it, and any other module keeps it. -/
theorem outboxTaken_result (o : OutResult) : OutboxTaken c s
    (if follows (s.setCell (cellKey c) x) && boardServes (s.setCell (cellKey c) x) then
      tellMaster (s.setCell (cellKey c) x) (.outbox o)
    else { s.setCell (cellKey c) x with
      serve := { (s.setCell (cellKey c) x).serve with results := (s.setCell (cellKey c) x).serve.results ++ [o] } }) := by
  obtain ⟨hout, heq, hsent, hresults⟩ := outboxTaken_empty (c := c) hwf hx
  have hfollows : follows (s.setCell (cellKey c) x) = follows s := by rw [setCell_eq]; rfl
  have hserves : boardServes (s.setCell (cellKey c) x) = boardServes s := by rw [setCell_eq]; rfl
  rw [hfollows, hserves]
  split
  next h =>
    obtain ⟨hf, -⟩ := Bool.and_eq_true_iff.mp h
    rw [tellMaster_eq, heq]
    exact ⟨hout, rfl, fun hn => absurd hf (by simp [hn]), hresults⟩
  next h =>
    rw [heq]
    exact ⟨hout, rfl, hsent, fun hf hb => absurd (by simp [hf, hb]) h⟩
end

/-- OUTBOX_READ meets the clauses of the obligation on an outbox: it holds nothing, or one of three results (R312, R429). -/
theorem outboxRead_taken {c : CellAddr} {s : State} {tab : ServingTables} {a : IoArea} (hwf : tblWf {} s.cells = true)
    (htab : servingTables s = some tab) (harea : areaOf s tab.output (cellKey c) = some a) (hwork : working s = true)
    (hout : (s.cell (cellKey c)).outAt ≠ s.time.work) :
    ∃ t, exec (.outboxRead c) s = .next t ∧ OutboxTaken c s t := by
  show ∃ t, execOutboxRead c s = .next t ∧ _
  have hgo : ¬ (!working s || (settle (fieldIsP (cellField (cellKey c))) (budgetBase s + 511) (strokeNo s)
      (s.cell (cellKey c))).outAt == s.time.work) = true := by simp [hwork, settle_outAt, hout]
  unfold execOutboxRead
  simp only [htab, harea, if_neg hgo]
  split
  · exact ⟨_, rfl, outboxTaken_result hwf rfl _⟩
  · split
    · exact ⟨_, rfl, outboxTaken_empty hwf rfl⟩
    · split
      · exact ⟨_, rfl, outboxTaken_result hwf rfl _⟩
      · split
        · exact ⟨_, rfl, outboxTaken_result hwf rfl _⟩
        · exact ⟨_, rfl, outboxTaken_empty hwf rfl⟩

/-- Settles O20: each command's clause by its own lemma above. -/
theorem slackWorkOfACell : Obligations.SlackWorkOfACell := by
  unfold Obligations.SlackWorkOfACell
  refine ⟨?_, ?_, fun c slack s hmail => mailboxWrite_again slack hmail, fun c s hout => outboxRead_again hout, ?_⟩
  · intro c n found s hwf k x used hrun hsite hladder hissue
    obtain ⟨t, m, hexec, htime, hcell, hother⟩ :=
      slackBackground_runs (used := used) rfl ((tablesWf_iff s).mp hwf).1 hrun hsite hladder hissue
    refine ⟨t, hexec, ?_, ?_, ?_, htime, hother⟩
    · rw [hcell]; rfl
    · rw [hcell]; rfl
    · rw [hcell]
      exact slackCycles_waking _ _ _ _
  · exact fun c slack s tab a hwf htab harea hwork hslack hmail =>
      mailboxWrite_written a ((tablesWf_iff s).mp hwf).1 htab harea hwork hslack hmail
  · exact fun c s tab a hwf htab harea hwork hout =>
      outboxRead_taken ((tablesWf_iff s).mp hwf).1 htab harea hwork hout

end Sys2Proof.Machine
end

section
/-! PROOFS. What an access of a cistern controller reaches, and the rules of its channels (R214 to R222, R226 to R228, R235). -/

namespace Sys2Proof.Machine

/-! ## Reads and writes of the slice -/

/-- The parts of a site that accesses of its slice reach: bytes, marks, counters and errors (R226 to R228, R235), and the count
of its cells' captures (R99). -/
structure Accessed (v w : SiteState) : Prop where
  eq : w = { v with
    mem := w.mem, linePoison := w.linePoison, errStatus := w.errStatus, errLine := w.errLine, errStroke := w.errStroke
    innerCorr := w.innerCorr, outerCorr := w.outerCorr, poisonCount := w.poisonCount, weightPoison := w.weightPoison
    evCorr := w.evCorr, evPoison := w.evPoison, evLine := w.evLine, faultCount := w.faultCount }

theorem accessed_refl (v : SiteState) : Accessed v v := ⟨rfl⟩

theorem accessed_trans {u v w : SiteState} (h : Accessed u v) (g : Accessed v w) : Accessed u w := by
  refine ⟨?_⟩
  rw [g.eq, h.eq]

theorem accessed_ite {u v w : SiteState} {p : Prop} [Decidable p] (h : Accessed u v) (g : Accessed u w) :
    Accessed u (if p then v else w) := by
  split
  · exact h
  · exact g

theorem accessed_foldl {α : Type} {f : SiteState → α → SiteState} (h : ∀ v x, Accessed v (f v x)) (l : List α) :
    ∀ v, Accessed v (l.foldl f v) := by
  induction l with
  | nil => exact accessed_refl
  | cons x l ih => exact fun v => accessed_trans (h v x) (ih _)

section
variable {v w : SiteState} (h : Accessed v w)
include h

theorem Accessed.queueA : w.queueA = v.queueA := by rw [h.eq]
theorem Accessed.queueB : w.queueB = v.queueB := by rw [h.eq]
theorem Accessed.startsA : w.startsA = v.startsA := by rw [h.eq]
theorem Accessed.startsB : w.startsB = v.startsB := by rw [h.eq]
theorem Accessed.guard : w.guard = v.guard := by rw [h.eq]

/-- An access by itself uses no burst position: `spend` counts it. -/
theorem Accessed.spent (s : State) (chanB : Bool) : Machine.spent s w chanB = Machine.spent s v chanB := by rw [h.eq]; rfl

end

theorem csError_accessed (v : SiteState) (bit line stroke : Nat) : Accessed v (csError v bit line stroke) := by
  unfold csError
  split <;> exact ⟨rfl⟩

theorem readLine_accessed (stroke : Nat) (found : List LineError) (back : Bool) (v : SiteState) (x : Nat) :
    Accessed v (readLine stroke found back v x).1 := by
  unfold readLine
  extract_lets e mark lost counted fixed corr bad reported noted marked
  have hcounted : Accessed v counted := ⟨rfl⟩
  have hfixed : Accessed v fixed := accessed_ite (accessed_trans hcounted ⟨rfl⟩) hcounted
  have hreported : Accessed v reported :=
    accessed_ite (accessed_trans hfixed (csError_accessed ..)) (accessed_ite (accessed_trans hfixed (csError_accessed ..)) hfixed)
  have hnoted : Accessed v noted := accessed_trans hreported ⟨rfl⟩
  exact accessed_ite (accessed_trans hnoted ⟨rfl⟩) hnoted

theorem readLinesOf_accessed (stroke : Nat) (found : List LineError) (back : Bool) (v : SiteState) (ls : List Nat) :
    Accessed v (readLinesOf stroke found back v ls).1 := by
  suffices ∀ (l : List Nat) (q : SiteState × List Nat), Accessed q.1 (l.foldl (fun (q : SiteState × List Nat) x =>
      let r := readLine stroke found back q.1 x
      (r.1, if r.2 then q.2 ++ [x] else q.2)) q).1 from this ls (v, [])
  intro l
  induction l with
  | nil => exact fun q => accessed_refl q.1
  | cons x l ih =>
    intro q
    rw [List.foldl_cons]
    refine accessed_trans ?_ (ih _)
    exact readLine_accessed stroke found back q.1 x

theorem lineWrite_accessed (v : SiteState) (x o : Nat) (data : Bytes) (poison : Bool) : Accessed v (lineWrite v x o data poison) :=
  ⟨rfl⟩

/-- A write of the guard that an access carries out (R222). -/
def servedBy (a : AccessReq) (g : GuardEntry) : Bool :=
  g.cell == a.logical && g.issued == a.issued && g.due == a.due && a.lines.contains g.line

theorem servedBy_iff (a : AccessReq) (g : GuardEntry) :
    servedBy a g = true ↔ g.cell = a.logical ∧ g.issued = a.issued ∧ g.due = a.due ∧ g.line ∈ a.lines := by
  simp [servedBy, and_assoc]

/-- One write of the guard goes into the slice; a part of a line is read first (R228). -/
def storeEntry (stroke : Nat) (found : List LineError) (v : SiteState) (g : GuardEntry) : SiteState :=
  if !g.live then v
  else
    let part := decide (¬ (g.offset = 0 ∧ 64 ≤ g.data.length))
    let (v, lost) := if part then readLine stroke found false v g.line else (v, false)
    lineWrite v g.line g.offset g.data (g.poison || lost)

theorem storeEntry_accessed (stroke : Nat) (found : List LineError) (v : SiteState) (g : GuardEntry) :
    Accessed v (storeEntry stroke found v g) := by
  unfold storeEntry
  refine accessed_ite (accessed_refl v) ?_
  dsimp only
  split
  · exact accessed_trans (readLine_accessed ..) (lineWrite_accessed ..)
  · exact lineWrite_accessed ..

theorem storeEntry_mem {g : GuardEntry} (hlive : g.live = true) (stroke : Nat) (found : List LineError) (v : SiteState) :
    (storeEntry stroke found v g).mem = tsetMany 0 v.mem (g.line * 64 + g.offset) g.data := by
  have hread (p : Bool) : (if p then readLine stroke found false v g.line else (v, false)).1.mem = v.mem := by
    split
    · exact readLine_mem ..
    · rfl
  unfold storeEntry
  rw [if_neg (by rw [hlive]; decide)]
  exact congrArg (tsetMany 0 · (g.line * 64 + g.offset) g.data) (hread _)

/-- A write's access stores its writes and takes them off the guard; of the queues it changes single entries at most (R222). -/
theorem commitPut_eq (stroke : Nat) (found : List LineError) (v : SiteState) (a : AccessReq) :
    ∃ f : AccessReq → AccessReq, commitPut stroke found v a =
      let w := (v.guard.filter (servedBy a)).foldl (storeEntry stroke found) v
      { w with guard := w.guard.filter fun g => !servedBy a g, queueA := w.queueA.map f, queueB := w.queueB.map f } :=
  ⟨_, rfl⟩

/-- What the access of a write leaves of its channels: the starts and the length of the queues. -/
structure ChannelsKept (v w : SiteState) : Prop where
  startsA : w.startsA = v.startsA
  startsB : w.startsB = v.startsB
  lengthA : w.queueA.length = v.queueA.length
  lengthB : w.queueB.length = v.queueB.length

theorem Accessed.channels {v w : SiteState} (h : Accessed v w) : ChannelsKept v w :=
  ⟨h.startsA, h.startsB, congrArg _ h.queueA, congrArg _ h.queueB⟩

section
variable (stroke : Nat) (found : List LineError) (v : SiteState) (a : AccessReq)

theorem commitPut_channels : ChannelsKept v (commitPut stroke found v a) := by
  obtain ⟨f, h⟩ := commitPut_eq stroke found v a
  have hw := accessed_foldl (storeEntry_accessed stroke found) (v.guard.filter (servedBy a)) v
  rw [h]
  refine ⟨hw.startsA, hw.startsB, ?_, ?_⟩
  · exact (List.length_map ..).trans (congrArg _ hw.queueA)
  · exact (List.length_map ..).trans (congrArg _ hw.queueB)

theorem commitPut_guard : (commitPut stroke found v a).guard = v.guard.filter fun g => !servedBy a g := by
  obtain ⟨f, h⟩ := commitPut_eq stroke found v a
  have hw := accessed_foldl (storeEntry_accessed stroke found) (v.guard.filter (servedBy a)) v
  rw [h]
  exact congrArg _ hw.guard

/-- The only write of the guard, live and the access's own, goes into the slice. -/
theorem commitPut_mem_single {g : GuardEntry} (hg : v.guard = [g]) (hlive : g.live = true) (hmine : servedBy a g = true) :
    (commitPut stroke found v a).mem = tsetMany 0 v.mem (g.line * 64 + g.offset) g.data := by
  obtain ⟨f, h⟩ := commitPut_eq stroke found v a
  rw [h, hg, List.filter_singleton, hmine]
  exact storeEntry_mem hlive stroke found v

end

/-! ## Starts on a channel (R216) -/

/-- A running maximum is at least its start and every term. -/
theorem foldl_max_bounds {α : Type} (f : α → Nat) (l : List α) : ∀ b : Nat,
    b ≤ l.foldl (fun t x => max t (f x)) b ∧ ∀ x ∈ l, f x ≤ l.foldl (fun t x => max t (f x)) b := by
  induction l with
  | nil => exact fun b => ⟨le_rfl, fun x hx => absurd hx List.not_mem_nil⟩
  | cons y l ih =>
    intro b
    obtain ⟨hb, hl⟩ := ih (max b (f y))
    refine ⟨(le_max_left ..).trans hb, fun x hx => ?_⟩
    rcases List.mem_cons.mp hx with rfl | hx
    · exact (le_max_right ..).trans hb
    · exact hl x hx

theorem le_afterRefresh (s : State) (t : Nat) : t ≤ afterRefresh s t := by
  unfold afterRefresh
  dsimp only
  split
  · omega
  · exact le_rfl

/-- What a channel keeps of an access started in a slot (R216). -/
def startOf (a : AccessReq) (n : Nat) : ChanStart :=
  { slot := n, group := bf (a.lines.headD 0) 5 3, bank := bf (a.lines.headD 0) 7 6, write := a.kind == .put }

/-- An access starts no earlier than listed and keeps its distance from every start before it. -/
theorem startSlot_bounds {s : State} {starts : List ChanStart} {a : AccessReq} {n : Nat} (h : startSlot s starts a = some n) :
    a.slot ≤ n ∧ ∀ q ∈ starts, q.slot + startGap q (startOf a n) ≤ n := by
  unfold startSlot at h
  dsimp only at h
  split at h
  · next r d _ _ =>
    obtain ⟨hfirst, hgaps⟩ := foldl_max_bounds (fun q : ChanStart => q.slot + startGap q (startOf a 0)) starts (max a.slot (max r d))
    have hn : starts.foldl (fun t q => max t (q.slot + startGap q (startOf a 0))) (max a.slot (max r d)) ≤ n :=
      (le_afterRefresh s _).trans_eq (Option.some.inj h)
    exact ⟨(le_max_left ..).trans (hfirst.trans hn), fun q hq => (hgaps q hq).trans hn⟩
  · cases h

/-- A start recorded stands among the starts of its channel. -/
theorem recordStart_starts (s : State) (v : SiteState) (chanB : Bool) (a : AccessReq) (n : Nat) :
    startOf a n ∈ (if chanB then (recordStart s v chanB a n).startsB else (recordStart s v chanB a n).startsA) := by
  cases chanB <;> exact List.mem_append_right _ (List.mem_singleton_self _)

/-- The parts of a site that the record of a start reaches. -/
structure StartsOnly (v w : SiteState) : Prop where
  eq : w = { v with startsA := w.startsA, startsB := w.startsB, usedA := w.usedA, usedB := w.usedB, usedAt := w.usedAt }

theorem recordStart_startsOnly (s : State) (v : SiteState) (chanB : Bool) (a : AccessReq) (n : Nat) :
    StartsOnly v (recordStart s v chanB a n) := by
  cases chanB <;> exact ⟨rfl⟩

end Sys2Proof.Machine
end

section
/-! PROOFS. The start of an access of a cistern controller (R97, R201, R214 to R218, R222). -/

namespace Sys2Proof.Machine

/-! ## An access starts (R218) -/

/-- An access is taken off the front of its channel's list. -/
def offList (chanB : Bool) (rest : List AccessReq) (v : SiteState) : SiteState :=
  if chanB then { v with queueB := rest } else { v with queueA := rest }

/-- The state in which an access is carried out: writes delivered by then are seen, it is off its list, and its start is recorded
where it is not turned away. -/
def accessBegun (s : State) (k : Nat) (chanB : Bool) (a : AccessReq) (rest : List AccessReq) (n : Nat) : State :=
  let s := (settleGuard s k (siteNow s k)).modSite k (offList chanB rest)
  if a.denied.isSome then s else s.modSite k fun v => recordStart s v chanB a n

/-- The access of a write is carried out or turned away. -/
def putServed (u : State) (k : Nat) (found : List LineError) (a : AccessReq) : State :=
  let t := u.modSite k fun v => commitPut (strokeNo u) found v a
  match a.denied with
  | some d => denyAccess t k a d
  | none => t

/-- The access of a read is carried out or turned away. -/
def readServed (u : State) (k : Nat) (found : List LineError) (a : AccessReq) (n : Nat) : State :=
  match a.denied with
  | some d => (denyAccess u k a d).modCell a.cell fun c => startMoves c a a.lines 0
  | none =>
    let r := readLinesOf (strokeNo u) found false (u.site k) a.lines
    (u.setSite k r.1).modCell a.cell fun c => startMoves c a r.2 (n + 32)

/-- The access is carried out or turned away, as what it is. -/
def accessServed (u : State) (k : Nat) (found : List LineError) (a : AccessReq) (n : Nat) : State :=
  if a.kind = .put then putServed u k found a else readServed u k found a n

/-- The first listed access of a ready channel starts once its slot has come, no cell can still issue one ahead of it and, for a
write, its delivery cycle has begun. -/
theorem cisternAccessStart_eq {s : State} {site : SiteAddr} {chanB : Bool} {a : AccessReq} {rest : List AccessReq} {n : Nat}
    (hready : (s.site (siteKey site)).cisState = .ready)
    (hqueue : (if chanB then (s.site (siteKey site)).queueB else (s.site (siteKey site)).queueA) = a :: rest)
    (hstart : startSlot s (if chanB then (s.site (siteKey site)).startsB else (s.site (siteKey site)).startsA) a = some n)
    (hslot : n ≤ slotNow s) (hissued : a.issued < siteNow s (siteKey site))
    (hdue : a.kind = .put → a.due ≤ siteNow s (siteKey site)) (found : List LineError) :
    exec (.cisternAccessStart site chanB found) s =
      .next (accessServed (accessBegun s (siteKey site) chanB a rest n) (siteKey site) found a n) := by
  have hgo : ¬ ((s.site (siteKey site)).cisState ≠ .ready ∨ slotNow s < n ∨ siteNow s (siteKey site) ≤ a.issued ∨
      (a.kind = .put ∧ siteNow s (siteKey site) < a.due)) := by
    rintro (h | h | h | ⟨hk, h⟩)
    · exact h hready
    · omega
    · omega
    · exact absurd (hdue hk) (Nat.not_le.mpr h)
  show execCisternAccessStart site chanB found s = _
  unfold execCisternAccessStart
  simp only [hqueue, hstart, if_neg hgo]
  unfold accessServed putServed readServed accessBegun
  cases a.kind <;> cases a.denied <;> rfl

/-! ## What an access leaves of the rest of the wafer (R97, R201) -/

/-- Board time stands, and of the sites one, and that of one cell, may change. -/
structure SitesKept (k c : Nat) (s t : State) : Prop where
  time : t.time = s.time
  other : ∀ j, j ≠ k → cellSite c ≠ j → t.site j = s.site j

theorem sitesKept_trans {k c : Nat} {s t u : State} (h : SitesKept k c s t) (g : SitesKept k c t u) : SitesKept k c s u :=
  ⟨g.time.trans h.time, fun j hj hc => (g.other j hj hc).trans (h.other j hj hc)⟩

theorem sitesKept_setSite (k c : Nat) (s : State) (v : SiteState) : SitesKept k c s (s.setSite k v) :=
  ⟨rfl, fun _ hj _ => State.setSite_site_other s hj⟩

theorem modSite_site_same {s : State} (h : tblWf {} s.sites = true) (k : Nat) (g : SiteState → SiteState) :
    (s.modSite k g).site k = g (s.site k) := State.setSite_site_same s h

theorem sitesKept_modCell (k c : Nat) (s : State) (g : CellState → CellState) : SitesKept k c s (s.modCell c g) :=
  ⟨State.setCell_time .., fun _ _ hc => State.setCell_site_other s (Ne.symm hc)⟩

/-- An access turned away is an error of its site and a capture of its cell. -/
theorem denyAccess_eq (s : State) (k : Nat) (a : AccessReq) (d : Denied) : ∃ v g,
    denyAccess s k a d = (s.setSite k v).modCell a.cell g ∧ Accessed (s.site k) v ∧ v.mem = (s.site k).mem := by
  unfold denyAccess State.modSite
  refine ⟨_, _, rfl, ?_, ?_⟩
  · exact accessed_trans (csError_accessed ..) ⟨rfl⟩
  · simp only [csError_mem]

theorem sitesKept_denyAccess (k : Nat) (s : State) (a : AccessReq) (d : Denied) : SitesKept k a.cell s (denyAccess s k a d) := by
  obtain ⟨v, g, heq, -, -⟩ := denyAccess_eq s k a d
  rw [heq]
  exact sitesKept_trans (sitesKept_setSite ..) (sitesKept_modCell ..)

theorem invalidateLines_sites (s : State) (k : Nat) (lines : List Nat) (due : Nat) : (invalidateLines s k lines due).sites = s.sites := by
  unfold invalidateLines
  split <;> rfl

theorem foldl_invalidateLines_sites (k : Nat) (gs : List GuardEntry) (s : State) :
    (gs.foldl (fun s g => invalidateLines s k [g.line] g.due) s).sites = s.sites :=
  foldl_keeps State.sites (fun s (g : GuardEntry) => invalidateLines_sites s k [g.line] g.due) gs s

theorem sitesKept_settleGuard (k c now : Nat) (s : State) : SitesKept k c s (settleGuard s k now) := by
  refine ⟨settleGuard_time .., fun j hj _ => ?_⟩
  unfold settleGuard
  dsimp only
  split
  · rfl
  · exact (State.setSite_site_other _ hj).trans (by unfold State.site; rw [foldl_invalidateLines_sites])

/-- The settling of a site's writes marks some of them as seen, and leaves the rest of the site. -/
theorem settleGuard_site {s : State} (h : tblWf {} s.sites = true) (k now : Nat) : ∃ seen : GuardEntry → Bool,
    (settleGuard s k now).site k = { s.site k with guard := (s.site k).guard.map fun g => { g with seen := seen g } } := by
  unfold settleGuard
  dsimp only
  split
  · exact ⟨GuardEntry.seen, by rw [List.map_id']⟩
  · refine ⟨fun g => if g.due ≤ now then true else g.seen, ?_⟩
    generalize (s.site k).guard.filter _ = gs
    have hsites := foldl_invalidateLines_sites k gs s
    generalize gs.foldl _ s = t at hsites
    rw [State.modSite, State.setSite_site_same _ (hsites ▸ h), State.site, hsites, ← State.site]
    congr 2
    funext g
    by_cases hg : g.due ≤ now <;> simp [hg]

theorem keeps_settleGuard {s : State} {k now : Nat} : Keeps s (settleGuard s k now) := (keeps_refl s).settleGuard

/-- A change of a cell reaches of a site at most the count of captures (R99). -/
theorem modCell_site {s : State} (h : tblWf {} s.sites = true) (c k : Nat) (g : CellState → CellState) :
    ∃ n, (s.modCell c g).site k = { s.site k with faultCount := n } := by
  unfold State.modCell State.setCell
  dsimp only
  split
  · by_cases hk : k = cellSite c
    · subst hk
      exact ⟨_, State.setSite_site_same _ (by exact h)⟩
    · exact ⟨_, State.setSite_site_other _ hk⟩
  · exact ⟨_, rfl⟩

theorem modCell_accessed {s : State} (h : tblWf {} s.sites = true) (c k : Nat) (g : CellState → CellState) :
    Accessed (s.site k) ((s.modCell c g).site k) := by
  obtain ⟨n, hn⟩ := modCell_site h c k g
  rw [hn]; exact ⟨rfl⟩

theorem modCell_mem {s : State} (h : tblWf {} s.sites = true) (c k : Nat) (g : CellState → CellState) :
    ((s.modCell c g).site k).mem = (s.site k).mem := by
  obtain ⟨n, hn⟩ := modCell_site h c k g
  rw [hn]

section
variable {s : State} (h : tblWf {} s.sites = true) (k : Nat) (a : AccessReq) (d : Denied)
include h

theorem denyAccess_accessed : Accessed (s.site k) ((denyAccess s k a d).site k) := by
  obtain ⟨v, g, heq, hv, -⟩ := denyAccess_eq s k a d
  have hcell := modCell_accessed (s := s.setSite k v) (tblWf_tset _ k v h) a.cell k g
  rw [State.setSite_site_same s h] at hcell
  rw [heq]
  exact accessed_trans hv hcell

theorem denyAccess_mem : ((denyAccess s k a d).site k).mem = (s.site k).mem := by
  obtain ⟨v, g, heq, -, hv⟩ := denyAccess_eq s k a d
  rw [heq, modCell_mem (s := s.setSite k v) (tblWf_tset _ k v h), State.setSite_site_same s h, hv]
end

/-! ## The beginning of an access -/

/-- What an access finds at its site: it is off its list, its start is recorded, and of the writes some are marked as seen. -/
structure Begun (chanB : Bool) (a : AccessReq) (rest : List AccessReq) (n : Nat) (v w : SiteState) : Prop where
  mem : w.mem = v.mem
  queueA : w.queueA = if chanB then v.queueA else rest
  queueB : w.queueB = if chanB then rest else v.queueB
  guard : ∃ seen : GuardEntry → Bool, w.guard = v.guard.map fun g => { g with seen := seen g }
  start : a.denied = none → startOf a n ∈ if chanB then w.startsB else w.startsA

theorem begun_recordStart {chanB : Bool} {a : AccessReq} {rest : List AccessReq} {n : Nat} {v w : SiteState} (s : State)
    (hmem : w.mem = v.mem) (hqueueA : w.queueA = if chanB then v.queueA else rest)
    (hqueueB : w.queueB = if chanB then rest else v.queueB)
    (hguard : ∃ seen : GuardEntry → Bool, w.guard = v.guard.map fun g => { g with seen := seen g }) :
    Begun chanB a rest n v (if a.denied.isSome then w else recordStart s w chanB a n) := by
  split
  · next hd => exact ⟨hmem, hqueueA, hqueueB, hguard, fun h => absurd hd (by rw [h]; decide)⟩
  · rw [(recordStart_startsOnly s w chanB a n).eq]
    exact ⟨hmem, hqueueA, hqueueB, hguard, fun _ => recordStart_starts s w chanB a n⟩

section
variable {s : State} (k : Nat) (chanB : Bool) (a : AccessReq) (rest : List AccessReq) (n : Nat)

theorem accessBegun_keeps : Keeps s (accessBegun s k chanB a rest n) :=
  have htaken := (keeps_refl s).settleGuard.modSite
  htaken.ite htaken.modSite

theorem accessBegun_sitesKept : SitesKept k a.cell s (accessBegun s k chanB a rest n) := by
  have htaken : SitesKept k a.cell s ((settleGuard s k (siteNow s k)).modSite k (offList chanB rest)) :=
    sitesKept_trans (sitesKept_settleGuard ..) (sitesKept_setSite ..)
  unfold accessBegun
  dsimp only
  split
  · exact htaken
  · exact sitesKept_trans htaken (sitesKept_setSite ..)

/-- No cell changes but for its cache and fills (R201). -/
theorem accessBegun_cachesOnly (h : tblWf {} s.cells = true) : CachesOnly s (accessBegun s k chanB a rest n) := by
  have hg := settleGuard_cachesOnly h k (siteNow s k)
  unfold accessBegun
  dsimp only
  split <;> exact ⟨hg.wf, hg.cell⟩

theorem accessBegun_site (h : s.tablesWf = true) :
    Begun chanB a rest n (s.site k) ((accessBegun s k chanB a rest n).site k) := by
  obtain ⟨-, hsites, -⟩ := (tablesWf_iff s).mp h
  obtain ⟨seen, hseen⟩ := settleGuard_site hsites k (siteNow s k)
  obtain ⟨-, hsettled, -⟩ := (tablesWf_iff _).mp (keeps_settleGuard.2 h)
  obtain ⟨-, htaken, -⟩ := (tablesWf_iff _).mp (keeps_settleGuard.modSite.2 h)
  unfold accessBegun
  dsimp only
  rw [apply_ite (State.site · k), modSite_site_same htaken, modSite_site_same hsettled, hseen]
  cases chanB <;> exact begun_recordStart _ rfl rfl rfl ⟨seen, rfl⟩
end

/-! ## The end of an access -/

section
variable {u : State} (h : u.tablesWf = true) (k : Nat) (found : List LineError) (a : AccessReq) (n : Nat)

theorem accessServed_sitesKept : SitesKept k a.cell u (accessServed u k found a n) := by
  unfold accessServed putServed readServed
  dsimp only
  split
  · split
    · exact sitesKept_trans (sitesKept_setSite ..) (sitesKept_denyAccess ..)
    · exact sitesKept_setSite ..
  · split
    · exact sitesKept_trans (sitesKept_denyAccess ..) (sitesKept_modCell ..)
    · exact sitesKept_trans (sitesKept_setSite ..) (sitesKept_modCell ..)

include h

/-- A write leaves its site as it stored it, but for the error and the capture where it is turned away. -/
theorem putServed_accessed : Accessed (commitPut (strokeNo u) found (u.site k) a) ((putServed u k found a).site k) := by
  obtain ⟨-, hsites, -⟩ := (tablesWf_iff _).mp h
  obtain ⟨-, hstored, -⟩ := (tablesWf_iff _).mp ((keeps_modSite u k fun v => commitPut (strokeNo u) found v a).2 h)
  unfold putServed
  dsimp only
  split
  · next d _ =>
    have hdenied := denyAccess_accessed hstored k a d
    rw [modSite_site_same hsites] at hdenied
    exact hdenied
  · rw [modSite_site_same hsites]
    exact accessed_refl _

theorem putServed_site (hd : a.denied = none) : (putServed u k found a).site k = commitPut (strokeNo u) found (u.site k) a := by
  obtain ⟨-, hsites, -⟩ := (tablesWf_iff _).mp h
  unfold putServed
  simp only [hd]
  exact modSite_site_same hsites ..

/-- A read reaches no more of its site than an access does, and writes no data. -/
theorem readServed_accessed :
    Accessed (u.site k) ((readServed u k found a n).site k) ∧ ((readServed u k found a n).site k).mem = (u.site k).mem := by
  obtain ⟨-, hsites, -⟩ := (tablesWf_iff _).mp h
  unfold readServed
  dsimp only
  split
  · next d _ =>
    obtain ⟨-, hdenied, -⟩ := (tablesWf_iff _).mp ((keeps_refl u).denyAccess (k := k) (a := a) (d := d).2 h)
    exact ⟨accessed_trans (denyAccess_accessed hsites ..) (modCell_accessed hdenied ..),
      (modCell_mem hdenied ..).trans (denyAccess_mem hsites ..)⟩
  · have hread := State.setSite_site_same u (k := k) (v := (readLinesOf (strokeNo u) found false (u.site k) a.lines).1) hsites
    have hwf := tblWf_tset {} k (readLinesOf (strokeNo u) found false (u.site k) a.lines).1 hsites
    refine ⟨accessed_trans ?_ (modCell_accessed hwf ..), (modCell_mem hwf ..).trans ?_⟩
    · rw [hread]; exact readLinesOf_accessed ..
    · rw [hread]; exact readLinesOf_mem ..

theorem accessServed_channels : ChannelsKept (u.site k) ((accessServed u k found a n).site k) := by
  unfold accessServed
  split
  · have hstored := commitPut_channels (strokeNo u) found (u.site k) a
    have hdone := (putServed_accessed h k found a).channels
    exact ⟨hdone.startsA.trans hstored.startsA, hdone.startsB.trans hstored.startsB, hdone.lengthA.trans hstored.lengthA,
      hdone.lengthB.trans hstored.lengthB⟩
  · exact (readServed_accessed h k found a n).1.channels

theorem accessServed_guard (hk : a.kind = .put) :
    ((accessServed u k found a n).site k).guard = (u.site k).guard.filter fun g => !servedBy a g := by
  rw [accessServed, if_pos hk, (putServed_accessed h k found a).guard, commitPut_guard]

theorem accessServed_mem_put (hk : a.kind = .put) (hd : a.denied = none) {g : GuardEntry} (hg : (u.site k).guard = [g])
    (hlive : g.live = true) (hmine : servedBy a g = true) :
    ((accessServed u k found a n).site k).mem = tsetMany 0 (u.site k).mem (g.line * 64 + g.offset) g.data := by
  rw [accessServed, if_pos hk, putServed_site h k found a hd, commitPut_mem_single _ _ _ _ hg hlive hmine]

theorem accessServed_mem_read (hk : a.kind ≠ .put) : ((accessServed u k found a n).site k).mem = (u.site k).mem := by
  rw [accessServed, if_neg hk]
  exact (readServed_accessed h k found a n).2

/-- A read that is not turned away marks its lines as started, in the landing buffer 32 slots after its activation (R217). -/
theorem accessServed_cell (hk : a.kind ≠ .put) (hd : a.denied = none) : ∃ bad : List Nat,
    (accessServed u k found a n).cell a.cell = startMoves (u.cell a.cell) a bad (n + 32) := by
  obtain ⟨hcells, -⟩ := (tablesWf_iff _).mp h
  rw [accessServed, if_neg hk, readServed, hd]
  exact ⟨_, State.setCell_cell_same _ (by exact hcells)⟩

end

/-- A line of a cis.get once an access is carried out: started, and in the landing buffer from a slot on, where the access has it. -/
def startMove (a : AccessReq) (bad : List Nat) (ready : Nat) (m : LineMove) : LineMove :=
  if a.lines.contains m.line && !m.started then
    { m with
      started := true, readyAt := ready
      data := if bad.contains m.line then m.data.map fun w => { w with poison := true } else m.data }
  else m

theorem startMove_fresh {a : AccessReq} {m : LineMove} (bad : List Nat) (ready : Nat) (hline : m.line ∈ a.lines)
    (hfresh : m.started = false) : (startMove a bad ready m).started = true ∧ (startMove a bad ready m).readyAt = ready ∧
      (startMove a bad ready m).line = m.line := by
  simp [startMove, hline, hfresh]

theorem startMoves_pend {c : CellState} {a : AccessReq} (bad : List Nat) (ready : Nat) {i u : Nat} {q : Pending}
    {inb : List Bool} {ms : List LineMove} (hk : a.kind = .get) (hq : c.pend[i]? = some q) (hdue : q.due = a.due)
    (hwhat : q.what = .cisGet u inb ms) :
    (startMoves c a bad ready).pend[i]? = some { q with what := .cisGet u inb (ms.map (startMove a bad ready)) } := by
  simp only [startMoves, List.getElem?_map, hq, Option.map_some, hdue, hk, hwhat, ne_eq, not_true_eq_false, if_false]
  rfl

/-- Settles O21: an access starts at its slot (`startSlot_bounds`), on what `accessBegun_site` finds, and is carried out with what
the lemmas on `accessServed` say. -/
theorem cisternAccessesStartInOrder : Obligations.CisternAccessesStartInOrder := by
  unfold Obligations.CisternAccessesStartInOrder
  intro site chanB found s a rest n hwf k st starts hready hqueue hstart hslot hissued hdue
  obtain ⟨hcells, -⟩ := (tablesWf_iff s).mp hwf
  have hbegun := accessBegun_site k chanB a rest n hwf
  have hcaches := accessBegun_cachesOnly k chanB a rest n hcells
  have hkept := sitesKept_trans (accessBegun_sitesKept (s := s) k chanB a rest n) (accessServed_sitesKept k found a n)
  have huwf : (accessBegun s k chanB a rest n).tablesWf = true := (accessBegun_keeps k chanB a rest n).2 hwf
  refine ⟨_, cisternAccessStart_eq hready hqueue hstart hslot hissued hdue found, ?_⟩
  generalize accessBegun s k chanB a rest n = u at hbegun hcaches hkept huwf
  obtain ⟨hmem, hqueueA, hqueueB, ⟨seen, hguard⟩, hrecorded⟩ := hbegun
  have hchannels := accessServed_channels huwf k found a n
  refine ⟨?_, ?_, fun hd => ?_, fun hk g hg => ?_, fun g hk hd hsingle hlive hcell hissue hgdue hline => ?_, fun hk => ?_,
    fun i x j q inb ms m hk hd hq hqdue hwhat hm hline hfresh => ?_, hkept.time, hkept.other⟩
  · rw [hchannels.lengthA, hqueueA, apply_ite List.length]
  · rw [hchannels.lengthB, hqueueB, apply_ite List.length]
  · obtain ⟨hlisted, hgaps⟩ := startSlot_bounds hstart
    rw [hchannels.startsA, hchannels.startsB]
    exact ⟨startOf a n, hrecorded hd, rfl, hlisted, rfl, hgaps⟩
  · rw [accessServed_guard huwf k found a n hk, List.mem_filter, Bool.not_eq_true', Bool.eq_false_iff, ne_eq, servedBy_iff] at hg
    exact hg.2
  · rw [hsingle] at hguard
    have hmine : servedBy a { g with seen := seen g } = true := (servedBy_iff ..).mpr ⟨hcell, hissue, hgdue, hline⟩
    rw [accessServed_mem_put huwf k found a n hk hd hguard hlive hmine, hmem]
  · rw [accessServed_mem_read huwf k found a n hk, hmem]
  · obtain ⟨bad, ht⟩ := accessServed_cell huwf k found a n (by rw [hk]; decide) hd
    have hqu : (u.cell a.cell).pend[i]? = some q := by rw [(hcaches.cell a.cell).eq]; exact hq
    rw [ht]
    exact ⟨_, startMove a bad (n + 32) m, startMoves_pend bad _ hk hqu hqdue hwhat, by rw [List.getElem?_map, hm]; rfl,
      startMove_fresh bad _ hline hfresh⟩

end Sys2Proof.Machine
end

section
/-! PROOFS. Landings, refresh commands and scrubs of a cistern controller (R213, R217, R220, R223, R229). -/

namespace Sys2Proof.Machine

/-! ## Landings (R217, R220) -/

section
variable {c : CellState} {i j u : Nat} {q : Pending} {inb : List Bool} {ms : List LineMove} {m : LineMove}
  (hq : c.pend[i]? = some q) (hwhat : q.what = .cisGet u inb ms) (hm : ms[j]? = some m)
include hq hwhat hm

theorem moveAt_cisGet : moveAt c i j = some m := by
  simp only [moveAt, hq, hwhat, hm]

theorem modMove_pend (f : LineMove → LineMove) :
    (modMove c i j f).pend = c.pend.set i { q with what := .cisGet u inb (ms.set j (f m)) } := by
  simp only [modMove, List.modify_eq_set_getElem?, hq, hwhat, hm, Option.map_eq_map, Option.map_some, Option.getD_some]

end

section
variable {site : SiteAddr} {index ck i j n : Nat} {s : State} {m : LineMove}
  (hplace : (outstanding s (siteKey site))[index]? = some (ck, i, j)) (hm : moveAt (s.cell ck) i j = some m)
  (hn : budgetSlot s false m.landAt = some n) (hslot : n ≤ slotNow s) (hland : m.landAt ≤ siteNow s (siteKey site))
include hplace hm hn hslot hland

/-- A line in the landing buffer at its landing cycle lands. -/
theorem lineLanding_landed (hstarted : m.started = true) (hready : m.readyAt ≤ n) : exec (.lineLanding site index) s =
    .next (s.modCell ck fun c => modMove c i j fun m => { m with landed := true }) := by
  have hgo : ¬ (siteNow s (siteKey site) < m.landAt ∨ slotNow s < n) := by omega
  show execLineLanding site index s = _
  simp only [execLineLanding, hplace, hm, hn, if_neg hgo, if_pos (And.intro hstarted hready), done]

/-- A line not there is late. -/
theorem lineLanding_missed (hmissed : m.started = false ∨ n < m.readyAt) : exec (.lineLanding site index) s =
    .next ((lateLine s (siteKey site) m.line).modCell ck fun c => modMove c i j fun m => { m with missed := true }) := by
  have hgo : ¬ (siteNow s (siteKey site) < m.landAt ∨ slotNow s < n) := by omega
  have hlate : ¬ (m.started = true ∧ m.readyAt ≤ n) := by
    rintro ⟨hstarted, hready⟩
    rcases hmissed with h | h
    · rw [h] at hstarted; cases hstarted
    · omega
  show execLineLanding site index s = _
  simp only [execLineLanding, hplace, hm, hn, if_neg hgo, if_neg hlate, done]

end

/-- Settles O22: `lineLanding_landed` and `lineLanding_missed` change the one line (`modMove_pend`); a late one is counted at its
site (`lateLine_site`), and no cell captures anything. -/
theorem linesLandOrAreLate : Obligations.LinesLandOrAreLate := by
  unfold Obligations.LinesLandOrAreLate
  intro site index ck i j n s q u inb ms m hwf hplace hq hwhat hm hn hslot hland
  obtain ⟨hcells, hsites, -⟩ := (tablesWf_iff s).mp hwf
  have hmove := moveAt_cisGet hq hwhat hm
  refine ⟨fun hstarted hready => ⟨_, lineLanding_landed hplace hmove hn hslot hland hstarted hready, ?_⟩,
    fun hmissed => ⟨_, lineLanding_missed hplace hmove hn hslot hland hmissed, ?_⟩⟩
  · rw [State.modCell, State.setCell_cell_same s hcells, modMove_pend hq hwhat hm]
  · have hkeep : ((lateLine s (siteKey site) m.line).modCell ck fun c => modMove c i j fun m => { m with missed := true }).sites =
        (lateLine s (siteKey site) m.line).sites := State.setCell_sites _ (em (_ = _)).symm
    obtain ⟨hlate, herr, hcount⟩ := lateLine_site hsites (siteKey site) m.line
    refine ⟨?_, ?_⟩
    · rw [State.modCell, State.setCell_cell_same _ (by exact hcells)]
      exact modMove_pend hq hwhat hm _
    · rw [State.site, hkeep]
      exact ⟨hlate, herr, hcount⟩

/-! ## Refresh commands (R223) -/

theorem refreshCommand_due {site : SiteAddr} {slot : Nat} {s : State} (hrun : s.time.running = true) (hcurb : s.time.stroke = 0)
    (hslot : slot = 126 ∨ slot = 168 ∨ slot = 210) (hage : slot / 9 = curbAge s)
    (hready : (s.site (siteKey site)).cisState = .ready)
    (hnew : (s.site (siteKey site)).refreshLast ≠ some (s.time.epoch * 256 + slot)) : exec (.refreshCommand site slot) s =
      .next (s.modSite (siteKey site) fun v =>
        { v with refreshCount := v.refreshCount + 1, refreshLast := some (s.time.epoch * 256 + slot) }) := by
  show execRefreshCommand site slot s = _
  unfold execRefreshCommand
  refine if_pos ?_
  simpa [hrun, hcurb, hage, hready, hnew, or_assoc] using hslot

/-! ## Scrubs (R229) -/

/-- The lines of the burst that a slice scrubs next (R213, R229). -/
def scrubLines (v : SiteState) : List Nat :=
  let x := v.scrubPos.toNat * 4
  [x, x + 1, x + 2, x + 3]

/-- A slice after the first scrub of a channel in the present stroke. -/
def scrubbed (s : State) (v : SiteState) (chanB : Bool) (found : List LineError) : SiteState :=
  { spend s (readLinesOf (strokeNo s) found true v (scrubLines v)).1 (if chanB then 0 else 2) (if chanB then 2 else 0) with
    scrubPos := v.scrubPos + 1
    scrubPasses := if v.scrubPos.toNat + 1 = 2 ^ 22 then v.scrubPasses + 1 else v.scrubPasses
    scrubAt := strokeNo s, scrubA := if chanB then 0 else 1, scrubB := if chanB then 1 else 0 }

theorem cisternScrub_due {site : SiteAddr} {chanB : Bool} {s : State} (found : List LineError) (hrun : s.time.running = true)
    (hswap : swapping s = false) (hready : (s.site (siteKey site)).cisState = .ready)
    (hon : tb (s.site (siteKey site)).csCtrl.toNat 0 = true) (hchan : tb (s.site (siteKey site)).scrubPos.toNat 0 = chanB)
    (hfresh : (s.site (siteKey site)).scrubAt ≠ strokeNo s) (hshare : 2 ≤ bf (s.site (siteKey site)).csCtrl.toNat 15 8)
    (hopen : channelsOpen s = true) (hfree : 2 ≤ freePositions s (siteKey site) chanB)
    (hidle : readyTransfers s (siteKey site) = []) : exec (.cisternScrub site chanB found) s =
      .next (s.setSite (siteKey site) (scrubbed s (s.site (siteKey site)) chanB found)) := by
  show execCisternScrub site chanB found s = _
  unfold execCisternScrub
  simp only [hfresh, ne_eq, not_false_eq_true, if_true, ite_self, Nat.mul_zero, Nat.zero_add, hrun, hswap, hready, hon, hchan,
    hshare, hopen, hfree, hidle, and_self, decide_eq_true_eq]
  rfl

/-- A scrub uses two positions of its channel. -/
theorem spent_scrubbed (s : State) (v : SiteState) (chanB : Bool) (found : List LineError) :
    spent s (scrubbed s v chanB found) chanB = spent s v chanB + 2 := by
  rw [← (readLinesOf_accessed (strokeNo s) found true v (scrubLines v)).spent s chanB]
  cases chanB <;> simp [spent, scrubbed, spend]

/-- A scrub writes no data. -/
theorem scrubbed_mem (s : State) (v : SiteState) (chanB : Bool) (found : List LineError) : (scrubbed s v chanB found).mem = v.mem := by
  simp only [scrubbed, spend, readLinesOf_mem]

/-- Settles O23: each command by its equation, `refreshCommand_due` and `cisternScrub_due`. -/
theorem refreshAndScrubOfASlice : Obligations.RefreshAndScrubOfASlice := by
  unfold Obligations.RefreshAndScrubOfASlice
  constructor
  · intro site slot s hwf hrun hcurb hslot hage hready hnew
    obtain ⟨-, hsites, -⟩ := (tablesWf_iff s).mp hwf
    exact ⟨_, refreshCommand_due hrun hcurb hslot hage hready hnew, modSite_site_same hsites ..,
      fun j hj => State.setSite_site_other s hj, rfl⟩
  · intro site chanB found s hwf v hrun hswap hready hon hchan hfresh hshare hopen hfree hidle
    obtain ⟨-, hsites, -⟩ := (tablesWf_iff s).mp hwf
    refine ⟨_, cisternScrub_due found hrun hswap hready hon hchan hfresh hshare hopen hfree hidle, ?_⟩
    rw [State.setSite_site_same s hsites]
    exact ⟨rfl, rfl, spent_scrubbed .., scrubbed_mem .., fun j hj => State.setSite_site_other s hj, rfl⟩

end Sys2Proof.Machine
end

section
/-! PROOFS. A refill that does not end the wait of its line (R492, R505, R507). -/

namespace Sys2Proof.Machine

/-- Site 0 holds one slice extent of one line, line 9, which diverged from its reference digest and waits for a refill; the refill,
64 bytes of 7, is at the slice and can be carried out. The reference is not the digest of those bytes. -/
def divergedExtent : State := {
  time := { localTicks := 1000, running := true, stroke := 5 }
  sites := [(0, {
    cisState := .ready, transfers := [.refill 9 (List.replicate 64 7)]
    active := { regionCtrl := [(0, BitVec.ofNat 32 (2 ^ 31 + 1))] } })]
  weights := {
    resident := some {
      setId := 0, version := 0, layout := 0, positions := 1, layers := [], shards := [], key := 0
      extents := [{ kind := 0, positions := 1, fields := 1, master := 9, staging := 0, lines := 1 }] }
    recheck := [(0, 0)], refs := [(0, 0, 0)], refills := [(0, 9)] } }

theorem divergedExtent_ready :
    let s := divergedExtent
    s.tablesWf = true ∧ (s.site 0).cisState = .ready ∧ (s.site 0).transfers = [.refill 9 (List.replicate 64 7)] ∧
    regionKind (s.site 0).active 9 = some 0 ∧ tblWf 0 (s.site 0).mem = true ∧ tblWf false (s.site 0).linePoison = true ∧
    s.weights.loading = none ∧ servingTables s = none ∧ s.time.running = true ∧ channelsOpen s = true ∧
    1 ≤ freePositions s 0 (tb 9 2) ∧ meshBusy s (siteRouter s 0) 9 = false := by decide +kernel

/-- The lines that wait for a refill after a command. -/
def refillsAfter : Host.Outcome State Fault Refusal → List (Nat × Nat)
  | .next t => t.weights.refills
  | _ => []

/-- The refill ends the wait of line 9, the extent is digested again, still differs, and line 9 is asked for anew. -/
theorem divergedExtent_asksAgain :
    refillsAfter (exec (.backgroundTransfer ⟨0, 0⟩ []) divergedExtent) = [(0, 9)] := by decide +kernel

/-- Refutes O24: a refilled line waits for its refill again where its extent had diverged and, digested again once this last line
is there (R507), still differs from its reference, as in `divergedExtent`. -/
theorem not_transfersAndTrainingOfASlice : ¬ Obligations.TransfersAndTrainingOfASlice := by
  unfold Obligations.TransfersAndTrainingOfASlice
  rintro ⟨h, -⟩
  obtain ⟨hwf, hready, htransfers, hkind, hmem, hmarks, hload, hserve, hrun, hopen, hfree, hmesh⟩ := divergedExtent_ready
  obtain ⟨t, ht, -, -, -, -, hdone⟩ := h ⟨0, 0⟩ [] divergedExtent 9 (List.replicate 64 7) hwf hready htransfers
    List.length_replicate (.inl hkind) hmem hmarks hload hserve hrun hopen hfree hmesh
  have hagain := divergedExtent_asksAgain
  rw [ht] at hagain
  have hwaits : t.weights.refills = [(0, 9)] := hagain
  exact hdone (hwaits ▸ List.mem_singleton_self _)

end Sys2Proof.Machine
end

section
/-! PROOFS. A flit takes the next link of its leg, and the CRC at the inputs of its way (R241, R242, R244, R246). -/

namespace Sys2Proof.Machine

/-! ## The CRC of a flit (R241, R246) -/

theorem crc16Bit_lt (c : Nat) (b : Bool) : crc16Bit c b < 2 ^ 16 := by
  have hs : (c <<< 1) % 65536 < 2 ^ 16 := Nat.mod_lt _ (by decide)
  unfold crc16Bit
  dsimp only
  split
  · exact Nat.xor_lt_two_pow hs (by decide)
  · exact hs

theorem crc16_lt (n x : Nat) : ∀ {c : Nat}, c < 2 ^ 16 → crc16 n x c < 2 ^ 16 := by
  induction n with
  | zero => exact id
  | succ n ih => exact fun _ => ih (crc16Bit_lt ..)

theorem flitCrc_lt (b : Nat) : flitCrc b < 2 ^ 16 := crc16_lt _ _ (by decide)

/-- Sealing a flit changes none of its bits but the CRC. -/
theorem bf_flitSeal (b : Nat) {hi lo : Nat} (h : 16 ≤ lo) : bf (flitSeal b) hi lo = bf b hi lo := by
  have hcrc := flitCrc_lt b
  have hdiv : flitSeal b / 2 ^ 16 = b / 2 ^ 16 := by unfold flitSeal; omega
  have hshift (x : Nat) : x >>> lo = x / 2 ^ 16 / 2 ^ (lo - 16) := by
    rw [Nat.shiftRight_eq_div_pow, Nat.div_div_eq_div_mul, ← Nat.pow_add, Nat.add_sub_cancel' h]
  rw [bf, bf, hshift, hshift, hdiv]

/-- A field of a number is a field of the bits below any bound above it. -/
theorem bf_mod_two_pow (x : Nat) {hi lo n : Nat} (h : hi < n) : bf (x % 2 ^ n) hi lo = bf x hi lo := by
  refine Nat.eq_of_testBit_eq fun i => ?_
  simp only [bf, Nat.testBit_mod_two_pow, Nat.testBit_shiftRight]
  by_cases hi' : i < hi + 1 - lo
  · simp only [decide_eq_true hi', show lo + i < n by omega, decide_true, Bool.true_and]
  · simp only [decide_eq_false hi', Bool.false_and]

theorem bf_shiftLeft_le (x hi lo : Nat) : bf x hi lo * 2 ^ lo ≤ x := by
  refine (Nat.mul_le_mul_right _ (Nat.mod_le _ _)).trans ?_
  rw [Nat.shiftRight_eq_div_pow]
  exact Nat.div_mul_le_self ..

/-- Putting a value into a field leaves the bits below it. -/
theorem setBf_mod (x hi lo v : Nat) : setBf x hi lo v % 2 ^ lo = x % 2 ^ lo := by
  have hle := bf_shiftLeft_le x hi lo
  rw [Nat.mul_comm] at hle
  rw [setBf, Nat.shiftLeft_eq, Nat.shiftLeft_eq, Nat.add_mul_mod_self_right, Nat.mul_comm (bf x hi lo), Nat.sub_mul_mod hle]

theorem bf_setBf_below (x v : Nat) {hi lo hi' lo' : Nat} (h : hi' < lo) : bf (setBf x hi lo v) hi' lo' = bf x hi' lo' := by
  rw [← bf_mod_two_pow _ h, setBf_mod, bf_mod_two_pow _ h]

/-- A poisoned flit keeps its kind and its head (R246). -/
theorem flitPoison_kind (b : Nat) : flitKind (flitPoison b) = flitKind b :=
  (bf_flitSeal _ (by decide)).trans (bf_setBf_below _ _ (by decide))

theorem flitPoison_head (b : Nat) : flitHead (flitPoison b) = flitHead b :=
  (bf_flitSeal _ (by decide)).trans (bf_setBf_below _ _ (by decide))

/-! ## The input of a router (R246) -/

theorem linksUp_congr {s t : State} {k : Nat} (h : t.field k = s.field k) : linksUp t k = linksUp s k := by
  rw [linksUp, h, linksUp]

theorem State.modRouter_router_same {s : State} (h : tblWf {} s.routers = true) (k : Nat) (g : RouterState → RouterState) :
    (s.modRouter k g).router k = g (s.router k) := tget_tmod_same h k g

theorem inputCheck_passes {b : Nat} (h : flitCrc b = b % 65536) (s : State) (rk : Nat) : inputCheck s rk b = (s, b) := if_pos h

section
variable {s t : State} {rk b w : Nat} (h : inputCheck s rk b = (t, w))
include h

/-- The flit that goes on from an input keeps its kind and its head. -/
theorem inputCheck_flit : flitKind w = flitKind b ∧ flitHead w = flitHead b := by
  unfold inputCheck at h
  split at h <;> obtain ⟨-, rfl⟩ := Prod.mk.inj h
  · exact ⟨rfl, rfl⟩
  · exact ⟨flitPoison_kind b, flitPoison_head b⟩

/-- A flit whose CRC fails is counted at the input and goes on poisoned. -/
theorem inputCheck_counts (hcrc : flitCrc b ≠ b % 65536) (hrouters : tblWf {} s.routers = true) :
    w = flitPoison b ∧ (t.router rk).evCrc = (s.router rk).evCrc + 1 := by
  obtain ⟨rfl, rfl⟩ := Prod.mk.inj ((if_neg hcrc).symm.trans h)
  exact ⟨rfl, congrArg RouterState.evCrc (State.modRouter_router_same hrouters ..)⟩

/-- An input changes no field, and nothing in flight. -/
theorem inputCheck_state : t.flits = s.flits ∧ ∀ k, t.field k = s.field k := by
  unfold inputCheck at h
  split at h <;> obtain ⟨rfl, -⟩ := Prod.mk.inj h <;> exact ⟨rfl, fun _ => rfl⟩

end

/-! ## The next link of a plan flit (R242, R244) -/

/-- A flit at the far end of its next link (R242, R244): at the next router of its leg, two cycles on, or eight more for a stitch
line, with the bits that the input there leaves it. -/
def acrossLink (f : Flit) (w : Nat) : Flit :=
  let far := stepXY f.x f.y (flitNext f).2
  { f with
    bits := BitVec.ofNat 600 w, x := far.1, y := far.2, leg := (flitNext f).1
    enter := f.enter + 2 + 8 * legStitch f.x f.y far.1 far.2 }

/-- There it waits for the link after, or has arrived where its way goes no further. -/
def beyondLink (f : Flit) (w : Nat) : Flit :=
  let g := acrossLink f w
  if (flitNext g).2 ≠ 4 then g else { g with due := g.enter - 1, home := true }

/-- Its arrival changes when it is due, and nothing of where it stands. -/
theorem beyondLink_eq (f : Flit) (w : Nat) :
    beyondLink f w = { acrossLink f w with due := (beyondLink f w).due, home := (beyondLink f w).home } := by
  unfold beyondLink; dsimp only; split <;> rfl

/-- It stands at the next router of its leg, with the bits that the input there leaves it. -/
theorem beyondLink_stands (f : Flit) (w : Nat) :
    let g := beyondLink f w
    let far := stepXY f.x f.y (flitNext f).2
    (g.x, g.y) = far ∧ g.enter = f.enter + 2 + 8 * legStitch f.x f.y far.1 far.2 ∧ g.plane = f.plane ∧
      g.bits = BitVec.ofNat 600 w := by
  dsimp only
  rw [beyondLink_eq]
  exact ⟨rfl, rfl, rfl, rfl⟩

theorem flitNext_beyondLink (f : Flit) (w : Nat) : flitNext (beyondLink f w) = flitNext (acrossLink f w) := by
  rw [beyondLink_eq]; rfl

theorem beyondLink_waits {f : Flit} {w : Nat} (h : (flitNext (beyondLink f w)).2 ≠ 4) :
    (beyondLink f w).home = f.home ∧ (beyondLink f w).due = f.due := by
  rw [flitNext_beyondLink] at h
  rw [beyondLink, if_pos h]
  exact ⟨rfl, rfl⟩

theorem beyondLink_arrives {f : Flit} {w : Nat} (h : (flitNext (beyondLink f w)).2 = 4) :
    (beyondLink f w).home = true ∧ (beyondLink f w).due = (beyondLink f w).enter - 1 := by
  rw [flitNext_beyondLink] at h
  rw [beyondLink, if_neg (not_not.mpr h)]
  exact ⟨rfl, rfl⟩

section
variable {s t : State} {f : Flit} {wire : BitVec 600} {b w : Nat}

/-- In a field without links a flit ends at its router's input. -/
theorem hopFlit_linkless (hhere : inputCheck s (routerKeyXY f.x f.y) f.bits.toNat = (t, b))
    (hdown : linksUp t (fieldAtXY f.x f.y) = false) : hopFlit s f wire = t := by
  rw [hopFlit, hhere]
  exact if_pos (congrArg not hdown)

/-- A plan flit for the mesh takes its next link, and the input beyond it checks what the link has made of it. -/
theorem hopFlit_takesLink (hhere : inputCheck s (routerKeyXY f.x f.y) f.bits.toNat = (s, f.bits.toNat))
    (hkind : flitKind f.bits.toNat = 0) (hdir : (flitNext f).2 ≠ 4) (hin : linkInside f.x f.y (flitNext f).2 = true)
    (hup : linksUp s (fieldAtXY f.x f.y) = true)
    (hweir : (tget 0 (s.router (routerKeyXY f.x f.y)).active.weirs
      (((flitNext f).2 * 4 + f.plane) * 64 + f.enter % 64)).toNat = flitTenant f.bits.toNat)
    (hvalid : flitValid (f.bits ^^^ wire).toNat = true) :
    let far := stepXY f.x f.y (flitNext f).2
    linksUp s (fieldAtXY far.1 far.2) = true →
    inputCheck s (routerKeyXY far.1 far.2) (f.bits ^^^ wire).toNat = (t, w) → flitKind w = 0 → tb (flitHead w) 0 = false →
    (t.field (fieldAtXY far.1 far.2)).domain ≠ .dark →
    hopFlit s f wire = { t with flits := t.flits ++ [beyondLink f w] } := by
  intro far hfarUp hthere hplan hmesh hlit
  have hself : ({ f with bits := BitVec.ofNat 600 f.bits.toNat } : Flit) = f := by rw [BitVec.ofNat_toNat, BitVec.setWidth_eq]
  have hout : (if flitKind f.bits.toNat = 2 then f.out else (flitNext f).2) = (flitNext f).2 := if_neg (by rw [hkind]; decide)
  have hstep : stepXY f.x f.y (flitNext f).2 = (far.1, far.2) := rfl
  rw [BitVec.toNat_xor] at hvalid hthere
  rw [hopFlit, hhere]
  refine (if_neg ?up).trans ((if_neg ?mesh).trans ((if_neg ?weir).trans ((if_neg ?inside).trans ?_)))
  all_goals rw [hself]
  case up => rw [hup]; decide
  all_goals rw [hout]
  case mesh => exact hdir
  case weir => exact fun h => h.2 hweir
  case inside => rw [hin]; decide
  rw [hstep]
  refine (if_neg ?far).trans ((if_neg ?valid).trans ?_)
  case far => rw [hfarUp]; decide
  case valid => rw [hvalid]; decide
  extract_lets +onlyGivenNames key
  rw [show inputCheck s key _ = (t, w) from hthere]
  refine (if_neg (by rw [hplan]; decide)).trans ?_
  by_cases hon : (flitNext (acrossLink f w)).2 ≠ 4
  · rw [beyondLink, if_pos hon]
    exact if_pos hon
  · rw [beyondLink, if_neg hon]
    refine (if_neg hon).trans ((if_neg ?_).trans (if_neg ?_))
    · rw [hmesh]; exact fun h => Bool.false_ne_true h.2
    · exact fun h => hlit h.2

end

/-- Of a plan flit at the front, in its working stroke, the hop is what the command does. -/
theorem flitArrival_front {s : State} {f : Flit} {rest : List Flit} (hf : s.flits = f :: rest) (hw : working s = true)
    (hhome : f.home = false) (henter : f.enter < budgetBase s + 512) (hkind : flitKind f.bits.toNat = 0) (wire : BitVec 600) :
    exec (.flitArrival 0 wire) s = .next (hopFlit { s with flits := rest } f wire) := by
  simp [exec, execFlitArrival, hf, hw, hhome, henter, hkind, done]

/-- Settles O25: the flit takes its link (`hopFlit_takesLink`) to where `beyondLink_stands` says, and the input there passes it
(`inputCheck_passes`) or poisons and counts it (`inputCheck_counts`); one that fails at its own router's input is counted there, and
in a field without links goes no further (`hopFlit_linkless`). -/
theorem flitTakesItsNextLink : Obligations.FlitTakesItsNextLink := by
  unfold Obligations.FlitTakesItsNextLink
  intro wire s f rest hwf d far w hf hw hhome henter hkind
  obtain ⟨-, -, hrouters, -⟩ := (tablesWf_iff s).mp hwf
  let u : State := { s with flits := rest }
  rw [flitArrival_front hf hw hhome henter hkind]
  refine ⟨?_, ?_⟩
  · intro hcrc _ hdir hin hup hfar hweir hvalid hplan hmesh
    obtain ⟨⟨v, x⟩, hthere⟩ : ∃ q, inputCheck u (routerKeyXY far.1 far.2) w = q := ⟨_, rfl⟩
    obtain ⟨hkind', hhead⟩ := inputCheck_flit hthere
    obtain ⟨hflits, hfield⟩ := inputCheck_state hthere
    have hlit : u.field (fieldAtXY far.1 far.2) = s.field (fieldAtXY far.1 far.2) := rfl
    obtain ⟨hxy, hwhen, hplane, hbits⟩ := beyondLink_stands f x
    refine ⟨_, beyondLink f x, congrArg _ (hopFlit_takesLink (inputCheck_passes hcrc u _) hkind hdir hin hup hweir hvalid ?_ hthere
      (hkind'.trans hplan) (by rw [hhead, hmesh]) ?_), by rw [hflits], hxy, hwhen, hplane, ?_, beyondLink_arrives, ?_, ?_⟩
    · rw [linksUp, hlit, hfar]; rfl
    · rw [hfield, hlit, hfar]; decide
    · rw [← hhome]; exact beyondLink_waits
    · intro hfarCrc
      obtain ⟨rfl, rfl⟩ := Prod.mk.inj ((inputCheck_passes hfarCrc u _).symm.trans hthere)
      exact ⟨hbits.trans (BitVec.ofNat_toNat ..), rfl⟩
    · intro hfarCrc
      obtain ⟨hpoison, hcount⟩ := inputCheck_counts hthere hfarCrc hrouters
      exact ⟨hpoison ▸ hbits, hcount⟩
  · intro hcrc hdown
    obtain ⟨⟨v, x⟩, hhere⟩ : ∃ q, inputCheck u (routerKeyXY f.x f.y) f.bits.toNat = q := ⟨_, rfl⟩
    obtain ⟨hflits, hfield⟩ := inputCheck_state hhere
    have hlinkless : linksUp v (fieldAtXY f.x f.y) = false := (linksUp_congr (hfield _)).trans hdown
    exact ⟨v, congrArg _ (hopFlit_linkless hhere hlinkless), hflits, (inputCheck_counts hhere hcrc hrouters).2⟩

end Sys2Proof.Machine
end

section
/-! PROOFS. The control link of a field, the registers it reaches, and the places that answer "dark" (R256, R257, R259). -/

namespace Sys2Proof.Machine

/-! ## Canonical tables are told apart by what they read -/

theorem tbl_ext_of_keysGe {α : Type} {d : α} : ∀ {m n : Tbl α} {b c : Nat}, keysGe b m → noDefault d m → keysGe c n → noDefault d n →
    (∀ i, tget d m i = tget d n i) → m = n := by
  have hhead : ∀ {k : Nat} {v : α} {m n : Tbl α} {b : Nat}, v ≠ d → keysGe b n → k < b → ¬ ∀ i, tget d ((k, v) :: m) i = tget d n i := by
    intro k v m n b hv hn hk h
    exact hv ((by simp [tget] : v = tget d ((k, v) :: m) k).trans ((h k).trans (tget_of_lt d hn hk)))
  intro m
  induction m with
  | nil =>
    rintro (_ | ⟨⟨k, v⟩, n⟩) b c - - hn hdn h
    · rfl
    · exact absurd (fun i => (h i).symm) (hhead (hdn _ List.mem_cons_self) (b := k + 1) (n := []) trivial (Nat.lt_succ_self k))
  | cons p m ih =>
    obtain ⟨k, v⟩ := p
    rintro (_ | ⟨⟨k', v'⟩, n⟩) b c hm hdm hn hdn h
    · exact absurd h (hhead (hdm _ List.mem_cons_self) (b := k + 1) (n := []) trivial (Nat.lt_succ_self k))
    · rcases Nat.lt_trichotomy k k' with hlt | rfl | hlt
      · exact absurd h (hhead (hdm _ List.mem_cons_self) (b := k') ⟨le_rfl, hn.2⟩ hlt)
      · have hv : v = v' := by simpa [tget] using h k
        have htail : m = n := ih hm.2 (fun q hq => hdm q (List.mem_cons_of_mem _ hq)) hn.2
          (fun q hq => hdn q (List.mem_cons_of_mem _ hq)) fun i => by
            by_cases hi : k = i
            · subst hi
              rw [tget_of_lt d hm.2 (Nat.lt_succ_self k), tget_of_lt d hn.2 (Nat.lt_succ_self k)]
            · simpa [tget, hi] using h i
        rw [hv, htail]
      · exact absurd (fun i => (h i).symm) (hhead (hdn _ List.mem_cons_self) (b := k) ⟨le_rfl, hm.2⟩ hlt)

/-- Of two writes to one key the second stands. -/
theorem tset_tset {α : Type} [DecidableEq α] {d : α} {m : Tbl α} (h : tblWf d m = true) (i : Nat) (v w : α) :
    tset d (tset d m i v) i w = tset d m i w := by
  obtain ⟨hk, hd⟩ := (tblWf_iff d m).mp h
  have hk' := keysGe_tset d i v hk
  refine tbl_ext_of_keysGe (keysGe_tset d i w hk') (noDefault_tset d i w (noDefault_tset d i v hd)) (keysGe_tset d i w hk)
    (noDefault_tset d i w hd) fun j => ?_
  by_cases hj : j = i
  · rw [hj, tget_tset_same d i w hk', tget_tset_same d i w hk]
  · rw [tget_tset_other d _ w hj, tget_tset_other d _ v hj, tget_tset_other d _ w hj]

theorem State.setField_setField {s : State} (h : tblWf {} s.fields = true) (f : Nat) (v w : FieldState) :
    (s.setField f v).setField f w = s.setField f w := by
  simp only [State.setField, tset_tset h]

/-! ## Which message has the next word (R257) -/

/-- Below the share of class 3 the lowest class that waits goes first. -/
theorem ctrlPick_lowest {q : List CtrlMsg} {run i : Nat} {m : CtrlMsg} (hpick : ctrlPick q run = some i) (hm : q[i]? = some m)
    (hrun : run < 15) : ∀ m' ∈ q, m.cls ≤ m'.cls := by
  have hturn : (decide (15 ≤ run) && (q.findIdx? fun m => m.cls == 3).isSome) = false := by
    rw [decide_eq_false (Nat.not_le.mpr hrun), Bool.false_and]
  simp only [ctrlPick, hturn, Bool.false_eq_true, if_false] at hpick
  obtain ⟨lower, c, higher, hclasses, hfound, hnone⟩ := List.findSome?_eq_some_iff.mp hpick
  have hsorted : (lower ++ c :: higher).Pairwise (· < ·) := hclasses ▸ by decide
  have hcls : m.cls = c := by
    obtain ⟨hi, hc, -⟩ := List.findIdx?_eq_some_iff_getElem.mp hfound
    rw [List.getElem?_eq_getElem hi, Option.some.injEq] at hm
    rw [← hm]; exact beq_iff_eq.mp hc
  intro m' hm'
  by_contra hlt
  have hmem : m'.cls ∈ lower ++ c :: higher := by
    have hc : c ∈ [0, 1, 2, 3] := by rw [hclasses]; simp
    rw [← hclasses]
    simp only [List.mem_cons, List.not_mem_nil, or_false] at hc ⊢
    omega
  obtain ⟨-, hc, -⟩ := List.pairwise_append.mp hsorted
  have hbelow := (List.pairwise_cons.mp hc).1
  rcases List.mem_append.mp hmem with hl | hr
  · have := List.findIdx?_eq_none_iff.mp (hnone _ hl) m' hm'
    simp at this
  · rcases List.mem_cons.mp hr with heq | hr
    · omega
    · have := hbelow _ hr
      omega

/-- After 15 words without it class 3 has the next one. -/
theorem ctrlPick_third {q : List CtrlMsg} {run : Nat} (hrun : 15 ≤ run) (hwaits : ∃ m ∈ q, m.cls = 3) :
    ∃ (i : Nat) (m : CtrlMsg), ctrlPick q run = some i ∧ q[i]? = some m ∧ m.cls = 3 := by
  obtain ⟨i, hi⟩ : ∃ i, q.findIdx? (fun m => m.cls == 3) = some i := by
    obtain ⟨m, hm, hcls⟩ := hwaits
    exact Option.isSome_iff_exists.mp (List.findIdx?_isSome.trans (List.any_eq_true.mpr ⟨m, hm, beq_iff_eq.mpr hcls⟩))
  obtain ⟨hlt, hcls, -⟩ := List.findIdx?_eq_some_iff_getElem.mp hi
  refine ⟨i, q[i], ?_, List.getElem?_eq_getElem hlt, beq_iff_eq.mp hcls⟩
  simp [ctrlPick, hi, hrun]

/-- A message that waits alone has the next word. -/
theorem ctrlPick_alone {m : CtrlMsg} (h : m.cls < 4) (run : Nat) : ctrlPick [m] run = some 0 := by
  have hcls : m.cls = 0 ∨ m.cls = 1 ∨ m.cls = 2 ∨ m.cls = 3 := by omega
  rcases hcls with h | h | h | h <;> simp [ctrlPick, h, List.findIdx?_cons]

/-! ## A free control link carries a message at once (R256, R257) -/

/-- A field on whose control link one message waits, with words left to carry from a time on. -/
def linkCarries (fs : FieldState) (m : CtrlMsg) (words free run : Nat) : FieldState :=
  { fs with ctrlQueue := [{ m with words := words }], ctrlFree := free, ctrlRun := run }

/-- A field whose control link has carried what waited, up to a time. -/
def linkCarried (fs : FieldState) (free : Nat) : FieldState := { fs with ctrlQueue := [], ctrlFree := free, ctrlRun := 0 }

theorem linkCarries_serves {s : State} (hfields : tblWf {} s.fields = true) {f : Nat} (fs : FieldState) {m : CtrlMsg} (words run : Nat)
    {free : Nat} (hfree : free < ctrlNow s + 5) : let t := s.setField f (linkCarries fs m words free run)
    ¬ ((t.field f).ctrlQueue.isEmpty || decide (ctrlNow t + 5 ≤ (t.field f).ctrlFree)) = true := by
  intro t
  have hnow : ctrlNow t = ctrlNow s := rfl
  have hfield : t.field f = linkCarries fs m words free run := State.setField_field_same s hfields
  rw [hfield, hnow]
  exact fun h => Nat.not_le.mpr hfree (of_decide_eq_true h)

section
variable {s : State} {f : Nat} {m : CtrlMsg} (hfields : tblWf {} s.fields = true) (hcls : m.cls < 4)
include hfields hcls

/-- A word that is not the last of a message alone on its link leaves one fewer. -/
theorem ctrlWord_more (fs : FieldState) (n free run : Nat) :
    ctrlWord (s.setField f (linkCarries fs m (n + 2) free run)) f = s.setField f (linkCarries fs m (n + 1) (free + 1) 0) := by
  have hpick := ctrlPick_alone (m := { m with words := n + 2 }) hcls run
  simp only [ctrlWord, State.setField_field_same s hfields, linkCarries, hpick, State.setField_setField hfields]
  simp [em]

theorem ctrlWord_last (fs : FieldState) (free run : Nat) :
    ctrlWord (s.setField f (linkCarries fs m 1 free run)) f =
      ctrlAct (s.setField f (linkCarried fs (free + 1))) f { m with words := 1 } := by
  have hpick := ctrlPick_alone (m := { m with words := 1 }) hcls run
  simp only [ctrlWord, State.setField_field_same s hfields, linkCarries, hpick, State.setField_setField hfields]
  simp [linkCarried, em]

/-- The link carries the words of a message alone on it, as many as fit into the tick that has begun, and the message acts. -/
theorem ctrlServe_alone (fs : FieldState) : ∀ n free run : Nat, free + n < ctrlNow s + 5 →
    ctrlServe (s.setField f (linkCarries fs m (n + 1) free run)) f (n + 1) =
      ctrlAct (s.setField f (linkCarried fs (free + n + 1))) f m := by
  intro n
  induction n with
  | zero =>
    intro free run hfree
    have hgo : ctrlServe (s.setField f (linkCarries fs m 1 free run)) f 1 = ctrlWord (s.setField f (linkCarries fs m 1 free run)) f :=
      if_neg (linkCarries_serves hfields fs _ run (by omega))
    exact hgo.trans (ctrlWord_last hfields hcls fs free run)
  | succ n ih =>
    intro free run hfree
    have hgo : ctrlServe (s.setField f (linkCarries fs m (n + 2) free run)) f (n + 2) =
        ctrlServe (ctrlWord (s.setField f (linkCarries fs m (n + 2) free run)) f) f (n + 1) :=
      if_neg (linkCarries_serves hfields fs _ run (by omega))
    rw [hgo, ctrlWord_more hfields hcls, ih _ _ (by omega), Nat.add_right_comm free 1 n]
    rfl

end

/-- A message that finds its link free acts at once, and the link is taken for as long as its words last. -/
theorem ctrlSend_free {s : State} {f : Nat} {m : CtrlMsg} (hfields : tblWf {} s.fields = true) (hcls : m.cls < 4)
    (hsome : 1 ≤ m.words) (hfew : m.words ≤ 5) (hempty : (s.field f).ctrlQueue = []) (hfree : (s.field f).ctrlFree ≤ ctrlNow s) :
    ctrlSend s f m =
      ctrlAct (s.modField f fun fs => { fs with ctrlFree := ctrlNow s + m.words, ctrlRun := 0 }) f m := by
  obtain ⟨n, hn⟩ : ∃ n, m.words = n + 1 := ⟨m.words - 1, by omega⟩
  have hput : (s.modField f fun fs => { fs with ctrlQueue := fs.ctrlQueue ++ [m], ctrlFree := max fs.ctrlFree (ctrlNow s) }) =
      s.setField f (linkCarries (s.field f) m (n + 1) (ctrlNow s) (s.field f).ctrlRun) := by
    rw [State.modField, hempty, Nat.max_eq_right hfree, linkCarries, ← hn]
    rfl
  have hdone : s.setField f (linkCarried (s.field f) (ctrlNow s + n + 1)) =
      s.modField f fun fs => { fs with ctrlFree := ctrlNow s + m.words, ctrlRun := 0 } := by
    rw [State.modField, linkCarried, ← hempty, hn]
    rfl
  unfold ctrlSend
  dsimp only
  rw [hput, State.setField_field_same s hfields, ← hdone]
  refine (congrArg (ctrlServe _ f) ?_).trans (ctrlServe_alone hfields hcls (s.field f) n (ctrlNow s) _ (by omega))
  exact Nat.zero_add _

/-! ## Register accesses (R259) -/

/-- The state in which an access acts: its field's control link has carried it, where it goes by one. -/
def linkTaken (s : State) (a : RegAddr) (w : Option (BitVec 128)) : State :=
  if a.field < 48 ∧ linksUp s a.field = true ∧ (a.block = 2 ∨ 7 ≤ a.block) then
    s.modField a.field fun fs => { fs with ctrlFree := ctrlNow s + accessWords w a, ctrlRun := 0 }
  else s

theorem linkTaken_eq (s : State) (a : RegAddr) (w : Option (BitVec 128)) :
    linkTaken s a w = { s with fields := (linkTaken s a w).fields } := by
  unfold linkTaken; split <;> rfl

theorem linkTaken_fieldsWf {s : State} (h : tblWf {} s.fields = true) (a : RegAddr) (w : Option (BitVec 128)) :
    tblWf {} (linkTaken s a w).fields = true := by
  unfold linkTaken
  split
  · exact tblWf_tset _ _ _ h
  · exact h

theorem linksUp_linkTaken {s : State} (h : tblWf {} s.fields = true) (a : RegAddr) (w : Option (BitVec 128)) (f : Nat) :
    linksUp (linkTaken s a w) f = linksUp s f := by
  unfold linkTaken
  split
  · by_cases hf : f = a.field
    · rw [hf, linksUp, State.modField_field_same h, linksUp]
    · rw [linksUp, State.modField, State.setField_field_other _ hf, linksUp]
  · rfl

theorem accessWords_few (w : Option (BitVec 128)) (a : RegAddr) : 1 ≤ accessWords w a ∧ accessWords w a ≤ 5 := by
  unfold accessWords
  split
  · decide
  · split <;> decide

theorem accessClass_lt (w : Option (BitVec 128)) (a : RegAddr) : accessClass w a < 4 := by
  unfold accessClass; split <;> decide

/-- An access that finds its link free, or goes by none, acts at once. -/
theorem controlRegisterAccess_acts {s : State} {addr : BitVec 64} {w : Option (BitVec 128)} (hfields : tblWf {} s.fields = true)
    (hfree : let a := regAddr addr
      a.field < 48 ∧ linksUp s a.field = true ∧ (a.block = 2 ∨ 7 ≤ a.block) →
        (s.field a.field).ctrlQueue = [] ∧ (s.field a.field).ctrlFree ≤ ctrlNow s) :
    exec (.controlRegisterAccess addr w) s = .next (registerAccess (linkTaken s (regAddr addr) w) addr w) := by
  show execControlRegisterAccess addr w s = _
  unfold execControlRegisterAccess linkTaken
  dsimp only
  split
  · rename_i hlinked
    obtain ⟨hempty, hnow⟩ := hfree hlinked
    obtain ⟨hsome, hfew⟩ := accessWords_few w (regAddr addr)
    exact congrArg done (ctrlSend_free hfields (accessClass_lt ..) hsome hfew hempty hnow)
  · rfl

section
variable {s : State} {addr : BitVec 64}

theorem registerAccess_dark (h : regDark s (regAddr addr) = true) (w : Option (BitVec 128)) :
    registerAccess s addr w = (noteDark s (regAddr addr)).emit (.register addr true 0) := if_pos h

variable {rows : List (Nat × Nat × Nat)} {v : Nat} (hlit : regDark s (regAddr addr) = false)
  (hrows : blockRows s (regAddr addr) = some rows) (hv : rowValue rows (regAddr addr).off = some v)
include hlit hrows hv

theorem registerAccess_read : registerAccess s addr none = s.emit (.register addr false (BitVec.ofNat 128 v)) := by
  simp only [registerAccess, hlit, hrows, hv, Bool.false_eq_true, if_false]

theorem registerAccess_write (x : BitVec 128) : registerAccess s addr (some x) = writeControl s (regAddr addr) x.toNat := by
  simp only [registerAccess, hlit, hrows, hv, Bool.false_eq_true, if_false]

end

/-- A dark access is noted by the field whose controller it reaches, and nowhere else (R538). -/
theorem noteDark_field {s : State} (h : tblWf {} s.fields = true) (a : RegAddr) (f : Nat) : (noteDark s a).field f =
    if f = a.field ∧ 7 ≤ a.block ∧ linksUp s f = true then { s.field f with fcErr := (s.field f).fcErr ||| 1 } else s.field f := by
  unfold noteDark
  by_cases hf : f = a.field
  · subst hf
    simp only [true_and]
    split
    · exact State.modField_field_same h ..
    · rfl
  · refine Eq.trans ?_ (if_neg fun hn => hf hn.1).symm
    split
    · exact State.setField_field_other s hf
    · rfl

theorem noteDark_eq (s : State) (a : RegAddr) : noteDark s a = { s with fields := (noteDark s a).fields } := by
  unfold noteDark; split <;> rfl

/-! ## Which places are dark (R259) -/

/-- A place of a site whose compute clock is stopped is dark. -/
theorem regDark_stopped {s : State} {a : RegAddr} (hlow : 7 ≤ a.block) (hhigh : a.block ≤ 9) (hfield : a.field < 48) (hsite : a.site < 74)
    (hstop : siteRuns s a.siteKey = false) : regDark s a = true := by
  rw [regDark, if_neg (by omega), if_pos ⟨hlow, hhigh, hfield, hsite⟩, hstop]
  rfl

/-- A site of a hole does not run. -/
theorem siteRuns_hole {s : State} {a : RegAddr} (hsite : a.site < 74) (hhole : isHole s a.field = true) :
    siteRuns s a.siteKey = false := by
  have hfield : a.siteKey / 74 = a.field := by unfold RegAddr.siteKey; omega
  rw [siteRuns, fieldRuns, hfield, beq_iff_eq.mp hhole]
  rfl

/-- A hole's controller is out of reach, and so is every place of it. -/
theorem regDark_hole {s : State} {a : RegAddr} (hplace : a.block = 2 ∨ 7 ≤ a.block ∧ a.block ≤ 9 ∧ a.site < 74)
    (hfield : a.field < 48) (hhole : isHole s a.field = true) : regDark s a = true := by
  rcases hplace with hblock | ⟨hlow, hhigh, hsite⟩
  · rw [regDark, if_pos hblock, decide_eq_true hfield, linksUp, beq_iff_eq.mp hhole]
    rfl
  · exact regDark_stopped hlow hhigh hfield hsite (siteRuns_hole hsite hhole)

/-- Settles O30: a place without a running clock is dark (`regDark_stopped`, `regDark_hole`); an access acts once its link has carried it
(`controlRegisterAccess_acts`), a dark one as `noteDark_field` says; the word of a link goes where `ctrlPick` says. -/
theorem darkPlacesAnswerDark : Obligations.DarkPlacesAnswerDark := by
  unfold Obligations.DarkPlacesAnswerDark
  refine ⟨?_, fun q run i m => ctrlPick_lowest, fun q run => ctrlPick_third⟩
  intro addr s w hwf a linked s'
  refine ⟨regDark_stopped, regDark_hole, fun hfree => ?_⟩
  obtain ⟨-, -, -, hfields, -⟩ := (tablesWf_iff s).mp hwf
  have hs : s' = linkTaken s a w := rfl
  clear_value s'
  subst hs
  have hsent : (linkTaken s a w).sent = s.sent := by rw [linkTaken_eq]
  rw [controlRegisterAccess_acts hfields hfree]
  constructor
  · intro hdark
    refine ⟨_, congrArg _ (registerAccess_dark hdark w), ?_, fun f => ?_, ?_⟩
    · rw [State.emit_sent, noteDark_eq, hsent]
    · rw [← linksUp_linkTaken hfields a w f]
      exact noteDark_field (linkTaken_fieldsWf hfields a w) a f
    · rw [State.emit, noteDark_eq, linkTaken_eq]
  · intro rows v hlit hrows hv
    cases w with
    | none => rw [registerAccess_read hlit hrows hv, State.emit, hsent]
    | some x => rw [registerAccess_write hlit hrows hv]

end Sys2Proof.Machine
end

section
/-! PROOFS. What a loss of supply leaves and takes: fuses, converters, the entry into Dry, the input voltage (R268, R440 to R442, R458,
R462, R463). -/

namespace Sys2Proof.Machine

/-! ## Tables filtered by key, and tables mapped whole -/

/-- A table of which only some keys are kept reads the default elsewhere. -/
theorem tget_filter_key {α : Type} (d : α) (p : Nat → Bool) (m : Tbl α) (i : Nat) :
    tget d (m.filter fun q => p q.1) i = if p i then tget d m i else d := by
  induction m with
  | nil => simp [tget]
  | cons q m ih =>
    obtain ⟨k, v⟩ := q
    by_cases hk : k = i
    · subst hk
      by_cases hp : p k = true
      · simp [hp, tget]
      · simp [hp, ih]
    · simp only [List.filter_cons]
      split <;> simp [tget, hk, ih]

/-- What the change of every entry makes of any entry, and of the default, holds of whatever a key then reads. -/
theorem tget_tmapAll_of {α : Type} [DecidableEq α] {d : α} {f : Nat → α → α} {p : α → Prop} (hd : p d) (hf : ∀ k v, p (f k v))
    (m : Tbl α) (i : Nat) : p (tget d (tmapAll d f m) i) := by
  induction m with
  | nil => exact hd
  | cons q m ih =>
    obtain ⟨k, v⟩ := q
    simp only [tmapAll]
    split
    · exact ih
    · simp only [tget]
      split
      · exact hf k v
      · exact ih

theorem mem_tmapAll {α : Type} [DecidableEq α] {d : α} {f : Nat → α → α} {m : Tbl α} {q : Nat × α} (h : q ∈ tmapAll d f m) :
    ∃ v, (q.1, v) ∈ m ∧ q.2 = f q.1 v := by
  induction m with
  | nil => cases h
  | cons r m ih =>
    obtain ⟨k, v⟩ := r
    have later : q ∈ tmapAll d f m → ∃ v', (q.1, v') ∈ (k, v) :: m ∧ q.2 = f q.1 v' := fun hq => by
      obtain ⟨w, hw, heq⟩ := ih hq
      exact ⟨w, List.mem_cons_of_mem _ hw, heq⟩
    simp only [tmapAll] at h
    split at h
    · exact later h
    · rcases List.mem_cons.mp h with rfl | h
      · exact ⟨v, List.mem_cons_self, rfl⟩
      · exact later h

/-! ## Alerts stand until they are cleared (R517) -/

theorem tb_or_left {n bit : Nat} {x : BitVec n} (y : BitVec n) (h : tb x.toNat bit = true) : tb (x ||| y).toNat bit = true := by
  rw [BitVec.or_comm]; exact tb_or_right y h

/-- Every alert of one state stands in another. -/
structure AlertsStand (s t : State) : Prop where
  stands : ∀ bit, tb s.mgmt.alert.toNat bit = true → tb t.mgmt.alert.toNat bit = true

theorem alertsStand_of_eq {s t : State} (h : t.mgmt = s.mgmt) : AlertsStand s t := ⟨fun bit hb => by rw [h]; exact hb⟩
theorem alertsStand_refl (s : State) : AlertsStand s s := alertsStand_of_eq rfl
theorem AlertsStand.trans {s t u : State} (h : AlertsStand s t) (g : AlertsStand t u) : AlertsStand s u :=
  ⟨fun bit hb => g.stands bit (h.stands bit hb)⟩

/-- What raises alerts after a change of other parts raises them after none. -/
theorem AlertsStand.after {s t u : State} (h : AlertsStand t u) (e : t.mgmt = s.mgmt) : AlertsStand s u := (alertsStand_of_eq e).trans h

theorem AlertsStand.ite {s t u : State} {p : Prop} [Decidable p] (h : AlertsStand s t) (g : AlertsStand s u) :
    AlertsStand s (if p then t else u) := by
  split
  · exact h
  · exact g

theorem alertsStand_foldl {α : Type} {f : State → α → State} (h : ∀ s x, AlertsStand s (f s x)) (l : List α) :
    ∀ s, AlertsStand s (l.foldl f s) := by
  induction l with
  | nil => exact alertsStand_refl
  | cons x l ih => exact fun s => (h s x).trans (ih _)

theorem raiseAlert_stand (s : State) (bit : Nat) : AlertsStand s (raiseAlert s bit) := ⟨fun _ hb => tb_or_left _ hb⟩

theorem raiseAlert_raised (s : State) {bit : Nat} (h : bit < 11) : tb (raiseAlert s bit).mgmt.alert.toNat bit = true :=
  tb_or_right _ (tb_ofNat_two_pow h)

theorem ringPush_stand (s : State) (r : ErrRec) : AlertsStand s (ringPush s r) := by
  have hlog : (logAdd s 1 (recWords r)).mgmt = s.mgmt := by
    obtain ⟨l, hl⟩ := logAdd_eq s 1 (recWords r)
    rw [hl]
  have hhalt (u : State) : (haltBoard u r).mgmt = u.mgmt := by rw [haltBoard_eq]
  unfold ringPush
  dsimp only
  generalize hraised : (if 1 ≤ r.severity then raiseAlert (logAdd s 1 (recWords r)) alLog else logAdd s 1 (recWords r)) = u
  have halert : AlertsStand s u := hraised ▸ AlertsStand.ite ((raiseAlert_stand _ _).after hlog) (alertsStand_of_eq hlog)
  refine (halert.trans (alertsStand_of_eq (hhalt u))).trans ?_
  split
  · split <;> exact alertsStand_of_eq rfl
  · exact alertsStand_of_eq rfl

theorem pushCompletion_stand (s : State) (b : Bytes) : AlertsStand s (pushCompletion s b) := by
  unfold pushCompletion
  split
  · exact alertsStand_of_eq rfl
  · exact (raiseAlert_stand _ _).after rfl

theorem endRequest_stand (s : State) (i status : Nat) (cause : Word) : AlertsStand s (endRequest s i status cause) := by
  unfold endRequest
  split
  · exact alertsStand_refl s
  · refine (alertsStand_refl s).ite ?_
    lift_lets
    intro recorded marked _ dropped released
    have hrec : AlertsStand s recorded := AlertsStand.ite (pushCompletion_stand ..) (pushCompletion_stand ..)
    have hrel : released.mgmt = recorded.mgmt := by
      simp only [released, dropped, marked]
      split <;> rfl
    refine hrec.trans ?_
    split
    · exact alertsStand_of_eq hrel
    · split <;> exact alertsStand_of_eq hrel

theorem endAll_stand (s : State) (status : Nat) : AlertsStand s (endAll s status) := by
  refine AlertsStand.trans (t := endWhere s (fun _ _ => true) status) ?_ (alertsStand_of_eq rfl)
  exact alertsStand_foldl (fun _ _ => AlertsStand.ite (endRequest_stand ..) (alertsStand_refl _)) (liveRequests s) s

theorem abortTxn_stand (s : State) (status : Nat) : AlertsStand s (abortTxn s status) := by
  unfold abortTxn
  split
  case h_5 => exact alertsStand_refl s
  all_goals exact (raiseAlert_stand _ _).after rfl

theorem cancelPending_stand (s : State) : AlertsStand s (cancelPending s) := by
  refine (abortTxn_stand s stNotRunning).trans ?_
  unfold cancelPending
  dsimp only
  split <;> exact alertsStand_of_eq rfl

/-! ## A field that loses its supply (R268, R442) -/

theorem portsOnly {s t : State} (h : ({ t with ports := [] } : State) = { s with ports := [] }) : t = { s with ports := t.ports } := by
  have heq := congrArg (fun u : State => ({ u with ports := t.ports } : State)) h
  exact heq

/-- Isolation reaches the ports alone. -/
theorem isolatePorts_eq (s : State) : isolatePorts s = { s with ports := (isolatePorts s).ports } := by
  have h : ({ isolatePorts s with ports := [] } : State) = { s with ports := [] } := by
    unfold isolatePorts
    refine foldl_keeps (fun t : State => ({ t with ports := [] } : State)) (fun t p => ?_) _ s
    split
    · rfl
    · rfl
  exact portsOnly h

/-- What stays of a field that becomes a hole (R267). -/
def holeOf (fs : FieldState) : FieldState :=
  { fs with domain := .hole, wake := false, queue := [], pubs := [], tL := 0, tD := 0, hot := false, history := [], means := [] }

/-- A field becomes a hole: what its places held is lost, and a port that attaches to it is isolated; nothing else changes. -/
theorem makeHole_eq (s : State) (f : Nat) : ∃ flits gets posts ports, makeHole s f = { s with
    fields := tset {} s.fields f (holeOf (s.field f))
    cells := s.cells.filter fun q => cellField q.1 != f
    sites := tmapAll {} (fun k st => if k / 74 = f then siteLost st else st) s.sites
    routers := s.routers.filter fun q => q.1 / 72 != f
    flits := flits, gets := gets, posts := posts, ports := ports } :=
  ⟨_, _, _, _, isolatePorts_eq _⟩

theorem makeHole_fields (s : State) (f : Nat) : (makeHole s f).fields = tset {} s.fields f (holeOf (s.field f)) := by
  obtain ⟨_, _, _, _, h⟩ := makeHole_eq s f
  rw [h]

/-- A field that has lost its supply: a hole that names the stroke of the loss (R268). -/
def supplyLost (s : State) (f : Nat) : State :=
  (makeHole s f).modField f fun fs => { fs with lostStroke := some (BitVec.ofNat 60 (strokeNo s)) }

/-- A loss of supply leaves its record on the ring: code 0x8C at fatal-field (R268). -/
theorem loseSupply_eq {s : State} {f : Nat} (h : isHole s f = false) :
    ∃ r, loseSupply s f = ringPush (supplyLost s f) r ∧ r.severity = 3 ∧ recCause r = 0x8C := by
  have hnow : strokeNo (makeHole s f) = strokeNo s := by rw [strokeNo, (makeHole_aside s f).time, strokeNo]
  have hlost : ((makeHole s f).modField f fun fs => { fs with lostStroke := some (BitVec.ofNat 60 (strokeNo (makeHole s f))) }) =
      supplyLost s f := by rw [supplyLost, hnow]
  refine ⟨{
    severity := 3, stroke := BitVec.ofNat 60 (strokeNo (supplyLost s f)), location := locWord (supplyLost s f) 2 0 0 0 0 0 f 0x8C }, ?_,
    rfl, locWord_cause ..⟩
  rw [← hlost]
  exact if_neg (by rw [h]; decide)

theorem supplyLost_field {s : State} (h : tblWf {} s.fields = true) (f : Nat) : (supplyLost s f).field f =
    { holeOf (s.field f) with lostStroke := some (BitVec.ofNat 60 (strokeNo s)) } := by
  have hwf : tblWf {} (makeHole s f).fields = true := by rw [makeHole_fields]; exact tblWf_tset _ _ _ h
  have hhole : (makeHole s f).field f = holeOf (s.field f) := by
    rw [State.field, makeHole_fields]
    exact tget_tset_same _ _ _ ((tblWf_iff _ _).mp h).1
  rw [supplyLost, State.modField_field_same hwf, hhole]

theorem supplyLost_field_other (s : State) {f g : Nat} (hg : g ≠ f) : (supplyLost s f).field g = s.field g := by
  rw [supplyLost, State.modField, State.setField_field_other _ hg, State.field, makeHole_fields]
  exact tget_tset_other _ _ _ hg

theorem supplyLost_cell (s : State) (f k : Nat) : (supplyLost s f).cell k = if cellField k = f then {} else s.cell k := by
  obtain ⟨_, _, _, _, h⟩ := makeHole_eq s f
  have hcells : (supplyLost s f).cells = s.cells.filter fun q => cellField q.1 != f := by rw [supplyLost, State.modField_cells, h]
  rw [State.cell, hcells, tget_filter_key _ fun k => cellField k != f]
  by_cases hf : cellField k = f <;> simp [hf, State.cell]

theorem supplyLost_site_other {s : State} (h : tblWf {} s.sites = true) {f k : Nat} (hk : k / 74 ≠ f) :
    (supplyLost s f).site k = s.site k := by
  obtain ⟨_, _, _, _, hhole⟩ := makeHole_eq s f
  have hsites : (supplyLost s f).sites = tmapAll {} (fun k st => if k / 74 = f then siteLost st else st) s.sites := by
    rw [supplyLost, State.modField_sites, hhole]
  rw [State.site, hsites, tget_tmapAll _ _ ((tblWf_iff _ _).mp h).1 (if_neg hk)]
  exact if_neg hk

/-- Parts of the state that a lost supply does not reach. -/
theorem supplyLost_parts (s : State) (f : Nat) : let t := supplyLost s f
    t.mgmt = s.mgmt ∧ t.time = s.time ∧ t.plan = s.plan ∧ t.serve = s.serve ∧ t.power = s.power := by
  obtain ⟨_, _, _, _, h⟩ := makeHole_eq s f
  simp only [supplyLost, State.modField_mgmt, State.modField_time, State.modField_plan, State.modField_serve, State.modField_power]
  rw [h]
  exact ⟨rfl, rfl, rfl, rfl, rfl⟩

theorem State.field_congr {s t : State} (h : t.fields = s.fields) (k : Nat) : t.field k = s.field k := by rw [State.field, h, State.field]
theorem State.cell_congr {s t : State} (h : t.cells = s.cells) (k : Nat) : t.cell k = s.cell k := by rw [State.cell, h, State.cell]
theorem State.site_congr {s t : State} (h : t.sites = s.sites) (k : Nat) : t.site k = s.site k := by rw [State.site, h, State.site]

/-- Parts of the state that a record does not reach. -/
theorem ringPush_parts (s : State) (r : ErrRec) : let t := ringPush s r
    t.fields = s.fields ∧ t.cells = s.cells ∧ t.sites = s.sites ∧ t.time = s.time ∧ t.plan = s.plan ∧ t.serve = s.serve ∧
      t.power = s.power := by
  obtain ⟨_, _, _, h⟩ := ringPush_eq s r
  rw [h]
  exact ⟨rfl, rfl, rfl, rfl, rfl, rfl, rfl⟩

/-- What the loss of a field's supply leaves, and what it sets. -/
structure SupplyGone (s t : State) (f : Nat) : Prop where
  field : t.field f = { holeOf (s.field f) with lostStroke := some (BitVec.ofNat 60 (strokeNo s)) }
  others : ∀ g, g ≠ f → t.field g = s.field g
  cells : ∀ k, t.cell k = if cellField k = f then {} else s.cell k
  sites : ∀ k, k / 74 ≠ f → t.site k = s.site k
  record : onRing t 3 0x8C
  alerts : AlertsStand s t
  time : t.time = s.time
  plan : t.plan = s.plan
  serve : t.serve = s.serve
  power : t.power = s.power

theorem loseSupply_gone {s : State} (hwf : s.tablesWf = true) {f : Nat} (h : isHole s f = false) : SupplyGone s (loseSupply s f) f := by
  obtain ⟨-, hsites, -, hfields, -⟩ := (tablesWf_iff s).mp hwf
  obtain ⟨r, hlose, hsev, hcode⟩ := loseSupply_eq h
  obtain ⟨x, hx, hxsev, hxloc⟩ := mem_ringPush (supplyLost s f) r
  obtain ⟨fieldEq, cellEq, siteEq, timeEq, planEq, serveEq, powerEq⟩ := ringPush_parts (supplyLost s f) r
  obtain ⟨mgmtEq, timeEq', planEq', serveEq', powerEq'⟩ := supplyLost_parts s f
  rw [hlose]
  exact {
    field := (State.field_congr fieldEq f).trans (supplyLost_field hfields f)
    others := fun g hg => (State.field_congr fieldEq g).trans (supplyLost_field_other s hg)
    cells := fun k => (State.cell_congr cellEq k).trans (supplyLost_cell s f k)
    sites := fun k hk => (State.site_congr siteEq k).trans (supplyLost_site_other hsites hk)
    record := ⟨x, hx, (hxsev.trans hsev).ge, by rw [recCause, hxloc]; exact hcode⟩
    alerts := (ringPush_stand _ r).after mgmtEq
    time := timeEq.trans timeEq', plan := planEq.trans planEq', serve := serveEq.trans serveEq', power := powerEq.trans powerEq' }

/-! ## The entry into Dry (R458, R462) -/

/-- What the entry into Dry takes (R353, R375, R458), and what of the power module and the records stays. -/
structure DryFrom (s t : State) : Prop where
  ladder : t.power.ladder = .dry
  err : t.power.err = s.power.err
  auxBad : t.power.auxBad = s.power.auxBad
  time : t.time = { s.time with dataPath := false }
  faults : t.faults = s.faults
  plan : t.plan.active = none
  weights : t.weights.resident = none
  sets : t.kv.sets = []
  mem : ∀ k, (t.site k).mem = []
  sp : ∀ k, (t.cell k).sp = {}
  ports : ∀ p, (t.port p).link = false
  alerts : AlertsStand s t

theorem enterDry_dryFrom (s : State) : DryFrom s (enterDry s) := by
  have h := cancelPending_eq (stopDataPath s)
  have halerts : AlertsStand s (cancelPending (stopDataPath s)) := (cancelPending_stand _).after rfl
  unfold enterDry enterBanked enterHeld
  rw [h]
  exact {
    ladder := rfl, err := rfl, auxBad := rfl, time := rfl, faults := rfl, plan := rfl, weights := rfl, sets := rfl
    mem := tget_tmapAll_of (p := fun v : SiteState => v.mem = []) rfl (fun _ _ => rfl) _
    sp := tget_tmapAll_of (p := fun v : CellState => v.sp = {}) rfl (fun _ _ => rfl) _
    ports := tget_tmapAll_of (p := fun v : PortState => v.link = false) rfl (fun _ _ => rfl) _
    alerts := halerts.trans (alertsStand_of_eq rfl) }

/-- No request is in flight where each entry of the table is another's with its state. -/
theorem liveRequests_tmapAll {s t : State} {f : Nat → Option Request → Option Request}
    (ht : t.serve.table = tmapAll none f s.serve.table) (hf : ∀ k v r, f k v = some r → ∃ r', v = some r' ∧ r'.state = r.state)
    (hs : liveRequests s = []) : liveRequests t = [] := by
  refine List.filterMap_eq_nil_iff.mpr fun q hq => ?_
  rw [ht] at hq
  obtain ⟨v, hv, hq⟩ := mem_tmapAll hq
  split
  · rename_i r hr
    obtain ⟨r', rfl, hstate⟩ := hf _ _ _ (hq.symm.trans hr)
    have hended := List.filterMap_eq_nil_iff.mp hs _ hv
    rw [← hstate]
    simpa using hended
  · rfl

/-- The entry into Dry puts no request in flight. -/
theorem enterDry_live {s : State} (hs : liveRequests s = []) : liveRequests (enterDry s) = [] := by
  have h := cancelPending_eq (stopDataPath s)
  unfold enterDry enterBanked enterHeld
  rw [h]
  refine liveRequests_tmapAll rfl (fun k v r hr => ?_) hs
  obtain ⟨r', hr', rfl⟩ := Option.map_eq_some_iff.mp hr
  exact ⟨r', hr', rfl⟩

/-- A forced entry into Dry leaves nothing in flight (R462). -/
theorem forceLadder_dry {s : State} (htable : tblWf none s.serve.table = true) :
    DryFrom s (forceLadder s enterDry) ∧ liveRequests (forceLadder s enterDry) = [] := by
  have ended := endAll_serving s stWaferFault
  have dry := enterDry_dryFrom (stopDataPath (endAll s stWaferFault))
  have halerts : AlertsStand s (stopDataPath (endAll s stWaferFault)) := (endAll_stand s stWaferFault).trans (alertsStand_of_eq rfl)
  obtain ⟨hpower, htime, hfaults⟩ : (endAll s stWaferFault).power = s.power ∧ (endAll s stWaferFault).time = s.time ∧
      (endAll s stWaferFault).faults = s.faults := by rw [ended.eq]; exact ⟨rfl, rfl, rfl⟩
  refine ⟨?_, enterDry_live (endAll_liveRequests htable _)⟩
  exact { dry with
    err := dry.err.trans (congrArg PowerState.err hpower)
    auxBad := dry.auxBad.trans (congrArg PowerState.auxBad hpower)
    time := dry.time.trans (congrArg (fun t : TimeState => { t with dataPath := false }) htime)
    faults := dry.faults.trans hfaults
    alerts := halerts.trans dry.alerts }

/-! ## Fuses and converters (R440 to R442) -/

theorem pwErr_set (s : State) {bit : Nat} (h : bit < 7) : tb (pwErr s bit).power.err.toNat bit = true :=
  tb_or_right _ (tb_ofNat_two_pow h)

theorem pwErr_stand {s : State} {bit : Nat} (h : tb s.power.err.toNat bit = true) (other : Nat) :
    tb (pwErr s other).power.err.toNat bit = true := tb_or_left _ h

/-- A field's fuse is open, and PW_ERR_STATUS says so (R442, R464). -/
def fuseBlown (s : State) (f : Nat) : State := pwErr (s.modField f fun fs => { fs with fuseOpen := true }) 6

theorem isHole_congr {s t : State} {f : Nat} (h : (t.field f).domain = (s.field f).domain) : isHole t f = isHole s f := by
  rw [isHole, h, isHole]

theorem fuseBlown_field {s : State} (hwf : s.tablesWf = true) (f : Nat) :
    (fuseBlown s f).field f = { s.field f with fuseOpen := true } := by
  obtain ⟨-, -, -, hfields, -⟩ := (tablesWf_iff s).mp hwf
  exact State.modField_field_same hfields f fun fs => { fs with fuseOpen := true }

/-- An open fuse: the field is lost, and the rest of the module goes on. -/
structure FuseOpened (s t : State) (f : Nat) : Prop where
  domain : (t.field f).domain = .hole
  fuse : (t.field f).fuseOpen = true
  stroke : (t.field f).lostStroke = some (BitVec.ofNat 60 (strokeNo s))
  record : onRing t 3 0x8C
  err : tb t.power.err.toNat 6 = true
  cells : ∀ k, t.cell k = if cellField k = f then {} else s.cell k
  sites : ∀ k, k / 74 ≠ f → t.site k = s.site k
  others : ∀ g, g ≠ f → t.field g = s.field g
  time : t.time = s.time
  plan : t.plan = s.plan
  serve : t.serve = s.serve
  convBad : (t.field f).convBad = (s.field f).convBad
  errStands : ∀ bit, tb s.power.err.toNat bit = true → tb t.power.err.toNat bit = true
  alerts : AlertsStand s t

theorem fuseBlown_opened {s : State} (hwf : s.tablesWf = true) {f : Nat} (h : isHole s f = false) :
    FuseOpened s (loseSupply (fuseBlown s f) f) f := by
  have hblown := fuseBlown_field hwf f
  have hwf' : (fuseBlown s f).tablesWf = true := (keeps_refl s).modField.pwErr.2 hwf
  have hnot : isHole (fuseBlown s f) f = false := (isHole_congr (by rw [hblown])).trans h
  have gone := loseSupply_gone hwf' hnot
  have hfield := gone.field
  rw [hblown] at hfield
  exact {
    domain := by rw [hfield]; rfl
    fuse := by rw [hfield]; rfl
    stroke := by rw [hfield]; rfl
    record := gone.record
    err := by rw [gone.power]; exact pwErr_set _ (by decide)
    cells := gone.cells
    sites := gone.sites
    others := fun g hg => (gone.others g hg).trans (State.setField_field_other s hg)
    time := gone.time
    plan := gone.plan
    serve := gone.serve
    convBad := by rw [hfield]; rfl
    errStands := fun bit hbit => by rw [gone.power]; exact pwErr_stand (s := s.modField f _) hbit 6
    alerts := gone.alerts.after rfl }

theorem fuseOpen_lit {f : Field} {s : State} (h : isHole s f.val = false) :
    exec (.fuseOpen f) s = .next (loseSupply (fuseBlown s f.val) f.val) := if_neg (by rw [h]; decide)

/-- A converter of a field has failed, which PW_ERR_STATUS and the alert of power say (R440). -/
def converterLost (s : State) (f i : Nat) : State :=
  raiseAlert (pwErr (s.setField f { s.field f with convBad := (s.field f).convBad ++ [i] }) 2) alPower

/-- What the failure of a converter leaves, and what it sets. -/
structure ConverterGone (s t : State) (f i : Nat) : Prop where
  convBad : (t.field f).convBad = (s.field f).convBad ++ [i]
  err : tb t.power.err.toNat 2 = true
  alert : tb t.mgmt.alert.toNat 2 = true
  time : t.time = s.time
  serve : t.serve = s.serve

theorem converterLost_field {s : State} (hwf : s.tablesWf = true) (f i : Nat) :
    (converterLost s f i).field f = { s.field f with convBad := (s.field f).convBad ++ [i] } := by
  obtain ⟨-, -, -, hfields, -⟩ := (tablesWf_iff s).mp hwf
  exact State.setField_field_same s hfields

theorem converterLost_gone {s : State} (hwf : s.tablesWf = true) (f i : Nat) : ConverterGone s (converterLost s f i) f i where
  convBad := by rw [converterLost_field hwf]
  err := pwErr_set _ (by decide)
  alert := raiseAlert_raised _ (by decide)
  time := rfl
  serve := rfl

theorem FuseOpened.converterGone {s t u : State} {f i : Nat} (h : ConverterGone s t f i) (g : FuseOpened t u f) :
    ConverterGone s u f i where
  convBad := g.convBad.trans h.convBad
  err := g.errStands 2 h.err
  alert := g.alerts.stands 2 h.alert
  time := g.time.trans h.time
  serve := g.serve.trans h.serve

theorem converterFailure_fresh {f : Field} {i : Fin 2} {s : State} (h : i.val ∉ (s.field f.val).convBad) :
    exec (.converterFailure f i) s = .next (
      if (s.field f.val).convBad.isEmpty || isHole (converterLost s f.val i.val) f.val then converterLost s f.val i.val
      else loseSupply (fuseBlown (converterLost s f.val i.val) f.val) f.val) := by
  refine (if_neg (by simpa using h)).trans ?_
  exact (apply_ite Host.Outcome.next _ _ _).symm

/-! ## Auxiliary converters (R441) -/

/-- An auxiliary converter has failed, which PW_ERR_STATUS and the alert of power say (R441). -/
def auxLost (s : State) (i : Nat) : State :=
  raiseAlert (pwErr { s with power := { s.power with auxBad := s.power.auxBad ++ [i] } } 3) alPower

theorem auxConverterFailure_fresh {i : Fin 4} {s : State} (h : i.val ∉ s.power.auxBad) :
    exec (.auxConverterFailure i) s = .next (
      if !s.power.auxBad.isEmpty then forceLadder (raiseModule (auxLost s i.val) 4 0x96 (detail := i.val)) enterDry
      else auxLost s i.val) := by
  refine (if_neg (by simpa using h)).trans ?_
  exact (apply_ite Host.Outcome.next _ _ _).symm

/-- The second failure of an auxiliary converter is recorded at fatal-wafer, and the module that has noted it is forced into Dry
(R441, R462). -/
theorem auxLost_again {s : State} (htable : tblWf none s.serve.table = true) (i : Nat) :
    let t := forceLadder (raiseModule (auxLost s i) 4 0x96 0 i) enterDry
    ∃ u, u.power = (auxLost s i).power ∧ AlertsStand (auxLost s i) u ∧ DryFrom u t ∧ liveRequests t = [] ∧ onRing t 4 0x96 := by
  intro t
  obtain ⟨_, _, _, hnoted⟩ := raiseModule_eq (auxLost s i) 4 0x96 0 i 1
  obtain ⟨dry, hlive⟩ := forceLadder_dry (s := raiseModule (auxLost s i) 4 0x96 0 i) (by rw [hnoted]; exact htable)
  refine ⟨raiseModule (auxLost s i) 4 0x96 0 i, by rw [hnoted], ringPush_stand _ _, dry, hlive, ?_⟩
  rw [onRing, dry.faults]
  exact onRing_raiseModule (auxLost s i) 4 0x96 0 i 1 (by decide)

/-! ## The input voltage (R463) -/

section
variable {cv : BitVec 16} {ticks : Nat} (s : State)

/-- The input voltage as it is reported. -/
def busReads (s : State) (cv : BitVec 16) : State := { s with power := { s.power with busCv := cv } }

theorem inputVoltageExcursion_within (hlow : 4800 ≤ cv.toNat) (hhigh : cv.toNat ≤ 5600) :
    exec (.inputVoltageExcursion cv ticks) s = .next (busReads s cv) := if_pos ⟨hlow, hhigh⟩

theorem inputVoltageExcursion_far (hfar : cv.toNat < 4600 ∨ 5800 < cv.toNat) (hlong : 2000 ≤ ticks) :
    exec (.inputVoltageExcursion cv ticks) s = .next (vaonLost (busReads s cv)) :=
  (if_neg (by omega)).trans (if_pos ⟨hfar, hlong⟩)

theorem inputVoltageExcursion_short (hout : cv.toNat < 4800 ∨ 5600 < cv.toNat) (hshort : ticks < 2000) :
    exec (.inputVoltageExcursion cv ticks) s = .next (raiseAlert (pwErr (busReads s cv) 4) alPower) :=
  (if_neg (by omega)).trans (if_neg (by omega))

end

/-- Settles O31: an open fuse takes its field (`fuseBlown_opened`), as the second failed converter does; a second auxiliary converter is
recorded and forces Dry (`forceLadder_dry`); the input voltage falls into one of three bands. -/
theorem supplyFailures : Obligations.SupplyFailures := by
  unfold Obligations.SupplyFailures
  refine ⟨?_, ?_, ?_, ?_⟩
  · intro f s hwf hlit
    have g := fuseBlown_opened hwf hlit
    exact ⟨_, fuseOpen_lit hlit, g.domain, g.fuse, g.stroke, g.record, g.err, g.cells, g.sites, g.others, g.time, g.plan, g.serve⟩
  · intro f i s hwf hfresh
    have hlost := converterLost_gone hwf f.val i.val
    have hfield := converterLost_field hwf f.val i.val
    have hsame : isHole (converterLost s f.val i.val) f.val = isHole s f.val := isHole_congr (by rw [hfield])
    rw [converterFailure_fresh hfresh, hsame]
    by_cases hstays : (s.field f.val).convBad = [] ∨ isHole s f.val = true
    · rw [if_pos (by simpa using hstays)]
      refine ⟨_, rfl, hlost.convBad, hlost.err, hlost.alert, fun _ => ⟨by rw [hfield], rfl⟩, fun hsecond hlit => ?_, hlost.time,
        hlost.serve⟩
      simp [hsecond, hlit] at hstays
    · rw [if_neg (by simpa using hstays)]
      obtain ⟨hsecond, hlit⟩ := not_or.mp hstays
      have hwf' : (converterLost s f.val i.val).tablesWf = true := (keeps_refl s).setField.pwErr.raiseAlert.2 hwf
      have g := fuseBlown_opened hwf' (hsame.trans (Bool.not_eq_true _ ▸ hlit))
      have both := g.converterGone hlost
      exact ⟨_, rfl, both.convBad, both.err, both.alert, fun hfirst => absurd hfirst hsecond, fun _ _ => ⟨g.domain, g.fuse, g.record⟩,
        both.time, both.serve⟩
  · intro i s hwf hfresh
    obtain ⟨-, -, -, -, -, -, -, -, htable⟩ := (tablesWf_iff s).mp hwf
    rw [auxConverterFailure_fresh hfresh]
    have herr : tb (auxLost s i.val).power.err.toNat 3 = true := pwErr_set _ (by decide)
    have halert : tb (auxLost s i.val).mgmt.alert.toNat 2 = true := raiseAlert_raised _ (by decide)
    by_cases hfirst : s.power.auxBad = []
    · rw [if_neg (by simp [hfirst])]
      exact ⟨_, rfl, rfl, herr, halert, fun _ => ⟨rfl, rfl⟩, fun hsecond => absurd hfirst hsecond⟩
    · rw [if_pos (by simpa using hfirst)]
      obtain ⟨u, hpower, hstand, dry, hlive, hring⟩ := auxLost_again htable i.val
      refine ⟨_, rfl, ?_, ?_, (hstand.trans dry.alerts).stands 2 halert, fun h => absurd h hfirst,
        fun _ => ⟨hring, dry.ladder, hlive, ?_, dry.plan, dry.weights, dry.sets, fun k => ⟨dry.mem k, dry.sp k⟩, dry.ports⟩⟩
      · rw [dry.auxBad, hpower]; rfl
      · rw [dry.err, hpower]; exact herr
      · rw [dry.time]
  · intro cv ticks s
    refine ⟨inputVoltageExcursion_within s, fun hfar hlong => ?_, fun hout hshort => ?_⟩
    · exact ⟨_, inputVoltageExcursion_far s hfar hlong, rfl, rfl, rfl, rfl, rfl, rfl, rfl, rfl, rfl, rfl, rfl, rfl, rfl, rfl, rfl⟩
    · exact ⟨_, inputVoltageExcursion_short s hout hshort, pwErr_set _ (by decide), raiseAlert_raised _ (by decide), rfl, rfl⟩

end Sys2Proof.Machine
end

section
/-! PROOFS. Activations of staged plans, recipes and installs are scheduled (R294, R367, R380). -/

namespace Sys2Proof.Machine

/-! ## Leads beyond that of R55 (R294, R380) -/

section
variable {s : State} {e more : Nat} {occupies : Bool}

theorem epochRefusal_withinLead (ho : eventsShut s = false) (h : e < s.time.epoch + max (curbLead s) more) :
    epochRefusal s e more occupies = some stTooLate := by
  simp only [epochRefusal, ho, Bool.false_eq_true, if_false, if_pos h]

theorem epochRefusal_beyondLead (ho : eventsShut s = false) (h : s.time.epoch + max (curbLead s) more ≤ e)
    (hf : s.events.length < 16) (ht : (occupies && epochTaken s e) = false) : epochRefusal s e more occupies = none := by
  simp only [epochRefusal, ho, ht, eventsFull, Nat.not_lt.mpr h, Nat.not_le.mpr hf, decide_false, Bool.false_eq_true, if_false]

end

/-- Whatever its response carries, an accepted event enters the list under the next number. -/
theorem acceptEvent_carrying_eq (s : State) (tag : BitVec 16) (e : Nat) (k : EventKind) (more : List (BitVec 64)) :
    acceptEvent s tag e k more = { s with
      events := s.events ++ [{ number := s.mgmt.nextEvent, epoch := e, kind := k }]
      mgmt := { s.mgmt with nextEvent := s.mgmt.nextEvent + 1 }, sent := (acceptEvent s tag e k more).sent } := by
  unfold acceptEvent respond
  rw [addEvent_eq]
  rfl

/-- The response to an accepted event carries its number and what its operation adds. -/
theorem answersLast_acceptEvent_carrying {s t : State} (tag : BitVec 16) (e : Nat) (k : EventKind) (more : List (BitVec 64))
    (hsent : t.sent = s.sent) (hmgmt : t.mgmt = s.mgmt) :
    answersLast s (acceptEvent t tag e k more) 6 tag stAccepted (BitVec.ofNat 64 s.mgmt.nextEvent :: more) := by
  rw [← hmgmt]
  exact answersLast_respond _ 6 tag stAccepted _ hsent

/-! ## What a recipe is refused with (R367) -/

section
variable {s : State} {table : List LayerRec} {layers : List Nat}

theorem recipeRefusal_unknownLayer (h : ∃ l ∈ layers, ∀ r ∈ table, r.layer ≠ l) :
    recipeRefusal s table layers = some (stBadRecipe, []) := by
  unfold recipeRefusal
  exact if_pos (by simpa using h)

theorem recipeRefusal_none (h : ∀ l ∈ layers, (∃ r ∈ table, r.layer = l) ∧ shadowPresent s l = true) :
    recipeRefusal s table layers = none := by
  have hknown : (layers.any fun l => !(table.any fun r => r.layer == l)) = false := by
    simpa using fun l hl => (h l hl).1
  have hshadows : (layers.filter fun l => !shadowPresent s l) = [] := by
    simpa using fun l hl => (h l hl).2
  simp only [recipeRefusal, hknown, hshadows, Bool.false_eq_true, if_false]

end

/-! ## The requests -/

section
variable {s : State} {tag : BitVec 16} {e : BitVec 48} (h : servedFully s)
include h

/-- The activation of a staged plan meets the checks of an epoch, with the lead of R294. -/
theorem schedulePlanActivation_eq {p : Plan} (hhold : s.mgmt.hold ≠ 5) (hp : s.plan.pending = some p)
    (hstage : s.plan.stage = some .staged) (hact : activationPending s = false) (hswap : swapping s = false) :
    exec (.schedulePlanActivation tag e none) s =
      .next (scheduleEvent s tag e.toNat (drainEpochs s + 2) true (.activation none)) := by
  simp [exec, execSchedulePlanActivation, done, serve_servedFully h, hp, hhold, hstage, hact, hswap, recipeRefusal]

theorem scheduleRecipe_refused {p : Plan} {layers : List Nat} {st : Nat} {body : List (BitVec 64)} (hp : s.plan.active = some p)
    (hr : recipeRefusal s p.precision layers = some (st, body)) :
    exec (.scheduleRecipe tag e layers) s = .next (respond s 6 tag st body) := by
  simp only [exec, execScheduleRecipe, done, serve_servedFully h, hp, hr]

/-- A recipe that stands its checks is staged, and its event entered (R367). -/
theorem scheduleRecipe_accepted {p : Plan} {layers : List Nat} (hp : s.plan.active = some p)
    (hr : recipeRefusal s p.precision layers = none) (he : epochRefusal s e.toNat (drainEpochs s + 2) true = none) :
    exec (.scheduleRecipe tag e layers) s =
      .next (acceptEvent { s with plan := { s.plan with recipeStaged := some layers } } tag e.toNat (.recipe layers)) := by
  simp only [exec, execScheduleRecipe, done, serve_servedFully h, hp, hr, he]

/-- An install of a staged set keeps I, the epochs it needs, and its response carries it (R380). -/
theorem scheduleInstall_accepted {w : WeightSet} (hw : s.weights.loading = some w) (hstage : s.weights.state = some .staged)
    (he : epochRefusal s e.toNat (drainEpochs s + installEpochs w + 2) false = none) :
    exec (.scheduleInstall tag e) s = .next (acceptEvent { s with weights := { s.weights with installEpochs := installEpochs w } }
      tag e.toNat .install [BitVec.ofNat 64 (installEpochs w)]) := by
  simp only [exec, execScheduleInstall, done, serve_servedFully h, hw, hstage, he, ne_eq, not_true_eq_false, if_false]

end

/-- Settles O53: each request is the shared check of an event's epoch (`epochRefusal`) under its own lead, behind the checks of the plan
or of the recipe (`recipeRefusal`), and the event's entry where all of them pass. -/
theorem activationsRecipesAndInstallsAreScheduled : Obligations.ActivationsRecipesAndInstallsAreScheduled := by
  unfold Obligations.ActivationsRecipesAndInstallsAreScheduled
  refine ⟨?_, ?_, ?_⟩
  · intro tag e p s hs ho hhold hp hstage hact hswap
    have heq := schedulePlanActivation_eq (tag := tag) (e := e) hs hhold hp hstage hact hswap
    refine ⟨fun he => ⟨_, heq, ?_⟩, fun he ht hf => ⟨_, heq, ?_⟩⟩
    · rw [scheduleEvent_refused (epochRefusal_withinLead ho he)]
      exact ⟨rfl, rfl⟩
    · rw [scheduleEvent_accepted (epochRefusal_beyondLead ho he hf (by rw [ht]; rfl))]
      refine ⟨?_, answersLast_acceptEvent .., ?_⟩ <;> rw [acceptEvent_eq]
  · intro tag e layers p s hs ho hp
    refine ⟨fun hbad => ⟨_, scheduleRecipe_refused hs hp (recipeRefusal_unknownLayer hbad), rfl, rfl⟩, fun hgood he ht hf => ?_⟩
    refine ⟨_, scheduleRecipe_accepted hs hp (recipeRefusal_none hgood) (epochRefusal_beyondLead ho he hf (by rw [ht]; rfl)), ?_, ?_,
      answersLast_acceptEvent ..⟩ <;> rw [acceptEvent_eq]
  · intro tag e w s hs ho hw hstage he hf
    refine ⟨_, scheduleInstall_accepted hs hw hstage (epochRefusal_beyondLead ho he hf rfl), ?_, ?_,
      answersLast_acceptEvent_carrying _ _ _ _ rfl rfl⟩ <;> rw [acceptEvent_carrying_eq]

end Sys2Proof.Machine
end

section
/-! PROOFS. Dumps, settings records, discards, alerts and single operations of management (R293, R377, R405, R514, R517, R523, R536). -/

namespace Sys2Proof.Machine

/-! ## Runs of a table -/

theorem tsetMany_append {α : Type} [DecidableEq α] (d : α) (vs ws : List α) (m : Tbl α) (i : Nat) :
    tsetMany d m i (vs ++ ws) = tsetMany d (tsetMany d m i vs) (i + vs.length) ws := by
  induction vs generalizing m i with
  | nil => rfl
  | cons v vs ih =>
    rw [List.cons_append, tsetMany, ih, tsetMany, List.length_cons]
    congr 1
    omega

/-- A run leaves the keys before it alone. -/
theorem tget_tsetMany_before {α : Type} [DecidableEq α] (d : α) (vs : List α) (m : Tbl α) {i j : Nat} (h : j < i) :
    tget d (tsetMany d m i vs) j = tget d m j := by
  induction vs generalizing m i with
  | nil => rfl
  | cons v vs ih => rw [tsetMany, ih _ (by omega), tget_tset_other d m v (by omega)]

/-- A run reads back as it was written. -/
theorem tgetMany_tsetMany {α : Type} [DecidableEq α] (d : α) (vs : List α) {m : Tbl α} (i : Nat) (hm : keysGe 0 m) :
    tgetMany d (tsetMany d m i vs) i vs.length = vs := by
  induction vs generalizing m i with
  | nil => rfl
  | cons v vs ih =>
    have hfirst : tget d (tsetMany d (tset d m i v) (i + 1) vs) i = v := by
      rw [tget_tsetMany_before d vs _ (Nat.lt_succ_self i), tget_tset_same d i v hm]
    have hrest : (List.range vs.length).map (fun j => tget d (tsetMany d (tset d m i v) (i + 1) vs) (i + (j + 1))) = vs := by
      simpa only [tgetMany, Nat.add_assoc, Nat.add_comm 1] using ih (i + 1) (keysGe_tset d i v hm)
    simp only [tgetMany, tsetMany, List.length_cons, List.range_succ_eq_map, List.map_cons, List.map_map, Nat.add_zero, hfirst]
    exact congrArg (v :: ·) hrest

/-! ## Dumps (R405, R536) -/

theorem length_leBytes (n x : Nat) : (leBytes n x).length = n := by
  induction n generalizing x with
  | zero => rfl
  | succ n ih => rw [leBytes, List.length_cons, ih]

theorem length_dumpHeader (s : State) : (dumpHeader s).length = 64 := by
  simp [dumpHeader, List.length_flatMap, length_leBytes]

/-- Header and entries of a dump, as far as window 4 holds them (R536). -/
def dumpBytes (s : State) (scope : DumpScope) : Bytes := (dumpHeader s ++ dumpEntries s scope).take (winSize 4)

/-- Window 4 opens anew with a dump in it (R405, R536). -/
def dumpWindow (s : State) (scope : DumpScope) : Window :=
  { state := .open_, gen := nextGen (s.window 4).gen, bytes := tsetMany 0 [] 0 (dumpBytes s scope), top := (dumpBytes s scope).length }

/-- A dump that is complete lies in window 4, and its response carries the window's rkey. -/
theorem dumpReady_eq {s : State} {tag : BitVec 16} {scope : DumpScope} (h : s.mgmt.dumpScope = some (tag, scope)) :
    exec .dumpReady s = .next (respond { s.setWindow 4 (dumpWindow s scope) with
      mgmt := { s.mgmt with dumpScope := none, dumpHeld := true }, freeCount := s.freeCount + 8 } 13 tag stAccepted
      [(winKey 4 (nextGen (s.window 4).gen)).setWidth 64]) := by
  simp only [exec, execDumpReady, h]
  rfl

theorem winSize_four : winSize 4 = 268435456 := rfl

theorem length_dumpBytes_le (s : State) (scope : DumpScope) : (dumpBytes s scope).length ≤ 268435456 := by
  rw [← winSize_four]
  exact List.length_take_le ..

/-- Entries that fit behind the header stand in the window from byte 64 on. -/
theorem dumpWindow_entries {s : State} {scope : DumpScope} (h : (dumpEntries s scope).length + 64 ≤ 268435456) :
    tgetMany 0 (dumpWindow s scope).bytes 64 (dumpEntries s scope).length = dumpEntries s scope := by
  have hhead := length_dumpHeader s
  have hall : dumpBytes s scope = dumpHeader s ++ dumpEntries s scope :=
    List.take_of_length_le (by rw [List.length_append, hhead, Nat.add_comm, winSize_four]; exact h)
  have hwf : Memory.wf (tsetMany 0 [] 0 (dumpHeader s)) = true := wf_tsetMany rfl 0 _
  have hrun := tgetMany_tsetMany 0 (dumpEntries s scope) 64 ((tblWf_iff 0 _).mp hwf).1
  rw [dumpWindow, hall, tsetMany_append, hhead]
  exact hrun

/-- A dump that is acknowledged is given up with its window. -/
theorem acknowledgeDump_held {s : State} (hs : servedFully s) (tag : BitVec 16) (h : s.mgmt.dumpHeld = true) :
    exec (.acknowledgeDump tag) s =
      .next (respond (closeWin { s with mgmt := { s.mgmt with dumpHeld := false } } 4) 14 tag stAccepted) := by
  simp only [exec, execAcknowledgeDump, done, serve_servedFully hs, h, if_true]

/-- A dump is taken on while none is made or held. -/
theorem dump_begins {s : State} (hs : servedFully s) (tag : BitVec 16) (scope : DumpScope) (hheld : s.mgmt.dumpHeld = false)
    (hscope : s.mgmt.dumpScope = none) :
    exec (.dump tag scope) s = .next { s with mgmt := { s.mgmt with dumpScope := some (tag, scope) } } := by
  simp [exec, execDump, done, serve_servedFully hs, hheld, hscope]

theorem dump_busy {s : State} (hs : servedFully s) (tag : BitVec 16) (scope : DumpScope) (hheld : s.mgmt.dumpHeld = true) :
    exec (.dump tag scope) s = .next (respond s 13 tag stDumpBusy) := by
  simp [exec, execDump, done, serve_servedFully hs, hheld]

/-! ## Settings records (R523) -/

/-- The settings that the host's record gives the next generation (R523). -/
def settingsOf (s : State) (record : Bytes) : Settings := {
  gen := s.otp.settings.length + 1, compat := tb (fieldAt record 5 1) 0
  allow := (List.range (fieldAt record 6 1)).map fun i => BitVec.ofNat 128 (fieldAt record (8 + 16 * i) 16)
  digest := sha3_256 (settingsRecord (s.otp.settings.length + 1) record) }

theorem burnSettings_exhausted {s : State} (hs : servedFully s) (tag : BitVec 16) (record : Bytes) (h : 4 ≤ s.otp.settings.length) :
    exec (.burnSettings tag record) s = .next (respond s 15 tag stExhausted) := by
  simp only [exec, execBurnSettings, done, serve_servedFully hs, if_pos h]

theorem burnSettings_burns {s : State} (hs : servedFully s) (tag : BitVec 16) {record : Bytes} (hfree : s.otp.settings.length < 4)
    (hlength : record.length = 512) (hcompat : fieldAt record 5 1 < 2) (hcount : fieldAt record 6 1 ≤ 16)
    (hzero : fieldAt record 7 1 = 0) (hrest : zeroAt record 264 244 = true) :
    exec (.burnSettings tag record) s = .next (respond
      { s with otp := { s.otp with settings := s.otp.settings ++ [settingsOf s record] } } 15 tag stAccepted) := by
  have hgood : ¬ (record.length ≠ 512 ∨ 2 ≤ fieldAt record 5 1 ∨ 16 < fieldAt record 6 1 ∨ fieldAt record 7 1 ≠ 0 ∨
      zeroAt record 264 244 = false) := by simp [hlength, hzero, hrest, hcompat, hcount]
  simp only [exec, execBurnSettings, done, serve_servedFully hs, if_neg (Nat.not_le.mpr hfree), if_neg hgood]
  rfl

/-- Bit 0 of a value below 2 is that value. -/
theorem tb_zero_iff {n : Nat} (h : n < 2) : tb n 0 = true ↔ n = 1 := by
  rw [tb, Nat.testBit_zero, decide_eq_true_iff]
  omega

/-! ## Discards (R293, R377) -/

/-- A discard leaves the plan checked or staged in no pending state, its window closed (R293). -/
theorem discardPending_eq {s : State} (status : Nat) (h : s.plan.stage ≠ none) : discardPending s status =
    freeBarrier { closeWin (dropStaged { s with
      plan := { s.plan with pending := none, stage := none, loadStatus := status } }) 1 with
      casc := tmapAll {} (fun _ c => { c with tableStaged := [] }) s.casc } .activation := by
  unfold discardPending
  split
  · exact absurd ‹_› h
  · rfl

theorem leadMet_iff (s : State) (p : EventKind → Bool) :
    leadMet s p = true ↔ ∀ v ∈ s.events, p v.kind = true → s.time.epoch + curbLead s ≤ v.epoch := by
  simp only [leadMet, List.all_eq_true, Bool.or_eq_true, Bool.not_eq_true', decide_eq_true_eq, ← Bool.not_eq_true, ← imp_iff_not_or]

/-- A kind of event that a discarded plan takes with it: its activation (R293). -/
def isActivation (k : EventKind) : Bool := match k with
  | .activation _ => true
  | _ => false

theorem isActivation_iff (k : EventKind) : isActivation k = true ↔ ∃ r, k = .activation r := by
  cases k <;> simp [isActivation]

theorem discardPlan_none {s : State} (hs : servedFully s) (tag : BitVec 16) (h : s.plan.stage = none) :
    exec (.discardPlan tag) s = .next (respond s 16 tag stNotStaged) := by
  simp only [exec, execDiscardPlan, done, serve_servedFully hs, h, Option.isNone_none, if_true]

/-- A plan in a pending state goes, and its activation with it, while the lead is met. -/
theorem discardPlan_discards {s : State} (hs : servedFully s) (tag : BitVec 16) (h : s.plan.stage ≠ none)
    (hlead : leadMet s isActivation = true) : exec (.discardPlan tag) s =
      .next (respond (discardPending (dropEvents s fun v => isActivation v.kind) stDiscarded) 16 tag stAccepted) := by
  change Host.Outcome.next (serve s 16 tag fun s => if s.plan.stage.isNone then respond s 16 tag stNotStaged
    else if !leadMet s isActivation then respond s 16 tag stTooLate
    else respond (discardPending (dropEvents s fun v => isActivation v.kind) stDiscarded) 16 tag stAccepted) = _
  rw [serve_servedFully hs, hlead, if_neg (by simpa using h)]
  rfl

/-- Messages that one module sends one after the other stand behind what left before, and nothing else changes (R423). -/
theorem foldl_sendVc_eq {α : Type} (g : α → VcMessage) (l : List α) : ∀ s : State, ∃ vs : List Sent,
    (∀ m ∈ vs, ∃ v d, m = .vc v d) ∧ l.foldl (fun s x => sendVc s (g x)) s = { s with sent := s.sent ++ vs } := by
  induction l with
  | nil => exact fun s => ⟨[], by simp, by simp⟩
  | cons x l ih =>
    intro s
    obtain ⟨vs, hvs, heq⟩ := ih (sendVc s (g x))
    refine ⟨.vc (g x) (towardNext s (g x).dst) :: vs, List.forall_mem_cons.mpr ⟨⟨_, _, rfl⟩, hvs⟩, ?_⟩
    rw [List.foldl_cons, heq]
    simp [sendVc, State.emit]

/-- What the end of a load leaves and tells: the followers hear of it, and the resident set stands (R377). -/
structure LoadDropped (s t : State) (status : Nat) : Prop where
  told : ∃ vs : List Sent, (∀ m ∈ vs, ∃ v d, m = .vc v d) ∧ t.sent = s.sent ++ vs
  loading : t.weights.loading = none
  state : t.weights.state = none
  lastStatus : t.weights.lastStatus = status
  resident : t.weights.resident = s.weights.resident
  events : t.events = s.events

theorem dropLoad_drops (s : State) (status : Nat) : LoadDropped s (dropLoad s status) status := by
  unfold dropLoad
  extract_lets gone t u reload
  obtain ⟨vs, hvs, heq⟩ := foldl_sendVc_eq
    (fun p => { src := 0, dst := BitVec.ofNat 2 p, content := .loadGone status }) gone s
  have hu : u = closeWin { s with sent := s.sent ++ vs } 0 := congrArg (closeWin · 0) heq
  obtain ⟨hsent, hresident, hevents⟩ :
      u.sent = s.sent ++ vs ∧ u.weights.resident = s.weights.resident ∧ u.events = s.events := by
    rw [hu]
    exact ⟨rfl, rfl, rfl⟩
  exact ⟨⟨vs, hvs, hsent⟩, rfl, rfl, rfl, hresident, hevents⟩

/-- A kind of event that a discarded set takes with it: its swap or install (R377). -/
def usesSet (k : EventKind) : Bool := k == .swap || k == .install

/-- A staged set goes, and its swap or install with it, while the lead is met. -/
theorem discardSet_discards {s : State} (tag : BitVec 16) (h : s.weights.state = some .staged) (hlead : leadMet s usesSet = true) :
    exec (.discardSet tag) s = .next (respond
      (dropLoad (freeBarrier (dropEvents s fun v => usesSet v.kind) .install) stDiscarded) 16 tag stAccepted) := by
  change (if s.weights.state ≠ some .staged then done (respond s 0x10 tag stNotStaged)
    else if !leadMet s usesSet then done (respond s 0x10 tag stTooLate)
    else done (respond (dropLoad (freeBarrier (dropEvents s fun v => usesSet v.kind) .install) stDiscarded) 0x10 tag stAccepted)) = _
  rw [h, hlead]
  rfl

/-! ## Alerts (R517) -/

/-- The last alert is less than 10 ms old (R517). -/
def alertWaits (s : State) : Bool := match s.mgmt.alertSent with
  | some u => decide (boardTime s < u + 1000000)
  | none => false

theorem alertWaits_false (s : State) : alertWaits s = false ↔ ∀ u, s.mgmt.alertSent = some u → u + 1000000 ≤ boardTime s := by
  unfold alertWaits
  split
  · rename_i u hu; simp [hu]
  · rename_i hu; simp [hu]

/-- An alert that is due waits for its 10 ms alone while the service QP is open. -/
theorem alertMessage_due {s : State} (hdue : s.mgmt.alertDue = true) (hopen : roceOpen s (bf s.ep.svcQp.toNat 13 12) = true)
    (hqp : (qpOf s (bf s.ep.svcQp.toNat 13 12) (bf s.ep.svcQp.toNat 8 0)).isSome = true) :
    exec .alertMessage s = .next (if alertWaits s then s else { s with
    mgmt := { s.mgmt with alertDue := false, alertSent := some (boardTime s) }
    sent := s.sent ++ [.alert (s.mgmt.alert.setWidth 32)] }) := by
  change (if s.mgmt.alertDue && !alertWaits s && roceOpen s (bf s.ep.svcQp.toNat 13 12) &&
    (qpOf s (bf s.ep.svcQp.toNat 13 12) (bf s.ep.svcQp.toNat 8 0)).isSome then _ else _) = _
  rw [hdue, hopen, hqp]
  cases alertWaits s <;> rfl

/-! ## Register writes (R10, R11) -/

/-- WM_ALERT is cleared by ones; no other register of the wafer manager acts on a write (R10, R537). -/
theorem registerWrite_wm {addr : BitVec 64} (v : BitVec 64) (s : State) (h : (regAddr addr).block = 1) :
    exec (.registerWrite addr v) s = .next (if (regAddr addr).off = 0x00C then
      { s with mgmt := { s.mgmt with alert := s.mgmt.alert &&& ~~~ BitVec.ofNat 11 v.toNat } } else s) := by
  have hlit : regDark s (regAddr addr) = false := by simp [regDark, h]
  have hwo : ∀ t : State, writeWo t (regAddr addr) v.toNat = t := fun t => by simp [writeWo, h]
  simp only [exec, execRegisterWrite, done, hlit, Bool.false_eq_true, if_false, hwo]
  congr 1
  split
  · rename_i hoff; simp [writeW1c, h, hoff, w1c]
  · rename_i hoff; simp [writeW1c, h, hoff]

theorem registerWrite_dark {addr : BitVec 64} (v : BitVec 64) {s : State} (h : regDark s (regAddr addr) = true) :
    exec (.registerWrite addr v) s = .next (noteDark s (regAddr addr)) := by
  simp only [exec, execRegisterWrite, done, h, if_true]

/-! ## Operations that are not assigned (R514) -/

theorem unassignedOp_unknown {s : State} (hs : servedFully s) (tag : BitVec 16) {op : BitVec 16} (h : knownOp op.toNat = false) :
    exec (.unassignedOp tag op) s = .next (respond s op.toNat tag stUnknownOp) := by
  simp only [exec, execUnassignedOp, done, serve_servedFully hs, h, Bool.false_eq_true, if_false]

theorem unassignedOp_known (s : State) (tag : BitVec 16) {op : BitVec 16} (h : knownOp op.toNat = true) :
    exec (.unassignedOp tag op) s = .next s := by
  simp only [exec, execUnassignedOp, done, h, if_true]

/-- Settles O55: each command by its equation above; a dump reads back from its window (`dumpWindow_entries`), and the end of a load
tells the followers and nothing more (`dropLoad_drops`). -/
theorem dumpsSettingsDiscardsAndAlerts : Obligations.DumpsSettingsDiscardsAndAlerts := by
  unfold Obligations.DumpsSettingsDiscardsAndAlerts
  refine ⟨?_, ?_, ?_, ?_, ?_, ?_, ?_, ?_⟩
  · intro tag scope s hs
    exact ⟨dump_begins hs tag scope, fun hheld => ⟨_, dump_busy hs tag scope hheld, rfl, rfl⟩⟩
  · intro tag scope s hwf hscope
    obtain ⟨-, -, -, -, hwindows, -, -, -, -⟩ := (tablesWf_iff s).mp hwf
    have hwin : (s.setWindow 4 (dumpWindow s scope)).window 4 = dumpWindow s scope := State.setWindow_window_same s hwindows
    refine ⟨_, dumpReady_eq hscope, congrArg Window.state hwin, congrArg Window.gen hwin, rfl,
      (congrArg Window.top hwin).trans_le (length_dumpBytes_le s scope), fun hfits => ?_, rfl, rfl⟩
    exact (congrArg (fun w => tgetMany 0 w.bytes 64 _) hwin).trans (dumpWindow_entries hfits)
  · intro tag s hwf hs hheld
    obtain ⟨-, -, -, -, hwindows, -, -, -, -⟩ := (tablesWf_iff s).mp hwf
    exact ⟨_, acknowledgeDump_held hs tag hheld, rfl, State.setWindow_window_same s hwindows, rfl⟩
  · intro tag record s hs
    refine ⟨fun hfull => ⟨_, burnSettings_exhausted hs tag record hfull, rfl, rfl⟩, ?_⟩
    intro hfree hlength hcompat hcount hzero hrest
    exact ⟨_, settingsOf s record, burnSettings_burns hs tag hfree hlength hcompat hcount hzero hrest, rfl, rfl,
      by simp [settingsOf], tb_zero_iff hcompat, rfl, rfl⟩
  · intro tag s hs
    refine ⟨fun hnone => ⟨_, discardPlan_none hs tag hnone, rfl, rfl⟩, fun hsome hlead => ?_, fun hstaged hlead => ?_⟩
    · have hmet : leadMet s isActivation = true := (leadMet_iff s _).mpr fun v hv hk =>
        have ⟨r, hr⟩ := (isActivation_iff v.kind).mp hk
        hlead v hv r hr
      refine ⟨_, discardPlan_discards hs tag hsome hmet, ?_⟩
      rw [discardPending_eq (s := dropEvents s fun v => isActivation v.kind) _ hsome]
      refine ⟨rfl, rfl, rfl, rfl, fun v hv r hr => ?_, rfl⟩
      have hother : isActivation v.kind = false := by simpa using (List.mem_filter.mp hv).2
      rw [hr] at hother
      simp [isActivation] at hother
    · have hmet : leadMet s usesSet = true := (leadMet_iff s _).mpr fun v hv hk => hlead v hv (by simpa [usesSet] using hk)
      have hdrop := dropLoad_drops (freeBarrier (dropEvents s fun v => usesSet v.kind) .install) stDiscarded
      obtain ⟨vs, hvs, hsent⟩ := hdrop.told
      refine ⟨_, discardSet_discards tag hstaged hmet, hdrop.loading, hdrop.state, hdrop.resident, hdrop.lastStatus,
        fun v hv => ?_, vs, hvs, congrArg (· ++ _) hsent⟩
      have hkept : v ∈ s.events.filter fun v => !usesSet v.kind := (congrArg (v ∈ ·) hdrop.events).mp hv
      simpa [usesSet] using (List.mem_filter.mp hkept).2
  · intro s port hdue hopen hqp
    refine ⟨fun hold => ?_, fun u hu hnew => ?_⟩
    · rw [alertMessage_due hdue hopen hqp, (alertWaits_false s).mpr hold]
      rfl
    · have hwaits : alertWaits s = true := by simp [alertWaits, hu, hnew]
      rw [alertMessage_due hdue hopen hqp, hwaits]
      rfl
  · intro addr v s
    refine ⟨fun hwm hoff => ?_, fun hwm hoff => ?_, fun hdark => ⟨_, registerWrite_dark v hdark, noteDark_eq ..⟩⟩
    · rw [registerWrite_wm v s hwm, if_pos hoff]
    · rw [registerWrite_wm v s hwm, if_neg hoff]
  · intro tag op s hs
    exact ⟨fun hnew => ⟨_, unassignedOp_unknown hs tag hnew, rfl, rfl⟩, unassignedOp_known s tag⟩

end Sys2Proof.Machine
end

section
/-! PROOFS. The staged copies of a plan: what their writing reaches, and the copy of each router (R86, R247, R251, R286). -/

namespace Sys2Proof.Machine

/-! ## Folds -/

/-- What one element of a fold brings about, and no element undoes, holds after the fold. -/
theorem foldl_establishes {σ α : Type} {f : σ → α → σ} {inv p : σ → Prop} {l : List α} {x : α} (hx : x ∈ l)
    (hinv : ∀ s y, inv s → inv (f s y)) (hset : ∀ s, inv s → p (f s x)) (hkeep : ∀ s y, p s → p (f s y)) {s : σ} (hs : inv s) :
    p (l.foldl f s) := by
  induction l generalizing s with
  | nil => cases hx
  | cons y l ih =>
    rcases List.mem_cons.mp hx with rfl | hx
    · exact List.foldlRecOn l f (hset s hs) fun t ht y _ => hkeep t y ht
    · exact ih hx (hinv s y hs)

/-- What a fold's every step keeps, the fold keeps. -/
theorem foldl_preserves {σ α : Type} {f : σ → α → σ} {inv : σ → Prop} (h : ∀ s x, inv s → inv (f s x)) (l : List α)
    {s : σ} (hs : inv s) : inv (l.foldl f s) :=
  List.foldlRecOn l f hs fun t ht x _ => h t x ht

/-! ## The writing of the copies, part by part -/

/-- The copies of the plan before are gone from every part listed. -/
def copiesCleared (s : State) : State := { s with
  cells := tmapAll {} (fun _ c => { c with staged := some {} }) s.cells
  sites := tmapAll {} (fun _ st => { st with staged := some {}, imageStaged := false }) s.sites
  routers := tmapAll {} (fun _ r => { r with staged := some {} }) s.routers
  casc := tmapAll {} (fun _ c => { c with tableStaged := [] }) s.casc }

/-- The copies of a cluster's router and of the site that serves it. -/
def stageCluster (p : Plan) (f : Nat) (s : State) (cl : Fin 72) : State :=
  let s := s.modRouter (f * 72 + homeOf cl.val) fun r => { r with staged := some (routerImage p f cl) }
  match clusterSite s s.faults.applied f (homeOf cl.val) with
  | some i => s.modSite (f * 74 + i) fun st => { st with staged := some (siteImage p f cl), imageStaged := true }
  | none => s

/-- A cell with the code and the copy that a plan gives a logical cell. -/
def cellStaged (p : Plan) (recipe : List Nat) (f : Nat) (m : CellMapRec) (c : CellState) : CellState :=
  let code := patchedBlock p f m
  let z := (zoneFor c code).getD 0
  { istoreLoad c (z * 1536) code with staged := some (cellImage p recipe f z m) }

/-- The cell that serves a logical cell takes its code and its copy. -/
def stageCell (p : Plan) (recipe : List Nat) (f : Nat) (s : State) (m : CellMapRec) : State :=
  match placeKey s f m.place with
  | some k => s.modCell k (cellStaged p recipe f m)
  | none => s

/-- The copies of a field, unless it is a hole of the plan. -/
def stageField (p : Plan) (recipe : List Nat) (holes : BitVec 48) (s : State) (f : Nat) : State :=
  if tb holes.toNat f then s
  else (p.cellMap f).foldl (stageCell p recipe f) ((List.finRange 72).foldl (stageCluster p f) s)

/-- An entry of the cascade table's copy. -/
def stageEntry (s : State) (x : CascPort × Nat × BitVec 64) : State :=
  s.modCasc x.1.val fun c => { c with tableStaged := tset 0 c.tableStaged x.2.1 (cascWord x.2.2) }

theorem stagePlan_eq (s : State) (p : Plan) (recipe : List Nat) : stagePlan s p recipe =
    p.cascade.foldl stageEntry (allFields.foldl (stageField p recipe (p.holes s)) (copiesCleared s)) := rfl

/-! ## What the writing of the copies leaves alone -/

/-- The state but for the parts that hold copies. -/
def besideCopies (s : State) : State := { s with cells := [], sites := [], routers := [], casc := [] }

theorem eq_of_besideCopies {s t : State} (h : besideCopies t = besideCopies s) :
    t = { s with cells := t.cells, sites := t.sites, routers := t.routers, casc := t.casc } :=
  congrArg (fun u : State => { u with cells := t.cells, sites := t.sites, routers := t.routers, casc := t.casc }) h

section
variable (p : Plan) (recipe : List Nat) (f : Nat) (s : State)

theorem besideCopies_stageCluster (cl : Fin 72) : besideCopies (stageCluster p f s cl) = besideCopies s := by
  unfold stageCluster; dsimp only; split <;> rfl

theorem besideCopies_stageCell (m : CellMapRec) : besideCopies (stageCell p recipe f s m) = besideCopies s := by
  unfold stageCell
  split
  · rw [State.modCell, setCell_eq]; rfl
  · rfl

theorem besideCopies_stageField (holes : BitVec 48) : besideCopies (stageField p recipe holes s f) = besideCopies s := by
  unfold stageField
  split
  · rfl
  · exact (foldl_keeps besideCopies (besideCopies_stageCell p recipe f) _ _).trans
      (foldl_keeps besideCopies (besideCopies_stageCluster p f) _ _)

/-- The copies lie in the cells, the sites, the routers and the cascade ports; nothing else changes. -/
theorem besideCopies_stagePlan : besideCopies (stagePlan s p recipe) = besideCopies s := by
  rw [stagePlan_eq]
  exact (foldl_keeps besideCopies (f := stageEntry) (fun _ _ => rfl) _ _).trans
    (foldl_keeps besideCopies (fun t f => besideCopies_stageField p recipe f t (p.holes s)) _ _)

end

/-! ## Images in force and scratchpads (R86) -/

/-- A change of every entry that leaves a part of it alone leaves that part of what a key reads. -/
theorem tget_tmapAll_keeps {α β : Type} [DecidableEq α] {d : α} {f : Nat → α → α} {g : α → β}
    (hg : ∀ k v, g (f k v) = g v) {b : Nat} {m : Tbl α} (hm : keysGe b m) (i : Nat) : g (tget d (tmapAll d f m) i) = g (tget d m i) := by
  induction m generalizing b with
  | nil => rfl
  | cons q m ih =>
    obtain ⟨k, v⟩ := q
    have ih := ih hm.2
    simp only [tmapAll]
    by_cases hk : k = i
    · subst hk
      rw [tget_of_lt d hm.2 (Nat.lt_succ_self k)] at ih
      split
      · rename_i hd; simp [tget, ih, ← hg k v, hd]
      · simp [tget, hg]
    · split <;> simp [tget, hk, ih]

/-- The cells of a state, canonical, keep their images in force and their scratchpads. -/
def ImagesKept (s t : State) : Prop :=
  tblWf {} t.cells = true ∧ ∀ k, ((t.cell k).active, (t.cell k).sp) = ((s.cell k).active, (s.cell k).sp)

theorem imagesKept_of_cells {s t u : State} (h : ImagesKept s t) (e : u.cells = t.cells) : ImagesKept s u := by
  unfold ImagesKept State.cell
  rw [e]
  exact h

section
variable {s t : State} (p : Plan) (recipe : List Nat) (f : Nat)

theorem imagesKept_copiesCleared (h : tblWf {} s.cells = true) : ImagesKept s (copiesCleared s) :=
  ⟨tblWf_tmapAll _ _ h, fun k => tget_tmapAll_keeps (f := fun (_ : Nat) (c : CellState) => { c with staged := some {} })
    (g := fun c : CellState => (c.active, c.sp)) (fun _ _ => rfl) ((tblWf_iff _ _).mp h).1 k⟩

theorem imagesKept_stageCell (m : CellMapRec) (h : ImagesKept s t) : ImagesKept s (stageCell p recipe f t m) := by
  unfold stageCell
  split
  · rename_i k _
    refine ⟨by rw [State.modCell, State.setCell_cells]; exact tblWf_tset _ _ _ h.1, fun j => ?_⟩
    by_cases hj : j = k
    · subst hj
      rw [State.modCell, State.setCell_cell_same t h.1]
      exact h.2 j
    · rw [State.modCell, State.setCell_cell_other t hj]
      exact h.2 j
  · exact h

theorem stageCluster_cells (t : State) (cl : Fin 72) : (stageCluster p f t cl).cells = t.cells := by
  unfold stageCluster; dsimp only; split <;> rfl

theorem imagesKept_stageField (holes : BitVec 48) (h : ImagesKept s t) : ImagesKept s (stageField p recipe holes t f) := by
  unfold stageField
  split
  · exact h
  · exact foldl_preserves (fun _ m hu => imagesKept_stageCell p recipe f m hu) _
      (imagesKept_of_cells h (foldl_keeps State.cells (stageCluster_cells p f) _ _))

theorem imagesKept_stagePlan (h : tblWf {} s.cells = true) : ImagesKept s (stagePlan s p recipe) := by
  rw [stagePlan_eq]
  exact imagesKept_of_cells
    (foldl_preserves (fun _ f hu => imagesKept_stageField p recipe f (p.holes s) hu) _ (imagesKept_copiesCleared h))
    (foldl_keeps State.cells (f := stageEntry) (fun _ _ => rfl) _ _)

end

/-! ## The copies of the routers (R22, R247, R253) -/

theorem homeOf_lt {c : Nat} (h : c < 72) : homeOf c < 72 := by
  unfold homeOf; split <;> omega

theorem homeOf_injective {c d : Nat} (h : homeOf c = homeOf d) : c = d := by
  unfold homeOf at h; split at h <;> split at h <;> omega

/-- The router of a logical cluster is no other cluster's. -/
theorem routerOf_injective {f g : Nat} {c d : Fin 72} (h : f * 72 + homeOf c.val = g * 72 + homeOf d.val) : f = g ∧ c = d := by
  have hc := homeOf_lt c.isLt
  have hd := homeOf_lt d.isLt
  have hf : f = g := by omega
  exact ⟨hf, Fin.ext (homeOf_injective (by omega))⟩

/-- The routers are canonical, and that of a logical cluster holds its copy of a plan. -/
def RouterStaged (p : Plan) (f : Nat) (cl : Fin 72) (s : State) : Prop :=
  tblWf {} s.routers = true ∧ (s.router (f * 72 + homeOf cl.val)).staged = some (routerImage p f cl)

def RoutersWf (s : State) : Prop := tblWf {} s.routers = true

theorem routerStaged_of_routers {p : Plan} {f : Nat} {cl : Fin 72} {s t : State} (h : RouterStaged p f cl s)
    (e : t.routers = s.routers) : RouterStaged p f cl t := by
  unfold RouterStaged State.router
  rw [e]
  exact h

section
variable {s : State} (p : Plan) (recipe : List Nat) (f : Nat)

theorem stageCluster_routers (s : State) (cl : Fin 72) : (stageCluster p f s cl).routers = tset {} s.routers (f * 72 + homeOf cl.val)
    { s.router (f * 72 + homeOf cl.val) with staged := some (routerImage p f cl) } := by
  unfold stageCluster; dsimp only; split <;> rfl

theorem stageCell_routers (s : State) (m : CellMapRec) : (stageCell p recipe f s m).routers = s.routers := by
  unfold stageCell
  split
  · exact State.setCell_routers ..
  · rfl

theorem routersWf_stageCluster (cl : Fin 72) (h : RoutersWf s) : RoutersWf (stageCluster p f s cl) := by
  rw [RoutersWf, stageCluster_routers]
  exact tblWf_tset _ _ _ h

theorem routerStaged_stageCluster (cl : Fin 72) (h : RoutersWf s) : RouterStaged p f cl (stageCluster p f s cl) := by
  refine ⟨routersWf_stageCluster p f cl h, ?_⟩
  rw [State.router, stageCluster_routers, tget_tset_same _ _ _ ((tblWf_iff _ _).mp h).1]

theorem stageCluster_keeps_routerStaged {g : Nat} {cl : Fin 72} (d : Fin 72) (h : RouterStaged p f cl s) :
    RouterStaged p f cl (stageCluster p g s d) := by
  by_cases hk : f * 72 + homeOf cl.val = g * 72 + homeOf d.val
  · obtain ⟨rfl, rfl⟩ := routerOf_injective hk
    exact routerStaged_stageCluster p f cl h.1
  · refine ⟨routersWf_stageCluster p g d h.1, ?_⟩
    rw [State.router, stageCluster_routers, tget_tset_other _ _ _ hk]
    exact h.2

/-- A field that is no hole has its routers' copies written. -/
theorem routerStaged_stageField {holes : BitVec 48} (cl : Fin 72) (hf : tb holes.toNat f = false) (h : RoutersWf s) :
    RouterStaged p f cl (stageField p recipe holes s f) := by
  rw [stageField, hf, if_neg Bool.false_ne_true]
  refine routerStaged_of_routers ?_ (foldl_keeps State.routers (stageCell_routers p recipe f) _ _)
  exact foldl_establishes (List.mem_finRange cl) (fun _ d => routersWf_stageCluster p f d)
    (fun _ => routerStaged_stageCluster p f cl) (fun _ d => stageCluster_keeps_routerStaged p f d) h

theorem routersWf_stageField (holes : BitVec 48) (h : RoutersWf s) : RoutersWf (stageField p recipe holes s f) := by
  unfold stageField
  split
  · exact h
  · rw [RoutersWf, foldl_keeps State.routers (stageCell_routers p recipe f)]
    exact foldl_preserves (fun _ d => routersWf_stageCluster p f d) _ h

theorem stageField_keeps_routerStaged {g : Nat} {cl : Fin 72} (holes : BitVec 48) (h : RouterStaged p f cl s) :
    RouterStaged p f cl (stageField p recipe holes s g) := by
  unfold stageField
  split
  · exact h
  · refine routerStaged_of_routers ?_ (foldl_keeps State.routers (stageCell_routers p recipe g) _ _)
    exact foldl_preserves (fun _ d => stageCluster_keeps_routerStaged p f d) _ h

/-- The router of every logical cluster in a field that is no hole holds its copy of the plan. -/
theorem routerStaged_stagePlan (cl : Fin 72) (hf : f < 48) (hhole : tb (p.holes s).toNat f = false)
    (h : tblWf {} s.routers = true) : RouterStaged p f cl (stagePlan s p recipe) := by
  rw [stagePlan_eq]
  refine routerStaged_of_routers ?_ (foldl_keeps State.routers (f := stageEntry) (fun _ _ => rfl) _ _)
  exact foldl_establishes (List.mem_range.mpr hf) (fun _ g => routersWf_stageField p recipe g _)
    (fun _ => routerStaged_stageField p recipe f cl hhole) (fun _ _ => stageField_keeps_routerStaged p recipe f _)
    (tblWf_tmapAll _ _ h : RoutersWf (copiesCleared s))

end

end Sys2Proof.Machine
end

section
/-! PROOFS. The end of a plan's check, its staging, and placement rotation (R285, R286, R293, R296, R298, R409). -/

namespace Sys2Proof.Machine

/-! ## The answer to a window's close (R405) -/

/-- The answer changes the window that it answers for, its generation apart, and what left (R405). -/
theorem answerWin_spec {s : State} (h : tblWf {} s.windows = true) (w st : Nat) (body : List (BitVec 64)) : ∃ ws l,
    answerWin s w st body = { s with windows := ws, sent := l } ∧ tblWf {} ws = true ∧ (tget {} ws w).gen = (s.window w).gen ∧
    ∀ tag, (s.window w).answer = some tag → l = s.sent ++ [.response (BitVec.ofNat 16 (8 ||| 0x8000)) tag st body] := by
  unfold answerWin
  split
  · rename_i tag htag
    refine ⟨_, _, rfl, tblWf_tset _ _ _ h, ?_, fun t ht => ?_⟩
    · exact (congrArg Window.gen (tget_tset_same _ w _ ((tblWf_iff _ _).mp h).1)).trans rfl
    · rw [htag] at ht
      cases ht
      rfl
  · rename_i hnone
    refine ⟨_, _, rfl, h, rfl, fun t ht => ?_⟩
    rw [hnone] at ht
    cases ht

/-- A plan file that is dropped leaves window 1 closed under its generation (R293, R405). -/
theorem dropPlanFile_window {s : State} (h : tblWf {} s.windows = true) :
    (dropPlanFile s).window 1 = { gen := (s.window 1).gen } := State.setWindow_window_same _ h

/-- The port that carried a corrupt segment counts it and marks it (R409). -/
theorem segmentCorrupt_port {s : State} (h : tblWf {} s.ports = true) (p : HostPort) : (segmentCorrupt s p).port p.val =
    { s.port p.val with
      crcFail := satAdd (s.port p.val).crcFail 1, errStatus := (s.port p.val).errStatus ||| 2 } :=
  State.setPort_port_same s h

/-! ## The end of a check (R285, R293, R409) -/

/-- The plan that the module keeps of a checked file: the sections of its own position. -/
def ownPlan (s : State) (files : List PlanSections) : Plan :=
  ((filePlans (planHeader (winBytes s 1 0 256))
    (winBytes s 1 0 (min (planHeader (winBytes s 1 0 256)).length (s.window 1).top)) files)[s.board.position.toNat]?).getD
      { header := planHeader (winBytes s 1 0 256), body := {}, bases := [], key := 0 }

/-- What the checks find in the file that lies in window 1. -/
def fileFinds (s : State) (files : List PlanSections) : List Finding :=
  planFinds s (winBytes s 1 0 256) (winBytes s 1 0 (min (planHeader (winBytes s 1 0 256)).length (s.window 1).top)) (s.window 1).top files

/-- Entries of the log change nothing but the records (R535). -/
theorem foldl_logAdd_eq {α : Type} (type : Nat) (g : α → List (BitVec 64)) (l : List α) : ∀ s : State,
    l.foldl (fun s x => logAdd s type (g x)) s = { s with faults := (l.foldl (fun s x => logAdd s type (g x)) s).faults } := by
  induction l with
  | nil => exact fun _ => rfl
  | cons x l ih =>
    intro s
    obtain ⟨log, hlog⟩ := logAdd_eq s type (g x)
    rw [List.foldl_cons, ih, hlog]

/-- Findings that are kept change the plan's records and the log (R285, R300). -/
theorem keepFinds_eq (s : State) (p : Plan) (l : List Finding) : ∃ faults, keepFinds s p l = { s with
    plan := { s.plan with
      loadStatus := stPlanRefused, findings := (l.take 16).map (findWords s p), findingCount := l.length }
    faults := faults } := by
  unfold keepFinds
  generalize (l.take 16).map (findWords s p) = recs
  dsimp only
  exact ⟨_, foldl_logAdd_eq _ _ recs _⟩

/-- A plan with a segment that does not match its check value is dropped (R409). -/
def planCorrupt (s : State) (port : HostPort) : State :=
  let t := answerWin (segmentCorrupt s port) 1 stWindowCorrupt
  dropPlanFile { t with plan := { t.plan with loadStatus := stWindowCorrupt } }

/-- A plan whose checks find nothing is checked (R285, R293). -/
def planPassed (s : State) (own : Plan) : State :=
  let t := answerWin s 1 stAccepted
  { t with plan := { t.plan with
    pending := some own, stage := some .checked, loadStatus := stAccepted, findings := [], findingCount := 0
    checkEpoch := t.time.epoch } }

/-- The answer to a refused plan's close: the number of the findings, then the words of the records kept (R285, R300). -/
def refusalWords (s : State) (own : Plan) (finds : List Finding) : List (BitVec 64) :=
  BitVec.ofNat 64 finds.length :: (keepFinds s own finds).plan.findings.flatMap fun r => [r.1, r.2.1, r.2.2.1, r.2.2.2]

/-- A plan with findings is refused with their records (R285). -/
def planRefused (s : State) (own : Plan) (finds : List Finding) : State :=
  dropPlanFile (answerWin (keepFinds s own finds) 1 stPlanRefused (refusalWords s own finds))

theorem planRefused_eq {s : State} (h : tblWf {} s.windows = true) (own : Plan) (finds : List Finding) : ∃ faults ws l,
    planRefused s own finds = dropPlanFile { s with
      plan := { s.plan with
        loadStatus := stPlanRefused, findings := (finds.take 16).map (findWords s own), findingCount := finds.length }
      faults := faults, windows := ws, sent := l } ∧ tblWf {} ws = true := by
  obtain ⟨faults, hkept⟩ := keepFinds_eq s own finds
  have hwindows : tblWf {} (keepFinds s own finds).windows = true := by rw [hkept]; exact h
  obtain ⟨ws, l, heq, hws, -, -⟩ := answerWin_spec hwindows 1 stPlanRefused (refusalWords s own finds)
  refine ⟨faults, ws, l, ?_, hws⟩
  rw [planRefused, heq, hkept]

section
variable {s : State} {files : List PlanSections} (hst : s.plan.stage = some .checking)
include hst

theorem planCheckComplete_corrupt (port : HostPort) : exec (.planCheckComplete files (some port)) s = .next
    (planCorrupt s port) := by
  change execPlanCheckComplete files (some port) s = _
  unfold execPlanCheckComplete
  rw [if_neg (not_not.mpr hst)]
  rfl

theorem planCheckComplete_whole :
    exec (.planCheckComplete files none) s = .next (if fileFinds s files = [] then planPassed s (ownPlan s files)
      else planRefused s (ownPlan s files) (fileFinds s files)) := by
  change execPlanCheckComplete files none s = _
  unfold execPlanCheckComplete ownPlan fileFinds
  -- what the checks find is left open, so that nothing evaluates them
  generalize planFinds = finds
  generalize filePlans = plans
  rw [if_neg (not_not.mpr hst)]
  extract_lets +onlyGivenNames head header top file own
  cases finds s head file top files with
  | nil => rfl
  | cons x l => rfl

end

/-! ## Staging (R286, R293) -/

/-- The defect map that a relocation from now on applies (R286). -/
def underDefects (s : State) : State := { s with faults := { s.faults with applied := knownDefects s } }

/-- A plan with its regions placed and its mapping kept (R286, R289). -/
def relocated (s : State) (p : Plan) : Plan := { p with bases := (placeRegions s p.body.regions).1, mapped := knownDefects s }

/-- What the relocation of a plan finds. -/
def relocationFinds (s : State) (p : Plan) : List Finding :=
  stagingFinds (underDefects s) (relocated s p) (placeRegions s p.body.regions).2

/-- A cell has no free zone for its code (R293). -/
def zonesLack (s : State) (p : Plan) : Bool :=
  (servedCells (underDefects s) (relocated s p)).any fun x => (zoneFor (s.cell x.1) (patchedBlock (relocated s p) x.2.1 x.2.2)).isNone

section
variable {s : State} {p : Plan} (hp : s.plan.pending = some p)
include hp

theorem planStagingComplete_waits (h : zonesHeld s = true) : exec .planStagingComplete s = .next s := by
  simp only [exec, execPlanStagingComplete, done, hp, h, true_or, or_true, if_true]

theorem planStagingComplete_eq (hst : s.plan.stage = some .checked) (hheld : zonesHeld s = false) (hfree : zonesLack s p = false) :
    exec .planStagingComplete s = .next (if relocationFinds s p = [] then
      { stageUnder s (knownDefects s) (relocated s p) [] with
        plan := { s.plan with pending := some (relocated s p), stage := some .staged, loadStatus := stAccepted } }
      else keepFinds s (relocated s p) (relocationFinds s p)) := by
  have hgo : ¬ (s.plan.stage ≠ some .checked ∨ zonesHeld s = true ∨ zonesLack s p = true) := by simp [hst, hheld, hfree]
  unfold zonesLack at hgo
  unfold relocationFinds
  simp only [exec, execPlanStagingComplete, done, hp]
  refine (if_neg hgo).trans ?_
  generalize stagingFinds = finds
  split
  · rename_i h
    exact congrArg Host.Outcome.next (if_pos h).symm
  · rename_i h
    exact congrArg Host.Outcome.next (if_neg h).symm

end

/-- The staged copies are written into cells, sites, routers and cascade ports, under the amended map alone (R286). -/
theorem stageUnder_eq (s : State) (am : List Amendment) (p : Plan) (recipe : List Nat) :
    let t := stageUnder s am p recipe
    t = { s with cells := t.cells, sites := t.sites, routers := t.routers, casc := t.casc } :=
  congrArg (fun t : State => { t with faults := s.faults }) (eq_of_besideCopies (besideCopies_stagePlan p recipe _))

/-- What a plan's staging writes: the copy of every router in use, and no image in force (R86, R286). -/
theorem stageUnder_copies {s : State} (hwf : s.tablesWf = true) (am : List Amendment) (p : Plan) (recipe : List Nat) :
    (∀ (f : Nat) (cl : Fin 72), f < 48 → tb (p.holes s).toNat f = false →
      ((stageUnder s am p recipe).router (f * 72 + homeOf cl.val)).staged = some (routerImage p f cl)) ∧
    ∀ k, ((stageUnder s am p recipe).cell k).active = (s.cell k).active ∧ ((stageUnder s am p recipe).cell k).sp = (s.cell k).sp := by
  obtain ⟨hcells, -, hrouters, -, -, -, -, -, -⟩ := (tablesWf_iff s).mp hwf
  refine ⟨fun f cl hf hhole => ?_, fun k => ?_⟩
  · exact (routerStaged_stagePlan (s := { s with faults := { s.faults with applied := am } }) p recipe f cl hf hhole hrouters).2
  · exact Prod.mk.inj ((imagesKept_stagePlan (s := { s with faults := { s.faults with applied := am } }) p recipe hcells).2 k)

/-! ## Rotations are named (R296, R557) -/

theorem le_freeEpoch (s : State) (e : Nat) : e ≤ freeEpoch s e := by
  unfold freeEpoch
  cases h : ((List.range 64).map (e + ·)).find? fun x => !epochTaken s x with
  | none => exact Nat.le_refl e
  | some x =>
    obtain ⟨i, -, rfl⟩ := List.mem_map.mp (List.mem_of_find?_eq_some h)
    exact Nat.le_add_right e i

/-- A module that names for itself enters an activation of a kind that does not stand, at the first free epoch (R557). -/
theorem nameOwn_enters {s : State} {k : OwnKind} (e : Nat) (hnew : ∀ o ∈ s.own, o.kind ≠ k) (hfollows : follows s = false) :
    nameOwn s k e = { s with own := s.own ++ [{ kind := k, epoch := freeEpoch s e }], sent := (nameOwn s k e).sent } := by
  have hnone : (s.own.any fun o => o.kind == k) = false := by simpa using hnew
  unfold nameOwn
  rw [hnone, hfollows, if_neg Bool.false_ne_true, if_neg Bool.false_ne_true, boardTell_eq]

theorem nameRotation_waits {s : State} (h : rotationWaits s = true) :
    nameRotation s = { s with plan := { s.plan with rotationDue := true } } :=
  if_pos (Bool.or_eq_true_iff.mpr (.inl h))

/-- A rotation that need not wait is named no earlier than its drain allows. -/
theorem nameRotation_names {s : State} (hwaits : rotationWaits s = false) (hnew : ∀ o ∈ s.own, o.kind ≠ .rotation)
    (hfollows : follows s = false) : ∃ e, s.time.epoch + curbLead s + drainEpochs s + 1 ≤ e ∧
      nameRotation s = { s with
        own := s.own ++ [{ kind := .rotation, epoch := e }]
        plan := { s.plan with rotationDue := false, rotationAt := some e }, sent := (nameRotation s).sent } := by
  let due : State := { s with plan := { s.plan with rotationDue := true } }
  let e := s.time.epoch + curbLead s + drainEpochs s + 1
  have hnone : (s.own.find? fun o => o.kind == .rotation) = none := by simpa using hnew
  have hgo : (rotationWaits s || s.own.any fun o => o.kind == .rotation) = false := by simpa [hwaits] using hnew
  have hfound : ((nameOwn due .rotation e).own.find? fun o => o.kind == .rotation).map (·.epoch) = some (freeEpoch due e) := by
    rw [nameOwn_enters (s := due) e hnew hfollows, List.find?_append, hnone]
    rfl
  have hnamed : nameRotation s = { nameOwn due .rotation e with plan := { (nameOwn due .rotation e).plan with
      rotationDue := false
      rotationAt := ((nameOwn due .rotation e).own.find? fun o => o.kind == .rotation).map (·.epoch) } } :=
    if_neg (Bool.eq_false_iff.mp hgo)
  refine ⟨freeEpoch due e, le_freeEpoch .., ?_⟩
  rw [hnamed, hfound, nameOwn_enters (s := due) e hnew hfollows]

/-! ## Rotations and heat switches are abandoned (R296, R298) -/

theorem unnameOwn_eq (s : State) (o : OwnEvent) :
    unnameOwn s o = { s with own := s.own.filter fun x => x != o, sent := (unnameOwn s o).sent } := by
  unfold unnameOwn
  dsimp only
  rw [tellMaster_eq, boardTell_eq]

/-- An abandoned activation stands no more, and the plan keeps when it is tried again. -/
theorem abandonOwn_eq (s : State) (o : OwnEvent) : abandonOwn s o =
    { s with own := s.own.filter (fun x => x != o), plan := (retryOwn s o.kind).plan, sent := (abandonOwn s o).sent } := by
  obtain ⟨k, e⟩ := o
  unfold abandonOwn
  rw [unnameOwn_eq]
  cases k <;> rfl

/-- The state but for the activations that stand, the plan and what left. -/
def besideOwn (s : State) : State := { s with own := [], plan := {}, sent := [] }

theorem eq_of_besideOwn {s t : State} (h : besideOwn t = besideOwn s) :
    t = { s with own := t.own, plan := t.plan, sent := t.sent } :=
  congrArg (fun u : State => { u with own := t.own, plan := t.plan, sent := t.sent }) h

theorem besideOwn_abandonOwn (s : State) (o : OwnEvent) : besideOwn (abandonOwn s o) = besideOwn s := by
  rw [abandonOwn_eq]; rfl

theorem mem_foldl_abandonOwn (l : List OwnEvent) (o : OwnEvent) : ∀ s : State,
    o ∈ (l.foldl abandonOwn s).own ↔ o ∈ s.own ∧ o ∉ l := by
  induction l with
  | nil => simp
  | cons x l ih =>
    intro s
    rw [List.foldl_cons, ih, abandonOwn_eq]
    simp [and_assoc]

/-- The hour of an abandoned rotation runs, which the module that names it tries again (R296). -/
def RotationRetries (s t : State) : Prop :=
  besideOwn t = besideOwn s ∧ t.plan.rotationRetry = !follows s ∧ t.plan.rotationFrom = boardTime s

/-- The hour of an abandoned switch for heat runs (R298). -/
def HeatRetries (s t : State) : Prop := besideOwn t = besideOwn s ∧ t.plan.heatRetryAt = boardTime s + hourTicks

section
variable {s t : State}

theorem follows_of_besideOwn (h : besideOwn t = besideOwn s) : follows t = follows s := by rw [eq_of_besideOwn h]; rfl
theorem boardTime_of_besideOwn (h : besideOwn t = besideOwn s) : boardTime t = boardTime s := by rw [eq_of_besideOwn h]; rfl

theorem rotationRetries_abandonOwn (h : besideOwn t = besideOwn s) {o : OwnEvent} (ho : o.kind = .rotation) :
    RotationRetries s (abandonOwn t o) := by
  refine ⟨(besideOwn_abandonOwn t o).trans h, ?_⟩
  rw [abandonOwn_eq, ho, ← follows_of_besideOwn h, ← boardTime_of_besideOwn h]
  exact ⟨rfl, rfl⟩

theorem heatRetries_abandonOwn (h : besideOwn t = besideOwn s) {o : OwnEvent} (ho : o.kind ≠ .rotation) :
    HeatRetries s (abandonOwn t o) := by
  refine ⟨(besideOwn_abandonOwn t o).trans h, ?_⟩
  rw [abandonOwn_eq, ← boardTime_of_besideOwn h]
  cases hk : o.kind with
  | rotation => exact absurd hk ho
  | _ => rfl

theorem RotationRetries.keeps (h : RotationRetries s t) (o : OwnEvent) : RotationRetries s (abandonOwn t o) := by
  by_cases ho : o.kind = .rotation
  · exact rotationRetries_abandonOwn h.1 ho
  · refine ⟨(besideOwn_abandonOwn t o).trans h.1, ?_⟩
    rw [abandonOwn_eq]
    cases hk : o.kind with
    | rotation => exact absurd hk ho
    | _ => exact h.2

theorem HeatRetries.keeps (h : HeatRetries s t) (o : OwnEvent) : HeatRetries s (abandonOwn t o) := by
  by_cases ho : o.kind = .rotation
  · refine ⟨(besideOwn_abandonOwn t o).trans h.1, ?_⟩
    rw [abandonOwn_eq, ho]
    exact h.2
  · exact heatRetries_abandonOwn h.1 ho

theorem foldl_abandonOwn_rotation {l : List OwnEvent} {o : OwnEvent} (hl : o ∈ l) (ho : o.kind = .rotation) :
    RotationRetries s (l.foldl abandonOwn s) :=
  foldl_establishes (inv := fun t => besideOwn t = besideOwn s) hl (fun t x => (besideOwn_abandonOwn t x).trans)
    (fun _ h => rotationRetries_abandonOwn h ho) (fun _ x h => h.keeps x) rfl

theorem foldl_abandonOwn_heat {l : List OwnEvent} {o : OwnEvent} (hl : o ∈ l) (ho : o.kind ≠ .rotation) :
    HeatRetries s (l.foldl abandonOwn s) :=
  foldl_establishes (inv := fun t => besideOwn t = besideOwn s) hl (fun t x => (besideOwn_abandonOwn t x).trans)
    (fun _ h => heatRetries_abandonOwn h ho) (fun _ x h => h.keeps x) rfl

end

/-- The activations that follow the table of R296 and are to take effect at the next curb stroke. -/
def dueNext (s : State) : List OwnEvent := s.own.filter fun o => drains o.kind && o.epoch == s.time.epoch + 1

theorem mem_dueNext {s : State} {o : OwnEvent} :
    o ∈ dueNext s ↔ o ∈ s.own ∧ drains o.kind = true ∧ o.epoch = s.time.epoch + 1 := by
  simp [dueNext]

/-- A cell that is not on its idle entry at stroke 4,095 makes what is due abandoned. -/
theorem rotationIdleCheck_busy {s : State} (hstroke : s.time.stroke = 4095)
    (hbusy : ∃ q ∈ s.cells, cellRuns q.2 = true ∧ onIdle q.2 = false) :
    exec .rotationIdleCheck s = .next ((dueNext s).foldl abandonOwn s) :=
  if_pos ⟨hstroke, by simpa using hbusy⟩

theorem rotationIdleCheck_idle {s : State} (hidle : ∀ q ∈ s.cells, cellRuns q.2 = true → onIdle q.2 = true) :
    exec .rotationIdleCheck s = .next s :=
  if_neg fun h => by
    obtain ⟨q, hq, hruns, hoff⟩ : ∃ q ∈ s.cells, cellRuns q.2 = true ∧ onIdle q.2 = false := by simpa using h.2
    exact absurd (hidle q hq hruns) (by simp [hoff])

/-- A module that names its rotations does not follow a master. -/
theorem follows_of_rotates {s : State} (h : rotates s = true) : follows s = false := by
  unfold rotates at h
  simp only [Bool.and_eq_true, Bool.not_eq_true'] at h
  exact h.1.1

theorem rotationDue_names {s : State} (hrotates : rotates s = true) (hretry : s.plan.rotationRetry = false)
    (hdue : s.plan.rotationDue = true ∨ s.plan.rotationFrom + rotateTicks s ≤ boardTime s) :
    exec .rotationDue s = .next (nameRotation s) :=
  if_pos (by simpa [hrotates, hretry] using hdue)

theorem rotationRetry_names {s : State} (hrotates : rotates s = true) (hretry : s.plan.rotationRetry = true)
    (hhour : s.plan.rotationFrom + hourTicks ≤ boardTime s) :
    exec .rotationRetry s = .next (nameRotation { s with plan := { s.plan with rotationRetry := false } }) :=
  if_pos (by simp [hrotates, hretry, hhour])

/-- Settles O46: the end of a check by what it finds (`planCheckComplete_whole`), staging by the copies it writes (`stageUnder_copies`),
rotations by their naming (`nameRotation_names`), and what is abandoned one activation after the other (`foldl_abandonOwn_rotation`,
`foldl_abandonOwn_heat`). -/
theorem plansAreCheckedStagedAndRotated : Obligations.PlansAreCheckedStagedAndRotated := by
  unfold Obligations.PlansAreCheckedStagedAndRotated
  refine ⟨?_, ?_, ?_, ?_, ?_⟩
  · intro files s hwf hst head h file own finds
    obtain ⟨-, -, -, -, hwindows, hports, -, -, -⟩ := (tablesWf_iff s).mp hwf
    refine ⟨fun port => ?_, fun hnone => ?_, fun hsome => ?_⟩
    · refine ⟨_, planCheckComplete_corrupt hst port, ?_⟩
      obtain ⟨ws, l, heq, hws, hgen, hanswer⟩ := answerWin_spec (s := segmentCorrupt s port) hwindows 1 stWindowCorrupt []
      have hport := segmentCorrupt_port hports port
      have hwin := dropPlanFile_window (s := { segmentCorrupt s port with windows := ws }) hws
      rw [planCorrupt, heq]
      refine ⟨rfl, rfl, rfl, congrArg Window.state hwin, (congrArg Window.gen hwin).trans hgen, congrArg PortState.crcFail hport,
        ?_, hanswer, rfl⟩
      refine (congrArg (fun p : PortState => tb p.errStatus.toNat 1) hport).trans ?_
      exact tb_or_right _ (by decide)
    · refine ⟨_, (planCheckComplete_whole hst).trans (congrArg _ (if_pos hnone)), ?_⟩
      obtain ⟨ws, l, heq, -, -, hanswer⟩ := answerWin_spec hwindows 1 stAccepted []
      rw [planPassed, heq]
      exact ⟨rfl, rfl, rfl, rfl, rfl, hanswer, rfl⟩
    · refine ⟨_, (planCheckComplete_whole hst).trans (congrArg _ (if_neg hsome)), ?_⟩
      obtain ⟨faults, ws, l, heq, hws⟩ := planRefused_eq hwindows (ownPlan s files) (fileFinds s files)
      rw [heq]
      exact ⟨rfl, rfl, rfl, rfl, rfl, congrArg Window.state (dropPlanFile_window (s := { s with windows := ws }) hws), rfl, rfl⟩
  · intro p s hwf hp hst am under placed q finds
    refine ⟨planStagingComplete_waits hp, fun hheld hzones => ⟨fun hsome => ?_, fun hnone => ?_⟩⟩
    · refine ⟨_, (planStagingComplete_eq hp hst hheld hzones).trans (congrArg _ (if_neg hsome)), ?_⟩
      obtain ⟨faults, hkept⟩ := keepFinds_eq s (relocated s p) (relocationFinds s p)
      rw [hkept]
      exact ⟨hst, hp, rfl, rfl⟩
    · obtain ⟨hrouters, hcells⟩ := stageUnder_copies hwf (knownDefects s) (relocated s p) []
      exact ⟨_, (planStagingComplete_eq hp hst hheld hzones).trans (congrArg _ (if_pos hnone)), rfl, rfl, rfl, rfl, hrouters, hcells,
        congrArg (fun t : State => { t with plan := { s.plan with
          pending := some (relocated s p), stage := some .staged, loadStatus := stAccepted } })
          (stageUnder_eq s (knownDefects s) (relocated s p) [])⟩
  · intro s hrotates hretry hdue hnew
    have hexec := rotationDue_names hrotates hretry hdue
    refine ⟨fun hwaits => hexec.trans (congrArg _ (nameRotation_waits hwaits)), fun hwaits => ?_⟩
    obtain ⟨e, he, heq⟩ := nameRotation_names hwaits hnew (follows_of_rotates hrotates)
    refine ⟨_, e, hexec, ?_, he, ?_, ?_⟩ <;> rw [heq]
  · intro s hstroke due
    refine ⟨fun hbusy => ⟨_, rotationIdleCheck_busy hstroke hbusy, ?_, ?_, ?_, ?_⟩, rotationIdleCheck_idle⟩
    · intro o
      rw [mem_foldl_abandonOwn, mem_dueNext]
      exact and_congr_right fun ho => not_congr (and_iff_right ho)
    · rintro ⟨o, ho, hdue, hkind⟩
      exact (foldl_abandonOwn_rotation (mem_dueNext.mpr ⟨ho, hdue⟩) hkind).2
    · rintro ⟨o, ho, hdue, hkind⟩
      exact (foldl_abandonOwn_heat (mem_dueNext.mpr ⟨ho, hdue⟩) hkind).2
    · exact eq_of_besideOwn (foldl_keeps besideOwn besideOwn_abandonOwn _ s)
  · intro s hrotates hretry hhour hnew hwaits
    obtain ⟨e, -, heq⟩ := nameRotation_names (s := { s with plan := { s.plan with rotationRetry := false } }) hwaits hnew
      (follows_of_rotates hrotates)
    refine ⟨_, e, rotationRetry_names hrotates hretry hhour, ?_, ?_⟩ <;> rw [heq]

end Sys2Proof.Machine
end

section
/-! PROOFS. An index read that asks for descriptors does not end a row of failed draws (R400). -/

namespace Sys2Proof.Machine

/-- A packet to the host changes the ports and what left, and nothing else (R36, R395). -/
theorem sendHost_eq (s : State) (v : Via) (m : HostMsg) : ∃ ps l, sendHost s v m = { s with ports := ps, sent := l } := by
  unfold sendHost
  split
  · exact ⟨_, _, rfl⟩
  · split <;> exact ⟨_, _, rfl⟩

/-- An ingress buffer that empties changes the ports and what left, and nothing else (R395). -/
theorem drainPort_eq (s : State) (p : Nat) (bulk : Bool) : ∃ ps l, drainPort s p bulk = { s with ports := ps, sent := l } := by
  unfold drainPort
  extract_lets q xoff emptied t
  split <;> exact ⟨_, _, rfl⟩

/-- The reads of descriptors leave the state of serving alone (R399). -/
theorem readDescriptors_serve (s : State) (n count : Nat) : (readDescriptors s n count).serve = s.serve := by
  have ask (t : State) (m : HostMsg) (p : Prop) [Decidable p] :
      (if p then t else sendHost t (svcVia t) m).serve = t.serve := by
    obtain ⟨ps, l, hsend⟩ := sendHost_eq t (svcVia t) m
    split
    · rfl
    · rw [hsend]
  exact (ask ..).trans (ask ..)

/-- Descriptors between the consumer and the producer that an index block names (R398). -/
def indexAhead (s : State) (b : Bytes) : Nat := (fieldAt b 0 8 + 2 ^ 64 - s.serve.reqTaken.toNat) % 2 ^ 64

/-- Descriptors that a draw takes after an index block: at most 64, and as many as the table has entries free (R306, R318). -/
def drawCount (s : State) (b : Bytes) : Nat :=
  if takesNone s then 0 else min (min 64 (indexAhead s b)) (8192 - s.serve.table.length)

/-- Where an index read is followed by descriptor reads, the draw has neither failed nor succeeded yet: its failures stay counted
until DESCRIPTOR_READ_COMPLETE (R400). -/
theorem indexReadComplete_asks {s : State} {b : Bytes} (hdraw : s.serve.draw = .index) (hring : indexAhead s b ≤ rqEntries s)
    (hcount : drawCount s b ≠ 0) : ∃ t, exec (.indexReadComplete (some b)) s = .next t ∧
      t.serve = { s.serve with cqSeen := BitVec.ofNat 64 (fieldAt b 8 8), draw := .descriptors (drawCount s b) } := by
  obtain ⟨ps, l, hdrain⟩ := drainPort_eq s (svcPort s) false
  change ∃ t, execIndexReadComplete (some b) s = _ ∧ _
  unfold execIndexReadComplete
  rw [if_neg (not_not_intro hdraw)]
  dsimp only
  rw [hdrain]
  refine ⟨_, (if_neg (Nat.not_lt.mpr hring)).trans (if_neg hcount), readDescriptors_serve ..⟩

/-- A module that runs a plan and whose request ring has 64 entries: one draw has failed, and the index block of the next one has
been asked for. -/
def secondDraw : State := {
  time := { localTicks := 1000, established := true, running := true, stroke := 16 }
  power := { ladder := .running }
  mgmt := { step := 5, ready := true }
  plan := { active := some { header := planHeader [], body := {}, bases := [], key := 0 } }
  ports := [(0, { link := true })]
  ep := { idxAddr := 0x1000, rqAddr := 0x10000, cqAddr := 0x20000, ringSize := 0x60006, svcQp := 0x80010001 }
  serve := { draw := .index, drawAt := some 16, drawFails := 1 } }

/-- An index block whose request producer stands at 1 and whose completion consumer stands at 0 (R398). -/
def oneRequest : Bytes := leBytes 8 1 ++ leBytes 8 0

theorem secondDraw_ready : secondDraw.tablesWf = true ∧ indexAhead secondDraw oneRequest ≤ rqEntries secondDraw ∧
    drawCount secondDraw oneRequest = 1 := by decide +kernel

/-- Refutes O42: an index read with a descriptor to take, after a failed draw, goes on to its descriptor read and the failure stays
counted, as in `secondDraw`; the statement has every index read clear the count. -/
theorem not_drawsReadTheIndexBlock : ¬ Obligations.DrawsReadTheIndexBlock := by
  unfold Obligations.DrawsReadTheIndexBlock
  rintro ⟨-, hindex⟩
  obtain ⟨hwf, hring, hcount⟩ := secondDraw_ready
  obtain ⟨t, ht, hserve⟩ := indexReadComplete_asks (s := secondDraw) rfl hring (by rw [hcount]; decide)
  obtain ⟨u, hu, -, hfails, -⟩ := (hindex secondDraw hwf rfl).2 oneRequest
  obtain rfl : t = u := Host.Outcome.next.inj (ht.symm.trans hu)
  rw [hserve] at hfails
  exact absurd hfails (by decide)

end Sys2Proof.Machine
end

section
/-! PROOFS. A prompt read that is tried again on a paused port waits there (R395, R402). -/

namespace Sys2Proof.Machine

/-- A packet of a paused priority joins those that its port holds (R395). -/
theorem sendHost_held {s : State} {v : Via} {m : HostMsg} (hcarries : portCarries s v.port = true) (hheld : heldBack s v = true) :
    sendHost s v m = s.modPort v.port fun p => { p with held := p.held ++ [(v, m)] } := by
  unfold sendHost
  rw [if_neg (by simp [hcarries]), if_pos hheld]

/-- A prompt read that failed fewer than 3 times is asked for again; where its priority is paused the read waits at the port
(R395, R402). -/
theorem promptReadFailure_held {s : State} {index : Nat} {r : Request} (hports : tblWf {} s.ports = true)
    (hr : s.request index = some r) (hlive : r.state ≠ .ended) (hmissing : r.delivered < r.promptLen) (hfails : r.readFails < 3)
    (hcarries : portCarries s (retryVia s r.readFails).port = true) (hheld : heldBack s (retryVia s r.readFails) = true) :
    ∃ t, exec (.promptReadFailure index) s = .next t ∧ (t.port (retryVia s r.readFails).port).held =
      (s.port (retryVia s r.readFails).port).held ++
        [(retryVia s r.readFails, .read r.promptAddr r.promptKey (4 * r.promptLen))] := by
  change ∃ t, execPromptReadFailure index s = _ ∧ _
  unfold execPromptReadFailure
  rw [hr]
  dsimp only
  rw [if_neg (by simp [hlive, hmissing]), if_pos hfails]
  refine ⟨_, congrArg done (sendHost_held hcarries hheld), ?_⟩
  exact congrArg PortState.held (State.setPort_port_same _ hports)

/-- A request that waits for its prompt of 4 tokens. -/
def promptAwaited : Request := {
  handle := 7, priority := 0, flags := 0, drafts := 0, promptLen := 4, maxNew := 8, seed := 1, invTemp := 0x3F800000, topK := 0
  topP := 0x3F800000, ttft := 0, tbt := 0, stop := [], promptAddr := 0x4000, promptKey := 0, conv := 0, tAdmit := 0 }

/-- A module whose host has paused priority 5, that of the service class at reset (R394), and whose request 0 waits for its prompt. -/
def pausedHost : State := {
  time := { localTicks := 1000, established := true, running := true, stroke := 16 }
  power := { ladder := .running }
  mgmt := { step := 5, ready := true }
  ports := [(0, { link := true, paused := 32 })]
  serve := { table := [(0, some promptAwaited)] } }

theorem pausedHost_ready : pausedHost.tablesWf = true ∧ portCarries pausedHost (retryVia pausedHost 0).port = true ∧
    heldBack pausedHost (retryVia pausedHost 0) = true := by decide +kernel

/-- Refutes O43: the read of a prompt that is tried again on a paused port joins the packets that the port holds, as in `pausedHost`;
the statement has a failed prompt read leave every port as it is. -/
theorem not_descriptorsPromptsAndCompletions : ¬ Obligations.DescriptorsPromptsAndCompletions := by
  unfold Obligations.DescriptorsPromptsAndCompletions
  rintro ⟨-, -, hfailure, -⟩
  obtain ⟨hwf, hcarries, hheld⟩ := pausedHost_ready
  obtain ⟨-, -, -, -, -, hports, -⟩ := (tablesWf_iff _).mp hwf
  have hlive : promptAwaited.state ≠ .ended := by decide
  have hmissing : promptAwaited.delivered < promptAwaited.promptLen := by decide
  obtain ⟨t, ht, hwaits⟩ := promptReadFailure_held (s := pausedHost) (index := 0) hports rfl hlive hmissing (by decide) hcarries hheld
  obtain ⟨u, hu, -, -, hframe⟩ := (hfailure 0 promptAwaited pausedHost hwf rfl hlive hmissing).1 (by decide)
  obtain rfl : t = u := Host.Outcome.next.inj (ht.symm.trans hu)
  have hstands : t.ports = pausedHost.ports := (congrArg State.ports hframe :)
  rw [State.port, hstands] at hwaits
  exact absurd (congrArg List.length hwaits) (by simp [State.port])

end Sys2Proof.Machine
end

section
/-! PROOFS. A copy to the far tier that is marked as written is not written again (R349). -/

namespace Sys2Proof.Machine

/-- A copy that is written is not finished a second time (R349). -/
theorem finishCopy_written {s : State} {m : FarMove} {rest : List FarMove} (hmoves : s.kv.moves = m :: rest)
    (hwritten : m.written = true) : finishCopy s = s := by
  unfold finishCopy
  rw [hmoves]
  split
  next hfirst _ =>
    obtain ⟨rfl, rfl⟩ := List.cons.inj hfirst
    exact if_pos (by simp [hwritten])
  next => rfl

/-- The reads of a copy's pages join the transfers of their slices; nothing leaves the device, and no move changes (R232, R349). -/
theorem foldl_pageReads_sent_moves (ps : List PagePlace) (s : State) :
    let t := ps.foldl (fun s p => s.modSite p.site fun st => { st with transfers := st.transfers ++ pageReads p }) s
    t.sent = s.sent ∧ t.kv.moves = s.kv.moves :=
  ⟨foldl_keeps State.sent (fun _ _ => State.modSite_sent ..) ps s,
    foldl_keeps (fun u : State => u.kv.moves) (fun _ _ => congrArg KvState.moves (State.modSite_kv ..)) ps s⟩

/-- FAR_TIER_COPY sends nothing while the first conversation that waits is marked as written: FAR_TIER_WRITE_COMPLETE ends its
move (R349). -/
theorem farTierCopy_written_sends_nothing {s : State} {m : FarMove} {rest : List FarMove} (hmoves : s.kv.moves = m :: rest)
    (hwritten : m.written = true) (bad : Bool) (fails : Nat) :
    ∃ t, exec (.farTierCopy bad fails) s = .next t ∧ t.sent = s.sent := by
  change ∃ t, execFarTierCopy bad fails s = _ ∧ _
  unfold execFarTierCopy
  rw [hmoves]
  split
  next hfirst _ =>
    obtain ⟨rfl, rfl⟩ := List.cons.inj hfirst
    split
    · exact ⟨s, congrArg done (finishCopy_written hmoves hwritten), rfl⟩
    split
    · exact ⟨s, rfl, rfl⟩
    split
    · exact ⟨_, rfl, rfl⟩
    extract_lets sets pages places reported kv begun
    have hreported : reported.sent = s.sent := by
      unfold reported
      split <;> rfl
    obtain ⟨hsent, hbegun⟩ := foldl_pageReads_sent_moves places begun
    exact ⟨_, congrArg done (finishCopy_written hbegun hwritten), hsent.trans hreported⟩
  next => exact ⟨s, rfl, rfl⟩

/-- A module with an open port and a far tier of one block whose first move has not been started and is marked as written. A run
does not come here, as `finishCopy` alone marks a move as written, and only one that has been started; but the statement asks of its
states no more than canonical tables. -/
def writtenUnstarted : State := {
  power := { ladder := .running }
  plan := { active := some {
    header := planHeader []
    body := { serving := [⟨0, perPosition, {
      vocab := 0, schedules := [], intake := [], output := [], contSet := false, columns := 0, pools := [], history := [] }⟩] }
    bases := [], key := 0 } }
  kv := { moves := [{ conv := 5, owner := 0, c := 15, rank := (0, 0), written := true }] }
  ports := [(0, { link := true })]
  ep := { ftLen := 0x10000 } }

theorem writtenUnstarted_ready : ∃ m tab, let s := writtenUnstarted
    s.tablesWf = true ∧ s.kv.moves = [m] ∧ servingTables s = some tab ∧ bulkOpen s = true ∧ convHeld s m.conv = false ∧
    m.started = false ∧ m.written = true ∧ historyLost s tab m = false ∧
    lowestBlocks s m.conv (ceilDiv (64 + (4 * (m.c + 1) + 63) / 64 * 64) 65536) = some 0 :=
  ⟨{ conv := 5, owner := 0, c := 15, rank := (0, 0), written := true },
    { vocab := 0, schedules := [], intake := [], output := [], contSet := false, columns := 0, pools := [], history := [] },
    by decide +kernel⟩

/-- Refutes O44: the clause on a copy that begins with a poisoned page has it written at once, and does not ask that it be not yet
marked as written; of such a copy, as in `writtenUnstarted`, the model sends nothing (`farTierCopy_written_sends_nothing`). -/
theorem not_conversationsMoveToTheFarTierAndBack : ¬ Obligations.ConversationsMoveToTheFarTierAndBack := by
  unfold Obligations.ConversationsMoveToTheFarTierAndBack
  rintro ⟨-, hcopy, -⟩
  obtain ⟨m, tab, hwf, hmoves, htab, hopen, hheld, hstarted, hwritten, hhistory, hblocks⟩ := writtenUnstarted_ready
  have hreturning (i : Nat) (r : Request) (h : writtenUnstarted.request i = some r) : r.returning = false := by cases h
  obtain ⟨t, -, data, ht, -, -, -, -, -, -, -, -, -, hsent, -⟩ :=
    (hcopy true 0 writtenUnstarted m [] tab hwf hmoves htab hopen rfl hheld hreturning).1 0 hstarted hhistory rfl hblocks
  obtain ⟨u, hu, hsilent⟩ := farTierCopy_written_sends_nothing hmoves hwritten true 0
  obtain rfl : t = u := Host.Outcome.next.inj (ht.symm.trans hu)
  exact absurd (hsent.symm.trans hsilent) (by simp)

end Sys2Proof.Machine
end

section
/-! PROOFS. Sampled trees: the background reads of their shadow, their comparison, and the samples given up (R357 to R363). -/

namespace Sys2Proof.Machine

/-! ## What the settling of the far tier leaves of the wafer (R346, R349, R352, R353) -/

/-- The cells and the sites of the wafer, as the state holds them. -/
def cellsAndSites (s : State) : Tbl CellState × Tbl SiteState := (s.cells, s.sites)

theorem Serving.cellsAndSites {s t : State} (h : Serving s t) : Machine.cellsAndSites t = Machine.cellsAndSites s := by
  rw [h.eq]; rfl

theorem kv_cellsAndSites (s : State) (kv : KvState) : cellsAndSites { s with kv := kv } = cellsAndSites s := rfl

theorem sendHost_cellsAndSites (s : State) (v : Via) (m : HostMsg) : cellsAndSites (sendHost s v m) = cellsAndSites s := by
  obtain ⟨ps, l, h⟩ := sendHost_eq s v m
  rw [h]; rfl

theorem endReturn_cellsAndSites (s : State) (i : Nat) (r : Request) : cellsAndSites (endReturn s i r) = cellsAndSites s := rfl

theorem beginReturn_cellsAndSites (s : State) (t : ServingTables) (i : Nat) (r : Request) (v : StoredConv) :
    cellsAndSites (beginReturn s t i r v) = cellsAndSites s := by
  unfold beginReturn
  extract_lets +onlyGivenNames _ held _ _ _ ask plain
  have hplain : cellsAndSites plain = cellsAndSites s := sendHost_cellsAndSites ..
  split
  · exact hplain
  · split
    · exact hplain
    next u hroom =>
      calc cellsAndSites (ask (State.setRequest (bindSets u t i _ .returning) i _) _)
          = cellsAndSites (bindSets u t i _ .returning) := sendHost_cellsAndSites ..
        _ = cellsAndSites u := (bindSets_serving ..).cellsAndSites
        _ = cellsAndSites s := (makeRoom_serving _ _ _ hroom).cellsAndSites

theorem settleWaiters_cellsAndSites (s : State) (t : ServingTables) (conv : BitVec 64) :
    cellsAndSites (settleWaiters s t conv) = cellsAndSites s := by
  unfold settleWaiters
  extract_lets freed
  have hfreed : cellsAndSites freed = cellsAndSites s := by
    refine foldl_keeps cellsAndSites (fun s q => ?_) _ s
    split
    · split <;> rfl
    · rfl
  split
  · exact (beginReturn_cellsAndSites ..).trans hfreed
  · exact (endRequest_serving ..).cellsAndSites.trans hfreed
  · exact hfreed

theorem finishCopy_cellsAndSites (s : State) : cellsAndSites (finishCopy s) = cellsAndSites s := by
  unfold finishCopy
  split
  · extract_lets +onlyGivenNames pages data blocks
    split
    · rfl
    · split
      · rw [settleWaiters_cellsAndSites]
        exact (kv_cellsAndSites (endMove s _) _).trans (kv_cellsAndSites s _)
      · rw [sendHost_cellsAndSites, kv_cellsAndSites]
        exact kv_cellsAndSites s _
  · rfl

theorem settleReturns_cellsAndSites (s : State) : cellsAndSites (settleReturns s) = cellsAndSites s := by
  unfold settleReturns
  split
  · rfl
  · refine foldl_keeps cellsAndSites (fun s q => ?_) _ s
    split
    · simp only [apply_ite cellsAndSites, endReturn_cellsAndSites]
      split_ifs <;> rfl
    · rfl

/-! ## The end of a sample -/

/-- A change of a cell that captures nothing changes that cell alone (R99). -/
theorem modCell_eq_of_faults (s : State) (k : Nat) (g : CellState → CellState) (hg : (g (s.cell k)).faults = (s.cell k).faults) :
    s.modCell k g = { s with cells := tset {} s.cells k (g (s.cell k)) } := by
  unfold State.modCell State.setCell
  exact if_neg fun ⟨hold, hnew⟩ => hnew (hg ▸ hold)

/-- A cell without its sample, and its site as it is given (R359, R361). -/
def sampleEnded (s : State) (sk k : Nat) (v : SiteState) : State :=
  { s with cells := tset {} s.cells k { s.cell k with sample := none }, sites := tset {} s.sites sk v }

section
variable {s : State} (hwf : s.tablesWf = true) (sk k : Nat) (v : SiteState)

theorem sampleEnded_cell_other {j : Nat} (h : j ≠ k) : (sampleEnded s sk k v).cell j = s.cell j := tget_tset_other _ _ _ h

theorem sampleEnded_site_other {j : Nat} (h : j ≠ sk) : (sampleEnded s sk k v).site j = s.site j := tget_tset_other _ _ _ h

include hwf

theorem sampleEnded_sample : ((sampleEnded s sk k v).cell k).sample = none := by
  obtain ⟨hcells, -⟩ := (tablesWf_iff s).mp hwf
  exact congrArg CellState.sample (tget_tset_same _ _ _ ((tblWf_iff _ _).mp hcells).1)

theorem sampleEnded_site : (sampleEnded s sk k v).site sk = v := by
  obtain ⟨-, hsites, -⟩ := (tablesWf_iff s).mp hwf
  exact tget_tset_same _ _ _ ((tblWf_iff _ _).mp hsites).1

end

/-- A site that has given its sample up: the reads of the shadow are dropped (R359). -/
def siteGaveUp (v : SiteState) : SiteState :=
  { v with sampling := none, transfers := v.transfers.filter fun x => !isShadow x }

/-- A sample given up is counted for its layer (R359, R362). -/
theorem abandonSample_eq (s : State) (sk k layer : Nat) : abandonSample s sk k layer =
    { sampleEnded s sk k (siteGaveUp (s.site sk)) with
      ledger := s.ledger.map fun r => if r.layer = layer then { r with abandoned := satAdd r.abandoned 1 } else r } := by
  unfold abandonSample
  rw [modCell_eq_of_faults _ _ _ rfl]
  rfl

/-- What becomes of a sample given up (R359, R362). -/
structure Abandoned (sk k layer : Nat) (s t : State) : Prop where
  sampling : (t.site sk).sampling = none
  report : (t.site sk).report = (s.site sk).report
  sample : (t.cell k).sample = none
  ledger : t.ledger = s.ledger.map fun r => if r.layer = layer then { r with abandoned := satAdd r.abandoned 1 } else r
  eq : t = { s with cells := t.cells, sites := t.sites, ledger := t.ledger }

theorem abandonSample_abandoned {s : State} (hwf : s.tablesWf = true) (sk k layer : Nat) :
    Abandoned sk k layer s (abandonSample s sk k layer) := by
  rw [abandonSample_eq]
  have hsite := sampleEnded_site hwf sk k (siteGaveUp (s.site sk))
  exact ⟨congrArg SiteState.sampling hsite, (congrArg SiteState.report hsite).trans rfl,
    sampleEnded_sample hwf sk k (siteGaveUp (s.site sk)), rfl, rfl⟩

/-- The site of a sample that has been compared: what was found waits to be reported (R361 to R364). -/
def siteCompared (v : SiteState) (ph : Fin 18) (m : SampleRec) (r : Bool × Bool × Nat) : SiteState :=
  { v with
    sampling := none, assayExceed := if r.1 then satAdd v.assayExceed 1 else v.assayExceed
    report := some (m.layer, BitVec.ofNat 32 r.2.2, r.1, r.2.1, ph, m.stroke) }

/-! ## The comparison of a sample (R357 to R363) -/

section
variable {site : SiteAddr} {ph : Fin 18} {s : State} {m : SampleRec} {d : List PA40} {l : LayerRec}
  (hsampling : (s.site (siteKey site)).sampling = some ph) (hsample : (s.cell (siteKey site * 18 + ph.val)).sample = some m)
include hsampling hsample

/-- A sample waits for the report before it, and for the reads of its shadow. -/
theorem wideRecompute_waits (h : (s.site (siteKey site)).report ≠ none ∨
      (sampleShadow s (siteKey site * 18 + ph.val) m ≠ none ∧
        (m.asked = false ∨ ∃ x ∈ (s.site (siteKey site)).transfers, isShadow x = true))) :
    exec (.wideRecompute site) s = .next s := by
  show execWideRecompute site s = _
  simp only [execWideRecompute, hsampling, hsample]
  split
  · refine if_pos ?_
    simpa only [Option.isSome_iff_ne_none, List.any_eq_true] using h
  · rfl

section
variable (hdrained : m.drained = some d) (hlayer : sampleLayer s m = some l)
  (hshadow : sampleShadow s (siteKey site * 18 + ph.val) m = none) (hreport : (s.site (siteKey site)).report = none)
include hdrained hlayer hshadow hreport

/-- A sampled tree with poison is given up (R359, R362). -/
theorem wideRecompute_poisoned (hpoison : (∃ x ∈ m.leaves, x.poison = true) ∨ ∃ x ∈ d, x.poison = true) :
    exec (.wideRecompute site) s = .next (abandonSample s (siteKey site) (siteKey site * 18 + ph.val) m.layer) := by
  have hbad : (m.read.any (·.2.2) || m.leaves.any (·.poison) || d.any (·.poison)) = true := by
    simp only [Bool.or_eq_true, List.any_eq_true, or_assoc]
    exact .inr hpoison
  show execWideRecompute site s = _
  simp only [execWideRecompute, hsampling, hsample, hdrained, hlayer, hshadow, hreport, hbad, Option.isSome_none,
    Bool.false_eq_true, false_and, or_self, if_false, if_true, done]

/-- A drained sample without poison is compared with its recomputation; the weights of a layer without a shadow are those of the
leaves themselves, wherever a shadow would lie (R358). One free value of the comparison is taken (log entry 5). -/
theorem wideRecompute_compared (hread : m.read = []) (hleaves : ∀ x ∈ m.leaves, x.poison = false)
    (hd : ∀ x ∈ d, x.poison = false) :
    let k := siteKey site * 18 + ph.val
    let p := fieldIsP (cellField k)
    let r := compareSample p l (wideWeights p 0 none m) true ((takeFree s).1.setWidth 32) m d
    exec (.wideRecompute site) s = .next
      { sampleEnded s (siteKey site) k (siteCompared (s.site (siteKey site)) ph m r) with freeCount := s.freeCount + 1 } := by
  have hgood : (m.read.any (·.2.2) || m.leaves.any (·.poison) || d.any (·.poison)) = false := by
    rw [hread, Bool.or_eq_false_iff, Bool.or_eq_false_iff]
    exact ⟨⟨rfl, by simpa using hleaves⟩, by simpa using hd⟩
  have hweights (p : Bool) (b : Nat) : wideWeights p b none m = wideWeights p 0 none m := rfl
  show execWideRecompute site s = _
  simp only [execWideRecompute, hsampling, hsample, hdrained, hlayer, hshadow, hreport, hgood, Option.isSome_none,
    Option.isNone_none, Bool.false_eq_true, false_and, or_self, if_false, done]
  rw [hweights, modCell_eq_of_faults _ _ _ rfl]
  rfl

end

/-- A sample whose reads have not come within 4,096 strokes is given up (R359). -/
theorem sampleAbandon_late (hdrained : m.drained = some d) (hlate : m.stroke.toNat + 4096 ≤ strokeNo s) :
    exec (.sampleAbandon site) s = .next (abandonSample s (siteKey site) (siteKey site * 18 + ph.val) m.layer) := by
  show execSampleAbandon site s = _
  simp only [execSampleAbandon, hsampling, hsample, hdrained, hlate, Option.isSome_some, and_self, if_true, done]

theorem sampleAbandon_in_time (htime : strokeNo s < m.stroke.toNat + 4096) : exec (.sampleAbandon site) s = .next s := by
  show execSampleAbandon site s = _
  simp only [execSampleAbandon, hsampling, hsample, Nat.not_le.mpr htime, and_false, if_false, done]

end

/-! ## The reads of a shadow (R359) -/

/-- A line marked as poisoned comes poisoned (R226, R228). -/
theorem readLine_marked {v : SiteState} {x : Nat} (h : tget false v.linePoison x = true) (stroke : Nat) (found : List LineError)
    (back : Bool) : (readLine stroke found back v x).2 = true := by
  simp only [readLine, h, Bool.true_or]

/-- A line without a mark in which the codes find nothing comes clean (R226, R227). -/
theorem readLine_clean {v : SiteState} {x : Nat} (h : tget false v.linePoison x = false) (stroke : Nat) (back : Bool) :
    (readLine stroke [] back v x).2 = false := by
  simp only [readLine, h]
  rfl

/-- Of a single line the list of poisoned ones holds it exactly when it comes poisoned. -/
theorem readLinesOf_singleton (stroke : Nat) (found : List LineError) (back : Bool) (v : SiteState) (x : Nat) :
    (readLinesOf stroke found back v [x]).2.contains x = (readLine stroke found back v x).2 := by
  simp only [readLinesOf, List.foldl_cons, List.foldl_nil, List.nil_append]
  split
  next h => rw [h, List.contains_cons, beq_self_eq_true, Bool.true_or]
  next h => rw [Bool.eq_false_iff.mpr h, List.contains_nil]

/-- A cell whose sample takes one line of its shadow, with its bytes and its mark. -/
def lineTaken (c : CellState) (v : SiteState) (stroke : Nat) (found : List LineError) (x : Nat) : CellState :=
  { c with sample := c.sample.map fun m => { m with
      read := m.read ++ [(x, tgetMany 0 v.mem (x * 64) 64, (readLine stroke found false v x).2)] } }

theorem takeShadow_line {s : State} {k : Nat} {ph : Fin 18} (h : (s.site k).sampling = some ph) (stroke : Nat)
    (found : List LineError) (v : SiteState) (x : Nat) : takeShadow s k stroke found v x 1 =
      { s with cells := tset {} s.cells (k * 18 + ph.val) (lineTaken (s.cell (k * 18 + ph.val)) v stroke found x) } := by
  have hline : (List.range 1).map (x + ·) = [x] := rfl
  simp only [takeShadow, h, hline, List.map_cons, List.map_nil, readLinesOf_mem, readLinesOf_singleton]
  exact modCell_eq_of_faults _ _ _ rfl

/-- A slice after the read of one line of a shadow, its only transfer. -/
def shadowRead (s : State) (v : SiteState) (found : List LineError) (x : Nat) : SiteState :=
  { spend s (readLinesOf (strokeNo s) found false v [x]).1 (transferCost (.shadow x 1) false) (transferCost (.shadow x 1) true) with
    transfers := [] }

theorem shadowRead_sampling (s : State) (v : SiteState) (found : List LineError) (x : Nat) :
    (shadowRead s v found x).sampling = v.sampling := by
  unfold shadowRead spend
  rw [(readLinesOf_accessed (strokeNo s) found false v [x]).eq]

/-- Without a load in progress nothing of it is settled. -/
theorem settleLoad_idle {s : State} (h : s.weights.loading = none) : settleLoad s = s := by
  rw [settleLoad, h]

/-- A read of one burst uses at most one position of a channel. -/
theorem transferCost_shadow_le (x n : Nat) (chanB : Bool) : transferCost (.shadow x n) chanB ≤ 1 := by
  simp only [transferCost, b2n]
  split <;> decide

/-- The slice has read one line of a shadow, its only transfer, and the cell's sample has taken it. -/
def shadowLineRead (s : State) (sk k : Nat) (found : List LineError) (x : Nat) : State :=
  { s with
    sites := tset {} s.sites sk (shadowRead s (s.site sk) found x)
    cells := tset {} s.cells k (lineTaken (s.cell k) (s.site sk) (strokeNo s) found x) }

theorem backgroundTransfer_shadow {site : SiteAddr} {ph : Fin 18} {s : State} {x : Nat} (found : List LineError)
    (hwf : s.tablesWf = true) (hsampling : (s.site (siteKey site)).sampling = some ph)
    (htransfers : (s.site (siteKey site)).transfers = [.shadow x 1]) (hx : x % 4 = 0) (hload : s.weights.loading = none)
    (hrun : s.time.running = true) (hready : (s.site (siteKey site)).cisState = .ready) (hopen : channelsOpen s = true)
    (hon : tb (s.site (siteKey site)).csCtrl.toNat 1 = true) (hfreeA : 0 < freePositions s (siteKey site) false)
    (hfreeB : 0 < freePositions s (siteKey site) true) : exec (.backgroundTransfer site found) s =
      .next (finishCopy (settleReturns (shadowLineRead s (siteKey site) (siteKey site * 18 + ph.val) found x))) := by
  obtain ⟨-, hsites, -⟩ := (tablesWf_iff s).mp hwf
  have hnext : sortBy (fun a b => decide (transferRank a ≤ transferRank b)) (readyTransfers s (siteKey site)) =
      [.shadow x 1] := by
    simp only [readyTransfers, htransfers, List.filter, hon, Bool.true_or, Bool.true_and]
    rfl
  have hsplit : splitTransfer (.shadow x 1) = (.shadow x 1, none) := by simp [splitTransfer, hx]
  have hcostA := (transferCost_shadow_le x 1 false).trans hfreeA
  have hcostB := (transferCost_shadow_le x 1 true).trans hfreeB
  have htaken : takeShadow (s.setSite (siteKey site) (shadowRead s (s.site (siteKey site)) found x)) (siteKey site) (strokeNo s)
      found (s.site (siteKey site)) x 1 = shadowLineRead s (siteKey site) (siteKey site * 18 + ph.val) found x :=
    takeShadow_line (by rw [State.setSite_site_same s hsites, shadowRead_sampling, hsampling]) ..
  show execBackgroundTransfer site found s = _
  simp only [execBackgroundTransfer, hnext, hsplit]
  rw [if_neg (by simp [hrun, hready, hopen, hcostA, hcostB])]
  simp only [htransfers, transferLines, invalidateLines, List.isEmpty_nil, if_true, List.flatMap_cons, List.flatMap_nil,
    beq_self_eq_true, Option.toList_none, List.append_nil, settleRefill, Option.isSome_none, Bool.false_eq_true, if_false, done]
  exact congrArg (fun t => Host.Outcome.next (finishCopy (settleReturns t)))
    ((congrArg settleLoad htaken).trans (settleLoad_idle hload))

/-- Settles O45: a sample waits, is given up (`abandonSample_eq`) or is compared, each by its equation; a line of a shadow is read
into the sample (`backgroundTransfer_shadow`), and what the far tier settles after it leaves every cell and site. -/
theorem samplesAreComparedOrAbandoned : Obligations.SamplesAreComparedOrAbandoned := by
  unfold Obligations.SamplesAreComparedOrAbandoned
  refine ⟨?compared, ?waits, ?read, ?late⟩
  case compared =>
    intro site ph s m d l hwf sk k hsampling hsample hdrained hlayer hshadow hread
    refine ⟨fun hreport hleaves hd => ?_, fun hreport hpoison => ?_,
      fun hreport => wideRecompute_waits hsampling hsample (.inl hreport)⟩
    · refine ⟨_, (takeFree s).1.setWidth 32,
        wideRecompute_compared hsampling hsample hdrained hlayer hshadow hreport hread hleaves hd, ?_⟩
      dsimp only
      generalize compareSample _ _ _ _ _ _ _ = r
      have hsite := sampleEnded_site hwf sk k (siteCompared (s.site sk) ph m r)
      exact ⟨congrArg SiteState.sampling hsite, sampleEnded_sample hwf sk k (siteCompared (s.site sk) ph m r),
        congrArg SiteState.report hsite, congrArg SiteState.assayExceed hsite, (congrArg SiteState.mem hsite).trans rfl,
        fun _ hj => sampleEnded_site_other sk k (siteCompared (s.site sk) ph m r) hj,
        fun _ hj => sampleEnded_cell_other sk k (siteCompared (s.site sk) ph m r) hj, rfl⟩
    · have h := abandonSample_abandoned hwf sk k m.layer
      exact ⟨_, wideRecompute_poisoned hsampling hsample hdrained hlayer hshadow hreport hpoison, h.sampling,
        h.report.trans hreport, h.sample, h.ledger, h.eq⟩
  case waits =>
    intro site ph s m sh hwf sk hsampling hsample hshadow hopen
    exact wideRecompute_waits hsampling hsample (.inr ⟨by rw [hshadow]; exact Option.some_ne_none sh, hopen⟩)
  case read =>
    intro site found ph s m x hwf sk y hsampling hsample htransfers hx hload hrun hready hopen hon hfreeA hfreeB
    obtain ⟨hcells, hsites, -⟩ := (tablesWf_iff s).mp hwf
    have hstands := (finishCopy_cellsAndSites _).trans
      (settleReturns_cellsAndSites (shadowLineRead s sk (sk * 18 + ph.val) found x))
    refine ⟨_, tgetMany 0 y.mem (x * 64) 64, (readLine (strokeNo s) found false y x).2,
      backgroundTransfer_shadow found hwf hsampling htransfers hx hload hrun hready hopen hon hfreeA hfreeB, ?_⟩
    obtain ⟨htcells, htsites⟩ := Prod.mk.inj hstands
    generalize finishCopy _ = t at htcells htsites
    rw [State.site, State.cell, htsites, htcells]
    refine ⟨?_, ?_, fun j hj => ?_, fun hmark => readLine_marked hmark .., ?_⟩
    · exact congrArg SiteState.transfers (tget_tset_same _ _ _ ((tblWf_iff _ _).mp hsites).1)
    · refine (congrArg CellState.sample (tget_tset_same _ _ _ ((tblWf_iff _ _).mp hcells).1)).trans ?_
      rw [lineTaken, hsample]
      rfl
    · rw [State.cell, htcells]
      exact tget_tset_other _ _ _ hj
    · rintro rfl hmark
      exact ⟨readLine_clean hmark .., rfl⟩
  case late =>
    intro site ph s m d hwf sk k hsampling hsample hdrained
    have h := abandonSample_abandoned hwf sk k m.layer
    exact ⟨fun hlate => ⟨_, sampleAbandon_late hsampling hsample hdrained hlate, h.sampling, h.sample, h.ledger, h.eq⟩,
      sampleAbandon_in_time hsampling hsample⟩

end Sys2Proof.Machine
end

section
/-! PROOFS. Weight sets: shards are asked for, arrive and are staged, a load ends, a set becomes resident (R377 to R380, R384,
R386). -/

namespace Sys2Proof.Machine

/-- What a key of a canonical table reads after a write to it. -/
theorem tget_tset_of_wf {α : Type} [DecidableEq α] {d : α} {m : Tbl α} (h : tblWf d m = true) (i : Nat) (v : α) :
    tget d (tset d m i v) i = v := tget_tset_same d i v ((tblWf_iff d m).mp h).1

/-! ## Shards are asked for (R378, R379) -/

/-- A packet that nothing holds back leaves (R395). -/
theorem sendHost_now {s : State} {v : Via} (h : sendsNow s v = true) (m : HostMsg) :
    sendHost s v m = { s with sent := s.sent ++ [.host v m] } := by
  obtain ⟨hcarries, hfree⟩ : portCarries s v.port = true ∧ heldBack s v = false := by simpa [sendsNow] using h
  unfold sendHost
  rw [if_neg (by simp [hcarries]), if_neg (by simp [hfree])]
  rfl

/-- A shard has been asked for: it is outstanding from now on, and its read has left. -/
def shardAsked (s : State) (i : Nat) (r : ManShard) : State := { s with
  weights := { s.weights with
    requested := (s.weights.requested.filter fun (q : Nat × Nat) => q.1 != i) ++ [(i, boardTime s)] }
  sent := s.sent ++ [.host (bulkVia s) (.read r.addr r.rkey r.length)] }

theorem askShard_now {s : State} {w : WeightSet} {i : Nat} {r : ManShard} (hr : w.shards[i]? = some r)
    (h : sendsNow s (bulkVia s) = true) : askShard s w i = shardAsked s i r := by
  unfold askShard
  rw [hr]
  refine sendHost_now ?_ _
  exact h

theorem retryShard_now {s : State} {w : WeightSet} {i : Nat} {r : ManShard} (hr : w.shards[i]? = some r)
    (h : sendsNow s (bulkVia s) = true) (hfew : tget 0 s.weights.retries i < 3) : retryShard s w i = shardAsked
      { s with weights := { s.weights with retries := tset 0 s.weights.retries i (tget 0 s.weights.retries i + 1) } } i r :=
  (if_neg (Nat.not_le.mpr hfew)).trans (askShard_now hr h)

theorem retryShard_gives_up {s : State} (w : WeightSet) {i : Nat} (hmany : 3 ≤ tget 0 s.weights.retries i) :
    retryShard s w i = dropLoad s stShardMissing := if_pos hmany

/-- A shard that is asked for is outstanding; of the load nothing else changes. -/
theorem askShard_weights (s : State) (w : WeightSet) (i : Nat) : ∃ q,
    (askShard s w i).weights = { s.weights with requested := q } ∧ ∀ x ∈ q, x ∈ s.weights.requested ∨ x.1 = i := by
  unfold askShard
  split
  · exact ⟨_, rfl, fun _ hx => .inl hx⟩
  · extract_lets _ asked
    obtain ⟨ps, l, hsend⟩ := sendHost_eq asked (bulkVia asked) (.read _ _ _)
    rw [hsend]
    refine ⟨_, rfl, fun x hx => ?_⟩
    rcases List.mem_append.mp hx with hold | hnew
    · exact .inl (List.mem_of_mem_filter hold)
    · exact .inr (congrArg Prod.fst (List.mem_singleton.mp hnew))

theorem foldl_askShard_weights (w : WeightSet) (l : List Nat) : ∀ s : State, ∃ q,
    (l.foldl (fun s i => askShard s w i) s).weights = { s.weights with requested := q } ∧
      ∀ x ∈ q, x ∈ s.weights.requested ∨ x.1 ∈ l := by
  induction l with
  | nil => exact fun s => ⟨_, rfl, fun _ hx => .inl hx⟩
  | cons i l ih =>
    intro s
    obtain ⟨q, hq, hfrom⟩ := ih (askShard s w i)
    obtain ⟨q', hq', hfrom'⟩ := askShard_weights s w i
    refine ⟨q, by rw [List.foldl_cons, hq, hq'], fun x hx => ?_⟩
    rcases hfrom x hx with hold | hlater
    · rw [hq'] at hold
      exact (hfrom' x hold).imp_right fun h => List.mem_cons.mpr (.inl h)
    · exact .inr (List.mem_cons_of_mem i hlater)

/-- No shard that has arrived is requested anew. -/
theorem requestShards_weights (s : State) (w : WeightSet) : ∃ q,
    (requestShards s w).weights = { s.weights with requested := q } ∧
      ∀ x ∈ q, x ∈ s.weights.requested ∨ x.1 ∉ s.weights.arrived := by
  unfold requestShards
  extract_lets left
  obtain ⟨q, hq, hfrom⟩ := foldl_askShard_weights w (left.take (4 - s.weights.requested.length)) s
  refine ⟨q, hq, fun x hx => (hfrom x hx).imp_right fun hleft => ?_⟩
  have hopen := (List.mem_filter.mp (List.mem_of_mem_take hleft)).2
  simp only [Bool.and_eq_true, Bool.not_eq_true', List.contains_eq_mem, decide_eq_false_iff_not] at hopen
  exact hopen.1

/-! ## What a load reaches while it goes on (R378, R380) -/

/-- A load that goes on changes its own record, the ports, the flits and the transfers of the slices; what left stands, and no byte
of a slice changes yet. -/
structure LoadGoesOn (s t : State) : Prop where
  frame : t = { s with weights := t.weights, sites := t.sites, flits := t.flits, ports := t.ports, sent := t.sent }
  sent : s.sent <+: t.sent
  mem : tblWf {} s.sites = true → tblWf {} t.sites = true ∧ ∀ k, (t.site k).mem = (s.site k).mem

theorem LoadGoesOn.trans {s t u : State} (h : LoadGoesOn s t) (g : LoadGoesOn t u) : LoadGoesOn s u where
  frame := by rw [g.frame, h.frame]
  sent := h.sent.trans g.sent
  mem hs := by
    obtain ⟨ht, hmem⟩ := h.mem hs
    obtain ⟨hu, hmem'⟩ := g.mem ht
    exact ⟨hu, fun k => (hmem' k).trans (hmem k)⟩

/-- A change that does not name the slices. -/
theorem loadGoesOn_of_sites {s t : State} (frame : t = { s with
    weights := t.weights, sites := t.sites, flits := t.flits, ports := t.ports, sent := t.sent }) (sent : s.sent <+: t.sent)
    (hsites : t.sites = s.sites) : LoadGoesOn s t :=
  ⟨frame, sent, fun h => ⟨hsites ▸ h, fun k => by rw [State.site, State.site, hsites]⟩⟩

theorem loadGoesOn_weights (s : State) (v : WeightState) : LoadGoesOn s { s with weights := v } :=
  loadGoesOn_of_sites rfl ⟨[], List.append_nil _⟩ rfl

theorem loadGoesOn_sent (s : State) (l : List Sent) : LoadGoesOn s { s with sent := s.sent ++ l } :=
  loadGoesOn_of_sites rfl ⟨l, rfl⟩ rfl

theorem loadGoesOn_refl (s : State) : LoadGoesOn s s := loadGoesOn_weights s s.weights

theorem loadGoesOn_modSite (s : State) (k : Nat) {g : SiteState → SiteState} (hg : ∀ st, (g st).mem = st.mem) :
    LoadGoesOn s (s.modSite k g) where
  frame := rfl
  sent := ⟨[], List.append_nil _⟩
  mem hs := by
    refine ⟨tblWf_tset _ _ _ hs, fun j => ?_⟩
    by_cases hj : j = k
    · rw [hj, modSite_site_same hs, hg]
    · exact congrArg SiteState.mem (State.setSite_site_other s hj)

theorem LoadGoesOn.foldl {α : Type} {f : State → α → State} (hf : ∀ s x, LoadGoesOn s (f s x)) (l : List α) :
    ∀ s, LoadGoesOn s (l.foldl f s) := by
  induction l with
  | nil => exact loadGoesOn_refl
  | cons x l ih => exact fun s => (hf s x).trans (ih _)

theorem sendHost_goesOn (s : State) (v : Via) (m : HostMsg) : LoadGoesOn s (sendHost s v m) := by
  unfold sendHost
  split
  · exact loadGoesOn_refl s
  · split
    · exact loadGoesOn_of_sites rfl ⟨[], List.append_nil _⟩ rfl
    · exact loadGoesOn_sent s _

theorem meshSend_goesOn (s : State) (src dst : Nat × Nat) (tag tenant : Nat) (data : Bytes) :
    LoadGoesOn s (meshSend s src dst tag tenant data) := loadGoesOn_of_sites rfl ⟨[], List.append_nil _⟩ rfl

theorem askShard_goesOn (s : State) (w : WeightSet) (i : Nat) : LoadGoesOn s (askShard s w i) := by
  unfold askShard
  split
  · exact loadGoesOn_refl s
  · exact (loadGoesOn_weights s _).trans (sendHost_goesOn ..)

theorem requestShards_goesOn (s : State) (w : WeightSet) : LoadGoesOn s (requestShards s w) :=
  LoadGoesOn.foldl (fun s i => askShard_goesOn s w i) _ s

theorem stagePieces_goesOn (s : State) (w : WeightSet) (origin : Nat × Nat) (pieces : List (Nat × Bytes)) (damaged : List Nat) :
    LoadGoesOn s (stagePieces s w origin pieces damaged) := by
  refine LoadGoesOn.foldl (fun s q => ?_) _ s
  split
  · exact loadGoesOn_refl s
  · exact (meshSend_goesOn ..).trans (loadGoesOn_modSite _ _ fun _ => rfl)

theorem stagePieces_weights (s : State) (w : WeightSet) (origin : Nat × Nat) (pieces : List (Nat × Bytes)) (damaged : List Nat) :
    (stagePieces s w origin pieces damaged).weights = s.weights := by
  refine foldl_keeps State.weights (fun s q => ?_) _ s
  split <;> rfl

theorem startInstall_goesOn (s : State) : LoadGoesOn s (startInstall s) := by
  unfold startInstall
  split
  · extract_lets mine _ t
    have hbegun : LoadGoesOn s t := loadGoesOn_weights s _
    refine hbegun.trans (LoadGoesOn.foldl (fun s f => ?_) allFields t)
    refine LoadGoesOn.foldl (fun s k => ?_) (fieldSlices s f) s
    exact loadGoesOn_modSite s k fun _ => rfl
  · exact loadGoesOn_refl s

/-- The start of an install moves the load on to its copies; nothing else of it changes. -/
theorem startInstall_weights (s : State) : ∃ v, (startInstall s).weights = { s.weights with state := v } := by
  unfold startInstall
  split
  · extract_lets mine _ t
    exact ⟨_, foldl_keeps State.weights
      (fun s f => foldl_keeps State.weights (fun _ _ => State.modSite_weights ..) (fieldSlices s f) s) allFields t⟩
  · exact ⟨_, rfl⟩

theorem settleLoad_goesOn (s : State) : LoadGoesOn s (settleLoad s) := by
  unfold settleLoad
  split
  · exact loadGoesOn_refl s
  · split
    · extract_lets _ t
      split
      · exact (loadGoesOn_weights s _).trans (startInstall_goesOn _)
      · exact loadGoesOn_weights s _
    · exact loadGoesOn_refl s

theorem settleLoad_weights (s : State) : ∃ v, (settleLoad s).weights = { s.weights with state := v } := by
  unfold settleLoad
  split
  · exact ⟨_, rfl⟩
  · split
    · extract_lets _ t
      split
      · exact startInstall_weights _
      · exact ⟨_, rfl⟩
    · exact ⟨_, rfl⟩

/-! ## What the followers of a load are sent (R377, R378) -/

/-- Messages of one module, one to each of a list, leave in the list's order, and nothing else changes (R423). -/
theorem foldl_sendVc_sent {α : Type} (g : α → VcMessage) (l : List α) : ∀ s : State,
    l.foldl (fun s x => sendVc s (g x)) s =
      { s with sent := s.sent ++ l.map fun x => .vc (g x) (towardNext s (g x).dst) } := by
  induction l with
  | nil => intro s; simp
  | cons x l ih =>
    intro s
    rw [List.foldl_cons, ih]
    simp only [sendVc, State.emit, List.map_cons, List.append_assoc, List.singleton_append]
    rfl

/-- What a follower is sent of a shard (R378). -/
def shardFor (w : WeightSet) (i : Nat) (plain : Bytes) (p : Nat) : VcMessage :=
  { src := 0, dst := BitVec.ofNat 2 p, content := .shard i (imagePieces w p (i * shardSize) plain) }

/-- What a follower is told of a load that fails (R377, R379). -/
def loadGoneFor (status p : Nat) : VcMessage := { src := 0, dst := BitVec.ofNat 2 p, content := .loadGone status }

theorem stageShard_eq (s : State) (w : WeightSet) (i : Nat) (plain : Bytes) (damaged : List Nat) :
    ∃ t, LoadGoesOn s t ∧ t.weights = s.weights ∧ stageShard s w i plain damaged = { t with
      sent := t.sent ++ (setFollowers t w).map fun p => .vc (shardFor w i plain p) (towardNext t (BitVec.ofNat 2 p)) } :=
  ⟨_, stagePieces_goesOn .., stagePieces_weights .., foldl_sendVc_sent (shardFor w i plain) _ _⟩

theorem setFollowers_goesOn {s t : State} (h : LoadGoesOn s t) (w : WeightSet) : setFollowers t w = setFollowers s w := by
  rw [h.frame]; rfl

/-- A shard goes into staging, and each follower that holds slices of the set is sent its bytes of it. -/
theorem stageShard_stages (s : State) (w : WeightSet) (i : Nat) (plain : Bytes) (damaged : List Nat) :
    LoadGoesOn s (stageShard s w i plain damaged) ∧ (stageShard s w i plain damaged).weights = s.weights ∧
      ∀ p ∈ setFollowers s w, ∃ d, Sent.vc (shardFor w i plain p) d ∈ (stageShard s w i plain damaged).sent := by
  obtain ⟨t, hstaged, hweights, heq⟩ := stageShard_eq s w i plain damaged
  rw [heq]
  refine ⟨hstaged.trans (loadGoesOn_sent t _), hweights, fun p hp => ?_⟩
  rw [← setFollowers_goesOn hstaged w] at hp
  exact ⟨_, List.mem_append_right _ (List.mem_map_of_mem hp)⟩

/-- A load that fails tells the followers that hold slices of its set. -/
theorem dropLoad_sent {s : State} {w : WeightSet} (hloading : s.weights.loading = some w) (status : Nat) :
    (dropLoad s status).sent = s.sent ++ (setFollowers s w).map fun p =>
      .vc (loadGoneFor status p) (towardNext s (BitVec.ofNat 2 p)) := by
  unfold dropLoad
  rw [hloading]
  exact congrArg State.sent (foldl_sendVc_sent (loadGoneFor status) (setFollowers s w) s)

theorem closeWin_closed {s : State} (h : tblWf {} s.windows = true) (w : Nat) : ((closeWin s w).window w).state = .closed :=
  congrArg Window.state (State.setWindow_window_same s h)

theorem dropLoad_closed {s : State} (h : tblWf {} s.windows = true) (status : Nat) :
    ((dropLoad s status).window 0).state = .closed := by
  unfold dropLoad
  extract_lets gone told
  have htold : told.windows = s.windows :=
    foldl_keeps State.windows (f := fun s p => sendVc s (loadGoneFor status p)) (fun _ _ => rfl) gone s
  exact closeWin_closed (s := told) (htold ▸ h) 0

/-! ## SHARD_ARRIVAL (R378, R379) -/

/-- A shard counts as arrived: it is awaited no longer, and its mismatches are forgotten. -/
def shardTaken (s : State) (i : Nat) : State := { s with weights := { s.weights with
  arrived := s.weights.arrived ++ [i]
  requested := s.weights.requested.filter fun (q : Nat × Nat) => q.1 != i
  crcFails := tset 0 s.weights.crcFails i 0 } }

/-- What the arrival of a shard of a load leaves: it has arrived, the load goes on. -/
theorem settleLoad_requestShards_shardTaken (s : State) (w : WeightSet) (i : Nat) (hcrc : tblWf 0 s.weights.crcFails = true) :
    let t := settleLoad (requestShards (shardTaken s i) w)
    LoadGoesOn s t ∧ i ∈ t.weights.arrived ∧ (∀ q ∈ t.weights.requested, q.1 ≠ i) ∧ tget 0 t.weights.crcFails i = 0 ∧
      t.weights.loading = s.weights.loading ∧ t.weights.resident = s.weights.resident := by
  intro t
  have hon : LoadGoesOn s t :=
    ((loadGoesOn_weights s _).trans (requestShards_goesOn (shardTaken s i) w)).trans (settleLoad_goesOn _)
  obtain ⟨q, hrequested, hfrom⟩ := requestShards_weights (shardTaken s i) w
  obtain ⟨v, hsettled⟩ := settleLoad_weights (requestShards (shardTaken s i) w)
  have hweights : t.weights = { (shardTaken s i).weights with requested := q, state := v } := by rw [hsettled, hrequested]
  have harrived : i ∈ (shardTaken s i).weights.arrived := List.mem_append_right _ (List.mem_singleton_self i)
  have hforgotten : tget 0 (shardTaken s i).weights.crcFails i = 0 := tget_tset_of_wf hcrc i 0
  rw [hweights]
  refine ⟨hon, harrived, fun x hx hi => ?_, hforgotten, rfl, rfl⟩
  rcases hfrom x hx with hold | hopen
  · exact (bne_iff_ne.mp (List.mem_filter.mp hold).2) hi
  · exact hopen (hi ▸ harrived)

section
variable {index : Nat} {c : Bytes} {dl : ShardDelivery} {w : WeightSet} {r : ManShard} {s : State}
  (hloading : s.weights.loading = some w) (hr : w.shards[index]? = some r) (hfetching : s.weights.state = some .fetching)
  (hasked : ∃ q ∈ s.weights.requested, q.1 = index)
include hloading hr hfetching hasked

/-- A shard that is awaited: one that does not match its CRC is asked for again or fails the load, one that a follower did not get is
tried again, any other is staged. -/
theorem shardArrival_eq : exec (.shardArrival index c dl) s = .next (
    if c.length ≠ r.length ∨ crc32c c ≠ r.crc.toNat then
      if 8 ≤ tget 0 s.weights.crcFails index + 1 then dropLoad s stShardCorrupt
      else askShard { s with weights := { s.weights with
        crcFails := tset 0 s.weights.crcFails index (tget 0 s.weights.crcFails index + 1) } } w index
    else if dl.followersDone = false then
      retryShard { s with weights := { s.weights with crcFails := tset 0 s.weights.crcFails index 0 } } w index
    else settleLoad (requestShards (shardTaken (stageShard s w index (shardPlain w index c) dl.damaged) index) w)) := by
  have hawaited : ¬ (s.weights.state ≠ some .fetching ∨
      (s.weights.requested.any fun (q : Nat × Nat) => q.1 == index) = false) := by simpa [hfetching] using hasked
  change execShardArrival index c dl s = _
  unfold execShardArrival
  rw [hloading]
  dsimp only
  rw [hr]
  dsimp only
  rw [if_neg hawaited]
  simp only [Bool.not_eq_true', apply_ite Host.Outcome.next, done, shardTaken]

theorem shardArrival_corrupt_again (hbad : ¬ (c.length = r.length ∧ crc32c c = r.crc.toNat))
    (hfew : tget 0 s.weights.crcFails index < 7) (hsends : sendsNow s (bulkVia s) = true) :
    exec (.shardArrival index c dl) s = .next (shardAsked { s with weights := { s.weights with
      crcFails := tset 0 s.weights.crcFails index (tget 0 s.weights.crcFails index + 1) } } index r) := by
  rw [shardArrival_eq hloading hr hfetching hasked, if_pos (Decidable.not_and_iff_or_not.mp hbad), if_neg (by omega)]
  exact congrArg _ (askShard_now hr hsends)

theorem shardArrival_corrupt_fails (hbad : ¬ (c.length = r.length ∧ crc32c c = r.crc.toNat))
    (hmany : 7 ≤ tget 0 s.weights.crcFails index) :
    exec (.shardArrival index c dl) s = .next (dropLoad s stShardCorrupt) := by
  rw [shardArrival_eq hloading hr hfetching hasked, if_pos (Decidable.not_and_iff_or_not.mp hbad), if_pos (by omega)]

theorem shardArrival_undelivered (hgood : c.length = r.length ∧ crc32c c = r.crc.toNat) (hdone : dl.followersDone = false) :
    exec (.shardArrival index c dl) s = .next
      (retryShard { s with weights := { s.weights with crcFails := tset 0 s.weights.crcFails index 0 } } w index) := by
  rw [shardArrival_eq hloading hr hfetching hasked, if_neg (by simp [hgood]), if_pos hdone]

theorem shardArrival_staged (hgood : c.length = r.length ∧ crc32c c = r.crc.toNat) (hdone : dl.followersDone = true) :
    exec (.shardArrival index c dl) s = .next
      (settleLoad (requestShards (shardTaken (stageShard s w index (shardPlain w index c) dl.damaged) index) w)) := by
  rw [shardArrival_eq hloading hr hfetching hasked, if_neg (by simp [hgood]), if_neg (by simp [hdone])]

end

/-! ## SHARD_TIMEOUT (R379) -/

theorem shardTimeout_retries {index : Nat} {w : WeightSet} {q : Nat × Nat} {s : State} (hloading : s.weights.loading = some w)
    (hfetching : s.weights.state = some .fetching) (hq : q ∈ s.weights.requested) (hindex : q.1 = index)
    (hlate : q.2 + 200000000 ≤ boardTime s) : exec (.shardTimeout index) s = .next (retryShard s w index) := by
  have hdue : (s.weights.requested.any fun (q : Nat × Nat) => q.1 == index && decide (q.2 + 200000000 ≤ boardTime s)) = true :=
    List.any_eq_true.mpr ⟨q, hq, by simp [hindex, hlate]⟩
  change execShardTimeout index s = _
  unfold execShardTimeout
  rw [hloading]
  exact if_pos ⟨hfetching, hdue⟩

/-! ## A set becomes resident (R376, R380, R386) -/

/-- Of a slice only the marks of its staging lines go. -/
theorem becomeResident_site {s : State} (h : tblWf {} s.sites = true) (w : WeightSet) (k : Nat) :
    (becomeResident s w).site k = { s.site k with stageBad := [] } :=
  tget_tmapAll _ _ ((tblWf_iff _ _).mp h).1 rfl

theorem becomeResident_closed {s : State} (h : tblWf {} s.windows = true) (w : WeightSet) :
    ((becomeResident s w).window 0).state = .closed := closeWin_closed h 0

theorem installComplete_done {s : State} {w : WeightSet} (hloading : s.weights.loading = some w)
    (hinstalling : s.weights.state = some .installing) (hcopied : installPending s = false)
    (hnone : ∀ v ∈ s.events, v.kind ≠ .install) : exec .installComplete s = .next (becomeResident s w) := by
  have hfree : (s.events.any fun v => v.kind == .install) = false := by simpa using hnone
  change execInstallComplete s = _
  unfold execInstallComplete
  rw [hloading]
  exact if_pos ⟨hinstalling, hcopied, hfree⟩

/-! ## Swaps (R384, R386, R387) -/

theorem swapLate_record {s : State} {sw : Sweep} (h : s.weights.sweep = some sw) :
    exec .swapLate s = .next (raiseModule s 4 0x94 0 sw.layer 1) := by
  change execSwapLate s = _
  unfold execSwapLate
  rw [h]
  rfl

/-- A set whose swap has ended; a plan in regions reactivates its key before the barrier reopens (R386, R387). -/
def swapEnded (s : State) (w : WeightSet) : State :=
  freeBarrier (if inRegions s then reactivate (becomeResident s w) else becomeResident s w) .swap

theorem swapEnd_eq {s : State} {sw : Sweep} {w : WeightSet} (hsweep : s.weights.sweep = some sw)
    (hloading : s.weights.loading = some w) :
    exec .swapEnd s = .next (if sw.layer < w.layers.length then s else swapEnded s w) := by
  change execSwapEnd s = _
  unfold execSwapEnd
  rw [hsweep, hloading]
  simp only [apply_ite Host.Outcome.next, done]
  rfl

theorem reactivate_weights (s : State) : (reactivate s).weights = s.weights := by
  unfold reactivate holdBarrier
  rw [nameOwn_eq]
  split <;> rfl

theorem swapEnded_weights (s : State) (w : WeightSet) : (swapEnded s w).weights = (becomeResident s w).weights := by
  unfold swapEnded
  split
  · exact reactivate_weights _
  · rfl

theorem swapEnded_reactivation {s : State} (h : inRegions s = true) (w : WeightSet) :
    BarrierHold.reactivation ∈ (swapEnded s w).plan.holds := by
  unfold swapEnded
  rw [if_pos h]
  exact List.mem_filter.mpr ⟨mem_holdBarrier .., by decide⟩

theorem swapEnded_uniform {s : State} (h : inRegions s = false) (w : WeightSet) :
    swapEnded s w = freeBarrier (becomeResident s w) .swap := by
  unfold swapEnded
  rw [if_neg (by simp [h])]

/-- Settles O47: each command by its equation above; the arrival of a shard by what staging (`stageShard_stages`) and the requests
after it (`settleLoad_requestShards_shardTaken`) leave, the end of an install or swap by what `becomeResident` leaves. -/
theorem weightSetsAreFetchedAndInstalled : Obligations.WeightSetsAreFetchedAndInstalled := by
  unfold Obligations.WeightSetsAreFetchedAndInstalled
  refine ⟨?arrival, ?timeout, ?install, ?late, ?swap⟩
  case arrival =>
    intro index c dl w r s hwf hloading hr hfetching hasked hcrc hretries good
    obtain ⟨-, hsites, -, -, hwindows, -⟩ := (tablesWf_iff s).mp hwf
    refine ⟨fun hbad hfew hsends => ?_, fun hbad hmany => ?_, fun hgood hdone hfew hsends => ?_, fun hgood hdone => ?_⟩
    · exact ⟨_, shardArrival_corrupt_again hloading hr hfetching hasked hbad hfew hsends,
        tget_tset_of_wf hcrc index (tget 0 s.weights.crcFails index + 1), List.mem_append_right _ (List.mem_singleton_self _), rfl, rfl⟩
    · have hdropped := dropLoad_drops s stShardCorrupt
      have hsent := dropLoad_sent hloading stShardCorrupt
      refine ⟨_, shardArrival_corrupt_fails hloading hr hfetching hasked hbad hmany, hdropped.loading, hdropped.state,
        hdropped.lastStatus, hdropped.resident, dropLoad_closed hwindows _, fun hnone => ?_, fun p hp => ?_⟩
      · rw [hsent, hnone, List.map_nil, List.append_nil]
      · rw [hsent]
        exact ⟨_, List.mem_append_right _ (List.mem_map_of_mem hp)⟩
    · refine ⟨_, (shardArrival_undelivered hloading hr hfetching hasked hgood hdone).trans
        (congrArg _ (retryShard_now hr hsends hfew)), tget_tset_of_wf hretries index (tget 0 s.weights.retries index + 1), rfl⟩
    · obtain ⟨hstaged, hweights, htold⟩ := stageShard_stages s w index (shardPlain w index c) dl.damaged
      obtain ⟨hon, harrived, hrequested, hforgotten, hkept, hresident⟩ := settleLoad_requestShards_shardTaken
        (stageShard s w index (shardPlain w index c) dl.damaged) w index (by rw [hweights]; exact hcrc)
      rw [hweights] at hkept hresident
      have hall := hstaged.trans hon
      refine ⟨_, shardArrival_staged hloading hr hfetching hasked hgood hdone, harrived, hrequested, hforgotten,
        hkept.trans hloading, hresident, (hall.mem hsites).2, fun p hp => ?_, hall.frame⟩
      exact (htold p hp).imp fun _ hd => hon.sent.subset hd
  case timeout =>
    intro index w r q s hloading hr hfetching hq hindex hlate hretries
    have heq := shardTimeout_retries hloading hfetching hq hindex hlate
    refine ⟨fun hfew hsends => ⟨_, heq.trans (congrArg _ (retryShard_now hr hsends hfew)),
      tget_tset_of_wf hretries index (tget 0 s.weights.retries index + 1), rfl, rfl⟩, fun hmany => ?_⟩
    have hdropped := dropLoad_drops s stShardMissing
    exact ⟨_, heq.trans (congrArg _ (retryShard_gives_up w hmany)), hdropped.loading, hdropped.lastStatus, hdropped.resident⟩
  case install =>
    intro w s hwf hloading hinstalling hcopied hnone
    obtain ⟨-, hsites, -, -, hwindows, -⟩ := (tablesWf_iff s).mp hwf
    exact ⟨_, installComplete_done hloading hinstalling hcopied hnone, rfl, rfl, rfl, rfl, rfl,
      becomeResident_closed hwindows w, becomeResident_site hsites w, rfl⟩
  case late =>
    intro sw s hsweep
    obtain ⟨f, m, l, hframe⟩ := raiseModule_eq s 4 0x94 0 sw.layer 1
    exact ⟨_, swapLate_record hsweep, onRing_raiseModule s 4 0x94 0 sw.layer 1 (by decide), by rw [hframe]⟩
  case swap =>
    intro sw w s hwf hsweep hloading
    obtain ⟨-, hsites, -⟩ := (tablesWf_iff s).mp hwf
    have hweights := swapEnded_weights s w
    refine ⟨fun hleft => ?_, fun hall => ⟨swapEnded s w, ?_, congrArg WeightState.resident hweights,
      congrArg WeightState.sweep hweights, congrArg WeightState.loading hweights, congrArg WeightState.refs hweights,
      not_mem_freeBarrier _ _, fun hregions => swapEnded_reactivation hregions w, fun hregions => ?_⟩⟩
    · rw [swapEnd_eq hsweep hloading, if_pos hleft]
    · rw [swapEnd_eq hsweep hloading, if_neg (Nat.not_lt.mpr hall)]
    · rw [swapEnded_uniform hregions]
      exact ⟨becomeResident_site hsites w, rfl⟩

end Sys2Proof.Machine
end

section
/-! PROOFS. The queue of waiting commands: a step takes its front, no command changes it, and a run of its length empties it. -/

namespace Sys2Proof.Machine

/-! ## A step (the model's log entry 9) -/

/-- Settles O1: the queue's front is the head of the list, so that the two sides are the same term. -/
theorem stepRunsFrontCommand : Obligations.StepRunsFrontCommand := by
  unfold Obligations.StepRunsFrontCommand
  intro c rest s
  rfl

/-- Settles O2: the match on the queue meets no command. -/
theorem emptyQueueIdles : Obligations.EmptyQueueIdles := by
  unfold Obligations.EmptyQueueIdles
  intro s hempty
  unfold step
  rw [hempty]

/-! ## Every command answers and leaves the queue -/

theorem exec_answers (c : Instr) (s : State) : ∃ t, exec c s = .next t ∧ t.pending = s.pending := by
  obtain ⟨t, ht, hqueue, -⟩ := (keeps_refl s).exec c
  exact ⟨t, ht, hqueue⟩

/-- Settles O3: a command answers (`exec_answers`), and a step is the front command's meaning or none at all. -/
theorem everyCommandAnswersNextState : Obligations.EveryCommandAnswersNextState := by
  unfold Obligations.EveryCommandAnswersNextState
  refine ⟨fun c s => (exec_answers c s).imp fun _ h => h.1, fun s => ?_⟩
  unfold step
  cases s.pending with
  | nil => exact ⟨s, rfl⟩
  | cons c rest => exact (exec_answers c { s with pending := rest }).imp fun _ h => h.1

/-! ## A run -/

/-- One step of a waiting queue leaves its rest. -/
theorem step_leaves_rest {s : State} {c : Instr} {rest : List Instr} (h : s.pending = c :: rest) :
    ∃ t, step s = .next t ∧ t.pending = rest := by
  unfold step
  rw [h]
  exact exec_answers c { s with pending := rest }

theorem core_run_next {s t : core.State} (h : core.step s = .next t) (n : Nat) : core.run (n + 1) s = core.run n t := by
  conv_lhs => unfold Host.Core.run
  rw [h]

theorem run_empties_queue (cs : List Instr) : ∀ s : State, s.pending = cs →
    ∃ t : State, core.run cs.length s = .next t ∧ t.pending = [] := by
  induction cs with
  | nil => exact fun s h => ⟨s, rfl, h⟩
  | cons c rest ih =>
    intro s h
    obtain ⟨t, hstep, hrest⟩ := step_leaves_rest h
    obtain ⟨u, hrun, hempty⟩ := ih t hrest
    exact ⟨u, (core_run_next hstep rest.length).trans hrun, hempty⟩

/-- Settles O4: a command leaves the queue (`exec_answers`), so that each step of a run takes one command off it. -/
theorem queueRunsInOrder : Obligations.QueueRunsInOrder := by
  unfold Obligations.QueueRunsInOrder
  exact ⟨exec_answers, fun cs s => run_empties_queue cs { s with pending := cs } rfl⟩

end Sys2Proof.Machine
end

section
/-! PROOFS. Settings transactions: opened, collected, committed, aborted (R525). -/

namespace Sys2Proof.Machine

/-! ## The end of a transaction without a commit -/

/-- What an open transaction leaves when it ends: its state, without the writes, the alert, and no event of its commit. -/
theorem endTxn_open {s : State} (h : txnOpen s = true) (status : Nat) : endTxn s status = { s with
    txn := { s.txn with state := .aborted, status := status, writes := [] }
    mgmt := (raiseAlert s alCommit).mgmt
    events := s.events.filter fun v => !(v.kind == .commit s.txn.id) } := by
  have habort : abortTxn s status =
      raiseAlert { s with txn := { s.txn with state := .aborted, status := status, writes := [] } } alCommit := by
    unfold txnOpen at h
    unfold abortTxn
    cases hst : s.txn.state <;> simp_all
  unfold endTxn
  rw [habort]
  rfl

structure TxnEnded (s t : State) (status : Nat) : Prop where
  state : t.txn.state = .aborted
  status : t.txn.status = status
  writes : t.txn.writes = []
  events : ∀ v, v ∈ t.events ↔ v ∈ s.events ∧ v.kind ≠ .commit s.txn.id
  alert : tb t.mgmt.alert.toNat 9 = true

theorem endTxn_ended {s : State} (h : txnOpen s = true) (status : Nat) : TxnEnded s (endTxn s status) status := by
  rw [endTxn_open h]
  exact ⟨rfl, rfl, rfl, fun v => by simp [List.mem_filter], raiseAlert_raised s (bit := 9) (by decide)⟩

theorem TxnEnded.of_sent {s t u : State} {status : Nat} (h : TxnEnded s t status) (e : u = { t with sent := u.sent }) :
    TxnEnded s u status := by
  rw [e]
  exact ⟨h.state, h.status, h.writes, h.events, h.alert⟩

theorem txnOpen_of_state {s : State} (h : s.txn.state = .opened ∨ s.txn.state = .staging ∨ s.txn.state = .staged) :
    txnOpen s = true := by
  unfold txnOpen
  rcases h with h | h | h <;> rw [h]

/-! ## The requests -/

section
variable {s : State} (hs : servedFully s)
include hs

theorem openTransaction_eq (tag : BitVec 16) : exec (.openTransaction tag) s = .next (
    if txnOpen s then respond s 3 tag stCommitBusy
    else respond { s with txn := { id := s.txn.id + 1, state := .opened } } 3 tag stAccepted [(s.txn.id + 1).setWidth 64]) :=
  congrArg Host.Outcome.next (serve_servedFully hs ..)

variable (hopen : s.txn.state = .opened)
include hopen

theorem stageWrite_opened (tag : BitVec 16) (addr v : BitVec 64) : exec (.stageWrite tag s.txn.id addr v) s = .next (
    if stageable s (regAddr addr) then
      respond { s with txn := { s.txn with writes := s.txn.writes ++ [(addr, v)] } } 2 tag stAccepted
    else respond s 2 tag stBadAddress) := by
  simp only [exec, execStageWrite, done, serve_servedFully hs, hopen]
  cases stageable s (regAddr addr) <;> simp

theorem commitTransaction_refused (tag : BitVec 16) (e : BitVec 48) (board : Bool) (hbad : txnOk s = false) :
    exec (.commitTransaction tag s.txn.id e board) s = .next (respond (txnStatus s stBadSetting) 4 tag stBadSetting) := by
  simp [exec, execCommitTransaction, done, serve_servedFully hs, hopen, hbad]

/-- The transaction of an accepted commit (R525). -/
def txnStaging (x : Txn) (e : BitVec 48) (board : Bool) : Txn :=
  { x with state := .staging, status := 0, epoch := e.toNat, board := board, decided := none }

theorem commitTransaction_accepted (tag : BitVec 16) (e : BitVec 48) (board : Bool) (hok : txnOk s = true)
    (he : epochRefusal s e.toNat 0 false = none) : exec (.commitTransaction tag s.txn.id e board) s =
      .next (respond { addEvent s e.toNat (.commit s.txn.id) with
        txn := txnStaging (addEvent s e.toNat (.commit s.txn.id)).txn e board } 4 tag stAccepted
          [BitVec.ofNat 64 s.mgmt.nextEvent]) := by
  simp only [exec, execCommitTransaction, done, serve_servedFully hs, hopen, hok, he]
  simp [txnStaging]

end

theorem answersLast_commit (s : State) (tag : BitVec 16) (e : Nat) (k : EventKind) (x : Txn) (body : List (BitVec 64)) :
    answersLast s (respond { addEvent s e k with txn := x } 4 tag stAccepted body) 4 tag stAccepted body := by
  obtain ⟨vs, hvs, hsent⟩ := boardTell_sent { s with
    events := s.events ++ [{ number := s.mgmt.nextEvent, epoch := e, kind := k }]
    mgmt := { s.mgmt with nextEvent := s.mgmt.nextEvent + 1 } }
    (.epochName (eventCode k).1 (eventCode k).2 (BitVec.ofNat 48 e))
  exact ⟨vs, hvs, congrArg (· ++ _) hsent⟩

theorem abortTransaction_ends {s : State} (hs : servedFully s) (tag : BitVec 16) (hopen : txnOpen s = true)
    (hlead : s.txn.state = .opened ∨ s.time.epoch + curbLead s ≤ s.txn.epoch) :
    exec (.abortTransaction tag s.txn.id) s = .next (respond (endTxn s stDiscarded) 5 tag stAccepted) := by
  have hmet : ¬ (s.txn.state ≠ .opened ∧ s.txn.epoch < s.time.epoch + curbLead s) := by
    rintro ⟨hstate, hearly⟩
    exact hlead.elim hstate (Nat.not_le.mpr hearly)
  simp only [exec, execAbortTransaction, done, serve_servedFully hs, if_neg hmet, hopen]
  simp

/-! ## The deadline, and the decision of the board -/

/-- The outcome of a transaction's staging is reported to the master where it commits board-wide (R525). -/
theorem commitDeadline_due {s : State} (hstaging : s.txn.state = .staging) (hepoch : s.txn.epoch = s.time.epoch + 1)
    (hstroke : 2048 ≤ s.time.stroke) (allMatch : Bool) : ∃ l, exec (.commitDeadline allMatch) s = .next
      { (if allMatch then { s with txn := { s.txn with state := .staged } } else endTxn s stStageFailed : State) with sent := l } := by
  have hdue : s.txn.state = .staging ∧ s.txn.epoch = s.time.epoch + 1 ∧ 2048 ≤ s.time.stroke := ⟨hstaging, hepoch, hstroke⟩
  simp only [exec, execCommitDeadline, done, if_pos hdue]
  cases s.txn.board && s.board.admitted with
  | true => exact ⟨_, rfl⟩
  | false => exact ⟨(if allMatch then { s with txn := { s.txn with state := .staged } } else endTxn s stStageFailed : State).sent, rfl⟩

theorem boardCommitDecision_taken {s : State} (hboard : s.txn.board = true)
    (hstate : s.txn.state = .staging ∨ s.txn.state = .staged) (go : Bool) : ∃ l, exec (.boardCommitDecision go) s = .next
      { (if go then { s with txn := { s.txn with decided := some true } } else endTxn s stStageFailed : State) with sent := l } := by
  have htaken : (s.txn.board && (s.txn.state == .staging || s.txn.state == .staged)) = true := by
    rcases hstate with h | h <;> rw [hboard, h] <;> rfl
  simp only [exec, execBoardCommitDecision, done, if_pos htaken]
  exact ⟨_, congrArg Host.Outcome.next (boardTell_eq _ _)⟩

/-- Settles O51: each request by its equation; every way in which a transaction ends without a commit is `endTxn`. -/
theorem transactionsOpenStageAndEnd : Obligations.TransactionsOpenStageAndEnd := by
  unfold Obligations.TransactionsOpenStageAndEnd
  refine ⟨fun tag s hs => ?_, fun tag addr v s hs hopen => ?_, fun tag e board s hs hopen => ?_,
    fun tag s hs hopen hlead => ?_, fun s hstaging hepoch hstroke => ?_, fun s hboard hstate => ?_⟩
  case refine_1 =>
    rw [openTransaction_eq hs]
    exact ⟨fun h => by rw [h]; exact ⟨_, rfl, rfl, rfl, rfl⟩, fun h => by rw [h]; exact ⟨_, rfl, rfl, rfl⟩⟩
  case refine_2 =>
    rw [stageWrite_opened hs hopen]
    exact ⟨fun h => by rw [h]; exact ⟨_, rfl, rfl, rfl, rfl⟩, fun h => by rw [h]; exact ⟨_, rfl, rfl, rfl⟩⟩
  case refine_3 =>
    refine ⟨fun hbad => ⟨_, commitTransaction_refused hs hopen tag e board hbad, hopen, rfl, rfl, rfl⟩,
      fun hok hshut hlead hfew => ?_⟩
    refine ⟨_, commitTransaction_accepted hs hopen tag e board hok (epochRefusal_none hshut hlead hfew rfl), ?_, ?_,
      answersLast_commit ..⟩ <;> rw [addEvent_eq] <;> rfl
  case refine_4 =>
    have hended := endTxn_ended hopen stDiscarded
    refine ⟨_, abortTransaction_ends hs tag hopen hlead, hended.state, hended.status, hended.writes, hended.events, hended.alert, ?_⟩
    rw [endTxn_open hopen]
    exact ⟨rfl, rfl⟩
  case refine_5 =>
    have hended := endTxn_ended (txnOpen_of_state (.inr (.inl hstaging))) stStageFailed
    obtain ⟨l, hmatch⟩ := commitDeadline_due hstaging hepoch hstroke true
    obtain ⟨m, hfails⟩ := commitDeadline_due hstaging hepoch hstroke false
    exact ⟨⟨_, hmatch, rfl, rfl⟩, _, hfails, hended.state, hended.status, fun v hv => ((hended.events v).mp hv).2, hended.alert⟩
  case refine_6 =>
    have hended := endTxn_ended (txnOpen_of_state (.inr hstate)) stStageFailed
    obtain ⟨l, hgo⟩ := boardCommitDecision_taken hboard hstate true
    obtain ⟨m, hstop⟩ := boardCommitDecision_taken hboard hstate false
    exact ⟨⟨_, hgo, rfl, rfl⟩, _, hstop, hended.state, hended.status, fun v hv => ((hended.events v).mp hv).2⟩

end Sys2Proof.Machine
end

section
/-! PROOFS. PTP exchanges, lock, and the servo's trim (R412 to R414). -/

namespace Sys2Proof.Machine

/-! ## A port after an update of it or of another -/

theorem State.modPort_port_same {s : State} (h : tblWf {} s.ports = true) (p : Nat) (g : PortState → PortState) :
    (s.modPort p g).port p = g (s.port p) := State.setPort_port_same s h

theorem State.modPort_port_other (s : State) {p q : Nat} (h : q ≠ p) (g : PortState → PortState) :
    (s.modPort p g).port q = s.port q := State.setPort_port_other s h

/-! ## Exchanges and lock (R412, R413) -/

/-- The active port after an exchange: near, far or between (R413). -/
def ptpExchanged (off : Int) (q : PortState) : PortState :=
  let i := if -50 ≤ off ∧ off ≤ 50 then min 16 (q.inLock + 1) else 0
  let o := if off < -200 ∨ 200 < off then min 4 (q.outLock + 1) else 0
  { q with
    ptpOffset := BitVec.ofInt 32 off, inLock := i, outLock := o
    ptpLock := if 16 ≤ i then true else if 4 ≤ o then false else q.ptpLock }

section
variable {off : Int} {q : PortState}

theorem ptpExchanged_locks (hlow : -50 ≤ off) (hhigh : off ≤ 50) (h : 15 ≤ q.inLock) : (ptpExchanged off q).ptpLock = true := by
  have : 16 ≤ min 16 (q.inLock + 1) := by omega
  simp [ptpExchanged, hlow, hhigh, this]

theorem ptpExchanged_near (hlow : -50 ≤ off) (hhigh : off ≤ 50) (h : q.inLock < 15) :
    (ptpExchanged off q).ptpLock = q.ptpLock ∧ (ptpExchanged off q).inLock = q.inLock + 1 := by
  have hcount : min 16 (q.inLock + 1) = q.inLock + 1 := by omega
  have hfew : ¬ 16 ≤ q.inLock + 1 := by omega
  have hnotfar : ¬ (off < -200 ∨ 200 < off) := by omega
  simp [ptpExchanged, hlow, hhigh, hcount, hfew, hnotfar]

theorem not_near_of_far (hfar : off < -200 ∨ 200 < off) : ¬ (-50 ≤ off ∧ off ≤ 50) := by omega

theorem ptpExchanged_unlocks (hfar : off < -200 ∨ 200 < off) (h : 3 ≤ q.outLock) : (ptpExchanged off q).ptpLock = false := by
  have : 4 ≤ min 4 (q.outLock + 1) := by omega
  simp [ptpExchanged, if_neg (not_near_of_far hfar), hfar, this]

theorem ptpExchanged_far (hfar : off < -200 ∨ 200 < off) (h : q.outLock < 3) :
    (ptpExchanged off q).ptpLock = q.ptpLock ∧ (ptpExchanged off q).outLock = q.outLock + 1 := by
  have hcount : min 4 (q.outLock + 1) = q.outLock + 1 := by omega
  have hfew : ¬ 4 ≤ q.outLock + 1 := by omega
  simp [ptpExchanged, if_neg (not_near_of_far hfar), hfar, hcount, hfew]

end

theorem ptpSyncExchange_eq {s : State} {p : Nat} (hp : ptpPort s = some p) (sec ns : Nat) (off : Int) :
    exec (.ptpSyncExchange sec ns off) s = .next { s.modPort p (ptpExchanged off) with ptp := {
      sum := s.ptp.sum + ((boardTime s : Int) - (sec * 100000000 + ns / 10 : Nat)), count := s.ptp.count + 1
      last := some s.time.localTicks.toNat } } := by
  simp only [exec, execPtpSyncExchange, done, hp, decide_eq_true_eq]
  rfl

theorem ptpSyncTimeout_eq {s : State} {p : Nat} (hp : ptpPort s = some p)
    (hlate : ∀ at0, s.ptp.last = some at0 → at0 + 300000000 ≤ s.time.localTicks.toNat) :
    exec .ptpSyncTimeout s = .next (s.modPort p fun q => { q with ptpLock := false, inLock := 0 }) := by
  simp only [exec, execPtpSyncTimeout, done, hp]
  cases hlast : s.ptp.last with
  | none => rfl
  | some at0 => simp [Nat.not_lt.mpr (hlate at0 hlast)]

/-! ## The trim (R414) -/

theorem roundHalfAway_mul (m : Int) {d : Nat} (hd : d ≠ 0) : roundHalfAway (m * d) d = m := by
  have hpos : 0 < d := Nat.pos_of_ne_zero hd
  have hquot : (2 * (m * d).natAbs + d) / (2 * d) = m.natAbs := by
    rw [Int.natAbs_mul, Int.natAbs_natCast, Nat.div_eq_of_lt_le] <;> nlinarith
  have hsign : m * d < 0 ↔ m < 0 := by
    constructor <;> intro h <;> nlinarith
  unfold roundHalfAway
  rw [hquot]
  by_cases hm : m < 0
  · rw [if_pos (hsign.mpr hm)]
    omega
  · rw [if_neg (mt hsign.mp hm)]
    omega

theorem servoTrim_mul (m : Int) {count : Nat} (h : count ≠ 0) : servoTrim (m * count) count 0 = max (-2) (min 2 (-m)) := by
  unfold servoTrim
  rw [Int.zero_mul, Int.add_zero, roundHalfAway_mul m h]

theorem servoTrim_bounds (sum : Int) (count : Nat) (pending : Int) :
    -2 ≤ servoTrim sum count pending ∧ servoTrim sum count pending ≤ 2 := by
  unfold servoTrim
  omega

/-! ## The servo (R45, R412, R414) -/

/-- The master's PTP is locked. -/
def servoLocked (s : State) : Bool := match ptpPort s with
  | some p => (s.port p).ptpLock
  | none => false

/-- The trim that the servo names. -/
def servoNames (s : State) : Int :=
  if servoLocked s && s.ptp.count != 0 then
    servoTrim s.ptp.sum s.ptp.count (s.time.trims.foldl (fun (n : Int) (q : Nat × Int) => n + q.2) 0)
  else 0

/-- The port that shows the lost lock. -/
def servoPort (s : State) : Nat :=
  (ptpPort s).getD (((List.range 4).find? fun p => tb (s.port p).ctrl.toNat 7).getD 0)

/-- PTP_LOST where the servo finds no lock. -/
def servoShows (s : State) : State :=
  if servoLocked s then s else s.modPort (servoPort s) fun q => { q with errStatus := q.errStatus ||| 0x80 }

/-- The servo's state before it tells its followers. -/
def servoNamed (s : State) : State := { servoShows s with
  time := { (servoShows s).time with trims := (servoShows s).time.trims ++ [(s.time.epoch + 2, servoNames s)] }
  ptp := { last := (servoShows s).ptp.last } }

theorem servoShows_eq (s : State) : servoShows s = { s with ports := (servoShows s).ports } := by
  unfold servoShows
  split <;> rfl

theorem servoNamed_eq (s : State) : servoNamed s = { s with
    time := { s.time with trims := s.time.trims ++ [(s.time.epoch + 2, servoNames s)] }
    ptp := { last := s.ptp.last }, ports := (servoShows s).ports } := by
  unfold servoNamed
  rw [servoShows_eq]

theorem servoNames_bounds (s : State) : -2 ≤ servoNames s ∧ servoNames s ≤ 2 := by
  unfold servoNames
  split
  · exact servoTrim_bounds ..
  · decide

theorem ptpServo_master {s : State} (hmaster : s.board.position = 0) (hest : s.time.established = true)
    (hnew : ∀ q ∈ s.time.trims, q.1 ≠ s.time.epoch + 2) : exec .ptpServo s = .next
      (boardTell (servoNamed s) (.trim (BitVec.ofNat 48 (s.time.epoch + 2)) (servoNames s))) := by
  have hfree : (s.time.trims.any fun (q : Nat × Int) => q.1 == s.time.epoch + 2) = false := by
    simpa using fun a b h => hnew (a, b) h
  simp only [exec, execPtpServo, done, hmaster, hest, hfree]
  rfl

theorem ptpServo_follower {s : State} (h : s.board.position ≠ 0) : exec .ptpServo s = .next s := if_pos (.inl h)

theorem servoShows_lost {s : State} (hports : tblWf {} s.ports = true) (h : servoLocked s = false) :
    tb ((servoShows s).port (servoPort s)).errStatus.toNat 7 = true := by
  unfold servoShows
  rw [h, if_neg Bool.false_ne_true, State.modPort_port_same hports]
  exact tb_or_right _ (by decide)

/-- Settles O35: the active port changes by `ptpExchanged`; the servo's trim of an exact mean is `servoTrim_mul`. -/
theorem ptpExchangesMakeTrims : Obligations.PtpExchangesMakeTrims := by
  unfold Obligations.PtpExchangesMakeTrims
  refine ⟨fun sec ns off s p hwf hp => ?_, fun s p hwf hp hlate => ?_, fun s hwf hmaster hest hnew => ?_, fun s hfollower => ?_⟩
  case refine_1 =>
    obtain ⟨-, -, -, -, -, hports, -⟩ := (tablesWf_iff s).mp hwf
    have hport := State.modPort_port_same hports p (ptpExchanged off)
    refine ⟨_, ptpSyncExchange_eq hp sec ns off, congrArg PortState.ptpOffset hport,
      fun hlow hhigh h => (congrArg PortState.ptpLock hport).trans (ptpExchanged_locks hlow hhigh h), fun hlow hhigh h => ?_,
      fun hfar h => (congrArg PortState.ptpLock hport).trans (ptpExchanged_unlocks hfar h), fun hfar h => ?_, rfl, rfl,
      fun q hq => State.modPort_port_other s hq _, rfl⟩
    · obtain ⟨hlock, hcount⟩ := ptpExchanged_near hlow hhigh h
      exact ⟨(congrArg PortState.ptpLock hport).trans hlock, (congrArg PortState.inLock hport).trans hcount⟩
    · obtain ⟨hlock, hcount⟩ := ptpExchanged_far hfar h
      exact ⟨(congrArg PortState.ptpLock hport).trans hlock, (congrArg PortState.outLock hport).trans hcount⟩
  case refine_2 =>
    obtain ⟨-, -, -, -, -, hports, -⟩ := (tablesWf_iff s).mp hwf
    exact ⟨_, ptpSyncTimeout_eq hp hlate, congrArg PortState.ptpLock (State.modPort_port_same hports p _),
      fun q hq => State.modPort_port_other s hq _, rfl⟩
  case refine_3 =>
    obtain ⟨-, -, -, -, -, hports, -⟩ := (tablesWf_iff s).mp hwf
    refine ⟨_, servoNames s, ptpServo_master hmaster hest hnew, ?_, (servoNames_bounds s).1, (servoNames_bounds s).2, ?_, ?_,
      fun w h0 h4 hw => ?_, fun p m hp hlock hcount hnone hsum => ?_, fun hlost => ?_⟩
    · rw [boardTell_eq, servoNamed_eq]
    · rw [boardTell_eq, servoNamed_eq]
    · rw [boardTell_eq, servoNamed_eq]
    · have hboard : (servoNamed s).board = s.board := by rw [servoNamed_eq]
      exact mem_boardTell _ (by rw [hboard]; exact hmaster) h0 h4 (by rw [hboard]; exact hw)
    · have hlocked : servoLocked s = true := by
        unfold servoLocked
        rw [hp]
        exact hlock
      refine ⟨?_, by rw [boardTell_eq, servoNamed_eq]; simp [servoShows, hlocked]⟩
      simp [servoNames, hlocked, hcount, hnone, hsum, servoTrim_mul]
    · have hlocked : servoLocked s = false := by
        unfold servoLocked
        cases hp : ptpPort s with
        | none => rfl
        | some p => exact hlost p hp
      refine ⟨by simp [servoNames, hlocked], servoPort s, ?_⟩
      rw [boardTell_eq, servoNamed_eq]
      exact servoShows_lost hports hlocked
  case refine_4 => exact ptpServo_follower hfollower

end Sys2Proof.Machine
end

section
/-! PROOFS. Firmware that fails, its counters, a core that stops, and the host's clear (R486, R498, R513, R531, R534). -/

namespace Sys2Proof.Machine

/-! ## What a record reaches -/

/-- A record changes of the faults the ring and the log, and of the management state the alerts. -/
structure Recorded (s t : State) : Prop where
  parts : t = { s with faults := t.faults, mgmt := t.mgmt, sent := t.sent }
  faults : t.faults = { s.faults with
    ring := t.faults.ring, log := t.faults.log, nextSeq := t.faults.nextSeq, handling := t.faults.handling }
  mgmt : t.mgmt = { s.mgmt with alert := t.mgmt.alert, alertDue := t.mgmt.alertDue }

theorem logAlert_eq (s : State) (p : Prop) [Decidable p] : ∃ a d, (if p then raiseAlert s alLog else s) =
    { s with mgmt := { s.mgmt with alert := a, alertDue := d } } := by
  split
  exacts [⟨_, _, rfl⟩, ⟨s.mgmt.alert, s.mgmt.alertDue, rfl⟩]

theorem ringPush_recorded (s : State) (r : ErrRec) : Recorded s (ringPush s r) := by
  obtain ⟨l, hlog⟩ := logAdd_eq s 1 (recWords r)
  unfold ringPush
  dsimp only
  obtain ⟨a, d, halert⟩ := logAlert_eq (logAdd s 1 (recWords r)) (1 ≤ r.severity)
  rw [haltBoard_eq, halert, hlog]
  split
  · split
    exacts [⟨rfl, rfl, rfl⟩, ⟨rfl, rfl, rfl⟩]
  · exact ⟨rfl, rfl, rfl⟩

theorem raiseModule_recorded (s : State) (sev code field detail scope : Nat) :
    Recorded s (raiseModule s sev code field detail scope) := ringPush_recorded s _

/-! ## Firmware on trial (R534) -/

/-- The firmware of a module goes back, or its activation ends: the rest of the board is told. -/
theorem tellBoth_eq (s : State) (c : VcContent) :
    tellMaster (boardTell s c) c = { s with sent := (tellMaster (boardTell s c) c).sent } := by
  rw [tellMaster_eq, boardTell_eq]

theorem boardTell_follower {s : State} (h : follows s = true) (c : VcContent) : boardTell s c = s := by
  unfold boardTell
  exact if_pos (by simp [follows] at h; exact h.2)

theorem firmwareOff_trial {s : State} (h : fwOnTrial s = true) :
    firmwareOff s = { s with fw := { s.fw with revert := true }, sent := (firmwareOff s).sent } ∧
      (s.fw.revert = false → follows s = true →
        ∃ d, (firmwareOff s).sent = s.sent ++ [.vc { src := s.board.position, dst := 0, content := .firmwareOff } d]) := by
  unfold firmwareOff
  dsimp only
  rw [if_pos h]
  cases hrev : s.fw.revert with
  | true =>
    refine ⟨?_, fun hno => absurd hno (by decide)⟩
    rw [if_pos rfl, ← hrev]
  | false =>
    rw [if_neg Bool.false_ne_true]
    refine ⟨tellBoth_eq _ _, fun _ hfollows => ?_⟩
    have hfollows : follows { s with fw := { s.fw with revert := true } } = true := hfollows
    rw [boardTell_follower hfollows]
    exact (tellMaster_sent _ _).2 hfollows

/-- The event that puts the firmware in force at the next curb stroke. -/
def fwNext (s : State) (v : Event) : Bool := v.kind == .firmware && v.epoch == s.time.epoch + 1

theorem fwNext_iff {s : State} {v : Event} : fwNext s v = true ↔ v.kind = .firmware ∧ v.epoch = s.time.epoch + 1 := by
  simp [fwNext]

theorem firmwareOff_cancels {s : State} (htrial : fwOnTrial s = false) (h : s.events.any (fwNext s) = true) :
    firmwareOff s = { s with
      events := s.events.filter fun v => !fwNext s v
      fw := { s.fw with pending := 0, status := stNotReady }, sent := (firmwareOff s).sent } := by
  unfold firmwareOff
  dsimp only
  rw [if_neg (by rw [htrial]; decide)]
  erw [if_pos h]
  rw [tellBoth_eq]
  rfl

/-! ## A core that stops (R486, R513) -/

/-- What the stop of a wafer-manager core leaves: its time, a record, and firmware on trial that is to be reverted. -/
structure CoreStopped (s t : State) : Prop where
  parts : t = { s with faults := t.faults, mgmt := t.mgmt, fw := t.fw, sent := t.sent }
  mgmt : t.mgmt = { s.mgmt with alert := t.mgmt.alert, alertDue := t.mgmt.alertDue }
  first : (∀ u ∈ s.faults.coreEvents, u + 360000000000 ≤ boardTime s) → onRing t 0 0x97
  again : (∃ u ∈ s.faults.coreEvents, boardTime s < u + 360000000000) → onRing t 4 0x97
  trial : fwOnTrial s = true → t.fw.revert = true

/-- Stops of the cores in the last hour. -/
def lateStops (s : State) : List Nat := s.faults.coreEvents.filter fun u => decide (boardTime s < u + 360000000000)

/-- The stop is noted with its time. -/
def stopNoted (s : State) : State := { s with faults := { s.faults with coreEvents := lateStops s ++ [boardTime s] } }

theorem coreEvent_eq (s : State) (core : Nat) : coreEvent s core =
    raiseModule (if fwOnTrial (stopNoted s) then firmwareOff (stopNoted s) else stopNoted s)
      (if (lateStops s).isEmpty then 0 else 4) 0x97 (detail := core) := rfl

theorem stopNoted_trial (s : State) : ∃ w l,
    (if fwOnTrial (stopNoted s) then firmwareOff (stopNoted s) else stopNoted s) = { stopNoted s with fw := w, sent := l } ∧
      (fwOnTrial s = true → w.revert = true) := by
  cases htrial : fwOnTrial (stopNoted s) with
  | true => exact ⟨{ s.fw with revert := true }, _, (firmwareOff_trial htrial).1, fun _ => rfl⟩
  | false => exact ⟨s.fw, s.sent, rfl, fun h => Bool.noConfusion (h.symm.trans htrial)⟩

theorem coreEvent_stopped (s : State) (core : Nat) : CoreStopped s (coreEvent s core) := by
  obtain ⟨w, l, hoff, hrev⟩ := stopNoted_trial s
  have hrec := raiseModule_recorded { stopNoted s with fw := w, sent := l } (if (lateStops s).isEmpty then 0 else 4) 0x97 0 core 1
  have hring := onRing_raiseModule { stopNoted s with fw := w, sent := l } (if (lateStops s).isEmpty then 0 else 4) 0x97 0 core 1
    (by decide)
  rw [coreEvent_eq, hoff]
  refine { parts := ?_, mgmt := hrec.mgmt, first := fun hold => ?_, again := fun hnew => ?_, trial := fun h => ?_ }
  · rw [hrec.parts]
    rfl
  · have hnone : lateStops s = [] := List.filter_eq_nil_iff.mpr fun u hu => by simpa using hold u hu
    rw [hnone] at hring ⊢
    exact hring
  · obtain ⟨u, hu, hlate⟩ := hnew
    have hsome : lateStops s ≠ [] := List.ne_nil_of_mem (List.mem_filter.mpr ⟨hu, decide_eq_true hlate⟩)
    rw [if_neg (by simpa using hsome)] at hring ⊢
    exact hring
  · rw [hrec.parts]
    exact hrev h

/-! ## Counters (R534) -/

/-- The counters in OTP after the trial: for the four classes of R531, no lower than the image's. -/
def countersAfter (fw : FwState) (counters : List Nat) : List Nat :=
  counters.zipIdx.map fun q => if q.2 < 4 then max q.1 (fw.inForce.getD q.2 {}).counter else q.1

theorem countersAfter_get {fw : FwState} {counters : List Nat} {c n : Nat} (h : counters[c]? = some n) :
    (countersAfter fw counters)[c]? = some (if c < 4 then max n (fw.inForce.getD c {}).counter else n) := by
  simp [countersAfter, List.getElem?_zipIdx, h]

theorem otpCounterAdvance_due {s : State} {e : Nat} (hact : s.fw.activated = some e) (hlate : e + 64 ≤ s.time.epoch)
    (hrev : s.fw.revert = false) : exec .otpCounterAdvance s = .next { s with
      otp := { s.otp with counters := countersAfter s.fw s.otp.counters }
      fw := { s.fw with activated := none, previous := none } } := by
  simp only [exec, execOtpCounterAdvance, done, hact, hrev]
  rw [if_neg (by simpa using hlate)]
  rfl

theorem otpCounterAdvance_early {s : State} {e : Nat} (hact : s.fw.activated = some e) (hearly : s.time.epoch < e + 64) :
    exec .otpCounterAdvance s = .next s := by
  simp only [exec, execOtpCounterAdvance, done, hact]
  rw [if_pos (.inl hearly)]

/-! ## The host's clear (R498) -/

theorem holdBarrier_eq (s : State) (b : BarrierHold) : holdBarrier s b = { s with plan := (holdBarrier s b).plan } := by
  unfold holdBarrier
  split <;> rfl

theorem freeBarrier_if (c : Bool) (s : State) (b : BarrierHold) :
    (if c then freeBarrier s b else s) = { s with plan := (if c then freeBarrier s b else s).plan } := by
  cases c <;> rfl

/-- Settling events before a reactivation reaches the events, the wafer manager's own activations and the plan's state (R497). -/
theorem settleRestart_eq (s : State) (e : Nat) : ∃ ev own pl, settleRestart s e = { s with events := ev, own := own, plan := pl } := by
  unfold settleRestart
  dsimp only
  rw [freeBarrier_if, freeBarrier_if]
  exact ⟨_, _, _, rfl⟩

/-- A restart that names its reactivation reaches the events and the activations that stand, the plan's state and the flag itself. -/
theorem nameRestart_eq (s : State) : ∃ ev own pl r l, nameRestart s = { s with
    events := ev, own := own, plan := pl, faults := { s.faults with restart := r }, sent := l } := by
  unfold nameRestart
  split
  · exact ⟨s.events, s.own, s.plan, s.faults.restart, s.sent, rfl⟩
  · split
    · exact ⟨s.events, s.own, s.plan, false, s.sent, rfl⟩
    · split
      · exact ⟨s.events, s.own, s.plan, s.faults.restart, s.sent, rfl⟩
      · split
        · rw [holdBarrier_eq, nameOwn_eq]
          exact ⟨_, _, _, s.faults.restart, _, rfl⟩
        · dsimp only
          rw [holdBarrier_eq, nameOwn_eq]
          obtain ⟨ev, own, pl, h⟩ := settleRestart_eq s (freeEpoch s (s.time.epoch + 4))
          rw [h]
          exact ⟨_, _, _, s.faults.restart, _, rfl⟩

theorem nameRestart_none {s : State} (h : s.faults.restart = false) : nameRestart s = s := by
  unfold nameRestart
  exact if_pos (by simp [h])

/-- What the host's clear takes: the wait, the time fault, and what kept the module in Held. -/
def hostCleared (s : State) : State := { s with
  faults := { s.faults with waitClear := false }
  time := { s.time with timeFault := false }
  power := { s.power with leaving := s.power.leaving || s.power.ladder == .held } }

theorem managementClear_served {s : State} (h : served s = true) : exec .managementClear s = .next (nameRestart (hostCleared s)) := by
  simp only [exec, execManagementClear, done]
  rw [if_neg (by simp [h])]
  rfl

/-! ## The obligation -/

theorem firmwareRevert_eq (s : State) : exec .firmwareRevert s = .next (firmwareOff s) := rfl

theorem watchdogExpiry_eq (core : Fin 4) {s : State} (h : s.mgmt.step ≠ 0) : exec (.watchdogExpiry core) s =
    .next (coreEvent { s with mgmt := { s.mgmt with restarts := satAdd s.mgmt.restarts 1 } } core.val) := if_neg h

/-- Settles O56: what `firmwareOff`, the stop of a core (`CoreStopped`) and a restart that is named (`nameRestart_eq`) can reach. -/
theorem firmwareAndRecoveryOfTheManager : Obligations.FirmwareAndRecoveryOfTheManager := by
  unfold Obligations.FirmwareAndRecoveryOfTheManager
  refine ⟨fun s => ⟨fun htrial => ?_, fun htrial ⟨v, hv, hkind, hepoch⟩ => ?_⟩,
    fun e s hact => ⟨fun hearly => ?_, fun hlate hrev => ?_⟩,
    fun core s hstep => ?_, fun s hserved => ?_⟩
  · obtain ⟨heq, hsent⟩ := firmwareOff_trial htrial
    refine ⟨_, firmwareRevert_eq s, ?_, hsent, ?_⟩
    · rw [heq]
    · rw [heq]
  · have hany : s.events.any (fwNext s) = true := List.any_eq_true.mpr ⟨v, hv, fwNext_iff.mpr ⟨hkind, hepoch⟩⟩
    have heq := firmwareOff_cancels htrial hany
    refine ⟨_, firmwareRevert_eq s, ?_, ?_, fun w => ?_, ?_⟩
    · rw [heq]
    · rw [heq]
    · rw [heq]
      rw [List.mem_filter, Bool.not_eq_true', ← Bool.not_eq_true, fwNext_iff]
    · rw [heq]
  · exact otpCounterAdvance_early hact hearly
  · refine ⟨_, otpCounterAdvance_due hact hlate hrev, rfl, rfl, ?_, fun c n hc => countersAfter_get hc, rfl⟩
    simp [countersAfter]
  · have hstopped := coreEvent_stopped { s with mgmt := { s.mgmt with restarts := satAdd s.mgmt.restarts 1 } } core.val
    refine ⟨_, watchdogExpiry_eq core hstep, ?_, hstopped.first, hstopped.again, hstopped.trial, ?_⟩
    · rw [hstopped.mgmt]
    · rw [hstopped.parts]
  · refine ⟨_, managementClear_served hserved, ?_⟩
    obtain ⟨ev, own, pl, r, l, heq⟩ := nameRestart_eq (hostCleared s)
    refine ⟨?_, ?_, fun hheld => ?_, ?_, ?_, fun hnone => ?_⟩
    · rw [heq]; rfl
    · rw [heq]; rfl
    · rw [heq]; simp [hostCleared, hheld]
    · rw [heq]; rfl
    · rw [heq]; rfl
    · rw [nameRestart_none (s := hostCleared s) hnone]; rfl

end Sys2Proof.Machine
end

section
/-! PROOFS. A field controller's commands, and the holes that a hole brings with it (R257, R260, R262, R512). -/

namespace Sys2Proof.Machine

/-! ## Holes arise, and none goes -/

theorem isHole_iff {s : State} {f : Nat} : isHole s f = true ↔ (s.field f).domain = .hole := by
  unfold isHole
  exact beq_iff_eq

/-- From one state to the next fields became holes, or had their spine switched; what is not in a hole stays. -/
structure HolesGrow (s t : State) : Prop where
  parts : t = { s with
    fields := t.fields, cells := t.cells, sites := t.sites, routers := t.routers, flits := t.flits, gets := t.gets, posts := t.posts
    ports := t.ports }
  fields : ∀ g, isHole t g = true ∨ t.field g = { s.field g with northSpine := (t.field g).northSpine }
  holes : ∀ g, isHole s g = true → isHole t g = true
  lost : ∀ g, (t.field g).lostStroke = (s.field g).lostStroke
  sites : ∀ k, isHole t (k / 74) = false → t.site k = s.site k

theorem holesGrow_refl (s : State) : HolesGrow s s := ⟨rfl, fun _ => .inr rfl, fun _ h => h, fun _ => rfl, fun _ _ => rfl⟩

theorem HolesGrow.trans {s t u : State} (h : HolesGrow s t) (g : HolesGrow t u) : HolesGrow s u where
  parts := by rw [g.parts, h.parts]
  fields := fun f => by
    rcases g.fields f with hu | hu
    · exact .inl hu
    · rcases h.fields f with ht | ht
      · exact .inl (g.holes f ht)
      · refine .inr ?_
        rw [hu, ht]
  holes := fun f hs => g.holes f (h.holes f hs)
  lost := fun f => (g.lost f).trans (h.lost f)
  sites := fun k hu => by
    have ht : isHole t (k / 74) = false := by
      cases hcase : isHole t (k / 74) with
      | false => rfl
      | true => exact absurd (hu.symm.trans (g.holes _ hcase)) (by decide)
    exact (g.sites k hu).trans (h.sites k ht)

theorem makeHole_field_same {s : State} (hwf : tblWf {} s.fields = true) (f : Nat) : (makeHole s f).field f = holeOf (s.field f) := by
  rw [State.field, makeHole_fields]
  exact tget_tset_same _ _ _ ((tblWf_iff _ _).mp hwf).1

theorem makeHole_field_other (s : State) {f g : Nat} (h : g ≠ f) : (makeHole s f).field g = s.field g := by
  rw [State.field, makeHole_fields]
  exact tget_tset_other _ _ _ h

theorem makeHole_isHole {s : State} (hwf : tblWf {} s.fields = true) (f : Nat) : isHole (makeHole s f) f = true := by
  rw [isHole_iff, makeHole_field_same hwf]
  rfl

theorem makeHole_site_other {s : State} (hwf : tblWf {} s.sites = true) {f k : Nat} (h : k / 74 ≠ f) :
    (makeHole s f).site k = s.site k := by
  obtain ⟨_, _, _, _, heq⟩ := makeHole_eq s f
  have hsites : (makeHole s f).sites = tmapAll {} (fun k st => if k / 74 = f then siteLost st else st) s.sites := by rw [heq]
  rw [State.site, hsites, tget_tmapAll _ _ ((tblWf_iff _ _).mp hwf).1 (if_neg h)]
  exact if_neg h

/-- The parts of the state that a hole reaches. -/
theorem makeHole_parts (s : State) (f : Nat) : ∃ fields cells sites routers flits gets posts ports, makeHole s f = { s with
    fields := fields, cells := cells, sites := sites, routers := routers, flits := flits, gets := gets, posts := posts
    ports := ports } := by
  obtain ⟨_, _, _, _, heq⟩ := makeHole_eq s f
  exact ⟨_, _, _, _, _, _, _, _, heq⟩

theorem makeHole_grow {s : State} (hwf : s.tablesWf = true) (f : Nat) : HolesGrow s (makeHole s f) := by
  obtain ⟨-, hsites, -, hfields, -⟩ := (tablesWf_iff s).mp hwf
  have hhole := makeHole_isHole hfields f
  refine { parts := ?_, fields := fun g => ?_, holes := fun g hg => ?_, lost := fun g => ?_, sites := fun k hk => ?_ }
  · obtain ⟨_, _, _, _, _, _, _, _, heq⟩ := makeHole_parts s f
    rw [heq]
  · by_cases hg : g = f
    · subst hg
      exact .inl hhole
    · exact .inr (by rw [makeHole_field_other s hg])
  · by_cases hgf : g = f
    · subst hgf
      exact hhole
    · rwa [isHole, makeHole_field_other s hgf]
  · by_cases hg : g = f
    · rw [hg, makeHole_field_same hfields]; rfl
    · rw [makeHole_field_other s hg]
  · refine makeHole_site_other hsites fun hkf => ?_
    rw [hkf, hhole] at hk
    exact absurd hk (by decide)

/-- A switch of a field's spine. -/
def setSpine (s : State) (f : Nat) (north : Bool) : State := s.modField f fun fs => { fs with northSpine := north }

theorem setSpine_field {s : State} (hwf : tblWf {} s.fields = true) (f : Nat) (north : Bool) (g : Nat) :
    (setSpine s f north).field g = { s.field g with northSpine := if g = f then north else (s.field g).northSpine } := by
  by_cases hg : g = f
  · subst hg
    rw [setSpine, State.modField_field_same hwf, if_pos rfl]
  · rw [setSpine, State.modField, State.setField_field_other _ hg, if_neg hg]

theorem setSpine_isHole {s : State} (hwf : tblWf {} s.fields = true) (f : Nat) (north : Bool) (g : Nat) :
    isHole (setSpine s f north) g = isHole s g := isHole_congr (by rw [setSpine_field hwf])

theorem setSpine_grow {s : State} (hwf : s.tablesWf = true) (f : Nat) (north : Bool) : HolesGrow s (setSpine s f north) := by
  obtain ⟨-, -, -, hfields, -⟩ := (tablesWf_iff s).mp hwf
  refine { parts := rfl, fields := fun g => .inr ?_, holes := fun g hg => ?_, lost := fun g => ?_, sites := fun _ _ => rfl }
  · rw [setSpine_field hfields]
  · rwa [setSpine_isHole hfields]
  · rw [setSpine_field hfields]

/-! ## Settling of holes (R260, R262) -/

/-- A field that no control route reaches, or that both its spines miss. -/
def cutField (s : State) (f : Nat) : Bool :=
  !isHole s f && (!(fieldsReached s).contains f || (holeSouth s f && holeNorth s f))

/-- One more field that is cut off becomes a hole. -/
def cutStep (s : State) : State :=
  match allFields.find? (cutField s) with
  | some f => makeHole s f
  | none => s

/-- The spine of one field is set by the holes south of it. -/
def spineStep (s : State) (f : Nat) : State :=
  if (s.field f).northSpine = holeSouth s f || isHole s f then s else setSpine s f (holeSouth s f)

theorem settleHoles_eq (s : State) :
    settleHoles s = allFields.foldl spineStep ((List.range 48).foldl (fun t _ => cutStep t) s) := rfl

theorem cutStep_keeps (s : State) : Keeps s (cutStep s) := by
  unfold cutStep
  split
  exacts [(keeps_refl s).makeHole, keeps_refl s]

theorem cutStep_grow {s : State} (hwf : s.tablesWf = true) : HolesGrow s (cutStep s) := by
  unfold cutStep
  split
  exacts [makeHole_grow hwf _, holesGrow_refl s]

theorem spineStep_keeps (s : State) (f : Nat) : Keeps s (spineStep s f) :=
  (keeps_refl s).ite (keeps_refl s).modField

theorem spineStep_grow {s : State} (hwf : s.tablesWf = true) (f : Nat) : HolesGrow s (spineStep s f) := by
  unfold spineStep
  split
  exacts [holesGrow_refl s, setSpine_grow hwf _ _]

theorem holesGrow_foldl {α : Type} {f : State → α → State} (hkeeps : ∀ s x, Keeps s (f s x))
    (hgrow : ∀ s x, s.tablesWf = true → HolesGrow s (f s x)) (l : List α) :
    ∀ s, s.tablesWf = true → HolesGrow s (l.foldl f s) ∧ (l.foldl f s).tablesWf = true := by
  induction l with
  | nil => exact fun s hwf => ⟨holesGrow_refl s, hwf⟩
  | cons x l ih =>
    intro s hwf
    obtain ⟨h, hwf'⟩ := ih (f s x) ((hkeeps s x).2 hwf)
    exact ⟨(hgrow s x hwf).trans h, hwf'⟩

theorem settleHoles_grow {s : State} (hwf : s.tablesWf = true) : HolesGrow s (settleHoles s) := by
  rw [settleHoles_eq]
  obtain ⟨hcut, hwf'⟩ := holesGrow_foldl (fun s _ => cutStep_keeps s) (fun _ _ => cutStep_grow) (List.range 48) s hwf
  exact hcut.trans (holesGrow_foldl spineStep_keeps (fun _ f h => spineStep_grow h f) allFields _ hwf').1

/-! ## Commands of the field controllers (R512) -/

/-- The field after a command whose checksum fails: counted, and marked where a publication was lost. -/
def commandRefused (fs : FieldState) (cmd : FcCmd) : FieldState :=
  { fs with
    cmdRej := satAdd fs.cmdRej 1, fcErr := fs.fcErr ||| 2
    pubs := match cmd with
      | .publish chan _ => tmod {} fs.pubs chan.val fun q => { q with refused := true }
      | _ => fs.pubs }

/-- A refused command is counted at its field and at the module. -/
def refusalCounted (s : State) (f : Field) (cmd : FcCmd) : State :=
  { s.modField f.val (fun fs => commandRefused fs cmd) with mgmt := { s.mgmt with cmdRej := satAdd s.mgmt.cmdRej 1 } }

/-- The state once the free link has carried a command of some words. -/
def linkServed (s : State) (f words : Nat) : State :=
  s.modField f fun fs => { fs with ctrlFree := ctrlNow s + words, ctrlRun := 0 }

section
variable {s : State} {f : Field} (hup : linksUp s f.val = true)
include hup

theorem fcCommand_refused (cmd : FcCmd) : exec (.fcCommand f cmd false) s = .next (coreEvent (refusalCounted s f cmd) 0) := by
  simp only [exec, execFcCommand, done]
  rw [if_neg (by simp [hup])]
  rfl

variable (hwf : s.tablesWf = true) (hidle : (s.field f.val).ctrlQueue = []) (hfree : (s.field f.val).ctrlFree ≤ ctrlNow s)
include hwf hidle hfree

theorem fcCommand_write (addr : BitVec 64) (v : BitVec 128) : exec (.fcCommand f (.writeRegister addr v) true) s =
    .next (fieldAct (linkServed s f.val (accessWords (some v) (regAddr addr))) f.val (.writeRegister addr v)) := by
  obtain ⟨-, -, -, hfields, -⟩ := (tablesWf_iff s).mp hwf
  obtain ⟨hsome, hfew⟩ := accessWords_few (some v) (regAddr addr)
  simp only [exec, execFcCommand, done]
  rw [if_neg (by simp [hup]), if_neg (by decide)]
  exact congrArg Host.Outcome.next (ctrlSend_free hfields (accessClass_lt _ _) hsome hfew hidle hfree)

theorem fcCommand_word {cmd : FcCmd} (hcmd : ∀ addr v, cmd ≠ .writeRegister addr v) : exec (.fcCommand f cmd true) s =
    .next (fieldAct (linkServed s f.val 1) f.val cmd) := by
  obtain ⟨-, -, -, hfields, -⟩ := (tablesWf_iff s).mp hwf
  have hsend : ∀ cls, cls < 4 → ctrlSend s f.val { cls := cls, words := 1, body := .command cmd } =
      fieldAct (linkServed s f.val 1) f.val cmd := fun cls hcls => ctrlSend_free hfields hcls le_rfl (Nat.le_of_ble_eq_true rfl) hidle hfree
  simp only [exec, execFcCommand, done]
  rw [if_neg (by simp [hup]), if_neg (by decide)]
  cases cmd with
  | writeRegister addr v => exact absurd rfl (hcmd addr v)
  | publish chan v => exact congrArg Host.Outcome.next (hsend 1 (by decide))
  | goDark => exact congrArg Host.Outcome.next (hsend 2 (by decide))
  | markHole => exact congrArg Host.Outcome.next (hsend 2 (by decide))

end

theorem linkServed_wf {s : State} (hwf : s.tablesWf = true) (f words : Nat) : (linkServed s f words).tablesWf = true :=
  ((keeps_refl s).modField).2 hwf

theorem linkServed_field {s : State} (hwf : s.tablesWf = true) (f words : Nat) :
    (linkServed s f words).field f = { s.field f with ctrlFree := ctrlNow s + words, ctrlRun := 0 } := by
  obtain ⟨-, -, -, hfields, -⟩ := (tablesWf_iff s).mp hwf
  exact State.modField_field_same hfields f fun fs => { fs with ctrlFree := ctrlNow s + words, ctrlRun := 0 }

theorem markHole_domain {s : State} (hwf : s.tablesWf = true) (f : Nat) : ((fieldAct s f .markHole).field f).domain = .hole := by
  obtain ⟨-, -, -, hfields, -⟩ := (tablesWf_iff s).mp hwf
  have hhole := makeHole_isHole hfields f
  rw [← isHole_iff]
  unfold fieldAct
  dsimp only
  split
  · exact hhole
  · exact (settleHoles_grow ((keeps_refl s).makeHole.2 hwf)).holes f hhole

/-- Settles O29: a refused command stops at `coreEvent`, and any other acts at once over its free link (`ctrlSend_free`). -/
theorem fieldControllerChecksCommands : Obligations.FieldControllerChecksCommands := by
  unfold Obligations.FieldControllerChecksCommands
  intro f cmd s hwf hup
  obtain ⟨-, -, -, hfields, -⟩ := (tablesWf_iff s).mp hwf
  refine ⟨?_, fun hidle hfree => ⟨fun hcmd hrun => ?_, fun hcmd => ?_, fun addr v hcmd => ?_, fun chan v hcmd hpubs => ?_⟩⟩
  · have hfield : (s.modField f.val fun fs => commandRefused fs cmd).field f.val = commandRefused (s.field f.val) cmd :=
      State.modField_field_same hfields f.val fun fs => commandRefused fs cmd
    obtain ⟨hparts, hmgmt, hfirst, hagain, -⟩ := coreEvent_stopped (refusalCounted s f cmd) 0
    have hfield' : (coreEvent (refusalCounted s f cmd) 0).field f.val = commandRefused (s.field f.val) cmd := by
      rw [State.field, hparts]
      exact hfield
    refine ⟨_, fcCommand_refused hup cmd, ?_, ?_, ?_, ?_, ?_, ?_⟩
    · rw [hfield']; rfl
    · rw [hfield']; rfl
    · rw [hmgmt]; rfl
    · by_cases hnew : ∃ u ∈ s.faults.coreEvents, boardTime s < u + 360000000000
      · exact (hagain hnew).imp fun r hr => ⟨hr.1, Nat.zero_le _, hr.2.2⟩
      · exact hfirst fun u hu => Nat.le_of_not_lt fun h => hnew ⟨u, hu, h⟩
    · rw [hparts]; rfl
    · rw [hparts]; rfl
  · subst hcmd
    refine ⟨_, fcCommand_word hup hwf hidle hfree (fun _ _ => by simp), ?_, rfl⟩
    have hrun' : ((linkServed s f.val 1).field f.val).domain = .running := by rw [linkServed_field hwf]; exact hrun
    obtain ⟨-, -, -, hfields', -⟩ := (tablesWf_iff _).mp (linkServed_wf hwf f.val 1)
    show ((makeDark _ _).field _).domain = _
    rw [makeDark, State.modField_field_same hfields', if_pos hrun']
  · subst hcmd
    exact ⟨_, fcCommand_word hup hwf hidle hfree (fun _ _ => by simp), markHole_domain (linkServed_wf hwf f.val 1) f.val⟩
  · subst hcmd
    exact fcCommand_write hup hwf hidle hfree addr v
  · subst hcmd
    obtain ⟨-, -, -, hfields', -⟩ := (tablesWf_iff _).mp (linkServed_wf hwf f.val 1)
    have hpub : ((fieldAct (linkServed s f.val 1) f.val (.publish chan v)).field f.val).pubs =
        tmod {} (s.field f.val).pubs chan.val fun q => { q with value := v, count := q.count + 1 } := by
      unfold fieldAct
      dsimp only
      rw [State.modField_field_same hfields', linkServed_field hwf]
    refine ⟨_, fcCommand_word hup hwf hidle hfree (fun _ _ => by simp), ?_, ?_, rfl⟩
    · rw [hpub, tget_tmod_same hpubs]
    · rw [hpub, tget_tmod_same hpubs]

end Sys2Proof.Machine
end

section
/-! PROOFS. Quads of the cascade ports: sequence, replay, lane lock and training (R421, R422, R424, R432, R435). -/

namespace Sys2Proof.Machine

/-! ## A cascade port changed twice -/

theorem State.modCasc_cascPort_same {s : State} (h : tblWf {} s.casc = true) (p : Nat) (g : CascState → CascState) :
    (s.modCasc p g).cascPort p = g (s.cascPort p) := State.setCascPort_cascPort_same s h

theorem State.modCasc_cascPort_other (s : State) {p j : Nat} (h : j ≠ p) (g : CascState → CascState) :
    (s.modCasc p g).cascPort j = s.cascPort j := State.setCascPort_cascPort_other s h

theorem State.modCasc_modCasc {s : State} (h : tblWf {} s.casc = true) (p : Nat) (g k : CascState → CascState) :
    (s.modCasc p g).modCasc p k = s.modCasc p fun c => k (g c) := by
  rw [State.modCasc, State.modCasc_cascPort_same h]
  simp only [State.modCasc, State.setCascPort]
  rw [tset_tset h]

/-! ## A quad goes down (R424, R435) -/

/-- A cascade port whose quad q has lost its lock. -/
def quadLost (q : Nat) (c : CascState) : CascState :=
  let d : CascState := { c with
    quads := tmod {} c.quads q fun x => { x with up := false, expect := 0, replays := 0 }, errStatus := c.errStatus ||| 2 }
  if (quadsUp d).isEmpty then { d with prime := .untrained, compactSent := false, received := [], kept := [] }
  else { d with received := d.received.filter fun u => u.quad != q }

theorem quadDown_eq {s : State} (h : tblWf {} s.casc = true) (p q : Nat) : quadDown s p q =
    if (s.cascPort p).prime == .admitted && boardRuns s then raiseModule (s.modCasc p (quadLost q)) 4 0x92 (detail := p * 8 + q)
    else s.modCasc p (quadLost q) := by
  unfold quadDown
  dsimp only
  rw [ckErr, modQuad, State.modCasc_modCasc h, State.modCasc_modCasc h]
  rfl

section
variable {c : CascState} (hwf : tblWf {} c.quads = true) (q : Nat)

theorem quadLost_quads : (quadLost q c).quads = tmod {} c.quads q fun x => { x with up := false, expect := 0, replays := 0 } := by
  unfold quadLost
  dsimp only
  split <;> rfl

theorem quadLost_lock : tb (quadLost q c).errStatus.toNat 1 = true := by
  have h : (quadLost q c).errStatus = c.errStatus ||| 2 := by
    unfold quadLost
    dsimp only
    split <;> rfl
  rw [h]
  exact tb_or_right _ (by decide)

theorem quadLost_fec : (quadLost q c).fecCorr = c.fecCorr ∧ (quadLost q c).fecUncorr = c.fecUncorr := by
  unfold quadLost
  dsimp only
  split <;> exact ⟨rfl, rfl⟩

include hwf in
theorem quadLost_up : (tget {} (quadLost q c).quads q).up = false := by
  rw [quadLost_quads, tget_tmod_same hwf]

theorem quadsUp_empty (h : ∀ n, (tget {} c.quads n).up = false) (hwf : tblWf {} c.quads = true) : quadsUp c = [] := by
  refine List.filter_eq_nil_iff.mpr fun x hx => ?_
  rw [← (tget_of_mem {} ((tblWf_iff _ _).mp hwf).1 hx).2, h]
  decide

include hwf in
theorem quadLost_untrained (h : ∀ n, n ≠ q → (tget {} c.quads n).up = false) : (quadLost q c).prime = .untrained := by
  unfold quadLost
  dsimp only
  have hdown : ∀ n, (tget {} (tmod {} c.quads q fun x => { x with up := false, expect := 0, replays := 0 }) n).up = false := by
    intro n
    by_cases hn : n = q
    · rw [hn, tget_tmod_same hwf]
    · rw [tmod, tget_tset_other _ _ _ hn]
      exact h n hn
  have hquads := tblWf_tmod ({} : QuadState) q (fun x => { x with up := false, expect := 0, replays := 0 }) hwf
  rw [quadsUp_empty hdown hquads]
  rfl

end

/-- A quad goes down: its port is changed, and where the board runs one plan over an admitted port a record is made. -/
structure QuadGone (s t : State) (p q : Nat) : Prop where
  port : t.cascPort p = quadLost q (s.cascPort p)
  record : (s.cascPort p).prime = .admitted → boardRuns s = true → onRing t 4 0x92
  alone : boardRuns s = false → t = { s with casc := t.casc }

theorem quadDown_gone {s : State} (h : tblWf {} s.casc = true) (p q : Nat) : QuadGone s (quadDown s p q) p q := by
  have hport := State.modCasc_cascPort_same h p (quadLost q)
  rw [quadDown_eq h]
  cases hcase : (s.cascPort p).prime == .admitted && boardRuns s with
  | true =>
    obtain ⟨-, hruns⟩ := Bool.and_eq_true_iff.mp hcase
    rw [if_pos rfl]
    exact {
      port := by rw [State.cascPort, (raiseModule_recorded ..).parts]; exact hport
      record := fun _ _ => onRing_raiseModule _ _ _ _ _ _ (by decide)
      alone := fun hno => absurd (hruns.symm.trans hno) (by decide) }
  | false =>
    rw [if_neg Bool.false_ne_true]
    exact {
      port := hport
      record := fun hadm hruns => absurd hcase (by simp [hadm, hruns])
      alone := fun _ => rfl }

/-! ## Flits (R421, R422) -/

/-- The check of a flit: its FEC and its CRC. -/
def flitGood (flit : Bytes) (fec : FecCount) : Bool :=
  fec.uncorrectable == 0 && crc32Yelzia (bytesAt flit 0 252) == fieldAt flit 252 4

/-- The counts of a port after a flit. -/
def fecCounted (fec : FecCount) (c : CascState) : CascState :=
  { c with fecCorr := satAdd c.fecCorr fec.corrected, fecUncorr := satAdd c.fecUncorr fec.uncorrectable }

/-- A flit that fails is counted, and a CRC that failed alone is marked. -/
def flitFailed (fec : FecCount) (c : CascState) : CascState :=
  { fecCounted fec c with
    replay := satAdd c.replay 1, errStatus := if fec.uncorrectable == 0 then c.errStatus ||| 1 else c.errStatus }

/-- The port once a flit that failed is asked for again. -/
def flitAsked (q : Nat) (fec : FecCount) (c : CascState) : CascState :=
  { flitFailed fec c with quads := tmod {} c.quads q fun x => { x with replays := x.replays + 1 } }

/-- The port once a flit with the sequence expected is taken. -/
def flitTaken (q : Nat) (fec : FecCount) (c : CascState) : CascState :=
  { fecCounted fec c with quads := tmod {} c.quads q fun x => { x with expect := x.expect + 1, replays := 0 } }

section
variable {p : CascPort} {q : Quad} {flit : Bytes} {fec : FecCount} {s : State}

theorem yelziaFlitReceive_idle (h : quadCarries s p.val q.val = false) : exec (.yelziaFlitReceive p q flit fec) s = .next s := by
  simp only [exec, execYelziaFlitReceive, done, h, Bool.not_false, if_true]

/-- What a good flit does: nothing where its sequence is another's, and else it is taken. -/
def goodFlit (s : State) (p q : Nat) (flit : Bytes) (fec : FecCount) : State :=
  let x := tget {} (s.cascPort p).quads q
  if bf (fieldAt flit 0 2) 11 0 ≠ x.expect.toNat then s.modCasc p (fecCounted fec)
  else if bf (fieldAt flit 0 2) 15 14 = 0 ∧ (s.cascPort p).prime = .admitted ∧ s.board.halted = none then
    s.modCasc p fun c => { flitTaken q fec c with received := c.received ++ flitUnits s q x.latency flit }
  else s.modCasc p (flitTaken q fec)

/-- What a flit that fails does: it is asked for again, or its quad goes down. -/
def badFlit (s : State) (p q : Nat) (fec : FecCount) : State :=
  let x := tget {} (s.cascPort p).quads q
  if 8 ≤ x.replays then quadDown (s.modCasc p (flitFailed fec)) p q
  else (s.modCasc p (flitAsked q fec)).emit (.replayRequest p q x.expect)

theorem yelziaFlitReceive_carried (hwf : tblWf {} s.casc = true) (h : quadCarries s p.val q.val = true) :
    exec (.yelziaFlitReceive p q flit fec) s =
      .next (if flitGood flit fec then goodFlit s p.val q.val flit fec else badFlit s p.val q.val fec) := by
  have hport : (s.modCasc p.val (fecCounted fec)).cascPort p.val = fecCounted fec (s.cascPort p.val) :=
    State.modCasc_cascPort_same hwf ..
  have hstill : quadCarries (s.modCasc p.val (fecCounted fec)) p.val q.val = true := by
    rw [quadCarries, hport]
    exact h
  have hbad : (!(fec.uncorrectable == 0) || crc32Yelzia (bytesAt flit 0 252) != fieldAt flit 252 4) = !flitGood flit fec := by
    rw [flitGood, Bool.not_and]
    rfl
  have hcount : (s.modCasc p.val fun c => { c with
      fecCorr := satAdd c.fecCorr fec.corrected, fecUncorr := satAdd c.fecUncorr fec.uncorrectable }) =
      s.modCasc p.val (fecCounted fec) := rfl
  simp only [exec, execYelziaFlitReceive, done, h, hbad, hcount, hstill, modQuad, State.modCasc_modCasc hwf,
    State.modCasc_cascPort_same hwf, Bool.not_true,
    Bool.false_eq_true, if_false]
  cases flitGood flit fec with
  | false =>
    rw [if_pos (by rw [Bool.not_false]), if_neg Bool.false_ne_true, badFlit]
    split
    · rfl
    · rfl
  | true =>
    rw [if_neg (by rw [Bool.not_true]; decide), if_pos rfl, goodFlit]
    split
    · rfl
    · by_cases hwait : bf (fieldAt flit 0 2) 15 14 = 0 ∧ (s.cascPort p.val).prime = .admitted ∧ s.board.halted = none
      · exact (if_pos hwait).trans (congrArg Host.Outcome.next (if_pos hwait).symm)
      · exact (if_neg hwait).trans (congrArg Host.Outcome.next (if_neg hwait).symm)

theorem flitGood_iff : flitGood flit fec = true ↔
    fec.uncorrectable = 0 ∧ crc32Yelzia (bytesAt flit 0 252) = fieldAt flit 252 4 := by
  simp [flitGood]

section
variable {p q : Nat} (hwf : tblWf {} s.casc = true)

theorem badFlit_asks (hfew : (tget {} (s.cascPort p).quads q).replays < 8) : badFlit s p q fec =
    (s.modCasc p (flitAsked q fec)).emit (.replayRequest p q (tget {} (s.cascPort p).quads q).expect) := if_neg (Nat.not_le.mpr hfew)

include hwf in
theorem badFlit_asks_port (hfew : (tget {} (s.cascPort p).quads q).replays < 8) :
    (badFlit s p q fec).cascPort p = flitAsked q fec (s.cascPort p) := by
  rw [badFlit_asks hfew]
  exact State.modCasc_cascPort_same hwf p _

theorem badFlit_downs (hmany : 8 ≤ (tget {} (s.cascPort p).quads q).replays) :
    badFlit s p q fec = quadDown (s.modCasc p (flitFailed fec)) p q := if_pos hmany

include hwf in
/-- A quad that goes down by a flit that failed. -/
theorem badFlit_downs_port (hmany : 8 ≤ (tget {} (s.cascPort p).quads q).replays) :
    (badFlit s p q fec).cascPort p = quadLost q (flitFailed fec (s.cascPort p)) := by
  have hwf' : tblWf {} (s.modCasc p (flitFailed fec)).casc = true := tblWf_tset _ _ _ hwf
  rw [badFlit_downs hmany, (quadDown_gone hwf' p q).port, State.modCasc_cascPort_same hwf]

/-- A good flit with the sequence expected, before and after its units are put on the port. -/
def flitStored (s : State) (p q : Nat) (flit : Bytes) (fec : FecCount) (c : CascState) : CascState :=
  if bf (fieldAt flit 0 2) 15 14 = 0 ∧ (s.cascPort p).prime = .admitted ∧ s.board.halted = none then
    { flitTaken q fec c with received := c.received ++ flitUnits s q (tget {} (s.cascPort p).quads q).latency flit }
  else flitTaken q fec c

theorem goodFlit_takes (hseq : bf (fieldAt flit 0 2) 11 0 = (tget {} (s.cascPort p).quads q).expect.toNat) :
    goodFlit s p q flit fec = s.modCasc p (flitStored s p q flit fec) := by
  unfold goodFlit flitStored
  dsimp only
  rw [if_neg (not_not_intro hseq)]
  split <;> rfl

theorem flitStored_quads (c : CascState) : (flitStored s p q flit fec c).quads =
    tmod {} c.quads q fun x => { x with expect := x.expect + 1, replays := 0 } := by
  unfold flitStored
  split <;> rfl

/-- The correctable and the uncorrectable errors of a flit are counted at its port. -/
def FecCounted (fec : FecCount) (c d : CascState) : Prop :=
  d.fecCorr = satAdd c.fecCorr fec.corrected ∧ d.fecUncorr = satAdd c.fecUncorr fec.uncorrectable

include hwf in
theorem badFlit_fec : FecCounted fec (s.cascPort p) ((badFlit s p q fec).cascPort p) := by
  by_cases hmany : 8 ≤ (tget {} (s.cascPort p).quads q).replays
  · rw [badFlit_downs_port hwf hmany]
    exact quadLost_fec q
  · rw [badFlit_asks_port hwf (Nat.not_le.mp hmany)]
    exact ⟨rfl, rfl⟩

include hwf in
theorem goodFlit_fec : FecCounted fec (s.cascPort p) ((goodFlit s p q flit fec).cascPort p) := by
  unfold goodFlit
  dsimp only
  split
  · rw [State.modCasc_cascPort_same hwf]
    exact ⟨rfl, rfl⟩
  · split
    · rw [State.modCasc_cascPort_same hwf]
      exact ⟨rfl, rfl⟩
    · rw [State.modCasc_cascPort_same hwf]
      exact ⟨rfl, rfl⟩

end

/-- The units of a flit carry their route, their place and their data. -/
theorem mem_flitUnits (s : State) (q latency : Nat) {flit : Bytes} {i : Nat} (h : i < bf (fieldAt flit 0 2) 13 12) :
    ∃ u ∈ flitUnits s q latency flit, u.rid = bf (fieldAt flit (4 + 4 * i) 4) 31 22 ∧
      u.unit = bf (fieldAt flit (4 + 4 * i) 4) 21 16 ∧ u.dcyc = bf (fieldAt flit (4 + 4 * i) 4) 15 7 ∧ u.quad = q ∧
      u.data = flitUnit flit i :=
  ⟨_, List.mem_map.mpr ⟨i, List.mem_range.mpr h, rfl⟩, rfl, rfl, rfl, rfl, rfl⟩

end

/-! ## Lane lock and training (R421, R424, R432) -/

theorem laneLockLoss_up {p : CascPort} {q : Quad} {s : State} (h : (tget {} (s.cascPort p.val).quads q.val).up = true) :
    exec (.laneLockLoss p q) s = .next (quadDown s p.val q.val) := if_pos h

section
variable {p : CascPort} {q : Quad} {s : State} (hmay : quadMay s p.val q.val = true)
  (hdown : (tget {} (s.cascPort p.val).quads q.val).up = false)
include hmay hdown

theorem quadTrainingComplete_slow {latency : Nat} (h : 40 < latency) :
    exec (.quadTrainingComplete p q latency) s = .next (ckErr s p.val 3) := by
  simp only [exec, execQuadTrainingComplete, done, hmay, hdown]
  rw [if_neg (by decide), if_pos h]

theorem quadTrainingComplete_trained (hwf : tblWf {} s.casc = true) {latency : Nat} (h : latency ≤ 40) :
    exec (.quadTrainingComplete p q latency) s = .next (s.modCasc p.val fun c => { c with
      quads := tmod {} c.quads q.val fun _ => { up := true, latency := latency }, prime := .untrained, compactSent := false }) := by
  simp only [exec, execQuadTrainingComplete, done, hmay, hdown]
  rw [if_neg (by decide), if_neg (by omega), primeAgain, modQuad, State.modCasc_modCasc hwf]

end

/-- Settles O58: each way a flit goes changes its port by one function of the port before (`flitAsked`, `quadLost`, `flitStored`). -/
theorem quadsCarryFlitsInSequence : Obligations.QuadsCarryFlitsInSequence := by
  unfold Obligations.QuadsCarryFlitsInSequence
  refine ⟨fun p q flit fec s hwf => ?_, fun p q flit fec s h => yelziaFlitReceive_idle h, fun p q s hwf hquads hup => ?_,
    fun p q latency s hwf hquads hmay hdown => ⟨fun hfast => ?_, fun hslow => ?_⟩⟩
  all_goals obtain ⟨-, -, -, -, -, -, hcasc, -⟩ := (tablesWf_iff s).mp hwf
  · intro c x good hcarries hquads
    have hexec := yelziaFlitReceive_carried (flit := flit) (fec := fec) hcasc hcarries
    have hbad : ¬ good → exec (.yelziaFlitReceive p q flit fec) s = .next (badFlit s p.val q.val fec) := fun h => by
      rw [hexec, if_neg (mt flitGood_iff.mp h)]
    have hgood : good → exec (.yelziaFlitReceive p q flit fec) s = .next (goodFlit s p.val q.val flit fec) := fun h => by
      rw [hexec, if_pos (flitGood_iff.mpr h)]
    refine ⟨fun h hfew => ⟨_, hbad h, ?_⟩, fun h hmany => ⟨_, hbad h, ?_⟩, fun t ht => ?_, fun h hseq => ⟨_, hgood h, ?_⟩,
      fun h hseq => ⟨_, hgood h, ?_⟩⟩
    · have hport := badFlit_asks_port (fec := fec) hcasc hfew
      refine ⟨?_, ?_, ?_, ?_, ?_⟩
      · rw [hport]; rfl
      · rw [hport]; exact tget_tmod_same hquads q.val fun x => { x with replays := x.replays + 1 }
      · rw [hport]; rfl
      · rw [badFlit_asks hfew]; rfl
      · rw [badFlit_asks hfew]; rfl
    · rw [badFlit_downs_port hcasc hmany]
      exact ⟨quadLost_up (c := flitFailed fec c) hquads q.val, quadLost_lock q.val⟩
    · by_cases h : good
      · obtain rfl := Host.Outcome.next.inj ((hgood h).symm.trans ht)
        exact goodFlit_fec hcasc
      · obtain rfl := Host.Outcome.next.inj ((hbad h).symm.trans ht)
        exact badFlit_fec hcasc
    · have heq : goodFlit s p.val q.val flit fec = s.modCasc p.val (fecCounted fec) := if_pos hseq
      have hport := State.modCasc_cascPort_same hcasc p.val (fecCounted fec)
      rw [heq]
      exact ⟨(congrArg CascState.quads hport).trans rfl, (congrArg CascState.received hport).trans rfl,
        fun j hj => State.modCasc_cascPort_other s hj _, rfl⟩
    · have hport := State.modCasc_cascPort_same hcasc p.val (flitStored s p.val q.val flit fec)
      rw [goodFlit_takes hseq]
      refine ⟨?_, fun hvc hprime hhalt => ?_, fun hno => ?_, fun j hj => State.modCasc_cascPort_other s hj _, rfl⟩
      · rw [hport, flitStored_quads]
        exact tget_tmod_same hquads _ _
      · have hstored : ((s.modCasc p.val (flitStored s p.val q.val flit fec)).cascPort p.val).received =
            c.received ++ flitUnits s q.val x.latency flit := by rw [hport, flitStored, if_pos ⟨hvc, hprime, hhalt⟩]
        refine ⟨hstored, fun i hi => ?_⟩
        obtain ⟨u, hu, hparts⟩ := mem_flitUnits s q.val x.latency hi
        exact ⟨u, hstored ▸ List.mem_append_right _ hu, hparts⟩
      · rw [hport, flitStored, if_neg hno]
        rfl
  · have hgone := quadDown_gone hcasc p.val q.val
    refine ⟨_, laneLockLoss_up hup, ?_, ?_, fun halone => ?_, hgone.record, hgone.alone⟩
    · rw [hgone.port]; exact quadLost_up hquads q.val
    · rw [hgone.port]; exact quadLost_lock q.val
    · rw [hgone.port]; exact quadLost_untrained hquads q.val halone
  · have hport := State.modCasc_cascPort_same hcasc p.val fun c => { c with
      quads := tmod {} c.quads q.val fun _ => { up := true, latency := latency }, prime := .untrained, compactSent := false }
    refine ⟨_, quadTrainingComplete_trained hmay hdown hcasc hfast, ?_, ?_, ?_, fun j hj => State.modCasc_cascPort_other s hj _, rfl⟩
    · rw [hport]; exact tget_tmod_same hquads q.val fun _ => { up := true, latency := latency }
    · rw [hport]
    · rw [hport]
  · have hport : (ckErr s p.val 3).cascPort p.val = { s.cascPort p.val with errStatus := (s.cascPort p.val).errStatus ||| 8 } :=
      State.modCasc_cascPort_same hcasc p.val _
    refine ⟨_, quadTrainingComplete_slow hmay hdown hslow, ?_, ?_, rfl⟩
    · rw [hport]; exact tb_or_right _ (by decide)
    · rw [hport]

end Sys2Proof.Machine
end

section
/-! PROOFS. Windows that management opens and closes, and what its queries are answered with (R405, R514, R515, R527 to R529, R535). -/

namespace Sys2Proof.Machine

/-! ## Requests for a window (R405, R520, R533) -/

theorem windowRefusal_none {s : State} (hs : servedFully s) (hladder : s.power.ladder ≠ .banked) {w : Nat} (hw : w < 4) :
    windowRefusal s w = none := by
  have hrun : (s.power.ladder == .banked) = false := by simpa using hladder
  unfold windowRefusal
  rw [if_neg (fun h => hs.2 h.1), if_neg (by omega), if_neg (by omega), hrun]
  rfl

theorem nextGen_ne_zero (g : BitVec 16) : nextGen g ≠ 0 := by
  unfold nextGen
  split
  · decide
  · rename_i h
    intro h0
    apply h
    bv_omega

theorem toNat_ofNat_window (w : Fin 4) : (BitVec.ofNat 8 w.val).toNat = w.val := by
  rw [BitVec.toNat_ofNat, Nat.mod_eq_of_lt (by omega)]

section
variable {s : State} {tag : BitVec 16} {w : Fin 4} (hs : servedFully s) (hladder : s.power.ladder ≠ .banked)
include hs hladder

theorem openWindow_held (h : (s.window w.val).state = .held) :
    exec (.openWindow tag (BitVec.ofNat 8 w.val)) s = .next (respond s 8 tag stLoadBusy) := by
  simp only [exec, execOpenWindow, done, toNat_ofNat_window, windowRefusal_none hs hladder w.isLt, hs.1]
  rw [if_neg (by decide), if_pos (.inl h)]

theorem openWindow_opens (h : (s.window w.val).state ≠ .held)
    (hplan : w.val = 1 → s.plan.stage = none ∨ s.plan.stage = some .receiving) :
    exec (.openWindow tag (BitVec.ofNat 8 w.val)) s = .next (respond (openWin s w.val) 8 tag stAccepted
      [(winKey w.val ((openWin s w.val).window w.val).gen).setWidth 64]) := by
  have hfree : (w.val == 1 && s.plan.stage.isSome && s.plan.stage != some .receiving) = false := by
    by_cases hw : w.val = 1
    · rcases hplan hw with h | h <;> simp [h]
    · simp [hw]
  simp only [exec, execOpenWindow, done, toNat_ofNat_window, windowRefusal_none hs hladder w.isLt, hs.1, hfree]
  rw [if_neg (by decide), if_neg (by simpa using h)]

theorem closeWindow_closed (h : (s.window w.val).state = .closed) (pack : Option TestPack) (corrupt : Option HostPort) :
    exec (.closeWindow tag (BitVec.ofNat 8 w.val) pack corrupt) s = .next (respond s 8 tag stNotReady) := by
  simp only [exec, execCloseWindow, done, toNat_ofNat_window, windowRefusal_none hs hladder w.isLt, hs.1]
  rw [if_neg (by decide), if_pos (.inl (by rw [h]; decide))]

end

/-- A window that opens changes the windows and the plan. -/
theorem openWin_eq (s : State) (w : Nat) : ∃ pl, openWin s w =
    { s.setWindow w { state := .open_, gen := nextGen (s.window w).gen } with plan := pl } := by
  unfold openWin
  dsimp only
  split
  · exact ⟨_, rfl⟩
  · exact ⟨s.plan, rfl⟩

theorem openWin_windows (s : State) (w : Nat) :
    (openWin s w).windows = tset {} s.windows w { state := .open_, gen := nextGen (s.window w).gen } := by
  obtain ⟨pl, heq⟩ := openWin_eq s w
  rw [heq]
  rfl

theorem openWin_window_same {s : State} (h : tblWf {} s.windows = true) (w : Nat) :
    (openWin s w).window w = { state := .open_, gen := nextGen (s.window w).gen } := by
  rw [State.window, openWin_windows]
  exact tget_tset_same _ _ _ ((tblWf_iff _ _).mp h).1

theorem openWin_window_other (s : State) {w v : Nat} (h : v ≠ w) : (openWin s w).window v = s.window v := by
  rw [State.window, openWin_windows]
  exact tget_tset_other _ _ _ h

/-! ## A close that takes effect (R405, R407, R409) -/

theorem setWindow_wf {s : State} {w : Nat} (h : tblWf {} s.windows = true) (v : Window) : tblWf {} (s.setWindow w v).windows = true :=
  tblWf_tset ({} : Window) w v h

/-- A window whose close waits. -/
def closeAsked (s : State) (w : Nat) (r : CloseReq) : State :=
  s.setWindow w { s.window w with closing := some r, closeAt := boardTime s }

/-- A window held for the operation that takes its content. -/
def heldWin (s : State) (w : Nat) (tag : BitVec 16) : State := { s with
  windows := tset {} s.windows w { s.window w with
    state := .held, closing := none, closeAt := boardTime s, partials := [], answer := some tag } }

/-- The window of a close that takes effect is held, and its answer waits. -/
def heldFor (s : State) (w : Nat) (tag : BitVec 16) : State :=
  s.setWindow w { s.window w with state := .held, closing := none, partials := [], answer := some tag }

section
variable {s : State} {w : Nat} {r : CloseReq}

theorem takeClose_corrupt {p : HostPort} (hclosing : (s.window w).closing = some r) (h : r.corrupt = some p) : takeClose s w =
    closeWin (answerWin (corruptStatus (segmentCorrupt (heldFor s w r.tag) p) w) w stWindowCorrupt) w := by
  unfold takeClose
  dsimp only
  rw [hclosing]
  dsimp only
  rw [h]
  rfl

theorem takeClose_plan (hclosing : (s.window 1).closing = some r) (h : r.corrupt = none) :
    takeClose s 1 = { heldFor s 1 r.tag with plan := { s.plan with stage := some .checking } } := by
  unfold takeClose
  dsimp only
  rw [hclosing]
  dsimp only
  rw [h]
  rfl

theorem takeClose_image (hclosing : (s.window 2).closing = some r) (h : r.corrupt = none) :
    takeClose s 2 = takeImage (heldFor s 2 r.tag) := by
  unfold takeClose
  dsimp only
  rw [hclosing]
  dsimp only
  rw [h]
  rfl

variable (hwf : tblWf {} s.windows = true)
include hwf

theorem closeAsked_window : (closeAsked s w r).window w = { s.window w with closing := some r, closeAt := boardTime s } :=
  State.setWindow_window_same s hwf

theorem closeAsked_closing : ((closeAsked s w r).window w).closing = some r := by rw [closeAsked_window hwf]

theorem closeAsked_held : heldFor (closeAsked s w r) w r.tag = heldWin s w r.tag := by
  rw [heldFor, closeAsked_window hwf, closeAsked, heldWin]
  simp only [State.setWindow]
  rw [tset_tset hwf]

theorem heldFor_window (tag : BitVec 16) : (heldFor s w tag).window w =
    { s.window w with state := .held, closing := none, partials := [], answer := some tag } := State.setWindow_window_same s hwf

theorem heldFor_wf (tag : BitVec 16) : tblWf {} (heldFor s w tag).windows = true := setWindow_wf hwf _

theorem heldWin_window (tag : BitVec 16) : (heldWin s w tag).window w = { s.window w with
    state := .held, closing := none, closeAt := boardTime s, partials := [], answer := some tag } :=
  State.setWindow_window_same s hwf

theorem heldWin_wf (tag : BitVec 16) : tblWf {} (heldWin s w tag).windows = true := setWindow_wf hwf { s.window w with
  state := .held, closing := none, closeAt := boardTime s, partials := [], answer := some tag }

theorem heldWin_winBytes (tag : BitVec 16) (o n : Nat) : winBytes (heldWin s w tag) w o n = winBytes s w o n := by
  rw [winBytes, heldWin_window hwf, winBytes]

/-- A close takes effect at once where no message is partly received. -/
theorem settleClose_asked : settleClose (closeAsked s w r) w =
    if (s.window w).partials.isEmpty then takeClose (closeAsked s w r) w else closeAsked s w r := by
  unfold settleClose
  rw [closeAsked_window hwf]
  simp

end

section
variable {s : State} {tag : BitVec 16} {w : Fin 4} (hs : servedFully s) (hladder : s.power.ladder ≠ .banked)
  (hwf : tblWf {} s.windows = true) (hopen : (s.window w.val).state = .open_) (hnone : (s.window w.val).closing = none)
  (pack : Option TestPack) (corrupt : Option HostPort)
include hs hladder hwf hopen hnone

theorem closeWindow_asks : exec (.closeWindow tag (BitVec.ofNat 8 w.val) pack corrupt) s = .next (
    if (s.window w.val).partials.isEmpty then takeClose (closeAsked s w.val ⟨tag, pack, corrupt⟩) w.val
    else closeAsked s w.val ⟨tag, pack, corrupt⟩) := by
  simp only [exec, execCloseWindow, done, toNat_ofNat_window, windowRefusal_none hs hladder w.isLt, hs.1]
  rw [if_neg (by decide), if_neg (by rw [hopen, hnone]; simp)]
  exact congrArg Host.Outcome.next (settleClose_asked hwf)

theorem closeWindow_waits (hparts : (s.window w.val).partials ≠ []) :
    exec (.closeWindow tag (BitVec.ofNat 8 w.val) pack corrupt) s = .next (closeAsked s w.val ⟨tag, pack, corrupt⟩) := by
  rw [closeWindow_asks hs hladder hwf hopen hnone, if_neg (by simpa using hparts)]

theorem closeWindow_takes (hparts : (s.window w.val).partials = []) :
    exec (.closeWindow tag (BitVec.ofNat 8 w.val) pack corrupt) s =
      .next (takeClose (closeAsked s w.val ⟨tag, pack, corrupt⟩) w.val) := by
  rw [closeWindow_asks hs hladder hwf hopen hnone, if_pos (by rw [hparts]; rfl)]

end

/-- An answer and a close: the window's answer leaves, and the window is closed under its generation. -/
theorem closeAnswered {s : State} (hwf : tblWf {} s.windows = true) {w : Nat} {tag : BitVec 16}
    (h : (s.window w).answer = some tag) (st : Nat) : ∃ ws l, closeWin (answerWin s w st) w = { s with windows := ws, sent := l } ∧
      tget {} ws w = { gen := (s.window w).gen } ∧ l = s.sent ++ [.response (BitVec.ofNat 16 (8 ||| 0x8000)) tag st []] := by
  obtain ⟨ws, l, heq, hws, hgen, hsent⟩ := answerWin_spec hwf w st []
  rw [heq, ← hgen]
  exact ⟨_, l, rfl, State.setWindow_window_same { s with windows := ws, sent := l } hws, hsent tag h⟩

theorem corruptStatus_aside (s : State) (w : Nat) : (corruptStatus s w).windows = s.windows ∧
    (corruptStatus s w).sent = s.sent ∧ (corruptStatus s w).ports = s.ports := by
  unfold corruptStatus
  split <;> exact ⟨rfl, rfl, rfl⟩

/-- A held window whose content was corrupt in transit is closed and answered so, and its port counts it (R409). -/
theorem takeClose_corrupt_answers {s : State} (hwins : tblWf {} s.windows = true) (hports : tblWf {} s.ports = true) {w : Nat}
    {r : CloseReq} {p : HostPort} (hclosing : (s.window w).closing = some r) (h : r.corrupt = some p) :
    (takeClose s w).window w = { gen := (s.window w).gen } ∧ answers s (takeClose s w) 8 r.tag stWindowCorrupt [] ∧
      ((takeClose s w).port p.val).crcFail = satAdd (s.port p.val).crcFail 1 := by
  obtain ⟨hwin, hsent, hport⟩ := corruptStatus_aside (segmentCorrupt (heldFor s w r.tag) p) w
  have hheld : (corruptStatus (segmentCorrupt (heldFor s w r.tag) p) w).window w = (heldFor s w r.tag).window w := by
    rw [State.window, hwin]
    rfl
  have hanswer : ((corruptStatus (segmentCorrupt (heldFor s w r.tag) p) w).window w).answer = some r.tag := by
    rw [hheld, heldFor_window hwins]
  obtain ⟨ws, l, heq, hclosed, hl⟩ := closeAnswered (hwin ▸ heldFor_wf hwins r.tag) hanswer stWindowCorrupt
  rw [takeClose_corrupt hclosing h, heq]
  refine ⟨hclosed.trans ?_, hl.trans (by rw [hsent]; rfl), ?_⟩
  · rw [hheld, heldFor_window hwins]
  · rw [State.port, hport]
    exact congrArg PortState.crcFail (segmentCorrupt_port (s := heldFor s w r.tag) hports p)

/-- An image that fails its checks is answered with what they find (R531). -/
theorem takeImage_refused {s : State} (hwf : tblWf {} s.windows = true) {tag : BitVec 16} {e : Nat}
    (h : checkImage (heldWin s 2 tag) (winBytes s 2 0 (min 268435456 (imgEnd (winBytes s 2 0 128)))) = .error e) :
    ((takeImage (heldWin s 2 tag)).window 2).state = .closed ∧ (takeImage (heldWin s 2 tag)).fw = { s.fw with status := e } ∧
      answers s (takeImage (heldWin s 2 tag)) 8 tag e [] := by
  have hanswer : ((heldWin s 2 tag).window 2).answer = some tag := congrArg Window.answer (heldWin_window hwf tag)
  obtain ⟨ws, l, heq, hclosed, hl⟩ := closeAnswered
    (s := { heldWin s 2 tag with fw := { (heldWin s 2 tag).fw with status := e } }) (heldWin_wf hwf tag) hanswer e
  unfold takeImage
  dsimp only
  rw [heldWin_winBytes hwf, heldWin_winBytes hwf, h]
  dsimp only
  rw [heq]
  exact ⟨congrArg Window.state hclosed, rfl, hl⟩

/-! ## Queries (R364, R514, R527 to R529, R535) -/

section
variable {s : State} {tag : BitVec 16} (hs : servedFully s)
include hs

theorem readRegisters_cells {addr : BitVec 64} (count : Nat) (h : (regAddr addr).block = 9) :
    exec (.readRegisters tag addr count) s = .next (respond s 1 tag stBadAddress) := by
  simp only [exec, execReadRegisters, done, hs.1, h]
  rw [if_neg (by decide), if_neg (fun h6 => hs.2 h6.1), if_pos trivial]

theorem readRegisters_values {addr : BitVec 64} {count : Nat} {rows : List (Nat × Nat × Nat)} {vs : List (BitVec 64)}
    (hblock : (regAddr addr).block ≠ 9) (hrows : blockRows s (regAddr addr) = some rows)
    (hvs : readRows rows (regAddr addr).off count = some vs) : exec (.readRegisters tag addr count) s = .next (
      if regDark s (regAddr addr) then respond (noteDark s (regAddr addr)) 1 tag stDark else respond s 1 tag stAccepted vs) := by
  simp only [exec, execReadRegisters, done, hs.1, hrows, hvs]
  rw [if_neg (by decide), if_neg (fun h6 => hs.2 h6.1), if_neg hblock]
  split <;> rfl

theorem readLog_eq (first : Word) (count : Nat) : exec (.readLog tag first count) s = .next (respond s 9 tag stAccepted
    ((s.faults.log.filter fun q => decide ((q.1 - first).toNat < count)).flatMap fun q =>
      BitVec.ofNat 64 (q.2.1 * 2 ^ 32 + q.1.toNat) :: q.2.2)) := congrArg Host.Outcome.next (serve_servedFully hs ..)

theorem readLedger_eq (first last : Nat) (clear : BitVec 2) : exec (.readLedger tag first last clear) s = .next (respond { s with
    ledger := s.ledger.map fun r =>
      if decide (first ≤ r.layer ∧ r.layer ≤ last) then { r with flag := r.flag &&& ~~~clear } else r } 10 tag stAccepted
    ((s.ledger.filter fun r => decide (first ≤ r.layer ∧ r.layer ≤ last)).flatMap ledgerWords)) :=
  congrArg Host.Outcome.next (serve_servedFully hs ..)

theorem attest_eq (nonce : BitVec 256) : exec (.attest tag nonce) s = .next (respond s 11 tag stAccepted
    (packWords (attestBody s nonce ++ bytesAt (Config.sign (attestBody s nonce)) 0 2420))) :=
  congrArg Host.Outcome.next (serve_servedFully hs ..)

theorem identity_eq : exec (.identity tag) s = .next (respond s 12 tag stAccepted
    (packWords (bytesAt Config.identityKey 0 1312 ++ bytesAt Config.kemKey 0 1184 ++ Config.certificate))) :=
  congrArg Host.Outcome.next (serve_servedFully hs ..)

end

theorem noteDark_fields (s : State) (a : RegAddr) : noteDark s a = { s with fields := (noteDark s a).fields } := by
  unfold noteDark
  split <;> rfl

theorem length_attestBody (s : State) (nonce : BitVec 256) : (attestBody s nonce).length = 328 := by
  simp [attestBody, List.length_flatMap, length_leBytes]

/-- Settles O54: a close that takes effect is `takeClose` of the window with its close asked for; each query is one response. -/
theorem windowsOpenAndQueriesAnswer : Obligations.WindowsOpenAndQueriesAnswer := by
  unfold Obligations.WindowsOpenAndQueriesAnswer
  refine ⟨fun tag w s hwf hs hladder => ⟨fun hheld => ?_, fun hfree hplan => ?_, fun pack corrupt hopen hnone => ⟨fun hparts => ?_,
      fun hw hparts hgood => ?_, fun e hw hparts hgood hbad => ?_, fun port hparts hbad => ?_⟩, fun hclosed pack corrupt => ?_⟩,
    fun tag addr count s hs => ⟨fun hcell => ?_, fun rows vs hblock hrows hvs => ⟨fun hlit => ?_, fun hdark => ?_⟩⟩,
    fun tag s hs => ⟨fun first count => ?_, fun first last clear => ?_, fun nonce => ?_, ?_⟩⟩
  · exact ⟨_, openWindow_held hs hladder hheld, rfl, rfl⟩
  · obtain ⟨-, -, -, -, hwins, -⟩ := (tablesWf_iff s).mp hwf
    have hnew := openWin_window_same hwins w.val
    obtain ⟨pl, heq⟩ := openWin_eq s w.val
    refine ⟨_, openWindow_opens hs hladder hfree hplan, hnew, (congrArg Window.gen hnew).trans_ne (nextGen_ne_zero _), ?_,
      fun v hv => openWin_window_other s hv, ?_⟩
    · rw [hnew, heq]; rfl
    · rw [heq]; rfl
  · obtain ⟨-, -, -, -, hwins, -⟩ := (tablesWf_iff s).mp hwf
    exact ⟨_, closeWindow_waits hs hladder hwins hopen hnone pack corrupt hparts, closeAsked_window hwins, rfl⟩
  · obtain ⟨-, -, -, -, hwins, -⟩ := (tablesWf_iff s).mp hwf
    refine ⟨_, closeWindow_takes hs hladder hwins hopen hnone pack corrupt (hw ▸ hparts), ?_⟩
    rw [hw, takeClose_plan (closeAsked_closing hwins) hgood, closeAsked_held hwins]
    exact ⟨heldWin_window hwins tag, rfl, rfl⟩
  · obtain ⟨-, -, -, -, hwins, -⟩ := (tablesWf_iff s).mp hwf
    refine ⟨_, closeWindow_takes hs hladder hwins hopen hnone pack corrupt (hw ▸ hparts), ?_⟩
    rw [hw, takeClose_image (closeAsked_closing hwins) hgood, closeAsked_held hwins]
    exact takeImage_refused hwins hbad
  · obtain ⟨-, -, -, -, hwins, hports, -⟩ := (tablesWf_iff s).mp hwf
    obtain ⟨hclosed, hanswer, -⟩ := takeClose_corrupt_answers (s := closeAsked s w.val ⟨tag, pack, corrupt⟩)
      (setWindow_wf hwins _) hports (closeAsked_closing hwins) hbad
    exact ⟨_, closeWindow_takes hs hladder hwins hopen hnone pack corrupt hparts, congrArg Window.state hclosed, hanswer⟩
  · exact ⟨_, closeWindow_closed hs hladder hclosed pack corrupt, rfl, rfl⟩
  · exact ⟨_, readRegisters_cells hs count hcell, rfl, rfl⟩
  · refine ⟨_, readRegisters_values hs hblock hrows hvs, ?_⟩
    rw [hlit]
    exact ⟨rfl, rfl⟩
  · refine ⟨_, readRegisters_values hs hblock hrows hvs, ?_⟩
    rw [hdark, if_pos rfl, noteDark_fields]
    exact ⟨rfl, rfl⟩
  · refine ⟨_, _, readLog_eq hs first count, rfl, rfl, fun hnone => ?_, fun n type words hone hn => ?_⟩
    · rw [hnone]; rfl
    · simp only [hone, List.filter_cons, List.filter_nil, decide_eq_true hn, if_true, List.flatMap_cons, List.flatMap_nil,
        List.append_nil]
  · refine ⟨_, readLedger_eq hs first last clear, ?_, rfl, rfl⟩
    simp only [decide_eq_true_eq]
    rfl
  · exact ⟨_, attest_eq hs nonce, length_attestBody s nonce, rfl, rfl⟩
  · exact ⟨_, identity_eq hs, rfl, rfl⟩

end Sys2Proof.Machine
end

section
/-! PROOFS. Connections, RDMA packets, closes that waited, and links (R391 to R393, R404 to R407, R415). -/

namespace Sys2Proof.Machine

/-! ## What of a port its traffic depends on -/

/-- The link, the settings and the pauses of a port stay, on which its traffic depends. -/
structure TrafficKept (c d : PortState) : Prop where
  link : d.link = c.link
  isolated : d.isolated = c.isolated
  ctrl : d.ctrl = c.ctrl
  prio : d.prio = c.prio
  paused : d.paused = c.paused

section
variable {s t : State} {p : Nat} (h : TrafficKept (s.port p) (t.port p))
include h

theorem TrafficKept.viaOf (qp : Nat) (c : TrafficClass) : viaOf t p qp c = viaOf s p qp c := by
  unfold Machine.viaOf
  rw [h.prio, h.ctrl]

theorem TrafficKept.heldBack {v : Via} (hv : v.port = p) : heldBack t v = heldBack s v := by
  subst hv
  unfold Machine.heldBack
  rw [h.ctrl, h.paused]

theorem TrafficKept.portCarries (hfields : t.fields = s.fields) : portCarries t p = portCarries s p := by
  unfold Machine.portCarries
  rw [h.link, h.isolated, isHole_congr (congrArg FieldState.domain (State.field_congr hfields _))]

end

/-- A packet to the host that its port holds back, or not, changes of that port what it holds only. -/
theorem sendHost_port {s : State} (hports : tblWf {} s.ports = true) {p : Nat} {v : Via} (hv : v.port = p) (m : HostMsg) :
    ∃ l, (sendHost s v m).port p = { s.port p with held := l } := by
  subst hv
  unfold sendHost
  split
  · exact ⟨(s.port v.port).held, rfl⟩
  · split
    · exact ⟨_, State.modPort_port_same hports _ _⟩
    · exact ⟨(s.port v.port).held, rfl⟩

theorem drainPort_ports (s : State) (p : Nat) :
    (drainPort s p true).ports = tset {} s.ports p { s.port p with fillBulk := 0, xoffBulk := false } := by
  simp only [drainPort, if_true]
  split
  · rfl
  · rfl

section
variable {s : State} (hports : tblWf {} s.ports = true) (p : Nat)
include hports

theorem drainPort_port : (drainPort s p true).port p = { s.port p with fillBulk := 0, xoffBulk := false } := by
  rw [State.port, drainPort_ports]
  exact tget_tset_same _ _ _ ((tblWf_iff _ _).mp hports).1

theorem drainPort_ports_wf : tblWf {} (drainPort s p true).ports = true := by
  rw [drainPort_ports]
  exact tblWf_tset ({} : PortState) p _ hports

end

/-! ## Connections (R391, R392) -/

/-- A QP of a port after a request is accepted at the free one. -/
theorem qpOf_connected {s : State} {p : Nat} (hports : tblWf {} s.ports = true) (hqps : tblWf none (s.port p).qps = true) {i : Nat}
    {q : Qp} (hq : q.error = false) (j : Nat) :
    qpOf (s.modPort p fun x => { x with qps := tset none x.qps i (some q) }) p j = if j = i then some q else qpOf s p j := by
  have hport := State.modPort_port_same hports p fun x => { x with qps := tset none x.qps i (some q) }
  unfold qpOf
  rw [hport]
  by_cases hj : j = i
  · subst hj
    rw [tget_tset_same _ _ _ ((tblWf_iff _ _).mp hqps).1, if_pos rfl]
    simp [hq]
  · rw [tget_tset_other _ _ _ hj, if_neg hj]

section
variable {p : HostPort} {gid : BitVec 128} {mtu : Nat} {s : State} (hopen : roceOpen s p.val = true)
include hopen

theorem connectionRequest_refused (h : allowList s ≠ [] ∧ gid ∉ allowList s) :
    exec (.connectionRequest p gid mtu) s = .next (s.emit (.connection p.val false 0)) := by
  have hno : ((allowList s).isEmpty || (allowList s).contains gid) = false := by simpa using h
  simp only [exec, execConnectionRequest, done, hopen, hno]
  rw [if_neg (by decide), if_neg (by simp)]

variable (hgid : allowList s = [] ∨ gid ∈ allowList s) (hmtu : mtu = 1024 ∨ mtu = 2048 ∨ mtu = 4096)
include hgid hmtu

theorem connectionRequest_allowed : exec (.connectionRequest p gid mtu) s =
    .next (match (List.range 512).find? fun i => (qpOf s p.val i).isNone with
      | some i => (s.modPort p.val fun x => { x with qps := tset none x.qps i (some { gid := gid, mtu := mtu }) }).emit
          (.connection p.val true i)
      | none => s.emit (.noResources p.val)) := by
  have hyes : (((allowList s).isEmpty || (allowList s).contains gid) && (mtu == 1024 || mtu == 2048 || mtu == 4096)) = true := by
    rcases hmtu with h | h | h <;> simpa [h] using hgid
  simp only [exec, execConnectionRequest, done, hopen, hyes]
  rw [if_neg (by decide), if_pos trivial]
  cases (List.range 512).find? fun i => (qpOf s p.val i).isNone with
  | some i => rfl
  | none => rfl

end

/-! ## WRITE packets (R393, R404 to R407) -/

theorem settleClose_none {s : State} {w : Nat} (h : (s.window w).closing = none) : settleClose s w = s := by
  unfold settleClose
  rw [h]
  rfl

theorem winKey_toNat {w : Nat} (hw : w < 4) (gen : BitVec 16) :
    (winKey w gen).toNat = (0x80 + w) * 2 ^ 24 + gen.toNat * 2 ^ 8 := by
  have hgen := gen.isLt
  rw [winKey, BitVec.toNat_ofNat, Nat.mod_eq_of_lt (by omega)]

/-- The fields of a window's key: the window behind 0x80, its generation, and 0. -/
theorem winKey_fields {w : Nat} (hw : w < 4) (gen : BitVec 16) : bf (winKey w gen).toNat 31 24 = 0x80 + w ∧
    bf (winKey w gen).toNat 23 8 = gen.toNat ∧ bf (winKey w gen).toNat 7 0 = 0 := by
  have hgen := gen.isLt
  rw [winKey_toNat hw]
  simp only [bf, Nat.shiftRight_eq_div_pow]
  omega

/-- A window with a packet's data written into it. -/
def packetWritten (p qp offset : Nat) (data : Bytes) (last : Bool) (win : Window) : Window :=
  let rest := win.partials.filter (· != (p, qp))
  { win with
    bytes := tsetMany 0 win.bytes offset data, top := max win.top (offset + data.length)
    partials := if last then rest else rest ++ [(p, qp)] }

section
variable {p : HostPort} {qp : Fin 512} {w offset : Nat} {data : Bytes} {first last : Bool} {s : State}
  (hopen : roceOpen s p.val = true) (hqp : (qpOf s p.val qp.val).isSome = true) (hw : w < 4)
  (hclosing : (s.window w).closing = none)
include hopen hqp hw

/-- A packet meets its window once the ingress buffer is drained. -/
theorem rdmaWritePacket_keyed (gen : BitVec 16) : exec (.rdmaWritePacket p qp (winKey w gen) offset data first last) s =
    let d := drainPort s p.val true
    .next (if (s.window w).state ≠ .open_ ∨ (s.window w).gen ≠ gen ∨ winSize w < offset + data.length then
        latePacket d p.val qp.val w
      else settleClose (d.setWindow w (packetWritten p.val qp.val offset data last (s.window w))) w) := by
  obtain ⟨hhigh, hgen, hlow⟩ := winKey_fields hw gen
  obtain ⟨n, hn⟩ := Option.isSome_iff_exists.mp hqp
  obtain ⟨ps, l, hdrain⟩ := drainPort_eq s p.val true
  have hwin : (drainPort s p.val true).window w = s.window w := by rw [hdrain]; rfl
  have hlate : ((s.window w).state ≠ .open_ ∨ (s.window w).gen.toNat ≠ gen.toNat ∨ w = 4 ∨ winSize w < offset + data.length) ↔
      ((s.window w).state ≠ .open_ ∨ (s.window w).gen ≠ gen ∨ winSize w < offset + data.length) := by
    have hne : w ≠ 4 := by omega
    simp [hne, BitVec.toNat_inj]
  simp only [exec, execRdmaWritePacket, done, hopen, hn, hhigh, hgen, hlow, Nat.add_sub_cancel_left, hwin, hlate]
  rw [if_neg (by simp), if_neg (by omega)]
  split <;> rfl

end

theorem tget_tsetMany_beyond {α : Type} [DecidableEq α] (d : α) (vs : List α) (m : Tbl α) {i j : Nat} (h : i + vs.length ≤ j) :
    tget d (tsetMany d m i vs) j = tget d m j := by
  induction vs generalizing m i with
  | nil => rfl
  | cons v vs ih =>
    rw [List.length_cons] at h
    rw [tsetMany, ih _ (by omega), tget_tset_other d m v (by omega)]

/-- A packet that is late: the port's sump counts it and marks it, a NAK leaves, and no window takes its data (R406). -/
structure PacketLate (s t : State) (p w : Nat) (v : Via) : Prop where
  sump : (t.port p).sump = satAdd (s.port p).sump 1
  mark : tb (t.port p).errStatus.toNat 0 = true
  nak : portCarries s p = true → heldBack s v = false → Sent.host v (.nak false) ∈ t.sent
  bytes : (t.window w).bytes = (s.window w).bytes
  others : ∀ j, j ≠ w → t.window j = s.window j

/-- A port whose sump took a packet. -/
def sumpTook (s : State) (p : Nat) : State :=
  s.modPort p fun x => { x with sump := satAdd x.sump 1, errStatus := x.errStatus ||| 1 }

/-- The NAK of a late packet is on its way. -/
def nakSent (s : State) (p qp : Nat) : State := sendHost (sumpTook s p) (viaOf s p qp .bulk) (.nak false)

/-- A window that waits no longer for the message of a QP. -/
def messageEnded (p qp : Nat) (win : Window) : Window := { win with partials := win.partials.filter (· != (p, qp)) }

theorem nakSent_windows (s : State) (p qp : Nat) : (nakSent s p qp).windows = s.windows := by
  obtain ⟨ps, l, hsend⟩ := sendHost_eq (sumpTook s p) (viaOf s p qp .bulk) (.nak false)
  rw [nakSent, hsend]
  rfl

theorem nakSent_window (s : State) (p qp w : Nat) : (nakSent s p qp).window w = s.window w := by
  rw [State.window, nakSent_windows, State.window]

section
variable {s : State} (hports : tblWf {} s.ports = true) (p qp : Nat)
include hports

theorem sumpTook_port : (sumpTook s p).port p =
    { s.port p with sump := satAdd (s.port p).sump 1, errStatus := (s.port p).errStatus ||| 1 } :=
  State.modPort_port_same hports p _

theorem sumpTook_traffic : TrafficKept (s.port p) ((sumpTook s p).port p) := by
  rw [sumpTook_port hports]
  exact ⟨rfl, rfl, rfl, rfl, rfl⟩

theorem nakSent_port : ∃ l, (nakSent s p qp).port p =
    { s.port p with sump := satAdd (s.port p).sump 1, errStatus := (s.port p).errStatus ||| 1, held := l } := by
  have hwf : tblWf {} (sumpTook s p).ports = true := tblWf_tset ({} : PortState) p _ hports
  obtain ⟨l, hport⟩ := sendHost_port hwf (p := p) (v := viaOf s p qp .bulk) rfl (.nak false)
  refine ⟨l, hport.trans ?_⟩
  rw [sumpTook_port hports]

/-- The NAK leaves at once where the port carries traffic and does not hold it back. -/
theorem nakSent_sent (hcarries : portCarries s p = true) (hfree : heldBack s (viaOf s p qp .bulk) = false) :
    Sent.host (viaOf s p qp .bulk) (.nak false) ∈ (nakSent s p qp).sent := by
  have hnow : sendsNow (sumpTook s p) (viaOf s p qp .bulk) = true := by
    have hstill := (sumpTook_traffic hports p).portCarries rfl
    have hheld := (sumpTook_traffic hports p).heldBack (v := viaOf s p qp .bulk) rfl
    rw [sendsNow, hheld, hfree]
    exact Bool.and_eq_true_iff.mpr ⟨hstill.trans hcarries, rfl⟩
  rw [nakSent, sendHost_now hnow]
  exact List.mem_append_right _ (List.mem_singleton.mpr rfl)

variable (hwins : tblWf {} s.windows = true) {w : Nat} (hclosing : (s.window w).closing = none)
include hwins hclosing

theorem latePacket_eq : latePacket s p qp w = (nakSent s p qp).setWindow w (messageEnded p qp (s.window w)) := by
  have hvia : viaOf (sumpTook s p) p qp .bulk = viaOf s p qp .bulk := (sumpTook_traffic hports p).viaOf qp .bulk
  have hunfold : latePacket s p qp w =
      let u := sendHost (sumpTook s p) (viaOf (sumpTook s p) p qp .bulk) (.nak false)
      settleClose (u.setWindow w (messageEnded p qp (u.window w))) w := rfl
  rw [hunfold, hvia, ← nakSent]
  dsimp only
  rw [nakSent_window]
  refine settleClose_none ?_
  rw [State.setWindow_window_same _ ((nakSent_windows s p qp).symm ▸ hwins)]
  exact hclosing

theorem latePacket_late : PacketLate s (latePacket s p qp w) p w (viaOf s p qp .bulk) := by
  obtain ⟨l, hport⟩ := nakSent_port hports p qp
  have hset := State.setWindow_window_same (nakSent s p qp) (k := w) (v := messageEnded p qp (s.window w))
    ((nakSent_windows s p qp).symm ▸ hwins)
  rw [latePacket_eq hports p qp hwins hclosing]
  refine ⟨congrArg PortState.sump hport, ?_, nakSent_sent hports p qp, (congrArg Window.bytes hset).trans rfl, fun j hj => ?_⟩
  · exact (congrArg (fun q : PortState => tb q.errStatus.toNat 0) hport).trans
      (tb_or_right (s.port p).errStatus (y := 1) (bit := 0) (by decide))
  · exact (State.setWindow_window_other _ hj).trans (nakSent_window s p qp j)

end

/-- A late packet meets its window once the ingress buffer is drained. -/
theorem latePacket_drained {s : State} (hports : tblWf {} s.ports = true) (hwins : tblWf {} s.windows = true) {p w : Nat} (qp : Nat)
    (hclosing : (s.window w).closing = none) :
    PacketLate s (latePacket (drainPort s p true) p qp w) p w (viaOf s p qp .bulk) := by
  have hport := drainPort_port hports p
  obtain ⟨ps, l, hdrain⟩ := drainPort_eq s p true
  have hkept : TrafficKept (s.port p) ((drainPort s p true).port p) := by rw [hport]; exact ⟨rfl, rfl, rfl, rfl, rfl⟩
  have hwin : ∀ j, (drainPort s p true).window j = s.window j := fun j => by rw [hdrain]; rfl
  have hlate := latePacket_late (drainPort_ports_wf hports p) p qp (by rw [hdrain]; exact hwins) ((hwin w).symm ▸ hclosing)
  rw [hkept.viaOf] at hlate
  refine ⟨?_, hlate.mark, fun hcarries hfree => hlate.nak ?_ ?_, ?_, fun j hj => (hlate.others j hj).trans (hwin j)⟩
  · rw [hlate.sump, hport]
  · exact (hkept.portCarries (by rw [hdrain])).trans hcarries
  · exact (hkept.heldBack rfl).trans hfree
  · rw [hlate.bytes, hwin]

/-! ## Reads of the dump window, and closes that waited (R393, R404, R407) -/

theorem rdmaReadWindow_eq {p : HostPort} {qp : Fin 512} {rkey : Word} {offset length : Nat} {s : State}
    (hopen : roceOpen s p.val = true) (hqp : (qpOf s p.val qp.val).isSome = true)
    (hfree : heldBack s (viaOf s p.val qp.val .bulk) = false) : exec (.rdmaReadWindow p qp rkey offset length) s =
      .next { s with sent := s.sent ++ [.host (viaOf s p.val qp.val .bulk)
        (if (s.window 4).state = .open_ ∧ rkey = winKey 4 (s.window 4).gen ∧ offset + length ≤ winSize 4 then
          .reply (winBytes s 4 offset length) else .nak false)] } := by
  obtain ⟨n, hn⟩ := Option.isSome_iff_exists.mp hqp
  have hnow : sendsNow s (viaOf s p.val qp.val .bulk) = true := by
    rw [sendsNow, hfree]
    exact Bool.and_eq_true_iff.mpr ⟨hopen, rfl⟩
  simp only [exec, execRdmaReadWindow, done, hopen, hn]
  rw [if_neg (by simp)]
  split
  · rw [sendHost_now hnow]
  · rw [sendHost_now hnow]

section
variable {w : Fin 4} {s : State}

theorem windowCloseTimeout_early (h : boardTime s < (s.window w.val).closeAt + 10000000) :
    exec (.windowCloseTimeout w) s = .next s := if_neg fun hdue => Nat.not_le.mpr h hdue.2

theorem windowCloseTimeout_due {r : CloseReq} (hclosing : (s.window w.val).closing = some r)
    (h : (s.window w.val).closeAt + 10000000 ≤ boardTime s) : exec (.windowCloseTimeout w) s = .next (takeClose s w.val) :=
  if_pos ⟨by rw [hclosing]; rfl, h⟩

end

/-! ## Links (R415) -/


theorem linkDown_up {p : HostPort} {s : State} (h : (s.port p.val).link = true) :
    exec (.linkDown p) s = .next (portDown s p.val) := by
  simp only [exec, execLinkDown, done, h]
  rw [if_neg (by decide)]

/-- A port whose link came up in the mode selected. -/
def linkedPort (s : State) (p : HostPort) (copper : Bool) : PortState := { s.port p.val with
  link := true, autoNeg := copper && tb (s.port p.val).ctrl.toNat 4, fecLock := true, copper := copper
  isolated := isHole s (hostField p.val), speed := BitVec.ofNat 2 (bf (s.port p.val).ctrl.toNat 2 1) }

theorem linkUp_mode {p : HostPort} {copper : Bool} {s : State} (hdown : (s.port p.val).link = false)
    (hctrl : tb (s.port p.val).ctrl.toNat 0 = true) (hdry : s.power.ladder ≠ .dry) (hstep : s.mgmt.step ≠ 0)
    (hrecovery : s.mgmt.hold ≠ 6) : exec (.linkUp p true copper) s = .next (s.setPort p.val (linkedPort s p copper)) := by
  have h6 : (s.mgmt.hold == 6) = false := by simpa using hrecovery
  have hd : (s.power.ladder == .dry) = false := by simpa using hdry
  have h0 : (s.mgmt.step == 0) = false := by simpa using hstep
  simp only [exec, execLinkUp, done, hdown, hctrl, h6, hd, h0]
  rw [if_neg (by simp)]
  rfl

theorem portDown_port {s : State} (hports : tblWf {} s.ports = true) (p i : Nat) : qpOf (portDown s p) p i = none := by
  have hport := State.modPort_port_same hports p fun q => { errorQps q with
    link := false, autoNeg := false, fecLock := false, isolated := true, ptpLock := false, inLock := 0, outLock := 0, paused := 0
    fillSvc := 0, fillBulk := 0, xoffSvc := false, xoffBulk := false }
  have herror : ∀ n, tget none (tmapAll none (fun _ o => o.map fun x : Qp => { x with error := true }) (s.port p).qps) i = some n →
      n.error = true := by
    refine tget_tmapAll_of (p := fun o => ∀ n : Qp, o = some n → n.error = true) (by intro n h; cases h) (fun k o n h => ?_) _ i
    obtain ⟨x, -, rfl⟩ := Option.map_eq_some_iff.mp h
    rfl
  unfold qpOf portDown
  rw [hport]
  split
  · rename_i q hq
    rw [if_pos (herror q hq)]
  · rfl

/-- Settles O50: each request, packet, close and link by the equation of what it does; a late packet by `PacketLate`. -/
theorem connectionsWindowsAndLinks : Obligations.ConnectionsWindowsAndLinks := by
  unfold Obligations.ConnectionsWindowsAndLinks
  refine ⟨fun p gid mtu s hwf hqps hopen => ⟨fun i hgid hmtu hi hfree hfirst => ?_, fun hgid hmtu hfull => ?_, fun hgid => ?_⟩,
    fun p qp w offset data first last s hwf hopen hqp hw hclosing => ⟨fun hwin hsize hbytes => ?_, fun gen hlate => ?_⟩,
    fun p qp rkey offset length s hopen hqp hfree => ?_, fun w r s hwf hclosing => ⟨fun hearly => ?_, fun hdue => ⟨fun port hbad => ?_,
      fun hgood hw => ?_⟩⟩, fun p s hwf hup => ?_, fun p copper s hwf hdown hctrl hdry hstep hrecovery => ?_⟩
  · obtain ⟨-, -, -, -, -, hports, -⟩ := (tablesWf_iff s).mp hwf
    have hfind : (List.range 512).find? (fun i => (qpOf s p.val i).isNone) = some i :=
      List.find?_range_eq_some.mpr ⟨by rw [hfree]; rfl, List.mem_range.mpr hi,
        fun j hj => by simpa [Option.isSome_iff_ne_none] using hfirst j hj⟩
    have hconnected := fun j => qpOf_connected hports hqps (i := i) (q := { gid := gid, mtu := mtu }) rfl j
    refine ⟨_, (connectionRequest_allowed hopen hgid hmtu).trans (by rw [hfind]), ?_, fun j hj => ?_, rfl, rfl⟩
    · exact (hconnected i).trans (if_pos rfl)
    · exact (hconnected j).trans (if_neg hj)
  · have hfind : (List.range 512).find? (fun i => (qpOf s p.val i).isNone) = none :=
      List.find?_eq_none.mpr fun i hi => by simpa using hfull i (List.mem_range.mp hi)
    rw [connectionRequest_allowed hopen hgid hmtu, hfind]
    rfl
  · exact connectionRequest_refused hopen hgid
  · obtain ⟨-, -, -, -, hwins, -⟩ := (tablesWf_iff s).mp hwf
    obtain ⟨ps, l, hdrain⟩ := drainPort_eq s p.val true
    have hset : ((drainPort s p.val true).setWindow w (packetWritten p.val qp.val offset data last (s.window w))).window w = _ :=
      State.setWindow_window_same _ (by rw [hdrain]; exact hwins)
    refine ⟨_, rdmaWritePacket_keyed hopen hqp hw _, ?_⟩
    rw [if_neg (by simpa [hwin] using hsize), settleClose_none (by rw [hset]; exact hclosing), hset]
    refine ⟨tgetMany_tsetMany 0 data offset ((tblWf_iff _ _).mp hbytes).1, fun a ha => ?_, hwin, rfl, fun v hv => ?_, ?_⟩
    · rcases ha with h | h
      · exact tget_tsetMany_before 0 data _ h
      · exact tget_tsetMany_beyond 0 data _ h
    · rw [State.setWindow_window_other _ hv, hdrain]
      rfl
    · rw [hdrain]
      rfl
  · obtain ⟨-, -, -, -, hwins, hports, -⟩ := (tablesWf_iff s).mp hwf
    have hpacket := latePacket_drained hports hwins (p := p.val) qp.val hclosing
    refine ⟨_, rdmaWritePacket_keyed hopen hqp hw gen, ?_⟩
    rw [if_pos hlate]
    exact ⟨hpacket.sump, hpacket.mark, hpacket.nak hopen, hpacket.bytes, hpacket.others⟩
  · exact rdmaReadWindow_eq hopen hqp hfree
  · exact windowCloseTimeout_early hearly
  · obtain ⟨-, -, -, -, hwins, hports, -⟩ := (tablesWf_iff s).mp hwf
    obtain ⟨hclosed, hanswer, hcount⟩ := takeClose_corrupt_answers hwins hports hclosing hbad
    exact ⟨_, windowCloseTimeout_due hclosing hdue, congrArg Window.state hclosed, (congrArg Window.gen hclosed).trans rfl,
      hanswer, hcount⟩
  · obtain ⟨-, -, -, -, hwins, -⟩ := (tablesWf_iff s).mp hwf
    refine ⟨_, windowCloseTimeout_due hclosing hdue, ?_⟩
    rw [hw] at hclosing ⊢
    have hheld : (takeClose s 1).window 1 = { s.window 1 with state := .held, closing := none, partials := [], answer := some r.tag } := by
      rw [takeClose_plan hclosing hgood]
      exact heldFor_window (w := 1) hwins r.tag
    rw [hheld, takeClose_plan hclosing hgood]
    exact ⟨rfl, rfl, rfl, rfl, rfl, rfl⟩
  · obtain ⟨-, -, -, -, -, hports, -⟩ := (tablesWf_iff s).mp hwf
    have hport : (portDown s p.val).port p.val = _ := State.modPort_port_same hports p.val _
    exact ⟨_, linkDown_up hup, congrArg PortState.link hport, congrArg PortState.isolated hport, portDown_port hports p.val,
      fun j hj => State.modPort_port_other s hj _, rfl⟩
  · obtain ⟨-, -, -, -, -, hports, -⟩ := (tablesWf_iff s).mp hwf
    have hport := State.setPort_port_same s (k := p.val) (v := linkedPort s p copper) hports
    exact ⟨_, linkUp_mode hdown hctrl hdry hstep hrecovery, congrArg PortState.link hport, congrArg PortState.fecLock hport,
      congrArg PortState.speed hport, congrArg PortState.isolated hport, fun j hj => State.setPort_port_other s hj, rfl⟩

end Sys2Proof.Machine
end

section
/-! PROOFS. Refills of poisoned lines and digest passes (R492, R505, R507). -/

namespace Sys2Proof.Machine

/-- A transfer that joins those of a slice leaves the contents of every slice alone. -/
theorem modSite_joins_mem {s : State} (hsites : tblWf {} s.sites = true) (k j : Nat) (x : Transfer) :
    ((s.modSite k fun st => { st with transfers := st.transfers ++ [x] }).site j).mem = (s.site j).mem := by
  by_cases hj : j = k
  · subst hj
    rw [modSite_site_same hsites]
  · rw [State.modSite, State.setSite_site_other _ hj]

/-! ## A refill (R492) -/

section
variable {site : SiteAddr} {line : Nat} {s : State} (hwaits : (siteKey site, line) ∈ s.weights.refills)
include hwaits

theorem refillComplete_lost : exec (.refillComplete site line none) s =
    .next (raiseModule s 4 0x8F (field := site.field.val) (detail := line) (scope := 2)) := by
  simp only [exec, execRefillComplete, done]
  rw [if_neg (by simpa using hwaits)]

/-- The bytes of a refill cross the mesh and wait at their slice. -/
def refillJoins (s : State) (site : SiteAddr) (line : Nat) (plain : Bytes) : State :=
  (meshSend s (hostRouter (svcPort s)) (siteRouter s (siteKey site)) line 0 plain).modSite (siteKey site) fun st =>
    { st with transfers := st.transfers ++ [.refill line plain] }

theorem refillComplete_line {b : Bytes} (h : b.length ≠ 4096) :
    exec (.refillComplete site line (some b)) s = .next (refillJoins s site line (bytesAt b 0 64)) := by
  simp only [exec, execRefillComplete, done, if_pos h]
  rw [if_neg (by simpa using hwaits)]
  rfl

theorem refillComplete_unit {b : Bytes} (h : b.length = 4096) {w : WeightSet} {o : Nat} (hswap : s.weights.state ≠ some .swapping)
    (hinstall : s.weights.state ≠ some .installing) (hset : s.weights.resident = some w)
    (hline : lineOffset s w (siteKey site) line = some o) : exec (.refillComplete site line (some b)) s =
      .next (refillJoins s site line (bytesAt (Config.xtsDecrypt w.key (o / 4096) b) (o % 4096) 64)) := by
  simp only [exec, execRefillComplete, done, if_neg (not_not_intro h)]
  rw [if_neg (by simpa using hwaits)]
  split
  · rename_i hnone
    split at hnone
    · rename_i hst _; exact absurd hst hswap
    · rename_i hst _; exact absurd hst hinstall
    · exact absurd (hset.symm.trans hnone) (by simp)
  · rename_i v hsome
    split at hsome
    · rename_i hst _; exact absurd hst hswap
    · rename_i hst _; exact absurd hst hinstall
    · obtain rfl := Option.some.inj (hset.symm.trans hsome)
      rw [hline]
      rfl

end

theorem refillJoins_transfers {s : State} (hsites : tblWf {} s.sites = true) (site : SiteAddr) (line : Nat) (plain : Bytes) :
    ((refillJoins s site line plain).site (siteKey site)).transfers =
      (s.site (siteKey site)).transfers ++ [.refill line plain] :=
  congrArg SiteState.transfers (modSite_site_same
    (s := meshSend s (hostRouter (svcPort s)) (siteRouter s (siteKey site)) line 0 plain) hsites _ _)

/-! ## The start of a digest pass (R505) -/

/-- The reads of a slice extent join the transfers of its slice. -/
def passReads (w : WeightSet) (s : State) (r : Nat × Nat × BitVec 256) : State :=
  match w.extents[r.2.1]? with
  | some x => s.modSite r.1 fun st => { st with transfers := st.transfers ++ [.digest x.master x.lines] }
  | none => s

/-- The reads of the pass before are dropped. -/
def passCleared (s : State) : Tbl SiteState :=
  tmapAll {} (fun _ st => { st with transfers := st.transfers.filter fun t => !isDigest t }) s.sites

/-- A pass begins, before its reads join the transfers. -/
def passBegun (s : State) : State := { s with
  weights := { s.weights with pass := some (boardTime s), passStart := boardTime s, passLate := s.weights.pass.isSome }
  sites := passCleared s
  mgmt := (if s.weights.pass.isSome then raiseAlert s alDigest else s).mgmt }

theorem digestPassStart_early {w : WeightSet} {s : State} (hset : s.weights.resident = some w)
    (h : boardTime s < s.weights.passStart + digestTicks s / 2) : exec .digestPassStart s = .next s := by
  simp only [exec, execDigestPassStart, done, hset, if_pos h]

theorem digestPassStart_due {w : WeightSet} {s : State} (hset : s.weights.resident = some w)
    (h : s.weights.passStart + digestTicks s / 2 ≤ boardTime s) :
    exec .digestPassStart s = .next ((passRefs s).foldl (passReads w) (passBegun s)) := by
  simp only [exec, execDigestPassStart, done, hset, if_neg (Nat.not_lt.mpr h)]
  cases hlate : s.weights.pass.isSome with
  | true =>
    rw [passBegun, hlate]
    rfl
  | false =>
    rw [passBegun, hlate]
    rfl

/-- Sites that keep the contents of every slice and whose transfers only grow. -/
structure ReadsJoin (s t : State) : Prop where
  sites : tblWf {} t.sites = true
  mem : ∀ k, (t.site k).mem = (s.site k).mem
  transfers : ∀ k, ∀ x ∈ (s.site k).transfers, x ∈ (t.site k).transfers
  alone : t = { s with sites := t.sites }

theorem readsJoin_refl {s : State} (h : tblWf {} s.sites = true) : ReadsJoin s s := ⟨h, fun _ => rfl, fun _ _ hx => hx, rfl⟩

theorem ReadsJoin.trans {s t u : State} (h : ReadsJoin s t) (g : ReadsJoin t u) : ReadsJoin s u :=
  ⟨g.sites, fun k => (g.mem k).trans (h.mem k), fun k x hx => g.transfers k x (h.transfers k x hx), by rw [g.alone, h.alone]⟩

theorem passReads_join {s : State} (h : tblWf {} s.sites = true) (w : WeightSet) (r : Nat × Nat × BitVec 256) :
    ReadsJoin s (passReads w s r) := by
  unfold passReads
  split
  · rename_i x hx
    refine ⟨tblWf_tset ({} : SiteState) r.1 _ h, fun k => modSite_joins_mem h r.1 k _,
      fun k y hy => ?_, rfl⟩
    by_cases hk : k = r.1
    · subst hk
      rw [modSite_site_same h]
      exact List.mem_append_left _ hy
    · rw [State.modSite, State.setSite_site_other _ hk]
      exact hy
  · exact readsJoin_refl h

theorem passReads_reads {s : State} (h : tblWf {} s.sites = true) {w : WeightSet} {r : Nat × Nat × BitVec 256} {x : ManExtent}
    (hx : w.extents[r.2.1]? = some x) : Transfer.digest x.master x.lines ∈ ((passReads w s r).site r.1).transfers := by
  unfold passReads
  rw [hx]
  dsimp only
  rw [modSite_site_same h]
  exact List.mem_append_right _ (List.mem_singleton.mpr rfl)

theorem foldl_passReads_join (w : WeightSet) (rs : List (Nat × Nat × BitVec 256)) :
    ∀ {s : State}, tblWf {} s.sites = true → ReadsJoin s (rs.foldl (passReads w) s) := by
  induction rs with
  | nil => exact fun h => readsJoin_refl h
  | cons r rs ih =>
    intro s h
    have hone := passReads_join h w r
    exact hone.trans (ih hone.sites)

/-- Every extent of the pass is read. -/
theorem foldl_passReads_reads {w : WeightSet} {rs : List (Nat × Nat × BitVec 256)} {r : Nat × Nat × BitVec 256} {x : ManExtent}
    (hr : r ∈ rs) (hx : w.extents[r.2.1]? = some x) : ∀ {s : State}, tblWf {} s.sites = true →
      Transfer.digest x.master x.lines ∈ ((rs.foldl (passReads w) s).site r.1).transfers := by
  induction rs with
  | nil => cases hr
  | cons q rs ih =>
    intro s h
    have hone := passReads_join h w q
    rcases List.mem_cons.mp hr with rfl | hr
    · exact (foldl_passReads_join w rs hone.sites).transfers _ _ (passReads_reads h hx)
    · exact ih hr hone.sites

theorem passBegun_mem {s : State} (h : tblWf {} s.sites = true) (k : Nat) : ((passBegun s).site k).mem = (s.site k).mem :=
  tget_tmapAll_keeps (d := ({} : SiteState)) (f := fun _ st => { st with transfers := st.transfers.filter fun t => !isDigest t })
    (g := SiteState.mem) (fun _ _ => rfl) ((tblWf_iff _ _).mp h).1 k

/-! ## What diverges (R507) -/

/-- From one state to the next lines join those that wait for a refill; every slice keeps its contents. -/
structure RefillsJoin (s t : State) : Prop where
  keeps : Keeps s t
  mem : s.tablesWf = true → ∀ k, (t.site k).mem = (s.site k).mem
  refills : ∀ q ∈ s.weights.refills, q ∈ t.weights.refills
  lastMatch : t.weights.lastMatch = s.weights.lastMatch

theorem refillsJoin_refl (s : State) : RefillsJoin s s := ⟨keeps_refl s, fun _ _ => rfl, fun _ h => h, rfl⟩

theorem RefillsJoin.trans {s t u : State} (h : RefillsJoin s t) (g : RefillsJoin t u) : RefillsJoin s u :=
  ⟨keeps_trans h.keeps g.keeps, fun hwf k => (g.mem (h.keeps.2 hwf) k).trans (h.mem hwf k),
    fun q hq => g.refills q (h.refills q hq), g.lastMatch.trans h.lastMatch⟩

theorem refillsJoin_foldl {α : Type} {f : State → α → State} (h : ∀ s x, RefillsJoin s (f s x)) (l : List α) :
    ∀ s, RefillsJoin s (l.foldl f s) := by
  induction l with
  | nil => exact refillsJoin_refl
  | cons x l ih => exact fun s => (h s x).trans (ih _)

/-- What asks the host changes the ports and what left, and nothing else. -/
theorem askHost_eq (s : State) (w : WeightSet) (k line : Nat) : ∃ ps l, askHost s w k line = { s with ports := ps, sent := l } := by
  unfold askHost
  split
  · exact ⟨_, _, rfl⟩
  · split
    · exact sendHost_eq ..
    · exact ⟨_, _, rfl⟩

theorem askHost_weights (s : State) (w : WeightSet) (k line : Nat) : (askHost s w k line).weights = s.weights := by
  obtain ⟨ps, l, h⟩ := askHost_eq s w k line
  rw [h]

theorem askHost_site (s : State) (w : WeightSet) (k line j : Nat) : (askHost s w k line).site j = s.site j := by
  obtain ⟨ps, l, h⟩ := askHost_eq s w k line
  rw [h]
  rfl

/-- A line that is asked for again waits for its refill (R492). -/
theorem askRefill_spec (s : State) (k line : Nat) :
    RefillsJoin s (askRefill s k line) ∧ (k, line) ∈ (askRefill s k line).weights.refills := by
  have hkeeps : Keeps s (askRefill s k line) := (keeps_refl s).askRefill
  by_cases hold : s.weights.refills.contains (k, line) = true
  · have heq : askRefill s k line = s := if_pos hold
    rw [heq]
    exact ⟨refillsJoin_refl s, by simpa using hold⟩
  · let u : State := { s with weights := { s.weights with refills := s.weights.refills ++ [(k, line)] } }
    have hgrown : (∀ q ∈ s.weights.refills, q ∈ u.weights.refills) ∧ (k, line) ∈ u.weights.refills :=
      ⟨fun q hq => List.mem_append_left _ hq, List.mem_append_right _ (List.mem_singleton.mpr rfl)⟩
    have hparts : (askRefill s k line).weights = u.weights ∧
        (s.tablesWf = true → ∀ j, ((askRefill s k line).site j).mem = (s.site j).mem) := by
      unfold askRefill
      rw [if_neg hold]
      dsimp only
      split
      · exact ⟨rfl, fun hwf j => modSite_joins_mem (s := meshSend u _ _ line 0 _) ((tablesWf_iff s).mp hwf).2.1 k j _⟩
      · split
        · exact ⟨rfl, fun _ _ => rfl⟩
        · rename_i w _ _ _
          exact ⟨askHost_weights u w k line, fun _ j => congrArg SiteState.mem (askHost_site u w k line j)⟩
      · exact ⟨rfl, fun _ _ => rfl⟩
    obtain ⟨hweights, hmem⟩ := hparts
    refine ⟨⟨hkeeps, hmem, ?_, ?_⟩, ?_⟩
    · rw [hweights]; exact hgrown.1
    · rw [hweights]
    · rw [hweights]; exact hgrown.2

theorem raiseField_weights (s : State) (f : Nat) (r : ErrRec) : (raiseField s f r).weights = s.weights := by
  obtain ⟨v, h⟩ := raiseField_eq s f r
  rw [h]
  rfl

theorem raiseField_site (s : State) (f : Nat) (r : ErrRec) (k : Nat) : (raiseField s f r).site k = s.site k := by
  obtain ⟨v, h⟩ := raiseField_eq s f r
  rw [h]
  rfl

/-- Every line of an extent that diverges waits for its refill (R507). -/
theorem diverge_spec (s : State) (w : WeightSet) (r : Nat × Nat) : RefillsJoin s (diverge s w r) ∧
    ∀ x, w.extents[r.2]? = some x → ∀ i, i < x.lines → (r.1, x.master + i) ∈ (diverge s w r).weights.refills := by
  unfold diverge
  split
  · rename_i hnone
    exact ⟨refillsJoin_refl s, fun x hx => absurd (hnone.symm.trans hx) (by simp)⟩
  · rename_i x hx
    dsimp only
    generalize hu : ({ raiseField s _ _ with weights := _ } : State) = u
    have hfirst : RefillsJoin s u := by
      subst hu
      refine ⟨(keeps_refl s).raiseField.update, fun _ k => ?_, fun q hq => ?_, ?_⟩
      · exact congrArg SiteState.mem (raiseField_site ..)
      · show q ∈ (raiseField s _ _).weights.refills
        rwa [raiseField_weights]
      · show (raiseField s _ _).weights.lastMatch = _
        rw [raiseField_weights]
    refine ⟨hfirst.trans (refillsJoin_foldl (fun t i => (askRefill_spec t r.1 (x.master + i)).1) _ u), fun y hy i hi => ?_⟩
    obtain rfl := Option.some.inj (hx.symm.trans hy)
    exact foldl_establishes (inv := fun _ => True) (p := fun t : State => (r.1, x.master + i) ∈ t.weights.refills)
      (List.mem_range.mpr hi) (fun _ _ h => h) (fun t _ => (askRefill_spec t r.1 (x.master + i)).2)
      (fun t j h => (askRefill_spec t r.1 (x.master + j)).1.refills _ h) trivial

/-! ## The end of a digest pass (R505, R507) -/

/-- A slice extent is found to differ by the pass, or its digest is not its reference. -/
def extentDiffers (s : State) (w : WeightSet) (diverged : List (SiteAddr × Nat)) (r : Nat × Nat × BitVec 256) : Bool :=
  (diverged.any fun d => siteKey d.1 == r.1 && d.2 == r.2.1) ||
    match w.extents[r.2.1]? with
    | some x => decide (extentDigest s x r.1 ≠ r.2.2)
    | none => false

/-- The extents of the pass that differ. -/
def passDiffers (s : State) (w : WeightSet) (diverged : List (SiteAddr × Nat)) : List (Nat × Nat) :=
  ((passRefs s).filter (extentDiffers s w diverged)).map fun r => (r.1, r.2.1)

/-- The pass is complete: a match is noted with its time. -/
def passEnded (s : State) (w : WeightSet) (diverged : List (SiteAddr × Nat)) : State :=
  let t := (passDiffers s w diverged).foldl (fun t r => diverge t w r) s
  { t with weights := { t.weights with
    pass := none, passLate := false
    lastMatch := if (passDiffers s w diverged).isEmpty then boardTime t else t.weights.lastMatch } }

section
variable {diverged : List (SiteAddr × Nat)} {w : WeightSet} {s : State}

theorem digestPassComplete_read {begun : Nat} (hset : s.weights.resident = some w) (hpass : s.weights.pass = some begun)
    (hread : ∀ q ∈ s.sites, (q.2.transfers.any isDigest) = false) :
    exec (.digestPassComplete diverged) s = .next (passEnded s w diverged) := by
  have hidle : (s.sites.any fun q => q.2.transfers.any isDigest) = false :=
    List.any_eq_false.mpr fun q hq => by rw [hread q hq]; decide
  simp only [exec, execDigestPassComplete, done, hset, hpass, hidle]
  rfl

theorem extentDiffers_none {r : Nat × Nat × BitVec 256} (hfound : ∀ d ∈ diverged, ¬ (siteKey d.1 = r.1 ∧ d.2 = r.2.1))
    (hsame : ∀ x, w.extents[r.2.1]? = some x → extentDigest s x r.1 = r.2.2) : extentDiffers s w diverged r = false := by
  unfold extentDiffers
  rw [Bool.or_eq_false_iff]
  refine ⟨List.any_eq_false.mpr fun d hd => by simpa using hfound d hd, ?_⟩
  split
  · rename_i x hx
    simpa using hsame x hx
  · rfl

theorem passEnded_match (h : ∀ r ∈ passRefs s, extentDiffers s w diverged r = false) : passEnded s w diverged =
    { s with weights := { s.weights with pass := none, passLate := false, lastMatch := boardTime s } } := by
  have hnone : passDiffers s w diverged = [] := by
    unfold passDiffers
    rw [List.filter_eq_nil_iff.mpr fun r hr => by rw [h r hr]; decide]
    rfl
  unfold passEnded
  rw [hnone]
  rfl

theorem mem_passDiffers {d : SiteAddr × Nat} {ref : BitVec 256} (hd : d ∈ diverged)
    (href : (siteKey d.1, d.2, ref) ∈ passRefs s) : (siteKey d.1, d.2) ∈ passDiffers s w diverged := by
  refine List.mem_map.mpr ⟨(siteKey d.1, d.2, ref), List.mem_filter.mpr ⟨href, ?_⟩, rfl⟩
  unfold extentDiffers
  rw [Bool.or_eq_true_iff]
  exact .inl (List.any_eq_true.mpr ⟨d, hd, by simp⟩)

theorem passDiverges_join : RefillsJoin s ((passDiffers s w diverged).foldl (fun t r => diverge t w r) s) :=
  refillsJoin_foldl (fun t r => (diverge_spec t w r).1) _ s

theorem passDiverges_waits {r : Nat × Nat} {x : ManExtent} (hr : r ∈ passDiffers s w diverged) (hx : w.extents[r.2]? = some x)
    {i : Nat} (hi : i < x.lines) :
    (r.1, x.master + i) ∈ ((passDiffers s w diverged).foldl (fun t r => diverge t w r) s).weights.refills :=
  foldl_establishes (inv := fun _ => True) (p := fun t : State => (r.1, x.master + i) ∈ t.weights.refills) hr (fun _ _ h => h)
    (fun t _ => (diverge_spec t w r).2 x hx i hi) (fun t q h => (diverge_spec t w q).1.refills _ h) trivial

end

/-- Lines that wait for a refill withhold dispatch. -/
theorem dispatchHeld_of_refill {s : State} {q : Nat × Nat} (h : q ∈ s.weights.refills) : dispatchHeld s = true := by
  have hsome : (!s.weights.refills.isEmpty) = true := by
    simpa using List.ne_nil_of_mem h
  unfold dispatchHeld
  rw [hsome]
  simp

/-- Settles O48: a refill joins the transfers of its slice (`refillJoins`), a pass reads its extents (`ReadsJoin`), and what
diverges has its lines wait (`RefillsJoin`). -/
theorem refillsAndDigestPasses : Obligations.RefillsAndDigestPasses := by
  unfold Obligations.RefillsAndDigestPasses
  refine ⟨fun site line s hwf hwaits => ⟨?_, fun b hb => ?_, fun b w o hb hswap hinstall hset hline => ?_⟩,
    fun w s hwf hset => ⟨digestPassStart_early hset, fun hdue => ?_⟩,
    fun diverged w begun s hwf hset hpass hread => ⟨fun hsame => ?_, fun d ref x hd href hx hlines => ?_⟩⟩
  all_goals obtain ⟨-, hsites, -⟩ := (tablesWf_iff s).mp hwf
  · refine ⟨_, refillComplete_lost hwaits, onRing_raiseModule _ _ _ _ _ _ (by decide), ?_⟩
    rw [(raiseModule_recorded ..).parts]
  · exact ⟨_, refillComplete_line hwaits hb, refillJoins_transfers hsites ..,
      fun j hj => State.setSite_site_other _ hj, rfl⟩
  · exact ⟨_, refillComplete_unit hwaits hb hswap hinstall hset hline, refillJoins_transfers hsites .., rfl⟩
  · have hbegun : tblWf {} (passBegun s).sites = true := tblWf_tmapAll ({} : SiteState) _ hsites
    have hjoin := foldl_passReads_join w (passRefs s) hbegun
    refine ⟨_, digestPassStart_due hset hdue, ?_, fun hlate => ?_, fun r hr x hx => foldl_passReads_reads hr hx hbegun,
      fun k => (hjoin.mem k).trans (passBegun_mem hsites k), ?_⟩
    · rw [hjoin.alone]; rfl
    · rw [hjoin.alone]
      have hsome : s.weights.pass.isSome = true := Option.isSome_iff_ne_none.mpr hlate
      show tb (passBegun s).mgmt.alert.toNat 7 = true
      rw [passBegun, hsome]
      exact raiseAlert_raised s (bit := 7) (by decide)
    · rw [hjoin.alone]; rfl
  · rw [digestPassComplete_read hset hpass hread, passEnded_match fun r hr => extentDiffers_none (hsame r hr).1 (hsame r hr).2]
  · have hbad := mem_passDiffers (w := w) hd href
    have hwait := fun i (hi : i < x.lines) => passDiverges_waits hbad hx hi
    have hjoin := passDiverges_join (s := s) (w := w) (diverged := diverged)
    refine ⟨_, digestPassComplete_read hset hpass hread, rfl, ?_, hwait, dispatchHeld_of_refill (hwait 0 hlines), hjoin.mem hwf⟩
    have hsome : (passDiffers s w diverged).isEmpty = false := by simpa using List.ne_nil_of_mem hbad
    rw [passEnded, hsome]
    exact hjoin.lastMatch

end Sys2Proof.Machine
end

section
/-! PROOFS. Failed phases, share tests and droop (R50, R443, R444). -/

namespace Sys2Proof.Machine

/-! ## A failed phase (R443) -/

/-- The failed phases of a site, of VLOGIC or of VARRAY. -/
def phasesBad (st : SiteState) (array : Bool) : List Nat := if array then st.varrayBad else st.vlogicBad

/-- A site with one more phase disconnected. -/
def phaseLost (array : Bool) (i : Nat) (st : SiteState) : SiteState :=
  if array then { st with varrayBad := st.varrayBad ++ [i] } else { st with vlogicBad := st.vlogicBad ++ [i] }

/-- A site with one more phase disconnected, dark where too few are left. -/
def phaseLostDark (array : Bool) (i : Nat) (st : SiteState) : SiteState :=
  { phaseLost array i st with
    dark := (phaseLost array i st).dark ||
      decide (2 ≤ (phaseLost array i st).vlogicBad.length ∨ 2 ≤ (phaseLost array i st).varrayBad.length) }

theorem phaseLost_vlogic (array : Bool) (i : Nat) (st : SiteState) :
    (phaseLost array i st).vlogicBad = if array then st.vlogicBad else st.vlogicBad ++ [i] := by
  cases array <;> rfl

theorem phaseLost_varray (array : Bool) (i : Nat) (st : SiteState) :
    (phaseLost array i st).varrayBad = if array then st.varrayBad ++ [i] else st.varrayBad := by
  cases array <;> rfl

/-- The cells of a state after a phase of site k has failed. -/
def phaseCells (s : State) (k : Nat) (st : SiteState) : Tbl CellState :=
  if st.varrayBad.length = 2 then tmapAll {} (fun ck c => if cellSite ck = k then { c with sp := {} } else c) s.cells else s.cells

theorem failPhase_known {s : State} {k i : Nat} {array : Bool} (h : i ∈ phasesBad (s.site k) array) : failPhase s k array i = s :=
  if_pos (by simpa [phasesBad] using h)

theorem failPhase_new {s : State} {k i : Nat} {array : Bool} (h : i ∉ phasesBad (s.site k) array) : failPhase s k array i = { s with
    cells := phaseCells s k (phaseLost array i (s.site k))
    sites := tset {} s.sites k (phaseLostDark array i (s.site k))
    fields := tset {} s.fields (k / 74) { s.field (k / 74) with phaseFails := satAdd (s.field (k / 74)).phaseFails 1 }
    power := (pwErr s 1).power } := by
  unfold failPhase
  dsimp only
  rw [if_neg (by simpa [phasesBad] using h)]
  by_cases hcells : (phaseLost array i (s.site k)).varrayBad.length = 2
  · rw [phaseCells, if_pos hcells]
    exact (if_pos hcells).trans rfl
  · rw [phaseCells, if_neg hcells]
    exact (if_neg hcells).trans rfl

theorem phaseCells_cell_other {s : State} (h : tblWf {} s.cells = true) {k c : Nat} (st : SiteState) (hc : cellSite c ≠ k) :
    tget {} (phaseCells s k st) c = s.cell c := by
  unfold phaseCells
  split
  · rw [tget_tmapAll (d := ({} : CellState)) _ ((tblWf_iff _ _).mp h).1 (if_neg hc), if_neg hc]
    rfl
  · rfl

/-- Without VARRAY a site's scratchpads are lost (R443). -/
theorem phaseCells_cell_same {s : State} (h : tblWf {} s.cells = true) {k c : Nat} {st : SiteState} (hc : cellSite c = k)
    (hlost : st.varrayBad.length = 2) : (tget {} (phaseCells s k st) c).sp = {} := by
  unfold phaseCells
  rw [if_pos hlost, tget_tmapAll (d := ({} : CellState)) _ ((tblWf_iff _ _).mp h).1 (by rw [if_pos hc]), if_pos hc]

section
variable {s : State} {k i : Nat} {array : Bool} (hnew : i ∉ phasesBad (s.site k) array) (hsites : tblWf {} s.sites = true)
include hnew hsites

theorem failPhase_site_same : (failPhase s k array i).site k = phaseLostDark array i (s.site k) := by
  rw [failPhase_new hnew]
  exact tget_tset_same _ _ _ ((tblWf_iff _ _).mp hsites).1

end

theorem failPhase_site_other (s : State) {k j : Nat} (array : Bool) (i : Nat) (hj : j ≠ k) :
    (failPhase s k array i).site j = s.site j := by
  by_cases h : i ∈ phasesBad (s.site k) array
  · rw [failPhase_known h]
  · rw [failPhase_new h]
    exact tget_tset_other _ _ _ hj

theorem failPhase_time (s : State) (k : Nat) (array : Bool) (i : Nat) : (failPhase s k array i).time = s.time := by
  by_cases h : i ∈ phasesBad (s.site k) array
  · rw [failPhase_known h]
  · rw [failPhase_new h]

/-! ## Share tests (R444) -/

/-- Phases of one supply of a site have failed; those of the other and the other sites stay. -/
structure PhasesFailed (s t : State) (k : Nat) (array : Bool) (is : List Nat) : Prop where
  wf : t.tablesWf = true
  bad : ∀ i, i ∈ phasesBad (t.site k) array ↔ i ∈ phasesBad (s.site k) array ∨ i ∈ is
  other : phasesBad (t.site k) (!array) = phasesBad (s.site k) (!array)
  sites : ∀ j, j ≠ k → t.site j = s.site j
  time : t.time = s.time

theorem phasesBad_lost (array : Bool) (i : Nat) (st : SiteState) :
    phasesBad (phaseLostDark array i st) array = phasesBad st array ++ [i] ∧
      phasesBad (phaseLostDark array i st) (!array) = phasesBad st (!array) := by
  cases array <;> exact ⟨rfl, rfl⟩

theorem failPhase_failed {s : State} (hwf : s.tablesWf = true) (k : Nat) (array : Bool) (i : Nat) :
    PhasesFailed s (failPhase s k array i) k array [i] := by
  have hkeeps := ((keeps_refl s).failPhase (k := k) (array := array) (i := i)).2 hwf
  refine ⟨hkeeps, fun j => ?_, ?_, fun j hj => failPhase_site_other s array i hj, failPhase_time ..⟩
  · by_cases h : i ∈ phasesBad (s.site k) array
    · rw [failPhase_known h, List.mem_singleton]
      exact ⟨.inl, fun hj => hj.elim id fun hj => hj ▸ h⟩
    · rw [failPhase_site_same h ((tablesWf_iff s).mp hwf).2.1, (phasesBad_lost ..).1, List.mem_append]
  · by_cases h : i ∈ phasesBad (s.site k) array
    · rw [failPhase_known h]
    · rw [failPhase_site_same h ((tablesWf_iff s).mp hwf).2.1, (phasesBad_lost ..).2]

theorem foldl_failPhase_failed (k : Nat) (array : Bool) (is : List Nat) : ∀ {s : State}, s.tablesWf = true →
    PhasesFailed s (is.foldl (fun t i => failPhase t k array i) s) k array is := by
  induction is with
  | nil => exact fun hwf => ⟨hwf, fun i => by simp, rfl, fun _ _ => rfl, rfl⟩
  | cons i is ih =>
    intro s hwf
    have hone := failPhase_failed hwf k array i
    have hrest := ih hone.wf
    refine ⟨hrest.wf, fun j => ?_, hrest.other.trans hone.other, fun j hj => (hrest.sites j hj).trans (hone.sites j hj),
      hrest.time.trans hone.time⟩
    rw [List.foldl_cons, hrest.bad, hone.bad, List.mem_singleton, List.mem_cons, or_assoc]

/-- The working phases, with their currents. -/
def phasesLive (bad amps : List Nat) : List (Nat × Nat) := amps.zipIdx.filter fun q => !bad.contains q.2

theorem mem_phasesLive {bad amps : List Nat} {a i : Nat} : (a, i) ∈ phasesLive bad amps ↔ amps[i]? = some a ∧ i ∉ bad := by
  simp [phasesLive, List.mem_zipIdx_iff_getElem?]

/-- A phase fails where its current deviates by more than a quarter from the mean of the working ones. -/
theorem mem_phaseOutliers (bad amps : List Nat) (i : Nat) : i ∈ phaseOutliers bad amps ↔ ∃ a, amps[i]? = some a ∧ i ∉ bad ∧
    sumNat ((phasesLive bad amps).map (·.1)) <
      4 * Machine.dist ((phasesLive bad amps).length * a) (sumNat ((phasesLive bad amps).map (·.1))) := by
  have hsum : (phasesLive bad amps).foldl (fun t q => t + q.1) 0 = sumNat ((phasesLive bad amps).map (·.1)) := by
    rw [sumNat, List.foldl_map]
  have hout : phaseOutliers bad amps = ((phasesLive bad amps).filter fun q => decide (
      (phasesLive bad amps).foldl (fun t q => t + q.1) 0 <
        4 * Machine.dist ((phasesLive bad amps).length * q.1) ((phasesLive bad amps).foldl (fun t q => t + q.1) 0))).map (·.2) := rfl
  rw [hout, hsum, List.mem_map]
  constructor
  · rintro ⟨⟨a, j⟩, hq, rfl⟩
    obtain ⟨hlive, hfar⟩ := List.mem_filter.mp hq
    exact ⟨a, (mem_phasesLive.mp hlive).1, (mem_phasesLive.mp hlive).2, of_decide_eq_true hfar⟩
  · rintro ⟨a, ha, hbad, hfar⟩
    exact ⟨(a, i), List.mem_filter.mpr ⟨mem_phasesLive.mpr ⟨ha, hbad⟩, decide_eq_true hfar⟩, rfl⟩

theorem siteKey_div (site : SiteAddr) : siteKey site / 74 = site.field.val := by
  have hsite := site.site.isLt
  unfold siteKey
  omega

/-- Settles O32: a failed phase by `failPhase_new`, a share test by the failures of its outliers one after another. -/
theorem phaseFailuresDarkenSites : Obligations.PhaseFailuresDarkenSites := by
  unfold Obligations.PhaseFailuresDarkenSites
  refine ⟨fun site array i s hwf => ?_, fun site logic array s hwf => ?_, mem_phaseOutliers, fun site s hruns => if_pos hruns⟩
  · intro k hfits hnew
    obtain ⟨hcells, hsites, -, hfields, -⟩ := (tablesWf_iff s).mp hwf
    have hnew' : i.val ∉ phasesBad (s.site k) array := hnew
    have hsite := failPhase_site_same hnew' hsites
    have heq := failPhase_new hnew'
    have hexec : exec (.phaseFailure site array i) s = .next (failPhase s k array i.val) := if_neg (by
      rw [Bool.and_eq_true_iff, decide_eq_true_eq]
      exact fun h => Nat.not_le.mpr (hfits h.1) h.2)
    refine ⟨_, hexec, ?_, ?_, ?_, ?_, ?_, fun c hc hlost => ?_, fun c hc => ?_, fun j hj => failPhase_site_other s array i.val hj, ?_⟩
    · rw [hsite]; exact phaseLost_vlogic ..
    · rw [hsite]; exact phaseLost_varray ..
    · rw [hsite]
      cases array <;> rfl
    · have hfield : site.field.val = k / 74 := (siteKey_div site).symm
      rw [hfield, State.field, heq]
      exact congrArg FieldState.phaseFails (tget_tset_same _ _ _ ((tblWf_iff _ _).mp hfields).1)
    · rw [heq]; exact pwErr_set s (by decide)
    · rw [hsite] at hlost
      rw [State.cell, heq]
      exact phaseCells_cell_same hcells hc hlost
    · rw [State.cell, heq]; exact phaseCells_cell_other hcells _ hc
    · rw [heq]
  · intro k
    have hlogic := foldl_failPhase_failed k false (phaseOutliers (s.site k).vlogicBad (logic.take 4)) hwf
    have harray := foldl_failPhase_failed k true (phaseOutliers (s.site k).varrayBad (array.take 2)) hlogic.wf
    refine ⟨_, rfl, fun i => ?_, fun i => ?_, fun hl ha => ?_, fun j hj => (harray.sites j hj).trans (hlogic.sites j hj),
      harray.time.trans hlogic.time⟩
    · exact (iff_of_eq (congrArg (i ∈ ·) harray.other)).trans (hlogic.bad i)
    · exact (harray.bad i).trans (or_congr_left (iff_of_eq (congrArg (i ∈ ·) hlogic.other)))
    · rw [hl, ha]
      rfl

end Sys2Proof.Machine
end

section
/-! PROOFS. Power samples, epoch means and the capping demand (R450 to R452). -/

namespace Sys2Proof.Machine

/-- Entries changed one after another, each key once: every key listed is changed, and every other stays. -/
theorem tget_foldl_tmod {α : Type} [DecidableEq α] {d : α} (g : Nat → α → α) {l : List Nat} (hnodup : l.Nodup) (k : Nat) :
    ∀ {m : Tbl α}, tblWf d m = true →
      tget d (l.foldl (fun t f => tmod d t f (g f)) m) k = if k ∈ l then g k (tget d m k) else tget d m k := by
  induction l with
  | nil => intro m _; rfl
  | cons x l ih =>
    intro m hm
    obtain ⟨hx, hnodup⟩ := List.nodup_cons.mp hnodup
    rw [List.foldl_cons, ih hnodup (tblWf_tmod d x (g x) hm)]
    by_cases hk : k = x
    · subst hk
      rw [if_neg hx, if_pos List.mem_cons_self, tget_tmod_same hm]
    · have hother : tget d (tmod d m x (g x)) k = tget d m k := tget_tset_other _ _ _ hk
      rw [hother]
      simp [hk]

theorem nodup_allFields : allFields.Nodup := List.nodup_range

theorem mem_allFields {f : Nat} (h : f < 48) : f ∈ allFields := List.mem_range.mpr h

/-! ## Samples (R450) -/

/-- A field after a sample. -/
def fieldSampled (s : State) (main : List (Nat × Nat)) (amps : List Nat) (f : Nat) (fs : FieldState) : FieldState :=
  let q := main.getD f (0, 0)
  { fs with
    lastBranch := q.1 + q.2
    powerSum := if decide (s.time.stroke < 3840) then fs.powerSum + q.1 + q.2 else fs.powerSum
    ampSum := if decide (s.time.stroke < 3840) then fs.ampSum + amps.getD f 0 else fs.ampSum }

/-- A state whose sample has been taken, before its floor is judged. -/
def sampled (s : State) (total : Nat) (main : List (Nat × Nat)) (amps : List Nat) : State := { s with
  power := { s.power with
    lastSample := total, sampleAt := some (s.time.localTicks.toNat / 1000)
    noDraw := s.power.noDraw && decide (s.power.cap.toNat ≤ total)
    sum := if decide (s.time.stroke < 3840) then s.power.sum + total else s.power.sum
    count := if decide (s.time.stroke < 3840) then s.power.count + 1 else s.power.count }
  fields := allFields.foldl (fun t f => tmod {} t f (fieldSampled s main amps f)) s.fields }

theorem sampled_fields (s : State) (total : Nat) (main : List (Nat × Nat)) (amps : List Nat) : (sampled s total main amps).fields =
    allFields.foldl (fun t f => tmod {} t f (fieldSampled s main amps f)) s.fields := by
  rw [sampled]

theorem sampled_field {s : State} (h : tblWf {} s.fields = true) (total : Nat) (main : List (Nat × Nat)) (amps : List Nat) {f : Nat}
    (hf : f < 48) : (sampled s total main amps).field f = fieldSampled s main amps f (s.field f) := by
  have hread := tget_foldl_tmod (fieldSampled s main amps) nodup_allFields f h
  rw [if_pos (mem_allFields hf)] at hread
  rw [State.field, sampled_fields]
  exact hread

/-- A floor taken by a sample. -/
def floorsSet (s : State) (base boost : Nat) : State := { s with power := { s.power with floorBase := base, floorBoost := boost } }

theorem floorsSet_field (s : State) (base boost f : Nat) : (floorsSet s base boost).field f = s.field f := rfl

/-- A sample changes the power module and the fields alone. -/
theorem floorsSet_left (s : State) (total : Nat) (main : List (Nat × Nat)) (amps : List Nat) (base boost : Nat) :
    floorsSet (sampled s total main amps) base boost = { s with
      power := (floorsSet (sampled s total main amps) base boost).power
      fields := (floorsSet (sampled s total main amps) base boost).fields } := by
  unfold floorsSet sampled
  generalize allFields = l
  rfl

/-- A sample sets no floor, or in Poised for 10 ms without floor load the one of the clock in force. -/
theorem powerSample_eq {main : List (Nat × Nat)} {aux amps : List Nat} {s : State} {total : Nat}
    (htotal : total = sumNat (main.map fun q => q.1 + q.2) + sumNat aux)
    (hnew : s.power.sampleAt ≠ some (s.time.localTicks.toNat / 1000)) : ∃ base boost,
    exec (.powerSample main aux amps) s = .next (floorsSet (sampled s total main amps) base boost) ∧
      (s.power.ladder ≠ .poised → base = s.power.floorBase ∧ boost = s.power.floorBoost) ∧
      (∀ at0, s.power.ladder = .poised → s.power.poisedAt = some at0 → at0 + 1000000 ≤ boardTime s → s.power.floorLoad = 0 →
        s.time.clock = .base → base = total ∧ boost = s.power.floorBoost) := by
  subst htotal
  have hold : (s.power.sampleAt == some (s.time.localTicks.toNat / 1000)) = false := by simpa using hnew
  simp only [exec, execPowerSample, done, hold, floorsSet, sampled]
  rw [if_neg Bool.false_ne_true]
  generalize allFields = fields
  split
  · rename_i t hladder hpoised
    by_cases hdue : t + 1000000 ≤ boardTime s ∧ s.power.floorLoad = 0
    · by_cases hclock : s.time.clock = .boost
      · refine ⟨s.power.floorBase, sumNat (main.map fun q => q.1 + q.2) + sumNat aux, (if_pos hdue).trans (if_pos hclock),
          fun hno => absurd hladder hno, fun at0 _ _ _ _ hbase => ?_⟩
        exact absurd (hbase.symm.trans hclock) (by decide)
      · exact ⟨sumNat (main.map fun q => q.1 + q.2) + sumNat aux, s.power.floorBoost, (if_pos hdue).trans (if_neg hclock),
          fun hno => absurd hladder hno, fun _ _ _ _ _ _ => ⟨rfl, rfl⟩⟩
    · refine ⟨s.power.floorBase, s.power.floorBoost, if_neg hdue, fun _ => ⟨rfl, rfl⟩, fun at0 _ hat hlate hload _ => ?_⟩
      obtain rfl := Option.some.inj (hpoised.symm.trans hat)
      exact absurd ⟨hlate, hload⟩ hdue
  · rename_i hother
    exact ⟨s.power.floorBase, s.power.floorBoost, rfl, fun _ => ⟨rfl, rfl⟩,
      fun at0 hladder hat _ _ _ => absurd hat (hother at0 hladder)⟩

/-! ## The latch of stroke 3,840 (R451, R452) -/

theorem thermalLatch_eq (s : State) : ∃ h, thermalLatch s = { s with heat := h } := by
  unfold thermalLatch
  extract_lets h live atLimit anyOver asked demand
  split
  · exact ⟨s.heat, rfl⟩
  · split
    · exact ⟨_, rfl⟩
    · exact ⟨_, rfl⟩

/-- A field's epochs at the limit. -/
def heatCounted (s : State) (fs : FieldState) : FieldState :=
  { fs with hotEpochs := if 64 < s.heat.demand ∧ (760 ≤ fs.tL ∨ 680 ≤ fs.tD) then fs.hotEpochs + 1 else 0 }

/-- A field that must go off for heat names its activation; the fields themselves change by the count alone. -/
theorem heatOff_eq (s : State) : ∃ own l, heatOff s = { s with
    fields := tmapAll {} (fun _ fs => heatCounted s fs) s.fields, own := own, sent := l } := by
  unfold heatOff
  dsimp only
  split
  · split
    · rw [nameOwn_eq]
      exact ⟨_, _, rfl⟩
    · exact ⟨s.own, s.sent, rfl⟩
  · exact ⟨s.own, s.sent, rfl⟩

/-- U of R452: the cap, or with the ramp no more than its share above the lowest mean. -/
def capLimit (s : State) : Nat :=
  if tb s.power.ctrl.toNat 1 then
    min s.power.cap.toNat ((match recentMeans s with
      | [] => floorNow s
      | x :: xs => xs.foldl min x) + s.power.ramp.toNat)
  else s.power.cap.toNat

/-- The mean of the epoch. -/
def epochMean (s : State) : Nat := if s.power.count = 0 then s.power.lastM else s.power.sum / s.power.count

/-- The demand of the module's own mean. -/
def meanDemand (s : State) : Nat :=
  if s.power.count = 0 then 0
  else cappingDemand s.time.period (basePeriod s) (decide (0 < s.power.demandInForce)) (floorNow s) (capLimit s) s.power.sum s.power.count

/-- The demand of the fields that run on one converter. -/
def fieldDemand (s : State) : Nat :=
  (s.fields.filter fun q => q.2.convBad.length == 1).foldl (fun d q =>
    if s.power.count = 0 then d
    else max d (cappingDemand s.time.period (basePeriod s) (decide (0 < s.power.demandInForce)) (floorNow s) (324 * 48)
      (48 * q.2.powerSum) s.power.count)) 0

/-- A field whose sums begin anew. -/
def fieldLatched (s : State) (fs : FieldState) : FieldState :=
  { fs with amps := BitVec.ofNat 12 (if s.power.count = 0 then 0 else fs.ampSum / s.power.count), powerSum := 0, ampSum := 0 }

/-- The power module with the epoch's mean and the demands latched. -/
def powerLatched (s : State) : PowerState := { (adjustFloor s (epochMean s)).power with
  lastM := epochMean s, demand := max (meanDemand s) (fieldDemand s), fieldDemand := decide (meanDemand s < fieldDemand s)
  sum := 0, count := 0
  means := (adjustFloor s (epochMean s)).power.means.filter (fun q => decide (boardTime s ≤ q.2 + 10000000)) ++
    [(epochMean s, boardTime s)] }

/-- The state with the means and demands latched, before heat is judged. -/
def capLatched (s : State) : State :=
  { s with power := powerLatched s, fields := tmapAll {} (fun _ fs => fieldLatched s fs) s.fields }

theorem adjustFloor_eq (s : State) (m : Nat) : ∃ p, adjustFloor s m = { s with power := p } := by
  unfold adjustFloor
  extract_lets p means stop level need floored
  split
  · exact ⟨_, rfl⟩
  · split
    · exact ⟨_, rfl⟩
    · exact ⟨_, rfl⟩

/-- The means and demands of a state put on the one that follows it. -/
def latchOver (s t : State) : State := { t with
  power := { t.power with
    lastM := epochMean s, demand := max (meanDemand s) (fieldDemand s), fieldDemand := decide (meanDemand s < fieldDemand s)
    sum := 0, count := 0
    means := t.power.means.filter (fun q => decide (boardTime t ≤ q.2 + 10000000)) ++ [(epochMean s, boardTime t)] }
  fields := tmapAll {} (fun _ fs => fieldLatched s fs) t.fields }

/-- Floor load changes the power module alone, so the latch is the one of the state before it. -/
theorem latchOver_adjustFloor (s : State) : latchOver s (adjustFloor s (epochMean s)) = capLatched s := by
  obtain ⟨p, hfloor⟩ := adjustFloor_eq s (epochMean s)
  have htime : boardTime (adjustFloor s (epochMean s)) = boardTime s := by rw [hfloor]; rfl
  unfold latchOver capLatched powerLatched
  rw [htime, hfloor]

theorem cappingLatch_latches {s : State} (hrun : s.time.running = true) (hstroke : s.time.stroke = 3840) (hnew : latchedNow s = false) :
    exec .cappingLatch s = .next (heatOff (thermalLatch (capLatched s))) := by
  have hdue : (!(s.time.running && s.time.stroke == 3840) || latchedNow s) = false := by simp [hrun, hstroke, hnew]
  have hlatch : exec .cappingLatch s = .next (heatOff (thermalLatch (latchOver s (adjustFloor s (epochMean s))))) :=
    if_neg (by rw [hdue]; decide)
  rw [hlatch, latchOver_adjustFloor]

theorem cappingLatch_idle {s : State} (h : s.time.stroke ≠ 3840 ∨ latchedNow s = true) : exec .cappingLatch s = .next s := by
  have hskip : (!(s.time.running && s.time.stroke == 3840) || latchedNow s) = true := by
    rcases h with h | h <;> simp [h]
  exact if_pos hskip

/-- What the latch leaves: everything but the power module, the fields' sums and what heat judges. -/
theorem cappingLatch_left (s : State) : ∃ u h own l, heatOff (thermalLatch (capLatched s)) = { capLatched s with
    fields := tmapAll {} (fun _ fs => heatCounted u fs) (capLatched s).fields, heat := h, own := own, sent := l } := by
  obtain ⟨own, l, hoff⟩ := heatOff_eq (thermalLatch (capLatched s))
  obtain ⟨h, hthermal⟩ := thermalLatch_eq (capLatched s)
  refine ⟨thermalLatch (capLatched s), h, own, l, hoff.trans ?_⟩
  generalize thermalLatch (capLatched s) = u at hthermal ⊢
  subst hthermal
  rfl

/-! ## The capping demand (R452) -/

theorem cappingDemand_under {p base f u sum n : Nat} (h : sum ≤ u * n) : cappingDemand p base false f u sum n = 0 := by
  unfold cappingDemand
  exact if_pos (.inr ⟨rfl, h⟩)

theorem cappingDemand_over {p base f u sum n : Nat} {inForce : Bool} (hfloor : f < u) (h : u * n < sum) :
    cappingDemand p base inForce f u sum n =
      let d := ceilDiv (p * (sum - f * n)) ((u - f) * n)
      if d ≤ base then 0 else d := by
  unfold cappingDemand
  dsimp only
  rw [if_neg (Nat.not_le.mpr hfloor), if_pos h]
  have hno : ¬ (inForce = false ∧ sum ≤ u * n) := fun hno => Nat.not_le.mpr h hno.2
  by_cases hbase : ceilDiv (p * (sum - f * n)) ((u - f) * n) ≤ base
  · rw [if_pos hbase, if_pos (.inl hbase)]
  · rw [if_neg hbase, if_neg (fun h => h.elim hbase hno)]

theorem fieldDemand_none {s : State} (h : ∀ q ∈ s.fields, q.2.convBad.length ≠ 1) : fieldDemand s = 0 := by
  have hnone : s.fields.filter (fun q => q.2.convBad.length == 1) = [] :=
    List.filter_eq_nil_iff.mpr fun q hq => by simpa using h q hq
  rw [fieldDemand, hnone]
  rfl

theorem capLimit_noRamp {s : State} (h : tb s.power.ctrl.toNat 1 = false) : capLimit s = s.power.cap.toNat := by
  rw [capLimit, h]
  exact if_neg Bool.false_ne_true

/-- Settles O33: the sample's fold over the fields, and the latch as the demand of the module's own mean. -/
theorem powerSamplesAndCapping : Obligations.PowerSamplesAndCapping := by
  unfold Obligations.PowerSamplesAndCapping
  refine ⟨fun main aux amps s hwf hnew => ?_, fun s hwf hrun hstroke => ⟨fun hold => cappingLatch_idle (.inr hold), fun hfresh => ?_⟩,
    fun s h => cappingLatch_idle (.inl h)⟩
  · intro total
    obtain ⟨-, -, -, hfields, -⟩ := (tablesWf_iff s).mp hwf
    obtain ⟨base, boost, hexec, hkept, hset⟩ := powerSample_eq (main := main) (aux := aux) (amps := amps) (total := total) rfl hnew
    have hfield : ∀ f, f < 48 →
        (floorsSet (sampled s total main amps) base boost).field f = fieldSampled s main amps f (s.field f) :=
      fun f hf => (floorsSet_field _ base boost f).trans (sampled_field hfields total main amps hf)
    refine ⟨_, hexec, rfl, fun hlow => ⟨if_pos (decide_eq_true hlow), if_pos (decide_eq_true hlow), fun f hf => ?_⟩,
      fun hhigh => ⟨if_neg (by simpa using hhigh), if_neg (by simpa using hhigh)⟩, hkept, hset, floorsSet_left ..⟩
    rw [hfield f hf]
    exact ⟨if_pos (decide_eq_true hlow), if_pos (decide_eq_true hlow)⟩
  · obtain ⟨-, -, -, hfields, -⟩ := (tablesWf_iff s).mp hwf
    obtain ⟨u, h, own, l, hleft⟩ := cappingLatch_left s
    refine ⟨_, (cappingLatch_latches hrun hstroke hfresh).trans (congrArg _ hleft), rfl, rfl, rfl,
      List.mem_append_right _ (List.mem_singleton_self _), fun f => ?_, rfl, fun hramp hconv hcount => ?_⟩
    · have hkeys : keysGe 0 (capLatched s).fields :=
        keysGe_tmapAll _ _ ((tblWf_iff {} s.fields).mp hfields).1
      have hsums : (fun fs : FieldState => (fs.powerSum, fs.ampSum)) (tget {} (capLatched s).fields f) = (0, 0) :=
        tget_tmapAll_of (p := fun fs : FieldState => (fs.powerSum, fs.ampSum) = (0, 0)) rfl (fun _ _ => rfl) s.fields f
      have hheat := tget_tmapAll_keeps (d := ({} : FieldState)) (f := fun _ fs => heatCounted u fs)
        (g := fun fs => (fs.powerSum, fs.ampSum)) (fun _ _ => rfl) hkeys f
      exact Prod.mk.inj (hheat.trans hsums)
    · have hdemand : max (meanDemand s) (fieldDemand s) = cappingDemand s.time.period (basePeriod s)
          (decide (0 < s.power.demandInForce)) (floorNow s) s.power.cap.toNat s.power.sum s.power.count := by
        rw [fieldDemand_none hconv, Nat.max_zero, meanDemand, if_neg hcount, capLimit_noRamp hramp]
      intro cap n
      refine ⟨fun hforce _ hunder => hdemand.trans ?_, fun hfloor hover => hdemand.trans (cappingDemand_over hfloor hover)⟩
      rw [hforce]
      exact cappingDemand_under hunder

end Sys2Proof.Machine
end

section
/-! PROOFS. Wake steps, the mark of a lost field and its staged variant (R268, R297, R446, R447). -/

namespace Sys2Proof.Machine

/-! ## Wake steps (R446, R447, R233) -/

/-- The sites of a list in a field come up. -/
def sitesUp (s : State) (f : Nat) (l : List Nat) : State :=
  l.foldl (fun s i => s.modSite (f * 74 + i) fun st => { st with up := true }) s

theorem sitesUp_parts (s : State) (f : Nat) (l : List Nat) : sitesUp s f l = { s with sites := (sitesUp s f l).sites } := by
  induction l generalizing s with
  | nil => rfl
  | cons i l ih =>
    have h := ih (s.modSite (f * 74 + i) fun st => { st with up := true })
    rw [sitesUp, List.foldl_cons]
    exact h

theorem modSite_sites_wf {s : State} (h : tblWf {} s.sites = true) (k : Nat) (g : SiteState → SiteState) :
    tblWf {} (s.modSite k g).sites = true := tblWf_tset ({} : SiteState) k (g (s.site k)) h

theorem sitesUp_keeps (s : State) (f : Nat) (l : List Nat) : Keeps s (sitesUp s f l) :=
  (keeps_refl s).foldl fun _ _ h => h.modSite

/-- A site after its row came up: up where it is listed, and otherwise unchanged. -/
theorem sitesUp_site {f : Nat} {l : List Nat} (k : Nat) : ∀ {s : State}, tblWf {} s.sites = true →
    (sitesUp s f l).site k = { s.site k with up := (s.site k).up || (l.any fun i => f * 74 + i == k) } := by
  induction l with
  | nil => intro s _; simp [sitesUp]
  | cons i l ih =>
    intro s hsites
    have htail := ih (s := s.modSite (f * 74 + i) fun st => { st with up := true }) (modSite_sites_wf hsites _ _)
    rw [sitesUp, List.foldl_cons]
    refine htail.trans ?_
    by_cases hk : k = f * 74 + i
    · subst hk
      rw [modSite_site_same hsites]
      simp
    · rw [State.modSite, State.setSite_site_other _ hk]
      have hno : (f * 74 + i == k) = false := beq_false_of_ne (Ne.symm hk)
      rw [List.any_cons, hno, Bool.false_or]

/-- A slice of a field leaves self-refresh. -/
def refreshLeft (f k : Nat) (st : SiteState) : SiteState :=
  if k / 74 = f ∧ st.cisState = .selfRefresh then { st with cisState := .ready, refreshCount := st.refreshCount + 3 } else st

theorem refreshLeft_power (f k : Nat) (st : SiteState) :
    (refreshLeft f k st).up = st.up ∧ (refreshLeft f k st).dark = st.dark := by
  unfold refreshLeft
  split
  exacts [⟨rfl, rfl⟩, ⟨rfl, rfl⟩]

theorem refreshLeft_left {f k : Nat} (h : k / 74 = f) (st : SiteState) : (refreshLeft f k st).cisState ≠ .selfRefresh := by
  unfold refreshLeft
  split
  · exact CisState.noConfusion
  · next hno => exact fun hself => hno ⟨h, hself⟩

/-- A row of a field after its wake step; in the first the slices leave self-refresh. -/
def rowWoken (s : State) (f step : Nat) (l : List Nat) : State :=
  if step = 0 then { sitesUp s f l with sites := tmapAll {} (refreshLeft f) (sitesUp s f l).sites } else sitesUp s f l

theorem rowWoken_parts (s : State) (f step : Nat) (l : List Nat) :
    rowWoken s f step l = { s with sites := (rowWoken s f step l).sites } := by
  unfold rowWoken
  split
  · exact congrArg (fun t : State => { t with sites := tmapAll {} (refreshLeft f) (sitesUp s f l).sites }) (sitesUp_parts s f l)
  · exact sitesUp_parts s f l

theorem rowWoken_time (s : State) (f step : Nat) (l : List Nat) : (rowWoken s f step l).time = s.time := by
  rw [rowWoken_parts]

theorem rowWoken_fields (s : State) (f step : Nat) (l : List Nat) : (rowWoken s f step l).fields = s.fields := by
  rw [rowWoken_parts]

theorem setField_parts {s t : State} (h : t = { s with sites := t.sites }) (f : Nat) (v : FieldState) :
    t.setField f v = { s with sites := (t.setField f v).sites, fields := (t.setField f v).fields } :=
  congrArg (fun u : State => { u with fields := (t.setField f v).fields }) h

theorem rowWoken_field (s : State) (f step : Nat) (l : List Nat) (g : Nat) : (rowWoken s f step l).field g = s.field g := by
  rw [State.field, rowWoken_parts]
  rfl

/-- A site of a row that woke: with its slice out of self-refresh in the first step. -/
theorem rowWoken_site {s : State} (hwf : s.tablesWf = true) (f step : Nat) (l : List Nat) (k : Nat) :
    (rowWoken s f step l).site k = if step = 0 then refreshLeft f k ((sitesUp s f l).site k) else (sitesUp s f l).site k := by
  obtain ⟨-, hsites, -⟩ := (tablesWf_iff _).mp ((sitesUp_keeps s f l).2 hwf)
  unfold rowWoken
  split
  · exact tget_tmapAll {} (refreshLeft f) ((tblWf_iff _ _).mp hsites).1 (if_neg fun h => CisState.noConfusion h.2)
  · rfl

theorem rowWoken_up {s : State} (hwf : s.tablesWf = true) (f step : Nat) {l : List Nat} {i : Nat} (h : i ∈ l) :
    ((rowWoken s f step l).site (f * 74 + i)).up = true := by
  obtain ⟨-, hsites, -⟩ := (tablesWf_iff s).mp hwf
  have hup : ((sitesUp s f l).site (f * 74 + i)).up = true := by
    rw [sitesUp_site _ hsites]
    simpa using .inr h
  rw [rowWoken_site hwf]
  split
  · rwa [(refreshLeft_power f _ _).1]
  · exact hup

/-- A site that is up or dark stays so. -/
theorem rowWoken_live {s : State} (hwf : s.tablesWf = true) (f step : Nat) (l : List Nat) {k : Nat}
    (h : (s.site k).up = true ∨ (s.site k).dark = true) :
    ((rowWoken s f step l).site k).up = true ∨ ((rowWoken s f step l).site k).dark = true := by
  obtain ⟨-, hsites, -⟩ := (tablesWf_iff s).mp hwf
  have hlive : ((sitesUp s f l).site k).up = true ∨ ((sitesUp s f l).site k).dark = true := by
    rw [sitesUp_site k hsites]
    exact h.imp_left fun h => by simp [h]
  rw [rowWoken_site hwf]
  split
  · rwa [(refreshLeft_power f _ _).1, (refreshLeft_power f _ _).2]
  · exact hlive

theorem rowWoken_other {s : State} (hwf : s.tablesWf = true) {f step : Nat} {l : List Nat} {k : Nat} (hl : ∀ i ∈ l, i < 74)
    (h : k / 74 ≠ f) : (rowWoken s f step l).site k = s.site k := by
  obtain ⟨-, hsites, -⟩ := (tablesWf_iff s).mp hwf
  have hup : (sitesUp s f l).site k = s.site k := by
    have hno : (l.any fun i => f * 74 + i == k) = false := by
      refine List.any_eq_false.mpr fun i hi hik => h ?_
      have hi := hl i hi
      have hik : f * 74 + i = k := by simpa using hik
      omega
    rw [sitesUp_site k hsites, hno, Bool.or_false]
  rw [rowWoken_site hwf, hup]
  exact ite_eq_right_iff.mpr fun _ => if_neg fun hk => h hk.1

/-- The sites of the step that are neither up nor dark. -/
def rowLeft (s : State) (f : Nat) : List Nat :=
  (wakeRow (s.field f).wakeStep).filter fun i => !(s.site (f * 74 + i)).up && !(s.site (f * 74 + i)).dark

theorem wakeRow_lt {y i : Nat} (hy : y ≤ 7) (h : i ∈ wakeRow y) : i < 74 := by
  unfold wakeRow at h
  split at h
  · obtain ⟨j, hj, rfl⟩ := List.mem_map.mp h
    have := List.mem_range.mp hj
    omega
  · obtain ⟨j, hj, rfl⟩ := List.mem_map.mp h
    have := List.mem_range.mp hj
    omega

/-- The headroom of the field's branch. -/
def branchHead (s : State) (f : Nat) : Nat := 1600 - ((s.field f).lastBranch + (s.field (branchMate f)).lastBranch)

section
variable {f : Field} {s : State} (hwake : (s.field f.val).wake = true)
  (hdue : (s.field f.val).wakeAt + 1024 ≤ s.time.localTicks.toNat)
include hwake hdue

/-- The field after a wake step of its whole row. -/
def fieldWoken (s : State) (fs : FieldState) : FieldState :=
  if fs.wakeStep < 7 then { fs with wakeAt := s.time.localTicks.toNat, wakeStep := fs.wakeStep + 1 }
  else { fs with
    wakeAt := s.time.localTicks.toNat, wake := false, wakeStep := 0, domain := .running
    epochSeen := if fs.domain = .running ∨ fs.domain = .dark then fs.epochSeen else s.time.epoch }

theorem wakeStep_all (hhead : (if (s.field f.val).wakeStep = 7 then 184 else 150) ≤ branchHead s f.val) :
    exec (.wakeStep f) s = .next ((rowWoken s f.val (s.field f.val).wakeStep (rowLeft s f.val)).setField f.val
      (fieldWoken s (s.field f.val))) := by
  have hbegins : ¬ (!(s.field f.val).wake || decide (s.time.localTicks.toNat < (s.field f.val).wakeAt + 1024)) = true := by
    simp [hwake, hdue]
  change execWakeStep f s = _
  unfold execWakeStep
  extract_lets _ head left all n narrow fs fs' up woken
  rw [if_neg hbegins]
  have hall : all = true := decide_eq_true hhead
  have hn : n = left.length := if_pos hall
  have hfs : fs = s.field f.val := if_neg (by simp [narrow, hall])
  have hfs' : fs' = { s.field f.val with wakeAt := s.time.localTicks.toNat } :=
    congrArg (fun fs : FieldState => { fs with wakeAt := s.time.localTicks.toNat }) hfs
  have hwoken : woken = rowWoken s f.val (s.field f.val).wakeStep (rowLeft s f.val) := by
    have hup : up = sitesUp s f.val (rowLeft s f.val) := by
      simp only [up, hn, List.take_length]
      rfl
    simp only [woken, hfs', hup]
    rfl
  rw [if_neg (by simp [narrow, hall]), if_neg (Nat.not_lt.mpr hn.ge), hwoken]
  unfold fieldWoken
  by_cases hstep : (s.field f.val).wakeStep < 7
  · simp only [hfs', hstep, if_true, done]
  · simp only [hfs', hstep, if_false, done, rowWoken_time]

theorem wakeStep_waits (hhead : branchHead s f.val * 10 / 167 = 0) (hleft : rowLeft s f.val ≠ []) :
    exec (.wakeStep f) s = .next (s.setField f.val { s.field f.val with spreads := satAdd (s.field f.val).spreads 1 }) := by
  have hbegins : ¬ (!(s.field f.val).wake || decide (s.time.localTicks.toNat < (s.field f.val).wakeAt + 1024)) = true := by
    simp [hwake, hdue]
  change execWakeStep f s = _
  unfold execWakeStep
  extract_lets _ head left all n narrow fs fs' up woken
  rw [if_neg hbegins]
  have hhead' : head * 10 / 167 = 0 := hhead
  have hall : all = false := decide_eq_false (by split <;> omega)
  have hn : n = 0 := (if_neg (by simp [hall])).trans (by rw [hhead', Nat.min_zero])
  have hnarrow : narrow = true := by
    have hsome : 0 < left.length := List.length_pos_iff.mpr hleft
    simp [narrow, hall, hsome]
  have hfs : fs = { s.field f.val with spreads := satAdd (s.field f.val).spreads 1 } := if_pos hnarrow
  rw [if_pos (by simp [hnarrow, hn]), hfs]
  rfl

end

/-! ## Settled holes (R260, R262) -/

/-- Every field that is no hole is reached, and its spine comes from the side that no hole cuts off. -/
def Settled (s : State) : Prop := ∀ g, g < 48 → isHole s g = false →
  g ∈ fieldsReached s ∧ (s.field g).northSpine = holeSouth s g ∧ ¬ (holeSouth s g = true ∧ holeNorth s g = true)

section
variable {s t : State} (h : ∀ g, isHole t g = isHole s g)
include h

theorem fieldsReached_congr : fieldsReached t = fieldsReached s := by
  unfold fieldsReached
  rw [funext h]

theorem holeSouth_congr (f : Nat) : holeSouth t f = holeSouth s f := by
  unfold holeSouth
  rw [funext h]

theorem holeNorth_congr (f : Nat) : holeNorth t f = holeNorth s f := by
  unfold holeNorth
  rw [funext h]

theorem cutField_congr (f : Nat) : cutField t f = cutField s f := by
  rw [cutField, cutField, h, fieldsReached_congr h, holeSouth_congr h, holeNorth_congr h]

theorem settled_congr (hspine : ∀ g, (t.field g).northSpine = (s.field g).northSpine) (hs : Settled s) : Settled t := by
  intro g hg hlit
  rw [fieldsReached_congr h, holeSouth_congr h, holeNorth_congr h, hspine]
  exact hs g hg ((h g).symm.trans hlit)

end

/-- How many fields are no holes. -/
def litFields (s : State) : Nat := ((Finset.range 48).filter fun f => isHole s f = false).card

theorem cutField_lit {s : State} {f : Nat} (h : cutField s f = true) : isHole s f = false := by
  unfold cutField at h
  exact (Bool.not_eq_true' _).mp (Bool.and_eq_true_iff.mp h).1

/-- A step of the cut ends it or darkens one field more. -/
theorem cutStep_lit {s : State} (hwf : s.tablesWf = true) :
    allFields.find? (cutField s) = none ∨ litFields (cutStep s) < litFields s := by
  cases hfind : allFields.find? (cutField s) with
  | none => exact .inl rfl
  | some f =>
    refine .inr ?_
    have hstep : cutStep s = makeHole s f := by rw [cutStep, hfind]
    obtain ⟨-, -, -, hfields, -⟩ := (tablesWf_iff s).mp hwf
    have hmem : f ∈ allFields := List.mem_of_find?_eq_some hfind
    have hlit : isHole s f = false := cutField_lit (List.find?_some hfind)
    have hrange : f ∈ Finset.range 48 := Finset.mem_range.mpr (List.mem_range.mp hmem)
    rw [hstep]
    refine Finset.card_lt_card ⟨fun g hg => ?_, fun hsub => ?_⟩
    · obtain ⟨hg, hlit'⟩ := Finset.mem_filter.mp hg
      refine Finset.mem_filter.mpr ⟨hg, Bool.eq_false_iff.mpr fun hhole => ?_⟩
      exact absurd (hlit'.symm.trans ((makeHole_grow hwf f).holes g hhole)) Bool.false_ne_true
    · have hno := (Finset.mem_filter.mp (hsub (Finset.mem_filter.mpr ⟨hrange, hlit⟩))).2
      exact absurd (hno.symm.trans (makeHole_isHole hfields f)) Bool.false_ne_true

/-- After as many steps as fields no field is cut off any more. -/
theorem cutSteps_end {s : State} (hwf : s.tablesWf = true) (n : Nat) :
    allFields.find? (cutField ((List.range n).foldl (fun t _ => cutStep t) s)) = none ∨
      litFields ((List.range n).foldl (fun t _ => cutStep t) s) + n ≤ litFields s := by
  induction n with
  | zero => exact .inr le_rfl
  | succ n ih =>
    rw [List.range_succ, List.foldl_append, List.foldl_cons, List.foldl_nil]
    have hwf' := (holesGrow_foldl (fun s (_ : Nat) => cutStep_keeps s) (fun _ _ => cutStep_grow) (List.range n) s hwf).2
    generalize (List.range n).foldl (fun t _ => cutStep t) s = t at ih hwf' ⊢
    rcases cutStep_lit hwf' with hend | hless
    · rw [show cutStep t = t by rw [cutStep, hend]]
      exact .inl hend
    · rcases ih with hend | hmore
      · rw [show cutStep t = t by rw [cutStep, hend]]
        exact .inl hend
      · exact .inr (by omega)

theorem cutField_none {s : State} (h : litFields s = 0) : allFields.find? (cutField s) = none := by
  refine List.find?_eq_none.mpr fun f hf hcut => ?_
  have hrange : f ∈ Finset.range 48 := Finset.mem_range.mpr (List.mem_range.mp hf)
  exact Finset.filter_eq_empty_iff.mp (Finset.card_eq_zero.mp h) hrange (cutField_lit hcut)

/-- The spines' switching leaves the holes. -/
theorem spineStep_isHole {s : State} (hwf : s.tablesWf = true) (f g : Nat) : isHole (spineStep s f) g = isHole s g := by
  obtain ⟨-, -, -, hfields, -⟩ := (tablesWf_iff s).mp hwf
  unfold spineStep
  split
  exacts [rfl, setSpine_isHole hfields _ _ _]

/-- A field's spine comes from the right side. -/
def spineRight (s : State) (g : Nat) : Prop := isHole s g = false → (s.field g).northSpine = holeSouth s g

theorem spineStep_sets {s : State} (hwf : s.tablesWf = true) (f : Nat) : spineRight (spineStep s f) f := by
  obtain ⟨-, -, -, hfields, -⟩ := (tablesWf_iff s).mp hwf
  intro hlit
  rw [holeSouth_congr (spineStep_isHole hwf f)]
  rw [spineStep_isHole hwf] at hlit
  unfold spineStep
  split
  · next h => simpa [hlit] using h
  · rw [setSpine_field hfields]
    exact if_pos rfl

theorem spineStep_right {s : State} (hwf : s.tablesWf = true) (f : Nat) {g : Nat} (h : spineRight s g) : spineRight (spineStep s f) g := by
  by_cases hg : g = f
  · exact hg ▸ spineStep_sets hwf f
  · obtain ⟨-, -, -, hfields, -⟩ := (tablesWf_iff s).mp hwf
    intro hlit
    rw [holeSouth_congr (spineStep_isHole hwf f)]
    rw [spineStep_isHole hwf] at hlit
    rw [← h hlit]
    unfold spineStep
    split
    · rfl
    · rw [setSpine_field hfields]
      exact if_neg hg

/-- Settling leaves no field cut off, and every spine on its side. -/
theorem settleHoles_settled {s : State} (hwf : s.tablesWf = true) : Settled (settleHoles s) := by
  have hcut := cutSteps_end hwf 48
  have hwf' := (holesGrow_foldl (fun s (_ : Nat) => cutStep_keeps s) (fun _ _ => cutStep_grow) (List.range 48) s hwf).2
  rw [settleHoles_eq]
  generalize (List.range 48).foldl (fun t _ => cutStep t) s = t at hcut hwf' ⊢
  have hnone : allFields.find? (cutField t) = none := by
    refine hcut.elim id fun h => cutField_none ?_
    have hmost : litFields s ≤ 48 := (Finset.card_filter_le _ _).trans (Finset.card_range 48).le
    omega
  have hholes : ∀ g, isHole (allFields.foldl spineStep t) g = isHole t g := by
    refine fun g => (foldl_preserves (inv := fun s : State => s.tablesWf = true ∧ isHole s g = isHole t g)
      (fun s f h => ⟨(spineStep_keeps s f).2 h.1, (spineStep_isHole h.1 f g).trans h.2⟩) allFields ⟨hwf', rfl⟩).2
  intro g hg hlit
  have hspine : spineRight (allFields.foldl spineStep t) g := by
    refine (foldl_establishes (inv := fun s : State => s.tablesWf = true) (p := fun s => s.tablesWf = true ∧ spineRight s g)
      (List.mem_range.mpr hg) (fun s f h => (spineStep_keeps s f).2 h) (fun s h => ⟨(spineStep_keeps s g).2 h, spineStep_sets h g⟩)
      (fun s f h => ⟨(spineStep_keeps s f).2 h.1, spineStep_right h.1 f h.2⟩) hwf').2
  have hkept := List.find?_eq_none.mp hnone g (List.mem_range.mpr hg)
  refine ⟨?_, hspine hlit, ?_⟩
  · rw [fieldsReached_congr hholes]
    rw [hholes] at hlit
    by_contra hno
    exact hkept (by simp [cutField, hlit, hno])
  · rw [hholes] at hlit
    rw [holeSouth_congr hholes, holeNorth_congr hholes]
    exact fun hboth => hkept (by simp [cutField, hlit, hboth])

/-! ## The mark of a lost field (R268, R297, R299) -/

/-- What follows the mark stops the data path, ends requests or begins a staging: the fields, the pending plan and the epoch's count
stay. -/
structure MarkStands (s t : State) : Prop where
  fields : t.fields = s.fields
  pending : t.plan.pending = s.plan.pending
  epoch : t.time.epoch = s.time.epoch
  stroke : t.time.stroke = s.time.stroke

theorem markStands_refl (s : State) : MarkStands s s := ⟨rfl, rfl, rfl, rfl⟩

theorem MarkStands.trans {s t u : State} (h : MarkStands s t) (g : MarkStands t u) : MarkStands s u :=
  ⟨g.fields.trans h.fields, g.pending.trans h.pending, g.epoch.trans h.epoch, g.stroke.trans h.stroke⟩

theorem Serving.markStands {s t : State} (h : Serving s t) : MarkStands s t := by
  refine ⟨?_, ?_, ?_, ?_⟩ <;> rw [h.eq]

theorem tellMaster_stands (s : State) (c : VcContent) : MarkStands s (tellMaster s c) := by
  refine ⟨?_, ?_, ?_, ?_⟩ <;> rw [tellMaster_eq]

theorem boardTell_stands (s : State) (c : VcContent) : MarkStands s (boardTell s c) := by
  refine ⟨?_, ?_, ?_, ?_⟩ <;> rw [boardTell_eq]

theorem holdBarrier_stands (s : State) (h : BarrierHold) : MarkStands s (holdBarrier s h) := by
  unfold holdBarrier
  split
  exacts [markStands_refl s, ⟨rfl, rfl, rfl, rfl⟩]

theorem tellMaster_serving (s : State) (c : VcContent) : Serving s (tellMaster s c) := by
  refine ⟨?_, ?_⟩ <;> rw [tellMaster_eq]

theorem endReplica_serving (s : State) (w status : Nat) : Serving s (endReplica s w status) := by
  have hended := endWhere_serving s (fun _ r => r.replica == w) status
  unfold endReplica State.setWork
  dsimp only
  split
  exacts [serving_trans hended ⟨rfl, rfl⟩, serving_trans hended ⟨rfl, rfl⟩]

theorem stopReplica_serving (s : State) : Serving s (stopReplica s) := by
  have hended := endAll_serving s stWaferFault
  exact serving_ite (endReplica_serving s 0 stWaferFault) (serving_ite (serving_trans hended (tellMaster_serving _ _)) hended)

theorem noVariant_stands (s : State) : MarkStands s (noVariant s) :=
  (show MarkStands s (stopDataPath s) from ⟨rfl, rfl, rfl, rfl⟩).trans
    ((stopReplica_serving _).markStands.trans ⟨rfl, rfl, rfl, rfl⟩)

theorem loseField_stands (s : State) (w : BitVec 2) (f : Field) (whole : Bool) : MarkStands s (loseField s w f whole) := by
  unfold loseField
  split
  · extract_lets stopped
    refine MarkStands.trans ?_ (holdBarrier_stands _ _)
    exact ⟨rfl, rfl, rfl, rfl⟩
  · exact noVariant_stands s

/-- A discard leaves no plan pending, and the plan that runs. -/
theorem discardPending_parts (s : State) (status : Nat) : ∃ cells sites routers windows casc plan, discardPending s status = { s with
    cells := cells, sites := sites, routers := routers, windows := windows, casc := casc, plan := plan } ∧
    plan.pending = none ∧ plan.active = s.plan.active := by
  unfold discardPending
  split
  · next h _ => exact ⟨s.cells, s.sites, s.routers, s.windows, s.casc, s.plan, rfl, h, rfl⟩
  · exact ⟨_, _, _, _, _, _, rfl, rfl, rfl⟩

theorem discardPending_left (s : State) (status : Nat) : (discardPending s status).plan.pending = none ∧
    (discardPending s status).fields = s.fields ∧ (discardPending s status).time = s.time := by
  obtain ⟨_, _, _, _, _, _, heq, hpending, -⟩ := discardPending_parts s status
  rw [heq]
  exact ⟨hpending, rfl, rfl⟩

theorem deskew_keeps (s : State) (cut : List Nat) : Keeps s (deskew s cut) := (keeps_refl s).deskew

/-- A field that counts with the board again. -/
def countsAgain (epoch : Nat) (fs : FieldState) : FieldState := { fs with epochSeen := epoch, epochGot := 0 }

theorem deskew_time (s : State) (cut : List Nat) : (deskew s cut).time = s.time :=
  foldl_keeps State.time (f := fun s f => s.modField f (countsAgain s.time.epoch)) (fun _ _ => rfl) cut s

/-- What a hole, a spine and a mark are read from. -/
def markOf (fs : FieldState) : Domain × Bool × Option (BitVec 60) := (fs.domain, fs.northSpine, fs.lostStroke)

theorem modField_markOf {s : State} (hwf : tblWf {} s.fields = true) {g : FieldState → FieldState}
    (hg : ∀ fs, markOf (g fs) = markOf fs) (f k : Nat) : markOf ((s.modField f g).field k) = markOf (s.field k) := by
  by_cases hk : k = f
  · rw [hk, State.modField_field_same hwf, hg]
  · rw [State.modField, State.setField_field_other _ hk]

theorem deskew_markOf {s : State} (hwf : s.tablesWf = true) (cut : List Nat) (k : Nat) :
    markOf ((deskew s cut).field k) = markOf (s.field k) := by
  refine (foldl_preserves (inv := fun t : State => t.tablesWf = true ∧ markOf (t.field k) = markOf (s.field k))
    (fun t f h => ?_) cut ⟨hwf, rfl⟩).2
  obtain ⟨-, -, -, hfields, -⟩ := (tablesWf_iff t).mp h.1
  exact ⟨(keeps_refl t).modField.2 h.1, (modField_markOf hfields (g := countsAgain t.time.epoch) (fun _ => rfl) f k).trans h.2⟩

/-- The records of the fields that a hole cuts off. -/
def cutRecorded (s : State) (cut : List Nat) : State := cut.foldl (fun s g => raiseModule s 3 0x8C g 0 2) s

theorem cutRecorded_left (s : State) (cut : List Nat) :
    (cutRecorded s cut).fields = s.fields ∧ (cutRecorded s cut).time = s.time := by
  refine Prod.mk.inj (foldl_keeps (fun s : State => (s.fields, s.time)) (fun s g => ?_) cut s)
  obtain ⟨_, _, _, heq⟩ := raiseModule_eq s 3 0x8C g 0 2
  rw [heq]

/-- The state in which the mark of a lost field has been set, with the holes settled around it. -/
def holeMarked (s : State) (f : Nat) : State := if isHole s f then settleHoles s else s

theorem holeMarked_keeps (s : State) (f : Nat) : Keeps s (holeMarked s f) := (keeps_refl s).settleHoles.ite (keeps_refl s)

theorem holeMarked_time (s : State) (f : Nat) : (holeMarked s f).time = s.time := by
  unfold holeMarked
  split
  exacts [(settleHoles_aside s).time, rfl]

/-- The mark is taken off and the fields behind it count again. -/
def markCleared (s : State) (f : Nat) (cut dim : List Nat) : State :=
  deskew ((cutRecorded s cut).modField f fun fs => { fs with lostStroke := none }) dim

theorem markCleared_time (s : State) (f : Nat) (cut dim : List Nat) : (markCleared s f cut dim).time = s.time :=
  (deskew_time _ dim).trans (cutRecorded_left s cut).2

/-- Taking the mark off leaves holes and spines. -/
theorem markCleared_markOf {s : State} (hwf : s.tablesWf = true) (f : Nat) (cut dim : List Nat) (k : Nat) :
    markOf ((markCleared s f cut dim).field k) =
      ((s.field k).domain, (s.field k).northSpine, if k = f then none else (s.field k).lostStroke) := by
  obtain ⟨hfields', _⟩ := cutRecorded_left s cut
  have hwf' : (cutRecorded s cut).tablesWf = true := ((keeps_refl s).foldl fun _ _ h => h.raiseModule).2 hwf
  have hkept : ∀ g, (cutRecorded s cut).field g = s.field g := fun g => by rw [State.field, hfields']; rfl
  obtain ⟨-, -, -, hfields, -⟩ := (tablesWf_iff _).mp hwf'
  rw [markCleared, deskew_markOf ((keeps_refl _).modField.2 hwf')]
  by_cases hk : k = f
  · subst hk
    rw [State.modField_field_same hfields, hkept, if_pos rfl]
    rfl
  · rw [State.modField, State.setField_field_other _ hk, hkept, if_neg hk]
    rfl

/-- The board is told of the loss and, with a plan, goes on from it. -/
def lossTold (s : State) (f : Field) (whole : Bool) : State :=
  let t := tellMaster (boardTell s (.fieldLost s.board.position f)) (.fieldLost s.board.position f)
  if t.plan.active.isNone then t else loseField t t.board.position f whole

theorem lossTold_stands (s : State) (f : Field) (whole : Bool) : MarkStands s (lossTold s f whole) := by
  have htold := (boardTell_stands s (.fieldLost s.board.position f)).trans (tellMaster_stands _ (.fieldLost s.board.position f))
  unfold lossTold
  dsimp only
  split
  exacts [htold, htold.trans (loseField_stands ..)]

theorem fieldHoleMark_waits {f : Field} {s : State} {n : BitVec 60} (hlost : (s.field f.val).lostStroke = some n)
    (hrun : s.time.running = true) (hearly : strokeNo s < n.toNat + 2) : exec (.fieldHoleMark f) s = .next s := by
  simp only [exec, execFieldHoleMark, hlost]
  exact if_pos (by simp [hrun, hearly])

/-- A mark whose stroke has come: what stands once it is off, and what follows it. -/
theorem fieldHoleMark_marks {f : Field} {s : State} {n : BitVec 60} (hlost : (s.field f.val).lostStroke = some n)
    (hdue : s.time.running = false ∨ n.toNat + 2 ≤ strokeNo s) : ∃ cut dim t, exec (.fieldHoleMark f) s = .next t ∧
      MarkStands (discardPending (markCleared (holeMarked s f.val) f.val cut dim) stDiscarded) t := by
  simp only [exec, execFieldHoleMark, hlost, done]
  rw [if_neg (by rcases hdue with h | h <;> simp [h, Nat.not_lt.mpr])]
  refine ⟨allFields.filter fun g => isHole (holeMarked s f.val) g && !(allFields.filter (isHole s)).contains g,
    allFields.filter (cutOff s), _, (apply_ite Host.Outcome.next _ _ _).symm, lossTold_stands _ f _⟩

/-! ## The staged variant of a hole (R297) -/

/-- What naming an activation of the module's own enters. -/
theorem nameOwn_named {s : State} {k : OwnKind} (hnew : (s.own.any fun o => o.kind == k) = false) (hfollows : follows s = false) (e : Nat) :
    nameOwn s k e = { s with own := s.own ++ [{ kind := k, epoch := freeEpoch s e }], sent := (nameOwn s k e).sent } :=
  nameOwn_enters e (fun o ho hk => by simpa using List.any_eq_false.mp hnew o ho (beq_iff_eq.mpr hk)) hfollows

section
variable {s : State} {k : OwnKind} (hstaging : s.plan.staging = some k)
include hstaging

theorem holeVariantStaged_follower (h : follows s = true) : exec .holeVariantStaged s = .next (tellMaster s .variantStaged) := by
  simp only [exec, execHoleVariantStaged, hstaging]
  exact if_pos h

theorem holeVariantStaged_alone (h : onBoard s = false) : exec .holeVariantStaged s =
    .next (nameOwn { s with plan := { s.plan with staging := none } } k (s.time.epoch + 2)) := by
  have hfollows : follows s = false := by simp [follows, h]
  simp only [exec, execHoleVariantStaged, hstaging, hfollows, h]
  rfl

theorem holeVariantStaged_master (h : onBoard s = true) (hpos : s.board.position = 0) : exec .holeVariantStaged s =
    .next (nameVariant { s with board := { s.board with staged := s.board.staged ||| 1 } }) := by
  have hfollows : follows s = false := by simp [follows, hpos]
  simp only [exec, execHoleVariantStaged, hstaging, hfollows, h, noteStaged, hpos]
  rfl

/-- The master names an epoch once every admitted module has staged. -/
theorem nameVariant_eq : nameVariant s =
    if s.board.admittedMask &&& ~~~ s.board.staged = 0 then
      nameOwn { s with plan := { s.plan with staging := none }, board := { s.board with staged := 0 } } k (s.time.epoch + 4)
    else s := by
  rw [nameVariant, hstaging]

end

/-- Settles O34: the row as a fold over its sites, the settled holes by their falling count, and the variant by the name it enters. -/
theorem fieldsWakeAndAreMarked : Obligations.FieldsWakeAndAreMarked := by
  unfold Obligations.FieldsWakeAndAreMarked
  refine ⟨fun f s hwf => ?_, fun f s n hwf hlost => ⟨fieldHoleMark_waits hlost, fun hdue => ?_⟩,
    fun s k hstaging hnew => ⟨fun halone => ?_,
    holeVariantStaged_follower hstaging, fun hboard hpos => ?_⟩⟩
  · intro fs head hwake hstep hdue
    obtain ⟨-, -, -, hfields, -⟩ := (tablesWf_iff s).mp hwf
    have hl : ∀ i ∈ rowLeft s f.val, i < 74 := fun i hi => wakeRow_lt hstep (List.mem_of_mem_filter hi)
    have hfield : ∀ v, ((rowWoken s f.val fs.wakeStep (rowLeft s f.val)).setField f.val v).field f.val = v := fun v =>
      State.setField_field_same _ (by rw [rowWoken_fields]; exact hfields)
    refine ⟨fun hhead => ⟨_, wakeStep_all hwake hdue hhead, fun i hi => ?_, fun hfirst i hi => ?_, fun hmore => ?_, fun hlast => ?_,
      fun k hk => ?_, fun g hg => ?_, ?_⟩, fun hhead hleft => wakeStep_waits hwake hdue hhead ?_⟩
    · show ((rowWoken s f.val fs.wakeStep (rowLeft s f.val)).site (f.val * 74 + i)).up = true ∨ _
      by_cases hlive : (s.site (f.val * 74 + i)).up = true ∨ (s.site (f.val * 74 + i)).dark = true
      · exact rowWoken_live hwf f.val _ _ hlive
      · refine .inl (rowWoken_up hwf f.val _ (List.mem_filter.mpr ⟨hi, ?_⟩))
        simpa using hlive
    · show ((rowWoken s f.val fs.wakeStep (rowLeft s f.val)).site (f.val * 74 + i)).cisState ≠ _
      rw [rowWoken_site hwf, if_pos hfirst]
      exact refreshLeft_left (by omega) _
    · rw [hfield, fieldWoken, if_pos hmore]
      exact ⟨rfl, hwake, rfl⟩
    · have hdone : ¬ (s.field f.val).wakeStep < 7 := Nat.not_lt.mpr (Nat.le_of_eq hlast.symm)
      rw [hfield, fieldWoken, if_neg hdone]
      exact ⟨rfl, rfl⟩
    · exact rowWoken_other hwf hl hk
    · exact (State.setField_field_other _ hg).trans (rowWoken_field ..)
    · exact setField_parts (rowWoken_parts s f.val fs.wakeStep (rowLeft s f.val)) _ _
    · obtain ⟨i, hi, hup, hdark⟩ := hleft
      exact List.ne_nil_of_mem (List.mem_filter.mpr ⟨hi, by simp [hup, hdark]⟩)
  · obtain ⟨cut, dim, t, hexec, hstands⟩ := fieldHoleMark_marks hlost hdue
    have hwf' := (holeMarked_keeps s f.val).2 hwf
    obtain ⟨hpending, hfields, htime⟩ := discardPending_left (markCleared (holeMarked s f.val) f.val cut dim) stDiscarded
    have hmarks : ∀ k, markOf (t.field k) = ((((holeMarked s f.val).field k).domain, ((holeMarked s f.val).field k).northSpine,
        if k = f.val then none else ((holeMarked s f.val).field k).lostStroke)) := fun k => by
      rw [← markCleared_markOf hwf' f.val cut dim, State.field, hstands.fields, hfields]
      rfl
    have htimes : t.time.epoch = s.time.epoch ∧ t.time.stroke = s.time.stroke := by
      rw [hstands.epoch, hstands.stroke, htime, markCleared_time, holeMarked_time]
      exact ⟨rfl, rfl⟩
    refine ⟨t, hexec, ?_, hstands.pending.trans hpending, fun hhole => ?_, htimes.1, htimes.2⟩
    · have hmark := congrArg (fun q => q.2.2) (hmarks f.val)
      exact hmark.trans (if_pos rfl)
    · have hsettled : Settled (holeMarked s f.val) := by
        rw [holeMarked, if_pos hhole]
        exact settleHoles_settled hwf
      refine settled_congr (fun g => isHole_congr ?_) (fun g => ?_) hsettled
      · exact congrArg (fun q => q.1) (hmarks g)
      · exact congrArg (fun q => q.2.1) (hmarks g)
  · have hfollows : follows s = false := by simp [follows, halone]
    have hnamed := nameOwn_named (s := { s with plan := { s.plan with staging := none } }) hnew hfollows (s.time.epoch + 2)
    exact ⟨_, _, (holeVariantStaged_alone hstaging halone).trans (congrArg _ hnamed), rfl, rfl, le_freeEpoch _ _, rfl⟩
  · have hexec := holeVariantStaged_master hstaging hboard hpos
    rw [nameVariant_eq (s := { s with board := { s.board with staged := s.board.staged ||| 1 } }) hstaging] at hexec
    refine ⟨fun hsome => hexec.trans (congrArg _ (if_neg hsome)), fun hall => ?_⟩
    have hfollows : follows s = false := by simp [follows, hpos]
    have hnamed := nameOwn_named (s := { s with plan := { s.plan with staging := none }, board := { s.board with staged := 0 } })
      hnew hfollows (s.time.epoch + 4)
    refine ⟨_, _, hexec.trans (congrArg _ ((if_pos hall).trans hnamed)), rfl, rfl, le_freeEpoch _ _, rfl⟩

end Sys2Proof.Machine
end

section
/-! PROOFS. Handling, classification and re-placement of what a record names (R489, R494 to R501, R509). -/

namespace Sys2Proof.Machine

/-! ## What is read from the defect map -/

/-- The element of a record is read from the same map. -/
structure MapStands (s t : State) : Prop where
  compat : t.mgmt.compat = s.mgmt.compat
  otp : t.otp = s.otp
  applied : t.faults.applied = s.faults.applied

theorem mapStands_refl (s : State) : MapStands s s := ⟨rfl, rfl, rfl⟩

theorem MapStands.trans {s t u : State} (h : MapStands s t) (g : MapStands t u) : MapStands s u :=
  ⟨g.compat.trans h.compat, g.otp.trans h.otp, g.applied.trans h.applied⟩

theorem siteWord_congr {s t : State} (h : MapStands s t) (am : List Amendment) (f i : Nat) : siteWord t am f i = siteWord s am f i := by
  unfold siteWord
  rw [h.compat, h.otp]

theorem recElement_congr {s t : State} (h : MapStands s t) (r : ErrRec) : recElement t r = recElement s r := by
  have hsites : ∀ am f, goodSites t am f = goodSites s am f := fun am f => by
    simp only [goodSites, siteBad, siteWord_congr h]
  simp only [recElement, clusterSite, hsites, h.applied]

theorem Serving.mapStands {s t : State} (h : Serving s t) (hcompat : t.mgmt.compat = s.mgmt.compat) : MapStands s t := by
  refine ⟨hcompat, ?_, ?_⟩ <;> rw [h.eq]

theorem pushCompletion_compat (s : State) (b : Bytes) : (pushCompletion s b).mgmt.compat = s.mgmt.compat := by
  unfold pushCompletion
  split <;> rfl

theorem endRequest_compat (s : State) (i status : Nat) (cause : Word) : (endRequest s i status cause).mgmt.compat = s.mgmt.compat := by
  unfold endRequest
  split
  · rfl
  · split
    · rfl
    · lift_lets
      intro recorded marked _ dropped released
      have hrec : recorded.mgmt.compat = s.mgmt.compat := by
        simp only [recorded]
        split
        exacts [pushCompletion_compat .., pushCompletion_compat ..]
      have hrel : released.mgmt = recorded.mgmt := by
        simp only [released, dropped, marked]
        split <;> rfl
      rw [← hrec, ← hrel]
      split
      · rfl
      · split <;> rfl

theorem endWhere_mapStands (s : State) (p : Nat → Request → Bool) (status : Nat) : MapStands s (endWhere s p status) := by
  refine (endWhere_serving s p status).mapStands (foldl_keeps (fun s : State => s.mgmt.compat) (fun s q => ?_) (liveRequests s) s)
  split
  exacts [endRequest_compat .., rfl]

theorem stopReplica_mapStands (s : State) : MapStands s (stopReplica s) := by
  refine (stopReplica_serving s).mapStands ?_
  unfold stopReplica
  split
  · unfold endReplica State.setWork
    dsimp only
    split
    exacts [(endWhere_mapStands ..).compat, (endWhere_mapStands ..).compat]
  · dsimp only
    split
    · rw [tellMaster_eq]
      exact (endWhere_mapStands ..).compat
    · exact (endWhere_mapStands ..).compat

/-! ## Requests that end -/

theorem request_endRequest {s : State} (h : tblWf none s.serve.table = true) (i status : Nat) (cause : Word) :
    tblWf none (endRequest s i status cause).serve.table = true ∧
    ∀ j r, (endRequest s i status cause).request j = some r → r.state ≠ .ended → s.request j = some r ∧ j ≠ i := by
  obtain ⟨hwf, hlive⟩ := inFlight_endRequest h i status cause
  refine ⟨hwf, fun j r hj hr => ?_⟩
  obtain ⟨-, hne⟩ := hlive j ⟨r, hj, hr⟩
  refine ⟨?_, hne⟩
  by_cases hi : ∀ x, s.request i = some x → x.state = .ended
  · rwa [endRequest_ended hi] at hj
  · push Not at hi
    obtain ⟨x, hx, hxs⟩ := hi
    rwa [State.request, (endRequest_live hx hxs status cause).2, tget_tset_other none _ _ hne] at hj

theorem mem_liveRequests_iff {s : State} (h : tblWf none s.serve.table = true) (q : Nat × Request) :
    q ∈ liveRequests s ↔ s.request q.1 = some q.2 ∧ q.2.state ≠ .ended := by
  constructor
  · intro hq
    obtain ⟨⟨j, o⟩, hmem, hlive⟩ := List.mem_filterMap.mp hq
    cases o with
    | none => cases hlive
    | some r =>
      obtain ⟨hlives, hjr⟩ := Option.ite_none_left_eq_some.mp hlive
      obtain rfl := Option.some.inj hjr
      exact ⟨(tget_of_mem none ((tblWf_iff _ _).mp h).1 hmem).2, hlives⟩
  · rintro ⟨hreq, hlive⟩
    have hmem : (q.1, some q.2) ∈ s.serve.table := by
      rw [← hreq]
      exact mem_of_tget (by rw [← State.request, hreq]; exact Option.some_ne_none _)
    exact List.mem_filterMap.mpr ⟨_, hmem, if_neg hlive⟩

/-- What is live after requests were ended was live before, and was not to be ended. -/
theorem live_foldl_endRequest (p : Nat → Request → Bool) (status : Nat) (l : List (Nat × Request)) : ∀ {s : State},
    tblWf none s.serve.table = true →
    let t := l.foldl (fun s q => if p q.1 q.2 then endRequest s q.1 status else s) s
    tblWf none t.serve.table = true ∧ ∀ j r, t.request j = some r → r.state ≠ .ended →
      s.request j = some r ∧ ∀ q ∈ l, q.1 = j → p q.1 q.2 = false := by
  induction l with
  | nil => exact fun hwf => ⟨hwf, fun j r hj _ => ⟨hj, fun q hq => by cases hq⟩⟩
  | cons x l ih =>
    intro s hwf
    rw [List.foldl_cons]
    by_cases hx : p x.1 x.2 = true
    · obtain ⟨hwf', hstep⟩ := request_endRequest hwf x.1 status 0
      rw [if_pos hx]
      obtain ⟨hwft, hall⟩ := ih hwf'
      refine ⟨hwft, fun j r hj hr => ?_⟩
      obtain ⟨hjs, hl⟩ := hall j r hj hr
      obtain ⟨hjs', hne⟩ := hstep j r hjs hr
      refine ⟨hjs', fun q hq hqj => ?_⟩
      rcases List.mem_cons.mp hq with rfl | hq
      · exact absurd hqj.symm hne
      · exact hl q hq hqj
    · rw [if_neg hx]
      obtain ⟨hwft, hall⟩ := ih hwf
      refine ⟨hwft, fun j r hj hr => ?_⟩
      obtain ⟨hjs, hl⟩ := hall j r hj hr
      refine ⟨hjs, fun q hq hqj => ?_⟩
      rcases List.mem_cons.mp hq with rfl | hq
      · exact Bool.eq_false_iff.mpr hx
      · exact hl q hq hqj

theorem live_endWhere {s : State} (hwf : tblWf none s.serve.table = true) (p : Nat → Request → Bool) (status : Nat) {q : Nat × Request}
    (hq : q ∈ liveRequests (endWhere s p status)) : q ∈ liveRequests s ∧ p q.1 q.2 = false := by
  obtain ⟨hwf', hall⟩ := live_foldl_endRequest p status (liveRequests s) hwf
  obtain ⟨hreq, hlive⟩ := (mem_liveRequests_iff hwf' q).mp hq
  obtain ⟨hreq', hp⟩ := hall q.1 q.2 hreq hlive
  have hmem := (mem_liveRequests_iff hwf q).mpr ⟨hreq', hlive⟩
  exact ⟨hmem, hp q hmem rfl⟩

theorem live_stopReplica {s : State} (hwf : tblWf none s.serve.table = true) {q : Nat × Request}
    (hq : q ∈ liveRequests (stopReplica s)) : q ∈ liveRequests s ∧ multiplies s = true ∧ q.2.replica ≠ 0 := by
  unfold stopReplica at hq
  split at hq
  · next hmult =>
    have hq' : q ∈ liveRequests (endWhere s (fun _ r => r.replica == 0) stWaferFault) := hq
    obtain ⟨hmem, hp⟩ := live_endWhere hwf _ _ hq'
    exact ⟨hmem, (Bool.and_eq_true_iff.mp hmult).1, by simpa using hp⟩
  · have hnone := endAll_liveRequests hwf stWaferFault
    dsimp only at hq
    have hq' : q ∈ liveRequests (endAll s stWaferFault) := by
      split at hq
      · rwa [tellMaster_eq] at hq
      · exact hq
    exact absurd (hnone ▸ hq') List.not_mem_nil

/-! ## The end of a handling (R489, R496) -/

theorem freeBarrier_pending (s : State) (b : BarrierHold) : (freeBarrier s b).plan.pending = s.plan.pending := rfl

theorem holdBarrier_pending (s : State) (b : BarrierHold) : (holdBarrier s b).plan.pending = s.plan.pending :=
  (holdBarrier_stands s b).pending

theorem settleRestart_pending (s : State) (e : Nat) : (settleRestart s e).plan.pending = s.plan.pending := by
  unfold settleRestart
  dsimp only
  rw [freeBarrier_pending, freeBarrier_pending]
  split <;> split <;> rfl

theorem nameOwn_plan (s : State) (k : OwnKind) (e : Nat) : (nameOwn s k e).plan = s.plan := by rw [nameOwn_eq]

/-- A restart that has a plan to reactivate stands. -/
theorem nameRestart_active {s : State} (h : s.plan.active ≠ none) : (nameRestart s).faults = s.faults := by
  have hactive : ¬ s.plan.active.isNone = true := by simpa using h
  unfold nameRestart
  rw [if_neg hactive]
  split
  · rfl
  · split
    · rfl
    · split
      · rw [holdBarrier_eq, nameOwn_eq]
      · dsimp only
        obtain ⟨_, _, _, heq⟩ := settleRestart_eq s (freeEpoch s (s.time.epoch + 4))
        rw [holdBarrier_eq, nameOwn_eq, heq]

theorem nameRestart_pending (s : State) : (nameRestart s).plan.pending = s.plan.pending := by
  unfold nameRestart
  split
  · rfl
  · split
    · rfl
    · split
      · rfl
      · split
        · rw [holdBarrier_pending, nameOwn_plan]
        · dsimp only
          rw [holdBarrier_pending, nameOwn_plan, settleRestart_pending]

/-! ## The handling of a record (R489) -/

/-- The state once the first record is off the ring and its log entry is completed. -/
def ringTaken (s : State) (rest : List ErrRec) (log : List (Word × Nat × List (BitVec 64))) : State :=
  { s with faults := { s.faults with ring := rest, log := log } }

/-- What the severity of a record does before its element is classified. -/
def recovered (s : State) (r : ErrRec) (ids : List Nat) : State :=
  match r.severity with
  | 2 =>
    let t := tellScope (endWhere s (fun i _ => ids.contains i) stDataError) r
    if recCause r = 0x8E ∧ r.inCell.isSome then reactivate t else t
  | 3 => handleField s (recField r)
  | 4 => handleWafer s (recCause r)
  | _ => s

section
variable {s : State} {r : ErrRec} {rest : List ErrRec} (hidle : s.faults.handling = none) (hring : s.faults.ring = r :: rest)
include hidle hring

theorem recordHandling_first : ∃ log ids h d, exec .recordHandling s =
    .next (classify (recovered (ringTaken s rest log) r ids) { r with handle := h, detail := d }) := by
  change ∃ log ids h d, execRecordHandling s = _
  unfold execRecordHandling
  rw [hidle, hring]
  dsimp -zeta only
  extract_lets _ taken ids handle kernel r' fixed told done'
  refine ⟨fixed.faults.log, ids, r'.handle, r'.detail, ?_⟩
  have hdone : done' = recovered fixed r ids := rfl
  have hfixed : fixed = ringTaken s rest fixed.faults.log := rfl
  rw [← hfixed, ← hdone]
  rfl

end

theorem classify_nowhere {s : State} {r : ErrRec} (h : recElement s r = none) : classify s r = endHandling s := by
  rw [classify, h]

theorem classify_mild {s : State} {r : ErrRec} (h : r.severity = 0) : classify s r = endHandling s := by
  unfold classify
  split
  · rfl
  · exact if_pos (by simp [h])

/-- The kernel of a record stands however its log entry is completed. -/
theorem recKernel_named {s : State} {r : ErrRec} {k : Nat} (h : recKernel s r = some k) (handle : BitVec 64) (d : Word) :
    ∃ k', recKernel s { r with handle := handle, detail := d } = some k' := by
  by_cases hcode : recCause r = 0x99
  · exact ⟨_, if_pos hcode⟩
  · exact ⟨k, (if_neg hcode).trans ((if_neg hcode).symm.trans h)⟩

theorem classify_waits {s : State} {r : ErrRec} {el : Element} {k : Nat} (hsev : r.severity = 1) (hel : recElement s r = some el)
    (hgood : elementBad s el = false) (hk : recKernel s r = some k) :
    classify s r = { s with faults := { s.faults with handling := some r } } := by
  unfold classify
  rw [hel]
  dsimp only
  rw [if_neg (by simp [hsev, hgood]), hk]

/-! ## A fatal-wafer record (R496, R498) -/

/-- A fatal-wafer record leaves a restart to come, no plan pending, and of the requests only those of other replicas. -/
structure WaferHandled (s t : State) (code : Nat) : Prop where
  map : MapStands s t
  ring : t.faults.ring = s.faults.ring
  restart : t.faults.restart = true
  waitClear : clearCode code = true → t.faults.waitClear = true
  pending : t.plan.pending = none
  active : t.plan.active = s.plan.active
  live : ∀ q ∈ liveRequests t, multiplies s = true ∧ q.2.replica ≠ 0

theorem handleWafer_handled {s : State} (hwf : s.tablesWf = true) (code : Nat) : WaferHandled s (handleWafer s code) code := by
  obtain ⟨-, -, -, -, -, -, -, -, hserve⟩ := (tablesWf_iff s).mp hwf
  have hmap := stopReplica_mapStands s
  have hlive := @live_stopReplica s hserve
  have hstop := (stopReplica_serving s).eq
  have hactive : (stopReplica s).plan.active = s.plan.active := by rw [hstop]
  have hring : (stopReplica s).faults.ring = s.faults.ring := by rw [hstop]
  obtain ⟨_, _, _, _, _, plan, hdiscard, hpending, hkept⟩ := discardPending_parts (stopReplica s) stDiscarded
  unfold handleWafer
  dsimp only
  rw [hdiscard]
  exact {
    map := ⟨hmap.compat, hmap.otp, hmap.applied⟩, ring := hring, restart := rfl
    waitClear := fun h => by simp [h], pending := hpending, active := hkept.trans hactive, live := fun q hq => (hlive hq).2 }

/-! ## A fatal-field record (R495, R299) -/

theorem fieldDark_parts (s : State) (f : Nat) :
    fieldDark s f = { s with fields := (fieldDark s f).fields, sites := (fieldDark s f).sites } := by
  unfold fieldDark
  split <;> rfl

theorem fieldDark_domain {s : State} (hwf : s.tablesWf = true) {f : Nat} (h : (s.field f).domain = .running) :
    ((fieldDark s f).field f).domain = .dark := by
  have hlit : ¬ isHole s f = true := by rw [isHole_iff, h]; exact Domain.noConfusion
  obtain ⟨-, -, -, hfields, -⟩ := (tablesWf_iff s).mp hwf
  obtain ⟨-, -, -, hfields', -⟩ := (tablesWf_iff _).mp ((keeps_refl s).coolField (f := f) |>.2 hwf)
  have hcool : ((coolField s f).field f).domain = .dark := by
    have hdark : (makeDark s f).field f = _ := State.modField_field_same hfields f _
    show ((makeDark s f).field f).domain = .dark
    rw [hdark, if_pos h]
  rw [fieldDark, if_neg hlit, State.modField_field_same hfields']
  exact hcool

theorem fieldDark_touches (s : State) (f w g i : Nat) : touches (fieldDark s f) w g i = touches s w g i := by
  rw [fieldDark_parts]
  rfl

/-- A fatal-field record leaves the field dark and no request that touches it. -/
structure FieldHandled (s t : State) (f : Nat) : Prop where
  map : MapStands s t
  ring : t.faults.ring = s.faults.ring
  domain : (t.field f).domain = .dark
  live : ∀ q ∈ liveRequests t, touches s s.board.position.toNat f q.1 = false

theorem noVariant_mapStands (s : State) : MapStands s (noVariant s) :=
  (show MapStands s (stopDataPath s) from ⟨rfl, rfl, rfl⟩).trans
    ((stopReplica_mapStands _).trans (show MapStands (stopReplica (stopDataPath s)) (noVariant s) from ⟨rfl, rfl, rfl⟩))

theorem noVariant_ring (s : State) : (noVariant s).faults.ring = s.faults.ring := by
  have hstop := (stopReplica_serving (stopDataPath s)).eq
  show (stopReplica (stopDataPath s)).faults.ring = _
  rw [hstop]
  rfl

theorem live_noVariant {s : State} (hwf : tblWf none s.serve.table = true) {q : Nat × Request} (hq : q ∈ liveRequests (noVariant s)) :
    q ∈ liveRequests s := (live_stopReplica (s := stopDataPath s) hwf hq).1

theorem handleField_handled {s : State} (hwf : s.tablesWf = true) {f : Nat} (h : (s.field f).domain = .running) :
    FieldHandled s (handleField s f) f := by
  obtain ⟨-, -, -, -, -, -, -, -, hserve⟩ := (tablesWf_iff _).mp ((keeps_refl s).fieldDark (f := f) |>.2 hwf)
  have hended : FieldHandled s
      (endWhere (fieldDark s f) (fun i _ => touches (fieldDark s f) s.board.position.toNat f i) stFieldLost) f := by
    have hmap := endWhere_mapStands (fieldDark s f) (fun i _ => touches (fieldDark s f) s.board.position.toNat f i) stFieldLost
    have heq := (endWhere_serving (fieldDark s f) (fun i _ => touches (fieldDark s f) s.board.position.toNat f i) stFieldLost).eq
    refine { map := MapStands.trans ?_ hmap, ring := ?_, domain := ?_, live := fun q hq => ?_ }
    · rw [fieldDark_parts]
      exact ⟨rfl, rfl, rfl⟩
    · rw [heq, fieldDark_parts]
    · rw [State.field, heq]
      exact fieldDark_domain hwf h
    · exact (fieldDark_touches s f _ f q.1).symm.trans (live_endWhere hserve _ _ hq).2
  have hwf' : tblWf none (endWhere (fieldDark s f) (fun i _ => touches (fieldDark s f) s.board.position.toNat f i)
      stFieldLost).serve.table = true :=
    (live_foldl_endRequest (fun i _ => touches (fieldDark s f) s.board.position.toNat f i) stFieldLost _ hserve).1
  have hpos : (fieldDark s f).board = s.board := by rw [fieldDark_parts]
  unfold handleField
  rw [if_pos h]
  extract_lets dark ended w runs
  have hended' : FieldHandled s ended f := by
    unfold ended dark
    rwa [hpos]
  have hlive : tblWf none ended.serve.table = true := by
    unfold ended dark
    rwa [hpos]
  by_cases hgoes : (variantFor ended w f || runs || ended.plan.active.isNone) = true
  · rw [if_pos hgoes]
    exact hended'
  · rw [if_neg hgoes]
    refine { map := hended'.map.trans (noVariant_mapStands _), ring := (noVariant_ring _).trans hended'.ring, domain := ?_
             live := fun q hq => hended'.live q (live_noVariant hlive hq) }
    rw [State.field, (noVariant_stands _).fields]
    exact hended'.domain

/-- The end of a handling keeps the ring, the fields and the requests. -/
theorem endHandling_parts (s : State) : ∃ ev own pl r l, endHandling s = { s with
    events := ev, own := own, plan := pl, faults := { s.faults with handling := none, restart := r }, sent := l } :=
  nameRestart_eq { s with faults := { s.faults with handling := none } }

theorem ringTaken_wf {s : State} (h : s.tablesWf = true) (rest : List ErrRec) (log : List (Word × Nat × List (BitVec 64))) :
    (ringTaken s rest log).tablesWf = true := h

section
variable {s : State} {r : ErrRec} {rest : List ErrRec} (hidle : s.faults.handling = none) (hring : s.faults.ring = r :: rest)
include hidle hring

theorem recordHandling_wafer (hwf : s.tablesWf = true) (hsev : r.severity = 4) (hnowhere : recElement s r = none)
    (hactive : s.plan.active ≠ none) : ∃ t, exec .recordHandling s = .next t ∧ t.faults.ring = rest ∧ t.faults.handling = none ∧
      (∀ q ∈ liveRequests t, multiplies s = true ∧ q.2.replica ≠ 0) ∧
      t.plan.pending = none ∧ t.faults.restart = true ∧ (clearCode (recCause r) = true → t.faults.waitClear = true) := by
  obtain ⟨log, ids, h, d, hexec⟩ := recordHandling_first hidle hring
  have hrec : recovered (ringTaken s rest log) r ids = handleWafer (ringTaken s rest log) (recCause r) := by
    simp only [recovered, hsev]
  have hdone := handleWafer_handled (ringTaken_wf hwf rest log) (recCause r)
  have hel : recElement (handleWafer (ringTaken s rest log) (recCause r)) { r with handle := h, detail := d } = none :=
    (recElement_congr hdone.map _).trans hnowhere
  rw [hrec, classify_nowhere hel] at hexec
  generalize handleWafer (ringTaken s rest log) (recCause r) = t at hdone hexec
  have hfaults : (endHandling t).faults = { t.faults with handling := none } :=
    nameRestart_active (s := { t with faults := { t.faults with handling := none } }) (by rw [hdone.active]; exact hactive)
  obtain ⟨_, _, _, _, _, heq⟩ := endHandling_parts t
  refine ⟨_, hexec, ?_, ?_, fun q hq => hdone.live q ?_, (nameRestart_pending _).trans hdone.pending, ?_, fun hclear => ?_⟩
  · rw [hfaults]; exact hdone.ring
  · rw [hfaults]
  · rwa [heq] at hq
  · rw [hfaults]; exact hdone.restart
  · rw [hfaults]; exact hdone.waitClear hclear

theorem recordHandling_field (hwf : s.tablesWf = true) (hsev : r.severity = 3) (hnowhere : recElement s r = none)
    (hrun : (s.field (recField r)).domain = .running) : ∃ t, exec .recordHandling s = .next t ∧ t.faults.ring = rest ∧
      (t.field (recField r)).domain = .dark ∧
      ∀ q ∈ liveRequests t, touches s s.board.position.toNat (recField r) q.1 = false := by
  obtain ⟨log, ids, h, d, hexec⟩ := recordHandling_first hidle hring
  have hrec : recovered (ringTaken s rest log) r ids = handleField (ringTaken s rest log) (recField r) := by
    simp only [recovered, hsev]
  have hdone := handleField_handled (ringTaken_wf hwf rest log) (f := recField r) hrun
  have hel : recElement (handleField (ringTaken s rest log) (recField r)) { r with handle := h, detail := d } = none :=
    (recElement_congr hdone.map _).trans hnowhere
  rw [hrec, classify_nowhere hel] at hexec
  generalize handleField (ringTaken s rest log) (recField r) = t at hdone hexec
  obtain ⟨_, _, _, _, _, heq⟩ := endHandling_parts t
  refine ⟨_, hexec, ?_, ?_, fun q hq => hdone.live q ?_⟩
  · rw [heq]; exact hdone.ring
  · rw [heq]; exact hdone.domain
  · rwa [heq] at hq

theorem recordHandling_waits {el : Element} {k : Nat} (hsev : r.severity = 1) (hel : recElement s r = some el)
    (hgood : elementBad s el = false) (hk : recKernel s r = some k) : ∃ t, exec .recordHandling s = .next t ∧ t.faults.ring = rest ∧
      (t.faults.handling.map fun h => (h.location, h.severity)) = some (r.location, 1) ∧ t = { s with faults := t.faults } := by
  obtain ⟨log, ids, h, d, hexec⟩ := recordHandling_first hidle hring
  have hrec : recovered (ringTaken s rest log) r ids = ringTaken s rest log := by simp only [recovered, hsev]
  obtain ⟨k', hk'⟩ := recKernel_named (s := ringTaken s rest log) hk h d
  rw [hrec, classify_waits (s := ringTaken s rest log) (r := { r with handle := h, detail := d }) hsev hel hgood hk'] at hexec
  exact ⟨_, hexec, rfl, by rw [← hsev]; rfl, rfl⟩

theorem recordHandling_corrected (hsev : r.severity = 0) (hrestart : s.faults.restart = false) :
    ∃ t, exec .recordHandling s = .next t ∧ t.faults.ring = rest ∧ t.faults.handling = none ∧
      t = { s with faults := t.faults } := by
  obtain ⟨log, ids, h, d, hexec⟩ := recordHandling_first hidle hring
  have hrec : recovered (ringTaken s rest log) r ids = ringTaken s rest log := by simp only [recovered, hsev]
  have hend : endHandling (ringTaken s rest log) =
      { ringTaken s rest log with faults := { (ringTaken s rest log).faults with handling := none } } := nameRestart_none hrestart
  rw [hrec, classify_mild (r := { r with handle := h, detail := d }) hsev, hend] at hexec
  exact ⟨_, hexec, rfl, rfl, rfl⟩

end

theorem recordHandling_busy {s : State} (h : s.faults.handling ≠ none ∨ s.faults.ring = []) : exec .recordHandling s = .next s := by
  change execRecordHandling s = _
  unfold execRecordHandling
  split
  · next hnone hring => exact absurd (h.resolve_left (not_not_intro hnone)) (by rw [hring]; exact List.cons_ne_nil _ _)
  · rfl

/-- With the work ended every cell is held, and the window is open. -/
theorem classificationWindow_opens {s : State} (hhandling : s.faults.handling ≠ none) (hwindow : s.faults.window = none)
    (hpath : s.time.dataPath = true) (hwork : workNow s = false) : exec .classificationWindow s = .next { s with
      cells := tmapAll {} (fun _ c => { c with held := true }) s.cells
      faults := { s.faults with window := some s.time.epoch } } := by
  have hsome : s.faults.handling.isSome = true := Option.isSome_iff_ne_none.mpr hhandling
  change execClassificationWindow s = _
  unfold execClassificationWindow
  exact if_pos (by simp [hsome, hwindow, hpath, hwork])

theorem cellRuns_held {c : CellState} (h : c.held = true) : cellRuns c = false := by
  rw [cellRuns, h]
  exact Bool.and_false _

/-! ## Proof runs (R509) -/

/-- The field of a proof run's target. -/
def targetField : ProofTarget → Field
  | .cell a => a.field
  | .assay a => a.field

theorem proofResult_faults (s : State) (c : ProofTarget) (n : Nat) (pass : Bool) : (proofResult s c n pass).faults = s.faults := by
  have hraised : ∀ f r, (raiseField s f r).faults = s.faults := fun f r => by
    obtain ⟨v, hv⟩ := raiseField_eq s f r
    rw [hv]
    rfl
  cases c with
  | cell a =>
    unfold proofResult
    dsimp only
    split
    · rw [State.modCell, setCell_eq]
    · exact hraised _ _
  | assay a =>
    unfold proofResult
    dsimp only
    split
    · rfl
    · exact hraised _ _

/-- A run that may take place leaves its result where no record waits for one and no proof window is open. -/
theorem proofRun_result {c : ProofTarget} {n : Nat} {out : BitVec 256} {p : TestPack} {q : Kernel} {s : State}
    (hpack : s.faults.pack = some p)
    (hkernel : (p.kernels.find? fun q => q.number == n && q.pKind == fieldIsP (targetField c).val) = some q)
    (hmay : proofMay s c = true) (hhandling : s.faults.handling = none) (hfrom : s.faults.proofFrom = none) :
    exec (.proofRun c n out) s = .next (proofResult s c n (decide (out = q.digest))) := by
  have hfaults := proofResult_faults s c n (decide (out = q.digest))
  have hdecide : decideRecord (proofResult s c n (decide (out = q.digest))) c n (decide (out = q.digest)) =
      proofResult s c n (decide (out = q.digest)) := by rw [decideRecord, hfaults, hhandling]
  have hclose : closeProof (proofResult s c n (decide (out = q.digest))) = proofResult s c n (decide (out = q.digest)) := by
    rw [closeProof, hfaults, hfrom]
  change execProofRun c n out s = _
  unfold execProofRun
  rw [hpack]
  cases c with
  | cell a =>
    dsimp only [targetField] at hkernel ⊢
    rw [hkernel]
    dsimp only
    rw [if_neg (by simp [hmay]), hdecide, hclose, done]
  | assay a =>
    dsimp only [targetField] at hkernel ⊢
    rw [hkernel]
    dsimp only
    rw [if_neg (by simp [hmay]), hdecide, hclose, done]

/-- A record of a field with room in its queue waits there. -/
theorem raiseField_queued {s : State} (hwf : s.tablesWf = true) {f : Nat} {r : ErrRec} (hroom : (s.field f).queue.length < 32) :
    ∃ x ∈ ((raiseField s f r).field f).queue, recCause x = recCause r ∧ x.severity = r.severity ∧ x.inCell = r.inCell := by
  obtain ⟨-, -, -, hfields, -⟩ := (tablesWf_iff s).mp hwf
  refine ⟨{ r with count := satAdd r.count (tget 0 (s.field f).coalesced (recCause r)) }, ?_, rfl, rfl, rfl⟩
  unfold raiseField
  dsimp only
  rw [if_pos hroom]
  split
  · rw [State.setField_field_same _ hfields]
    exact List.mem_append_right _ List.mem_cons_self
  · split
    · rw [State.setField_field_same _ hfields]
      dsimp only
      split
      · exact List.mem_append_left _ (List.mem_append_right _ List.mem_cons_self)
      · exact List.mem_append_right _ List.mem_cons_self
    · rw [State.setField_field_same _ hfields]
      exact List.mem_append_right _ List.mem_cons_self

theorem raiseField_parts (s : State) (f : Nat) (r : ErrRec) : raiseField s f r = { s with fields := (raiseField s f r).fields } := by
  obtain ⟨v, hv⟩ := raiseField_eq s f r
  rw [hv]
  rfl

/-! ## Re-placement (R501) -/

theorem not_mem_holdBarrier {s : State} {b c : BarrierHold} (hne : b ≠ c) (h : b ∉ s.plan.holds) :
    b ∉ (holdBarrier s c).plan.holds := by
  unfold holdBarrier
  split
  · exact h
  · intro hb
    exact (List.mem_append.mp hb).elim h fun hc => hne (List.mem_singleton.mp hc)

theorem settleRestart_own {s : State} {e : Nat} {o : OwnEvent} (h : o ∈ (settleRestart s e).own) : o ∈ s.own := by
  unfold settleRestart at h
  dsimp only at h
  rw [freeBarrier_if, freeBarrier_if] at h
  exact List.mem_of_mem_filter h

/-- What a re-placement settles first, where it restarts what a restart waits for. -/
theorem settled_parts (s : State) (p : Prop) [Decidable p] (e : Nat) : ∃ ev own pl,
    (if p then settleRestart s e else s) = { s with events := ev, own := own, plan := pl } ∧ ∀ o ∈ own, o ∈ s.own := by
  split
  · obtain ⟨ev, own, pl, h⟩ := settleRestart_eq s e
    exact ⟨ev, own, pl, h, fun o ho => settleRestart_own (e := e) (by rw [h]; exact ho)⟩
  · exact ⟨s.events, s.own, s.plan, rfl, fun _ h => h⟩

/-- The state in which a re-placement takes the place of a reactivation, before it is named. -/
def placeTaken (s : State) : State :=
  freeBarrier { s with own := s.own.filter fun o => o.kind != .reactivate } .reactivation

theorem mem_placeTaken_own {s : State} {o : OwnEvent} : o ∈ (placeTaken s).own ↔ o ∈ s.own ∧ o.kind ≠ .reactivate := by
  refine List.mem_filter.trans (and_congr_right fun _ => ?_)
  simp

section
variable {s : State} (hdue : s.faults.rePlace = true) (hactive : s.plan.active ≠ none) (hidle : s.faults.handling = none)
  (hclear : s.faults.waitClear = false) (hladder : s.power.ladder = .running ∨ s.power.ladder = .poised)
  (hnew : ∀ o ∈ s.own, o.kind ≠ .rePlace)
include hdue hactive hidle hclear hladder hnew

theorem rePlacement_eq : exec .rePlacement s = .next (
    let e := freeEpoch s (s.time.epoch + if onBoard s then 4 else 2)
    holdBarrier (nameOwn (placeTaken (if s.faults.restart && !follows s then settleRestart s e else s)) .rePlace e) .rePlacement) := by
  have hsome : s.plan.active.isSome = true := Option.isSome_iff_ne_none.mpr hactive
  have hnone : s.faults.handling.isNone = true := Option.isNone_iff_eq_none.mpr hidle
  have hown : (s.own.any fun o => o.kind == .rePlace) = false := List.any_eq_false.mpr fun o ho => by simpa using hnew o ho
  have hup : (s.power.ladder == .running || s.power.ladder == .poised) = true := by rcases hladder with h | h <;> rw [h] <;> rfl
  refine if_pos ?_
  rw [hdue, hsome, hnone, hclear, hown, hup]
  rfl

theorem rePlacement_master (hmaster : follows s = false) : ∃ (t : State) (e : Nat), exec .rePlacement s = .next t ∧
    { kind := .rePlace, epoch := e } ∈ t.own ∧ s.time.epoch + (if onBoard s then 4 else 2) ≤ e ∧
    (∀ o ∈ t.own, o.kind ≠ .reactivate) ∧ BarrierHold.rePlacement ∈ t.plan.holds ∧ BarrierHold.reactivation ∉ t.plan.holds ∧
    t.cells = s.cells := by
  have hexec := rePlacement_eq hdue hactive hidle hclear hladder hnew
  dsimp only at hexec
  generalize he : freeEpoch s (s.time.epoch + if onBoard s then 4 else 2) = e at hexec
  obtain ⟨ev, own, pl, hsettled, hown⟩ := settled_parts s ((s.faults.restart && !follows s) = true) e
  rw [hsettled] at hexec
  generalize hu : placeTaken { s with events := ev, own := own, plan := pl } = u at hexec
  have hkept : ∀ o ∈ u.own, o ∈ s.own ∧ o.kind ≠ .reactivate := fun o ho => by
    rw [← hu] at ho
    exact (mem_placeTaken_own.mp ho).imp_left (hown o)
  have hnamed : nameOwn u .rePlace e = _ := nameOwn_enters e (fun o ho => hnew o (hkept o ho).1) (by rw [← hu]; exact hmaster)
  have hfree : BarrierHold.reactivation ∉ u.plan.holds := by
    rw [← hu]
    exact not_mem_freeBarrier _ _
  refine ⟨_, freeEpoch u e, hexec, ?_, ?_, ?_, mem_holdBarrier _ _, ?_, ?_⟩
  · rw [holdBarrier_eq, hnamed]
    exact List.mem_append_right _ (List.mem_singleton_self _)
  · exact (he ▸ le_freeEpoch s _).trans (le_freeEpoch u e)
  · rw [holdBarrier_eq, hnamed]
    intro o ho
    rcases List.mem_append.mp ho with ho | ho
    · exact (hkept o ho).2
    · rw [List.mem_singleton.mp ho]
      exact OwnKind.noConfusion
  · rw [hnamed]
    exact not_mem_holdBarrier (by decide) hfree
  · rw [holdBarrier_eq, hnamed, ← hu]
    rfl

theorem rePlacement_follower (hfollows : follows s = true) : ∃ t, exec .rePlacement s = .next t ∧
    (∀ o, o ∈ t.own ↔ o ∈ s.own ∧ o.kind ≠ .reactivate) ∧
    (∃ d, t.sent = s.sent ++ [.vc {
      src := s.board.position, dst := 0, content := .ownDue (ownCode .rePlace).1 (ownCode .rePlace).2 } d]) ∧
    BarrierHold.rePlacement ∈ t.plan.holds ∧ t.cells = s.cells := by
  have hexec := rePlacement_eq hdue hactive hidle hclear hladder hnew
  dsimp only at hexec
  rw [if_neg (by simp [hfollows])] at hexec
  have hnone : ((placeTaken s).own.any fun o => o.kind == .rePlace) = false :=
    List.any_eq_false.mpr fun o ho => by simpa using hnew o (mem_placeTaken_own.mp ho).1
  have hasked : ∀ e, nameOwn (placeTaken s) .rePlace e =
      tellMaster (placeTaken s) (.ownDue (ownCode .rePlace).1 (ownCode .rePlace).2) := fun e =>
    (if_neg (by rw [hnone]; exact Bool.false_ne_true)).trans (if_pos hfollows)
  rw [hasked] at hexec
  obtain ⟨d, hsent⟩ := (tellMaster_sent (placeTaken s) (.ownDue (ownCode .rePlace).1 (ownCode .rePlace).2)).2 hfollows
  refine ⟨_, hexec, fun o => ?_, ⟨d, ?_⟩, mem_holdBarrier _ _, ?_⟩
  · rw [holdBarrier_eq, tellMaster_eq]
    exact mem_placeTaken_own
  · rw [holdBarrier_eq]
    exact hsent
  · rw [holdBarrier_eq, tellMaster_eq]
    rfl

end

/-- Settles O57: each severity by what `recovered` does for it, with the element read from a map that no recovery changes
(`MapStands`). -/
theorem recordsAreHandledAndClassified : Obligations.RecordsAreHandledAndClassified := by
  unfold Obligations.RecordsAreHandledAndClassified
  refine ⟨fun s r rest hwf hidle hring => ⟨recordHandling_wafer hidle hring hwf,
      fun hsev hnowhere _ => recordHandling_field hidle hring hwf hsev hnowhere,
      fun el k => recordHandling_waits hidle hring, recordHandling_corrected hidle hring⟩,
    fun s => recordHandling_busy, fun s hhandling hwindow hpath hwork => ?_, fun c n out p q s hwf hpack hkernel hmay hidle hfrom => ?_,
    fun a n out p q s hwf hpack hkernel hmay hidle hfrom => ?_,
    fun s hdue hactive hidle hclear hladder hnew => ⟨rePlacement_master hdue hactive hidle hclear hladder hnew,
      rePlacement_follower hdue hactive hidle hclear hladder hnew⟩⟩
  · refine ⟨_, classificationWindow_opens hhandling hwindow hpath hwork, rfl, fun x hx => ?_, rfl⟩
    obtain ⟨v, -, hv⟩ := mem_tmapAll hx
    have hheld : x.2.held = true := by rw [hv]
    exact ⟨hheld, cellRuns_held hheld⟩
  · have hexec := proofRun_result (c := .cell c) (out := out) hpack hkernel hmay hidle hfrom
    refine ⟨fun heq => ?_, fun hne hroom => ?_⟩
    · obtain ⟨hcells, -⟩ := (tablesWf_iff s).mp hwf
      have hpass : proofResult s (.cell c) n (decide (out = q.digest)) =
          s.modCell (cellKey c) fun x => { x with proofAt := some (boardTime s) } := if_pos (decide_eq_true heq)
      rw [hpass, modCell_eq_of_faults s _ _ rfl] at hexec
      refine ⟨_, hexec, ?_, fun j hj => ?_, rfl⟩
      · exact tget_tset_same _ _ _ ((tblWf_iff _ _).mp hcells).1
      · exact tget_tset_other _ _ _ hj
    · have hfail : proofResult s (.cell c) n (decide (out = q.digest)) = raiseField s c.field.val _ :=
        if_neg (by simpa using hne)
      rw [hfail] at hexec
      obtain ⟨x, hx, hcode, hsev, hcell⟩ := raiseField_queued hwf hroom (r := _)
      refine ⟨_, hexec, ⟨x, hx, ?_, hsev, hcell⟩, ?_, raiseField_parts ..⟩
      · rw [hcode]
        exact locWord_cause ..
      · rw [raiseField_parts]
  · have hexec := proofRun_result (c := .assay a) (out := out) hpack hkernel hmay hidle hfrom
    refine ⟨fun heq => ?_, fun hne hroom => ?_⟩
    · have hpass : proofResult s (.assay a) n (decide (out = q.digest)) = s := if_pos (decide_eq_true heq)
      rw [hexec, hpass]
    · have hfail : proofResult s (.assay a) n (decide (out = q.digest)) = raiseAtSite s (siteKey a) 1 0x99 n 1 :=
        if_neg (by simpa using hne)
      rw [hfail, raiseAtSite, siteKey_div] at hexec
      obtain ⟨x, hx, hcode, hsev, -⟩ := raiseField_queued hwf hroom (r := _)
      refine ⟨_, hexec, ⟨x, hx, ?_, hsev⟩, ?_, raiseField_parts ..⟩
      · rw [hcode]
        exact locWord_cause ..
      · rw [raiseField_parts]

end Sys2Proof.Machine
end

section
/-! PROOFS. The exits of the power ladder (R459 to R461, R520). -/

namespace Sys2Proof.Machine

/-! ## Waking of all fields (R446, R460) -/

/-- A field that was off runs again, or stays dark where the plan masks it or heat keeps it off. -/
def wakeField (s : State) (dark : Bool) (f : Nat) : State :=
  if (s.field f).domain = .off then
    s.modField f fun fs => { fs with
      domain := if dark || fs.offHeat || fs.tripped then .dark else .running, wake := false, wakeStep := 0, epochSeen := s.time.epoch }
  else s

theorem wakeField_keeps (s : State) (dark : Bool) (f : Nat) : Keeps s (wakeField s dark f) := (keeps_refl s).modField.ite (keeps_refl s)

theorem wakeField_parts (s : State) (dark : Bool) (f : Nat) : wakeField s dark f = { s with fields := (wakeField s dark f).fields } := by
  unfold wakeField
  split <;> rfl

theorem wakeField_other (s : State) (dark : Bool) {f g : Nat} (h : g ≠ f) : (wakeField s dark f).field g = s.field g := by
  unfold wakeField
  split
  · exact State.setField_field_other _ h
  · rfl

/-- The domain of a field that wakes with the module. -/
def awake (s : State) (f : Nat) : Prop := (s.field f).domain = .running ∨ (s.field f).domain = .dark

theorem wakeField_awake {s : State} (hwf : s.tablesWf = true) (dark : Bool) {f : Nat} (h : (s.field f).domain = .off ∨ awake s f) :
    awake (wakeField s dark f) f := by
  obtain ⟨-, -, -, hfields, -⟩ := (tablesWf_iff s).mp hwf
  unfold wakeField
  split
  · unfold awake
    rw [State.modField_field_same hfields]
    dsimp only
    split
    exacts [.inr rfl, .inl rfl]
  · next hno => exact h.resolve_left hno

/-- The plan in force treats a field as a hole. -/
def planMasks (s : State) (f : Nat) : Bool :=
  match s.plan.active with
  | some p => tb (p.holes s).toNat f
  | none => false

/-- The fields after a wake of all of them. -/
def fieldsAwake (s : State) : State := allFields.foldl (fun t f => wakeField t (planMasks s f) f) s

theorem fieldsAwake_keeps (s : State) : Keeps s (fieldsAwake s) := (keeps_refl s).foldl fun t _ h => h.trans (wakeField_keeps t _ _)

theorem fieldsAwake_parts (s : State) : fieldsAwake s = { s with fields := (fieldsAwake s).fields } :=
  foldl_preserves (inv := fun t : State => t = { s with fields := t.fields })
    (fun t f h => by rw [wakeField_parts]; exact congrArg (fun u : State => { u with fields := (wakeField t (planMasks s f) f).fields }) h)
    allFields rfl

theorem fieldsAwake_awake {s : State} (hwf : s.tablesWf = true) {f : Nat} (hf : f < 48) (h : (s.field f).domain = .off) :
    awake (fieldsAwake s) f := by
  have hkeep : ∀ (t : State) (g : Nat), t.tablesWf = true ∧ awake t f →
      (wakeField t (planMasks s g) g).tablesWf = true ∧ awake (wakeField t (planMasks s g) g) f := fun t g ht => by
    refine ⟨(wakeField_keeps t _ g).2 ht.1, ?_⟩
    by_cases hg : f = g
    · subst hg
      exact wakeField_awake ht.1 _ (.inr ht.2)
    · rw [awake, wakeField_other t _ hg]
      exact ht.2
  have hinv : ∀ (t : State) (g : Nat), t.tablesWf = true ∧ ((t.field f).domain = .off ∨ awake t f) →
      (wakeField t (planMasks s g) g).tablesWf = true ∧ (((wakeField t (planMasks s g) g).field f).domain = .off ∨
        awake (wakeField t (planMasks s g) g) f) := fun t g ht => by
    refine ⟨(wakeField_keeps t _ g).2 ht.1, ?_⟩
    by_cases hg : f = g
    · subst hg
      exact .inr (wakeField_awake ht.1 _ ht.2)
    · rw [awake, wakeField_other t _ hg]
      exact ht.2
  have hall := foldl_establishes (f := fun t g => wakeField t (planMasks s g) g)
    (inv := fun t : State => t.tablesWf = true ∧ ((t.field f).domain = .off ∨ awake t f))
    (p := fun t => t.tablesWf = true ∧ awake t f) (mem_allFields hf) hinv
    (fun t ht => ⟨(wakeField_keeps t _ f).2 ht.1, wakeField_awake ht.1 _ ht.2⟩) hkeep ⟨hwf, .inl h⟩
  exact hall.2

/-- A site of a field that runs is up unless it is dark, its slice out of self-refresh. -/
def siteAwake (st : SiteState) : SiteState :=
  if st.cisState = .selfRefresh then { st with up := !st.dark, cisState := .ready, refreshCount := st.refreshCount + 3 }
  else { st with up := !st.dark }

theorem siteAwake_ready (st : SiteState) : (siteAwake st).cisState ≠ .selfRefresh ∧ (siteAwake st).up = !(siteAwake st).dark := by
  unfold siteAwake
  split
  · exact ⟨CisState.noConfusion, rfl⟩
  · next h => exact ⟨h, rfl⟩

/-- The keys of the sites whose field runs. -/
def sitesRunning (s : State) : List Nat := (List.range (48 * 74)).filter fun k => decide ((s.field (k / 74)).domain = .running)

theorem wakeAll_eq (s : State) : wakeAll s = { fieldsAwake s with
    sites := (sitesRunning (fieldsAwake s)).foldl (fun t k => tmod {} t k siteAwake) (fieldsAwake s).sites } := by
  have hfields : wakeAll s = { fieldsAwake s with sites := (List.range (48 * 74)).foldl (fun t k =>
      if ((fieldsAwake s).field (k / 74)).domain = .running then tmod {} t k siteAwake else t) (fieldsAwake s).sites } := by
    unfold wakeAll fieldsAwake
    generalize allFields = l
    generalize List.range (48 * 74) = ks
    rfl
  rw [hfields, sitesRunning, List.foldl_filter]
  simp only [decide_eq_true_eq]

theorem sites_over {s t : State} (h : t = { s with fields := t.fields }) (sites : Tbl SiteState) :
    ({ t with sites := sites } : State) = { s with fields := t.fields, sites := sites } :=
  congrArg (fun u : State => { u with sites := sites }) h

theorem wakeAll_parts (s : State) : ∃ sites, wakeAll s = { s with fields := (fieldsAwake s).fields, sites := sites } := by
  rw [wakeAll_eq]
  generalize (sitesRunning (fieldsAwake s)).foldl (fun t k => tmod {} t k siteAwake) (fieldsAwake s).sites = sites
  exact ⟨sites, sites_over (fieldsAwake_parts s) sites⟩

/-- A wake of all fields keeps the cells, the clock, the plan and the module's place on the board. -/
theorem wakeAll_kept (s : State) : (wakeAll s).fields = (fieldsAwake s).fields ∧ (wakeAll s).cells = s.cells ∧
    (wakeAll s).time = s.time ∧ (wakeAll s).plan = s.plan ∧ (wakeAll s).board = s.board := by
  obtain ⟨sites, hwake⟩ := wakeAll_parts s
  refine ⟨?_, ?_, ?_, ?_, ?_⟩ <;> rw [hwake]

theorem holes_congr {s t : State} (h : t.board = s.board) (p : Plan) : p.holes t = p.holes s := by
  unfold Plan.holes
  rw [h]

theorem wakeAll_sites (s : State) :
    (wakeAll s).sites = (sitesRunning (fieldsAwake s)).foldl (fun t k => tmod {} t k siteAwake) (fieldsAwake s).sites := by
  rw [wakeAll_eq]

theorem sitesRunning_nodup (s : State) : (sitesRunning s).Nodup := List.nodup_range.filter _

theorem mem_sitesRunning {s : State} {k : Nat} (hk : k < 3552) (h : (s.field (k / 74)).domain = .running) : k ∈ sitesRunning s :=
  List.mem_filter.mpr ⟨List.mem_range.mpr hk, decide_eq_true h⟩

/-- The site of a field that runs after the wake. -/
theorem wakeAll_site {s : State} (hwf : s.tablesWf = true) {k : Nat} (hk : k < 3552)
    (h : ((fieldsAwake s).field (k / 74)).domain = .running) :
    ((wakeAll s).site k).cisState ≠ .selfRefresh ∧ ((wakeAll s).site k).up = !((wakeAll s).site k).dark := by
  obtain ⟨-, hsites, -⟩ := (tablesWf_iff _).mp ((fieldsAwake_keeps s).2 hwf)
  have hread := tget_foldl_tmod (fun _ => siteAwake) (sitesRunning_nodup (fieldsAwake s)) k hsites
  rw [if_pos (mem_sitesRunning hk h)] at hread
  have hsite : (wakeAll s).site k = siteAwake ((fieldsAwake s).site k) := by
    rw [State.site, wakeAll_sites]
    exact hread
  rw [hsite]
  exact siteAwake_ready _

/-! ## Router tables from the restore images (R461) -/

/-- The tables of a router are rewritten. -/
def restoreRouter (p : Plan) (f : Nat) (s : State) (cl : Fin 72) : State :=
  s.modRouter (f * 72 + homeOf cl.val) fun r => { r with active := routerImage p f cl }

/-- The tables of one field's routers are rewritten. -/
def restoreField (p : Plan) (s : State) (f : Nat) : State := (List.finRange 72).foldl (restoreRouter p f) s

/-- The same where the plan uses the field and its links are up. -/
def restoreUsed (p : Plan) (holes : BitVec 48) (s : State) (f : Nat) : State :=
  if tb holes.toNat f || !linksUp s f then s else restoreField p s f

theorem restoreRouters_eq {s : State} {p : Plan} (h : s.plan.active = some p) : restoreRouters s =
    allFields.foldl (restoreUsed p (p.holes s)) s := by
  rw [restoreRouters, h]
  rfl

theorem restoreField_parts (p : Plan) (s : State) (f : Nat) :
    restoreField p s f = { s with routers := (restoreField p s f).routers } := by
  unfold restoreField
  generalize List.finRange 72 = l
  exact foldl_preserves (f := restoreRouter p f) (inv := fun t : State => t = { s with routers := t.routers })
    (fun t cl h => congrArg (fun u : State => { u with routers := (restoreRouter p f t cl).routers }) h) l rfl

theorem restoreRouters_parts (s : State) : restoreRouters s = { s with routers := (restoreRouters s).routers } := by
  cases hp : s.plan.active with
  | none =>
    rw [restoreRouters, hp]
  | some p =>
    rw [restoreRouters_eq hp]
    generalize allFields = l
    refine foldl_preserves (inv := fun t : State => t = { s with routers := t.routers }) (fun t f h => ?_) l rfl
    unfold restoreUsed
    split
    · exact h
    · rw [restoreField_parts]
      exact congrArg (fun u : State => { u with routers := (restoreField p t f).routers }) h

/-- A router holds its restore image. -/
def restored (p : Plan) (f : Nat) (cl : Fin 72) (s : State) : Prop :=
  s.tablesWf = true ∧ (s.router (f * 72 + homeOf cl.val)).active = routerImage p f cl

theorem restoreRouter_restores (p : Plan) (f : Nat) (cl : Fin 72) {s : State} (hwf : s.tablesWf = true) :
    restored p f cl (restoreRouter p f s cl) := by
  obtain ⟨-, -, hrouters, -⟩ := (tablesWf_iff s).mp hwf
  refine ⟨(keeps_refl s).modRouter.2 hwf, ?_⟩
  rw [restoreRouter, State.modRouter_router_same hrouters]

theorem restored_restoreRouter {p : Plan} {f g : Nat} {cl d : Fin 72} {s : State} (h : restored p f cl s) :
    restored p f cl (restoreRouter p g s d) := by
  by_cases hkey : f * 72 + homeOf cl.val = g * 72 + homeOf d.val
  · obtain ⟨rfl, rfl⟩ := routerOf_injective hkey
    exact restoreRouter_restores p f cl h.1
  · refine ⟨(keeps_refl s).modRouter.2 h.1, ?_⟩
    rw [restoreRouter, State.modRouter, State.setRouter_router_other _ hkey]
    exact h.2

theorem restored_restoreField {p : Plan} {f g : Nat} {cl : Fin 72} {s : State} (h : restored p f cl s) :
    restored p f cl (restoreField p s g) := by
  unfold restoreField
  generalize List.finRange 72 = l
  exact foldl_preserves (f := restoreRouter p g) (inv := restored p f cl) (fun _ _ => restored_restoreRouter) l h

theorem restoreField_wf {p : Plan} {f : Nat} {s : State} (h : s.tablesWf = true) : (restoreField p s f).tablesWf = true :=
  ((keeps_refl s).foldl fun _ _ h => h.modRouter).2 h

theorem restoreField_restores {p : Plan} {f : Nat} (cl : Fin 72) {s : State} (hwf : s.tablesWf = true) :
    restored p f cl (restoreField p s f) := by
  have hmem := List.mem_finRange cl
  unfold restoreField
  generalize List.finRange 72 = l at hmem ⊢
  exact foldl_establishes (f := restoreRouter p f) (inv := fun t : State => t.tablesWf = true) (p := restored p f cl) hmem
    (fun t _ => (keeps_refl t).modRouter.2) (fun _ => restoreRouter_restores p f cl) (fun _ _ => restored_restoreRouter) hwf

theorem restoreField_linksUp (p : Plan) (s : State) (g f : Nat) : linksUp (restoreField p s g) f = linksUp s f := by
  have hfields : (restoreField p s g).fields = s.fields := by rw [restoreField_parts]
  simp only [linksUp, State.field, hfields]

theorem restoreUsed_cases (p : Plan) (holes : BitVec 48) (s : State) (f : Nat) :
    restoreUsed p holes s f = s ∨ restoreUsed p holes s f = restoreField p s f := (ite_eq_or_eq _ _ _).imp id id

theorem restoreUsed_wf {p : Plan} {holes : BitVec 48} {s : State} (f : Nat) (h : s.tablesWf = true) :
    (restoreUsed p holes s f).tablesWf = true := by
  rcases restoreUsed_cases p holes s f with heq | heq
  · rw [heq]; exact h
  · rw [heq]; exact restoreField_wf h

theorem restoreUsed_linksUp (p : Plan) (holes : BitVec 48) (s : State) (g f : Nat) :
    linksUp (restoreUsed p holes s g) f = linksUp s f := by
  rcases restoreUsed_cases p holes s g with heq | heq
  · rw [heq]
  · rw [heq]; exact restoreField_linksUp p s g f

theorem restored_restoreUsed {p : Plan} {f : Nat} {cl : Fin 72} (holes : BitVec 48) (g : Nat) {s : State} (h : restored p f cl s) :
    restored p f cl (restoreUsed p holes s g) := by
  rcases restoreUsed_cases p holes s g with heq | heq
  · rw [heq]; exact h
  · rw [heq]; exact restored_restoreField h

theorem restoreUsed_restores {p : Plan} {holes : BitVec 48} {f : Nat} (cl : Fin 72) {s : State} (hwf : s.tablesWf = true)
    (hmask : tb holes.toNat f = false) (hup : linksUp s f = true) : restored p f cl (restoreUsed p holes s f) := by
  have hno : ¬ (tb holes.toNat f || !linksUp s f) = true := by simp [hmask, hup]
  rw [restoreUsed, if_neg hno]
  exact restoreField_restores cl hwf

theorem restoreRouters_restores {s : State} {p : Plan} (hwf : s.tablesWf = true) (hp : s.plan.active = some p) {f : Nat} (hf : f < 48)
    (cl : Fin 72) (hmask : tb (p.holes s).toNat f = false) (hup : linksUp s f = true) : restored p f cl (restoreRouters s) := by
  have hmem := mem_allFields hf
  rw [restoreRouters_eq hp]
  generalize p.holes s = holes at hmask ⊢
  generalize allFields = l at hmem ⊢
  exact foldl_establishes (f := restoreUsed p holes) (inv := fun t : State => t.tablesWf = true ∧ linksUp t f = true)
    (p := restored p f cl) hmem (fun t g ht => ⟨restoreUsed_wf g ht.1, (restoreUsed_linksUp p holes t g f).trans ht.2⟩)
    (fun _ ht => restoreUsed_restores cl ht.1 hmask ht.2) (fun _ g ht => restored_restoreUsed holes g ht) ⟨hwf, hup⟩

/-! ## Out of Poised and Held (R459 to R461) -/

theorem poisedExit_leaves {s : State} (hladder : s.power.ladder = .poised) (hleaving : s.power.leaving = true) :
    exec .poisedExit s = .next (nameRestart (resumeCells (leaveTo s))) := by
  change execPoisedExit s = _
  unfold execPoisedExit
  exact if_pos (by rw [hladder, hleaving]; rfl)

/-- A module runs again on its base clock. -/
def baseLeft (s : State) : State := leaveTo { s with time := { s.time with clock := .base, boost := .none, boostVolts := false } }

/-- What the resumed module took over from the state that was woken. -/
structure Resumed (s t : State) : Prop where
  ladder : t.power.ladder = .running
  clock : t.time.clock = .base
  cells : t.cells = s.cells
  fields : t.fields = s.fields
  sites : t.sites = s.sites
  routers : t.routers = s.routers

theorem baseLeft_resumed (s : State) : Resumed s (nameRestart (resumeCells (baseLeft s))) := by
  obtain ⟨_, _, _, _, _, heq⟩ := nameRestart_eq (resumeCells (baseLeft s))
  rw [heq]
  exact ⟨rfl, rfl, rfl, rfl, rfl, rfl⟩

theorem heldExit_leaves {s : State} (hladder : s.power.ladder = .held) (hleaving : s.power.leaving = true)
    (href : s.time.refLost = false) (hclear : s.faults.waitClear = false) :
    exec .heldExit s = .next (nameRestart (resumeCells (baseLeft (restoreRouters (wakeAll s))))) := by
  have hgo : (s.power.ladder == .held && s.power.leaving && !s.time.refLost && !s.faults.waitClear) = true := by
    rw [hladder, hleaving, href, hclear]
    rfl
  change execHeldExit s = _
  unfold execHeldExit
  rw [if_pos hgo, done, baseLeft]

/-- The stroke at which the cells resume is the second or the third, so that w is even. -/
theorem resumeCells_even (s : State) : ∃ n, (resumeCells s).time.resumeAt = some n ∧ s.time.work + 2 ≤ n ∧ n ≤ s.time.work + 3 ∧
    (s.time.w + (n - s.time.work)) % 2 = 0 := by
  refine ⟨_, rfl, ?_⟩
  split <;> omega

/-! ## Out of Banked (R460) -/

theorem settleDomains_kept (s : State) (p : Plan) : (settleDomains s p).plan = s.plan ∧ (settleDomains s p).time = s.time := by
  unfold settleDomains
  generalize allFields = l
  refine foldl_preserves (inv := fun t : State => t.plan = s.plan ∧ t.time = s.time) (fun t f ht => ?_) l ⟨rfl, rfl⟩
  extract_lets m masked
  have hmasked : masked.plan = s.plan ∧ masked.time = s.time := by
    unfold masked
    split
    exacts [ht, ht]
  split
  · exact hmasked
  · split
    exacts [hmasked, hmasked, hmasked]

theorem restagePending_kept (s : State) : (restagePending s).plan = s.plan ∧ (restagePending s).time = s.time := by
  unfold restagePending
  split
  · rw [stageUnder_eq]
    exact ⟨rfl, rfl⟩
  · exact ⟨rfl, rfl⟩

/-- The images of a plan under a key are in force. -/
def keyActive (s : State) (p : Plan) (key : Nat) (m : ActMarks) : State :=
  let t := activateImages (stagePlan s (withKey p key) s.plan.recipe) m
  { t with plan := { t.plan with active := some (withKey p key) } }

/-- A key of the active plan takes effect: the plan with that key, and the epoch and the clock as they were. -/
theorem activateKey_kept {s : State} {p : Plan} (h : s.plan.active = some p) (key : Nat) (m : ActMarks) :
    (activateKey s key m).plan = { s.plan with active := some (withKey p key) } ∧ (activateKey s key m).time.clock = s.time.clock ∧
      (activateKey s key m).time.epoch = s.time.epoch := by
  have hstaged := eq_of_besideCopies (besideCopies_stagePlan (s := s) (withKey p key) s.plan.recipe)
  have htime : (stagePlan s (withKey p key) s.plan.recipe).time = s.time := by rw [hstaged]
  have hplan : (stagePlan s (withKey p key) s.plan.recipe).plan = s.plan := by rw [hstaged]
  have hkey : activateKey s key m = restagePending (settleDomains (keyActive s p key m) (withKey p key)) := by
    rw [activateKey, h]
    rfl
  obtain ⟨hplan₁, htime₁⟩ := settleDomains_kept (keyActive s p key m) (withKey p key)
  obtain ⟨hplan₂, htime₂⟩ := restagePending_kept (settleDomains (keyActive s p key m) (withKey p key))
  rw [hkey, hplan₂, hplan₁, htime₂, htime₁]
  refine ⟨congrArg (fun u : PlanState => { u with active := some (withKey p key) }) hplan, ?_, ?_⟩
  · exact (congrArg TimeState.clock htime :)
  · exact (congrArg TimeState.epoch htime :)

theorem runPath_runs (s : State) : (runPath s).power.ladder = .running ∧ (runPath s).time.dataPath = true ∧
    (runPath s).time.clock = s.time.clock ∧ (runPath s).time.epoch = s.time.epoch ∧ (runPath s).plan = s.plan := by
  unfold runPath
  extract_lets u
  split
  · rw [tellMaster_eq]
    exact ⟨rfl, rfl, rfl, rfl, rfl⟩
  · exact ⟨rfl, rfl, rfl, rfl, rfl⟩

theorem holdBarrier_active (s : State) (b : BarrierHold) : (holdBarrier s b).plan.active = s.plan.active := by
  unfold holdBarrier
  split <;> rfl

/-- What a prologue leaves: the run as it is, and an end of it where it has epochs. -/
theorem beginPrologue_begins (s : State) (p : Plan) : (beginPrologue s p).power = s.power ∧ (beginPrologue s p).time = s.time ∧
    (beginPrologue s p).plan.active = s.plan.active ∧ (p.header.prologue ≠ 0 →
      (beginPrologue s p).plan.prologueEnd = some (s.time.epoch + p.header.prologue) ∧ barrierClosed (beginPrologue s p) = true) := by
  unfold beginPrologue
  by_cases h : p.header.prologue = 0
  · rw [if_pos h]
    exact ⟨rfl, rfl, rfl, fun hno => absurd h hno⟩
  · rw [if_neg h]
    extract_lets held
    have hheld : held = { s with plan := held.plan } := holdBarrier_eq s .prologue
    have hmem : BarrierHold.prologue ∈ held.plan.holds := mem_holdBarrier s .prologue
    have htime : held.time = s.time := (congrArg State.time hheld).trans rfl
    have hactive : held.plan.active = s.plan.active := holdBarrier_active s .prologue
    refine ⟨(congrArg State.power hheld :), htime, hactive, fun _ => ⟨by rw [htime], ?_⟩⟩
    exact (Bool.not_eq_true' _).mpr (List.isEmpty_eq_false_iff_exists_mem.mpr ⟨_, hmem⟩)

/-- The layout activation of a key: the path runs again under the plan with that key, its prologue behind a closed barrier. -/
theorem activateLayout_runs {s : State} {p : Plan} (h : s.plan.active = some p) (key : Nat) :
    let t := activateLayout s key
    t.power.ladder = .running ∧ t.time.dataPath = true ∧ t.time.clock = s.time.clock ∧ t.plan.active = some (withKey p key) ∧
      (p.header.prologue ≠ 0 → t.plan.prologueEnd = some (s.time.epoch + p.header.prologue) ∧ barrierClosed t = true) := by
  obtain ⟨hplan, hclock, hepoch⟩ := activateKey_kept h key marksAll
  obtain ⟨hladder, hpath, hclock', hepoch', hplan'⟩ := runPath_runs (activateKey s key marksAll)
  have hactive : (runPath (activateKey s key marksAll)).plan.active = some (withKey p key) := by rw [hplan', hplan]
  have hlayout : activateLayout s key = beginPrologue (runPath (activateKey s key marksAll)) (withKey p key) := by
    rw [activateLayout, hactive]
  obtain ⟨hpower, htime, hkept, hprologue⟩ := beginPrologue_begins (runPath (activateKey s key marksAll)) (withKey p key)
  dsimp only
  rw [hlayout, hpower, htime, hkept]
  refine ⟨hladder, hpath, hclock'.trans hclock, hactive, fun h => ?_⟩
  rw [← hepoch, ← hepoch']
  exact hprologue h

/-- A module that leaves Banked: the clock at its base, fields awake and its layout activated anew. -/
def bankedLeft (s : State) (p : Plan) : State :=
  let t := wakeAll { s with time := { s.time with clock := .base, boost := .none, boostVolts := false } }
  let t := activateLayout t (keyNoBoost p.key.toNat)
  { t with faults := { t.faults with restart := false } }

theorem bankedExit_leaves {s : State} {p : Plan} (hactive : s.plan.active = some p) (hladder : s.power.ladder = .banked)
    (hleaving : s.power.leaving = true) (hready : s.power.bankedReady = false) (href : s.time.refLost = false)
    (hclear : s.faults.waitClear = false) : exec .bankedExit s = .next (bankedLeft s p) := by
  have hgo : (s.power.ladder == .banked && s.power.leaving && !s.power.bankedReady && !s.time.refLost && !s.faults.waitClear) = true := by
    rw [hladder, hleaving, hready, href, hclear]
    rfl
  change execBankedExit s = _
  unfold execBankedExit
  rw [hactive]
  dsimp only
  rw [if_pos hgo, done, bankedLeft]

/-! ## Out of Dry (R460, R520) -/

/-- A field that stands ready. -/
def fieldReady (s : State) (fs : FieldState) : FieldState :=
  if fs.domain = .hole then fs else { fs with domain := .dark, wake := false, wakeStep := 0, epochSeen := s.time.epoch }

/-- A site that stands ready. -/
def siteReady (s : State) (k : Nat) (st : SiteState) : SiteState :=
  if (s.field (k / 74)).domain = .hole then st
  else if st.chaOk && st.chbOk then { clearSlice st with up := false } else { st with up := false }

theorem standReady_fields (s : State) : (standReady s).fields = allFields.foldl (fun t f => tmod {} t f (fieldReady s)) s.fields := by
  unfold standReady
  generalize allFields = l
  rfl

theorem standReady_sites (s : State) :
    (standReady s).sites = (List.range (48 * 74)).foldl (fun t k => tmod {} t k (siteReady s k)) s.sites := by
  unfold standReady
  generalize List.range (48 * 74) = l
  rfl

theorem standReady_field {s : State} (hwf : s.tablesWf = true) {f : Nat} (hf : f < 48) :
    (standReady s).field f = fieldReady s (s.field f) := by
  obtain ⟨-, -, -, hfields, -⟩ := (tablesWf_iff s).mp hwf
  have hread := tget_foldl_tmod (fun _ => fieldReady s) nodup_allFields f hfields
  rw [if_pos (mem_allFields hf)] at hread
  rw [State.field, standReady_fields]
  exact hread

theorem standReady_site {s : State} (hwf : s.tablesWf = true) {k : Nat} (hk : k < 3552) :
    (standReady s).site k = siteReady s k (s.site k) := by
  obtain ⟨-, hsites, -⟩ := (tablesWf_iff s).mp hwf
  have hmem : k ∈ List.range (48 * 74) := List.mem_range.mpr hk
  have hnodup : (List.range (48 * 74)).Nodup := List.nodup_range
  rw [State.site, standReady_sites]
  generalize List.range (48 * 74) = l at hmem hnodup ⊢
  exact (tget_foldl_tmod (siteReady s) hnodup k hsites).trans (if_pos hmem)

/-- The module that stands ready with its cascade links untrained. -/
def dryLeft (s : State) : State :=
  let t := standReady s
  { t with
    casc := tmapAll {} (fun _ c => { c with prime := .untrained, compactSent := false }) t.casc
    board := { t.board with
      admitted := false, admitEpoch := none, admittedMask := if t.board.position = 0 then 1 else t.board.admittedMask } }

theorem dryLeft_tables (s : State) : (dryLeft s).fields = (standReady s).fields ∧ (dryLeft s).sites = (standReady s).sites := by
  unfold dryLeft
  generalize standReady s = t
  exact ⟨rfl, rfl⟩

theorem dryExit_leaves {s : State} (hladder : s.power.ladder = .dry) (hleaving : s.power.leaving = true) :
    exec .dryExit s = .next (dryLeft s) := by
  change execDryExit s = _
  unfold execDryExit
  exact if_pos (by rw [hladder, hleaving]; rfl)

/-- What the module that stands ready took over from Dry. -/
theorem dryLeft_ready (s : State) : (dryLeft s).power.ladder = .banked ∧ (dryLeft s).power.bankedReady = true ∧
    (dryLeft s).power.leaving = false ∧ (dryLeft s).time.dataPath = false ∧ (∀ p, ((dryLeft s).cascPort p).prime = .untrained) ∧
    (dryLeft s).plan = s.plan ∧ (dryLeft s).serve = s.serve :=
  ⟨rfl, rfl, rfl, rfl,
    fun p => tget_tmapAll_of (p := fun c : CascState => c.prime = .untrained) rfl (fun _ _ => rfl) s.casc p, rfl, rfl⟩

/-- The module out of Held: its fields awake, its router tables restored, its slices out of self-refresh. -/
theorem heldExit_resumes {s t : State} (hwf : s.tablesWf = true) (h : Resumed (restoreRouters (wakeAll s)) t) : t.cells = s.cells ∧
    (∀ f, f < 48 → (s.field f).domain = .off → awake t f) ∧
    (∀ (p : Plan) (f : Nat) (cl : Fin 72), s.plan.active = some p → f < 48 → tb (p.holes s).toNat f = false →
      (t.field f).domain = .running → (t.router (f * 72 + homeOf cl.val)).active = routerImage p f cl) ∧
    ∀ k, k < 3552 → (t.field (k / 74)).domain = .running →
      (t.site k).cisState ≠ .selfRefresh ∧ (t.site k).up = !(t.site k).dark := by
  obtain ⟨hfields, hcells, -, hplan, hboard⟩ := wakeAll_kept s
  have hrouters := restoreRouters_parts (wakeAll s)
  have hkept : (restoreRouters (wakeAll s)).cells = (wakeAll s).cells ∧ (restoreRouters (wakeAll s)).fields = (wakeAll s).fields ∧
      (restoreRouters (wakeAll s)).sites = (wakeAll s).sites := by
    refine ⟨?_, ?_, ?_⟩ <;> rw [hrouters]
  obtain ⟨hcells', hfields', hsites'⟩ := hkept
  have hfield : ∀ f, t.field f = (fieldsAwake s).field f := fun f => by
    rw [State.field, h.fields, hfields', hfields, State.field]
  have hwoken : ∀ f, (wakeAll s).field f = (fieldsAwake s).field f := fun f => by rw [State.field, hfields, State.field]
  refine ⟨h.cells.trans (hcells'.trans hcells), fun f hf hoff => ?_, fun p f cl hp hf hmask hrun => ?_, fun k hk hrun => ?_⟩
  · rw [awake, hfield]
    exact fieldsAwake_awake hwf hf hoff
  · rw [hfield] at hrun
    have hup : linksUp (wakeAll s) f = true := by rw [linksUp, hwoken, hrun]; rfl
    have hrestored := restoreRouters_restores ((keeps_refl s).wakeAll.2 hwf) ((congrArg PlanState.active hplan).trans hp) hf cl
      ((congrArg (fun m : BitVec 48 => tb m.toNat f) (holes_congr hboard p)).trans hmask) hup
    rw [State.router, h.routers]
    exact hrestored.2
  · rw [hfield] at hrun
    have hsite : t.site k = (wakeAll s).site k := by rw [State.site, h.sites, hsites', State.site]
    rw [hsite]
    exact wakeAll_site hwf hk hrun

/-- The module out of Banked runs under its active key. -/
theorem bankedLeft_runs {s : State} {p : Plan} (hactive : s.plan.active = some p) :
    (bankedLeft s p).power.ladder = .running ∧ (bankedLeft s p).time.dataPath = true ∧ (bankedLeft s p).faults.restart = false ∧
      (bankedLeft s p).time.clock = .base ∧ (bankedLeft s p).plan.active = some (withKey p (keyNoBoost p.key.toNat)) ∧
      (p.header.prologue ≠ 0 → (bankedLeft s p).plan.prologueEnd = some (s.time.epoch + p.header.prologue) ∧
        barrierClosed (bankedLeft s p) = true) := by
  obtain ⟨-, -, htime, hplan, -⟩ := wakeAll_kept { s with time := { s.time with clock := .base, boost := .none, boostVolts := false } }
  unfold bankedLeft
  generalize wakeAll { s with time := { s.time with clock := .base, boost := .none, boostVolts := false } } = w at htime hplan ⊢
  have hclock : w.time.clock = .base := by rw [htime]
  have hepoch : w.time.epoch = s.time.epoch := by rw [htime]
  obtain ⟨hladder, hpath, hkept, hkey, hprologue⟩ :=
    activateLayout_runs (s := w) (by rw [hplan]; exact hactive) (keyNoBoost p.key.toNat)
  exact ⟨hladder, hpath, rfl, hkept.trans hclock, hkey, fun h => hepoch ▸ hprologue h⟩

/-- Settles O41: each exit by the state it leaves, the wakes and the restored tables read entry by entry. -/
theorem ladderExitsBringTheModuleBack : Obligations.LadderExitsBringTheModuleBack := by
  unfold Obligations.LadderExitsBringTheModuleBack
  refine ⟨fun s hwf hladder hleaving => ?_, fun s hwf hladder hleaving href hclear => ?_,
    fun s p hwf hactive hladder hleaving hready href hclear =>
      ⟨_, bankedExit_leaves hactive hladder hleaving hready href hclear, bankedLeft_runs hactive⟩,
    fun s hwf hladder hleaving => ?_⟩
  · obtain ⟨n, hat, hlow, hhigh, heven⟩ := resumeCells_even (leaveTo s)
    obtain ⟨_, _, _, _, _, heq⟩ := nameRestart_eq (resumeCells (leaveTo s))
    have hpath : (leaveTo s).time.dataPath = true ↔
        s.faults.restart = false ∧ s.faults.waitClear = false ∧ pathFit s = true := by
      simp [leaveTo, and_assoc]
    exact ⟨_, n, (poisedExit_leaves hladder hleaving).trans (congrArg _ heq), rfl, rfl, hat, hlow, hhigh, heven, rfl, rfl, rfl, hpath⟩
  · have hresumed := baseLeft_resumed (restoreRouters (wakeAll s))
    exact ⟨_, heldExit_leaves hladder hleaving href hclear, hresumed.ladder, hresumed.clock, heldExit_resumes hwf hresumed⟩
  · obtain ⟨hbanked, hready, hleft, hpath, hprime, hplan, hserve⟩ := dryLeft_ready s
    refine ⟨_, dryExit_leaves hladder hleaving, hbanked, hready, hleft, hpath, fun f hf => ?_, fun k hk hlit ha hb => ?_,
      hprime, hplan, hserve⟩
    · have hfield : (dryLeft s).field f = fieldReady s (s.field f) :=
        (State.field_congr (dryLeft_tables s).1 f).trans (standReady_field hwf hf)
      rw [hfield]
      unfold fieldReady
      split
      exacts [.inr ‹_›, .inl rfl]
    · have hsite : (dryLeft s).site k = siteReady s k (s.site k) :=
        (State.site_congr (dryLeft_tables s).2 k).trans (standReady_site hwf hk)
      rw [hsite, siteReady, if_neg hlit, ha, hb]
      exact ⟨rfl, rfl, rfl⟩

end Sys2Proof.Machine
end

section
/-! PROOFS. The contacts and start-up (R519 to R521, R532, R552, R554). -/

namespace Sys2Proof.Machine

/-! ## The fields of step 3 (R519) -/

/-- One more converter of a field that does not start. -/
def converterBad (i : Nat) (fs : FieldState) : FieldState :=
  { fs with convBad := if fs.convBad.contains i then fs.convBad else fs.convBad ++ [i] }

/-- A field at start-up: a hole without its converters or its fuse, and dark otherwise. -/
def fieldStarted (fs : FieldState) : FieldState :=
  { fs with domain := if fs.convBad.length = 2 ∨ fs.fuseOpen = true then .hole else .dark }

/-- The converters that do not start are noted. -/
def convertersTried (s : State) (e : StartupEnv) : State :=
  e.badConverters.foldl (fun s q => s.modField q.1.val (converterBad q.2.val)) s

def startField (s : State) (f : Nat) : State := s.modField f fieldStarted

theorem startFields_eq (s : State) (e : StartupEnv) : startFields s e = allFields.foldl startField (convertersTried s e) := by
  unfold startFields
  generalize allFields = l
  rfl

/-- A change of fields one after another reaches the fields alone. -/
theorem foldl_modField_parts {α : Type} (k : α → Nat) (g : α → FieldState → FieldState) (l : List α) (s : State) :
    l.foldl (fun s x => s.modField (k x) (g x)) s = { s with fields := (l.foldl (fun s x => s.modField (k x) (g x)) s).fields } := by
  induction l generalizing s with
  | nil => rfl
  | cons x l ih => exact ih (s.modField (k x) (g x))

theorem startFields_parts (s : State) (e : StartupEnv) : startFields s e = { s with fields := (startFields s e).fields } := by
  have htried : convertersTried s e = { s with fields := (convertersTried s e).fields } :=
    foldl_modField_parts (fun q : Field × Fin 2 => q.1.val) (fun q => converterBad q.2.val) e.badConverters s
  have hstarted : ∀ (l : List Nat) (t : State), l.foldl startField t = { t with fields := (l.foldl startField t).fields } :=
    foldl_modField_parts (fun f : Nat => f) (fun _ => fieldStarted)
  rw [startFields_eq, hstarted, htried]

/-- A field is dark or a hole. -/
def darkOrHole (s : State) (f : Nat) : Prop := (s.field f).domain = .dark ∨ (s.field f).domain = .hole

theorem fieldStarted_domain (fs : FieldState) : (fieldStarted fs).domain = .dark ∨ (fieldStarted fs).domain = .hole := by
  unfold fieldStarted
  dsimp only
  split
  exacts [.inr rfl, .inl rfl]

theorem startField_started {s : State} (hwf : s.tablesWf = true) (f : Nat) : darkOrHole (startField s f) f := by
  obtain ⟨-, -, -, hfields, -⟩ := (tablesWf_iff s).mp hwf
  rw [darkOrHole, startField, State.modField_field_same hfields]
  exact fieldStarted_domain _

theorem startField_wf {s : State} (h : s.tablesWf = true) (f : Nat) : (startField s f).tablesWf = true := (keeps_refl s).modField.2 h

theorem startField_keeps {s : State} {f : Nat} (h : s.tablesWf = true ∧ darkOrHole s f) (g : Nat) :
    (startField s g).tablesWf = true ∧ darkOrHole (startField s g) f := by
  refine ⟨startField_wf h.1 g, ?_⟩
  by_cases hg : f = g
  · subst hg
    exact startField_started h.1 f
  · rw [darkOrHole, startField, State.modField, State.setField_field_other _ hg]
    exact h.2

theorem convertersTried_wf {s : State} (h : s.tablesWf = true) (e : StartupEnv) : (convertersTried s e).tablesWf = true :=
  ((keeps_refl s).foldl fun _ _ h => h.modField).2 h

theorem startFields_started {s : State} (hwf : s.tablesWf = true) (e : StartupEnv) {f : Nat} (hf : f < 48) :
    darkOrHole (startFields s e) f := by
  have hmem := mem_allFields hf
  rw [startFields_eq]
  generalize allFields = l at hmem ⊢
  exact (foldl_establishes (f := startField) (inv := fun t : State => t.tablesWf = true)
    (p := fun t => t.tablesWf = true ∧ darkOrHole t f) hmem (fun _ g ht => startField_wf ht g)
    (fun _ ht => ⟨startField_wf ht f, startField_started ht f⟩) (fun _ g ht => startField_keeps ht g) (convertersTried_wf hwf e)).2

/-! ## The map of step 4 (R234, R502 to R504) -/

/-- The withdrawals with those that start-up finds. -/
def startWithdrawals (s : State) (e : StartupEnv) : List Amendment :=
  s.faults.withdrawals ++ (if s.mgmt.compat then
    (e.testCells.map fun c =>
      ({ kind := 1, field := c.field, index := c.site.val, phys := c.phys.val, time := boardTime s, code := 0 } : Amendment)) ++
      e.testSites.map fun q => { kind := 2, field := q.field, index := q.site.val, phys := 0, time := boardTime s, code := 0 }
  else []) ++ e.badChannels.map fun q =>
    { kind := 2, field := q.1.field, index := q.1.site.val, phys := 0, time := boardTime s, code := 0x82 }

/-- A channel of a site that does not train. -/
def channelBad (e : StartupEnv) (k : Nat) (b : Bool) : Bool := e.badChannels.any fun q => siteKey q.1 == k && q.2 == b

/-- A site at start-up: trained and cleared, or left in training by a channel that does not come up. -/
def siteStarted (s : State) (e : StartupEnv) (k : Nat) (st : SiteState) : SiteState :=
  if isHole s (k / 74) then st
  else if channelBad e k false || channelBad e k true then
    { csError st csTrain 0 0 with chaOk := !channelBad e k false, chbOk := !channelBad e k true, cisState := .training }
  else clearSlice st

/-- The map is known and the slices are cleared. -/
def slicesCleared (s : State) (e : StartupEnv) : State :=
  let t := applyDefects { s with faults := { s.faults with withdrawals := startWithdrawals s e } }
  { t with sites := (List.range (48 * 74)).foldl (fun m k => tmod {} m k (siteStarted t e k)) t.sites }

/-- A field that the map leaves unmapped is a hole. -/
def unmappedStep (s : State) (f : Nat) : State :=
  if !isHole s f && fieldUnmapped s s.faults.applied f then makeHole s f else s

theorem startMap_eq (s : State) (e : StartupEnv) : startMap s e = settleHoles (allFields.foldl unmappedStep (slicesCleared s e)) := by
  unfold startMap slicesCleared startWithdrawals
  generalize List.range (48 * 74) = ks
  generalize allFields = l
  rfl

theorem slicesCleared_parts (s : State) (e : StartupEnv) :
    ∃ sites, slicesCleared s e = { s with faults := (slicesCleared s e).faults, sites := sites } := by
  unfold slicesCleared
  generalize List.range (48 * 74) = ks
  exact ⟨_, rfl⟩

theorem slicesCleared_wf {s : State} (h : s.tablesWf = true) (e : StartupEnv) : (slicesCleared s e).tablesWf = true :=
  (Keeps.update (s := applyDefects { s with faults := { s.faults with withdrawals := startWithdrawals s e } })
    (keeps_refl s).update.applyDefects (sitesWf := tblWf_foldl _ (fun _ _ => tblWf_tmod _ _ _) _)).2 h

/-- A site that start-up leaves empty or in training. -/
def siteBlank (st : SiteState) : Prop := st.mem = [] ∨ st.cisState = .training

theorem siteStarted_blank {s : State} {k : Nat} (h : isHole s (k / 74) = false) (e : StartupEnv) (st : SiteState) :
    siteBlank (siteStarted s e k st) := by
  unfold siteStarted
  rw [if_neg (by rw [h]; exact Bool.false_ne_true)]
  split
  exacts [.inr rfl, .inl rfl]

theorem slicesCleared_site {s : State} (hwf : s.tablesWf = true) (e : StartupEnv) {k : Nat} (hk : k < 3552)
    (h : isHole s (k / 74) = false) : siteBlank ((slicesCleared s e).site k) := by
  obtain ⟨-, hsites, -⟩ := (tablesWf_iff s).mp hwf
  have hmem : k ∈ List.range (48 * 74) := List.mem_range.mpr hk
  have hnodup : (List.range (48 * 74)).Nodup := List.nodup_range
  unfold slicesCleared
  generalize List.range (48 * 74) = l at hmem hnodup ⊢
  extract_lets _ t
  have hread : tget {} (l.foldl (fun m k => tmod {} m k (siteStarted t e k)) t.sites) k = siteStarted t e k (s.site k) :=
    (tget_foldl_tmod (siteStarted t e) hnodup k hsites).trans (if_pos hmem)
  rw [State.site, hread]
  exact siteStarted_blank h e _

theorem unmappedStep_keeps (s : State) (f : Nat) : Keeps s (unmappedStep s f) := (keeps_refl s).makeHole.ite (keeps_refl s)

theorem unmappedStep_grow {s : State} (hwf : s.tablesWf = true) (f : Nat) : HolesGrow s (unmappedStep s f) := by
  unfold unmappedStep
  split
  exacts [makeHole_grow hwf f, holesGrow_refl s]

theorem startMap_grow {s : State} (hwf : s.tablesWf = true) (e : StartupEnv) : HolesGrow (slicesCleared s e) (startMap s e) := by
  obtain ⟨hgrow, hwf'⟩ := holesGrow_foldl unmappedStep_keeps (fun _ f h => unmappedStep_grow h f) allFields _ (slicesCleared_wf hwf e)
  rw [startMap_eq]
  exact hgrow.trans (settleHoles_grow hwf')

/-- What steps 3 and 4 leave of a module: the fields dark or holes, the slices of dark fields blank. -/
structure Mapped (s t : State) : Prop where
  mgmt : t.mgmt = s.mgmt
  power : t.power = s.power
  board : t.board = s.board
  time : t.time = s.time
  serve : t.serve = s.serve
  fields : ∀ f, f < 48 → darkOrHole t f
  sites : ∀ k, k < 3552 → (t.field (k / 74)).domain = .dark → siteBlank (t.site k)

theorem startMap_mapped {s : State} (hwf : s.tablesWf = true) (e : StartupEnv) : Mapped s (startMap (startFields s e) e) := by
  have hwf' : (startFields s e).tablesWf = true := ((keeps_refl s).startFields (e := e)).2 hwf
  obtain ⟨sites, hslices⟩ := slicesCleared_parts (startFields s e) e
  have hgrow := startMap_grow hwf' e
  have hparts := hgrow.parts
  have hfields : ∀ f, (slicesCleared (startFields s e) e).field f = (startFields s e).field f := fun f => by
    rw [State.field, hslices, State.field]
  have hhole : ∀ f, isHole (slicesCleared (startFields s e) e) f = isHole (startFields s e) f := fun f =>
    isHole_congr (by rw [hfields])
  refine { mgmt := ?_, power := ?_, board := ?_, time := ?_, serve := ?_, fields := fun f hf => ?_, sites := fun k hk hdark => ?_ }
  · rw [hparts, hslices, startFields_parts]
  · rw [hparts, hslices, startFields_parts]
  · rw [hparts, hslices, startFields_parts]
  · rw [hparts, hslices, startFields_parts]
  · rw [hparts, hslices, startFields_parts]
  · rcases hgrow.fields f with hf' | hf'
    · exact .inr (isHole_iff.mp hf')
    · have hdomain : ((startMap (startFields s e) e).field f).domain = ((startFields s e).field f).domain := by rw [hf', hfields]
      rw [darkOrHole, hdomain]
      exact startFields_started hwf e hf
  · have hlit : isHole (startMap (startFields s e) e) (k / 74) = false := by
      refine Bool.eq_false_iff.mpr fun h => ?_
      rw [isHole_iff, hdark] at h
      cases h
    have hlit' : isHole (startFields s e) (k / 74) = false := by
      refine Bool.eq_false_iff.mpr fun h => ?_
      exact absurd (hlit.symm.trans (hgrow.holes _ ((hhole _).trans h))) Bool.false_ne_true
    rw [hgrow.sites k hlit]
    exact slicesCleared_site hwf' e hk hlit'

/-! ## Steps 2 to 5 (R519 to R521) -/

/-- A start-up in step 2. -/
def startBegun (s : State) (e : StartupEnv) : State := { s with
  mgmt := { s.mgmt with step := 2, startup := some e, pgOut := true }
  heat := { s.heat with minFlow := max 144 e.minFlow, maxInlet := min 320 e.maxInlet }
  board := { s.board with position := e.straps } }

/-- What keeps the module in step 2. -/
def startCause (e : StartupEnv) : Nat := holdCause e (max 144 e.minFlow) (min 320 e.maxInlet)

theorem startSteps_holds {s : State} {e : StartupEnv} (h : startCause e ≠ 0) :
    startSteps s e = { startBegun s e with mgmt := { (startBegun s e).mgmt with hold := startCause e } } := if_pos h

/-- The settings in OTP that are in force: those of the last generation. -/
def settingsBooted (s : State) : Settings :=
  s.otp.settings.foldl (fun (m : Settings) q => if m.gen < q.gen then q else m) { gen := 0, compat := false, allow := [] }

/-- A start-up past step 2, its identity noted. -/
def startPast (s : State) (e : StartupEnv) : State :=
  let t := startBegun s e
  let t := { t with mgmt := { t.mgmt with
    hold := if e.trayPosition ≠ e.straps then 4 else 0, gen := (settingsBooted s).gen, compat := (settingsBooted s).compat } }
  if e.plateOk then t else raiseAlert t alIdentity

/-- Banked-ready after step 5. -/
def startReady (s : State) (e : StartupEnv) : State := { s with
  mgmt := { s.mgmt with
    hold := if s.mgmt.hold = 0 ∧ s.otp.mapOk = false ∧ s.mgmt.compat = false then 5 else s.mgmt.hold
    step := 5, ready := true }
  power := { s.power with
    ladder := .banked, bankedReady := true, floorBase := e.floorBase, floorBoost := e.floorBoost
    auxBad := s.power.auxBad ++ (e.badAux.map (·.val)).filter fun i => !s.power.auxBad.contains i }
  board := { s.board with
    admitted := false, admittedMask := if e.straps = 0 then 1 else 0
    reason := if e.trayPosition ≠ e.straps then 1 else 0 } }

/-- The last readings of the tray enter, and power alerts where a converter is missing. -/
def startRead (s : State) (e : StartupEnv) : State :=
  let t := (e.rounds.drop (e.rounds.length - 3)).foldl trayReadings s
  if (t.fields.any fun q => q.2.convBad.length == 1) || !t.power.auxBad.isEmpty then raiseAlert t alPower else t

theorem trayReadings_eq (s : State) (r : TrayReading) : ∃ h, trayReadings s r = { s with heat := h } := by
  unfold trayReadings
  extract_lets
  split <;> exact ⟨_, rfl⟩

theorem foldl_trayReadings_eq (l : List TrayReading) : ∀ s : State, ∃ h, l.foldl trayReadings s = { s with heat := h } := by
  induction l with
  | nil => exact fun s => ⟨s.heat, rfl⟩
  | cons r l ih =>
    intro s
    obtain ⟨h, hread⟩ := trayReadings_eq s r
    obtain ⟨h', hfold⟩ := ih (trayReadings s r)
    exact ⟨h', by rw [List.foldl_cons, hfold, hread]⟩

/-- The readings reach the heat, and the alerts. -/
theorem startRead_eq (s : State) (e : StartupEnv) : ∃ h a d,
    startRead s e = { s with heat := h, mgmt := { s.mgmt with alert := a, alertDue := d } } := by
  obtain ⟨h, hread⟩ := foldl_trayReadings_eq (e.rounds.drop (e.rounds.length - 3)) s
  unfold startRead
  dsimp only
  rw [hread]
  split
  exacts [⟨h, _, _, rfl⟩, ⟨h, s.mgmt.alert, s.mgmt.alertDue, rfl⟩]

theorem startSteps_up {s : State} {e : StartupEnv} (h : startCause e = 0) : startSteps s e =
    let t := startRead (startReady (startMap (startFields (startPast s e) e) e) e) e
    if 2 ≤ t.power.auxBad.length then forceLadder (raiseModule t 4 0x96) enterDry else t := by
  unfold startSteps
  extract_lets +onlyGivenNames _ _ _ begun cause
  have hcause : ¬ cause ≠ 0 := not_not_intro h
  rw [if_neg hcause]
  extract_lets +onlyGivenNames g _ held plate mapped _ _ _ ready last read alerted
  have hplate : plate = startPast s e := rfl
  have hmapped : mapped = startMap (startFields (startPast s e) e) e := congrArg (fun t => startMap (startFields t e) e) hplate
  have hready : ready = startReady (startMap (startFields (startPast s e) e) e) e := congrArg (fun t => startReady t e) hmapped
  have hread : alerted = startRead (startReady (startMap (startFields (startPast s e) e) e) e) e :=
    congrArg (fun t => startRead t e) hready
  rw [hread]

theorem startPast_parts (s : State) (e : StartupEnv) : ∃ a d, startPast s e = { startBegun s e with mgmt := { (startBegun s e).mgmt with
    hold := if e.trayPosition ≠ e.straps then 4 else 0, gen := (settingsBooted s).gen, compat := (settingsBooted s).compat
    alert := a, alertDue := d } } := by
  unfold startPast
  dsimp only
  split
  exacts [⟨(startBegun s e).mgmt.alert, (startBegun s e).mgmt.alertDue, rfl⟩, ⟨_, _, rfl⟩]

/-- What a start-up past step 2 brings up, with no auxiliary converter missing (R519 to R521). -/
structure StartedUp (s t : State) (e : StartupEnv) : Prop where
  ready : t.mgmt.ready = true
  step : t.mgmt.step = 5
  ladder : t.power.ladder = .banked
  bankedReady : t.power.bankedReady = true
  position : t.board.position = e.straps
  hold : e.trayPosition ≠ e.straps → t.mgmt.hold = 4
  floorBase : t.power.floorBase = e.floorBase
  fields : ∀ f, f < 48 → darkOrHole t f
  sites : ∀ k, k < 3552 → (t.field (k / 74)).domain = .dark → siteBlank (t.site k)
  time : t.time = s.time
  serve : t.serve = s.serve

theorem startReady_startedUp {s u : State} {e : StartupEnv} (h : Mapped (startPast s e) u) : StartedUp s (startReady u e) e := by
  obtain ⟨a, d, hpast⟩ := startPast_parts s e
  have hposition : u.board.position = e.straps := by rw [h.board, hpast]; rfl
  have htime : u.time = s.time := by rw [h.time, hpast]; rfl
  have hserve : u.serve = s.serve := by rw [h.serve, hpast]; rfl
  refine { ready := rfl, step := rfl, ladder := rfl, bankedReady := rfl, position := hposition, hold := fun hstraps => ?_
           floorBase := rfl, fields := h.fields, sites := h.sites, time := htime, serve := hserve }
  have hfour : u.mgmt.hold = 4 := by
    rw [h.mgmt, hpast]
    exact if_pos hstraps
  exact (if_neg fun hzero => by rw [hfour] at hzero; exact absurd hzero.1 (by decide)).trans hfour

theorem startSteps_startedUp {s : State} {e : StartupEnv} (hwf : s.tablesWf = true) (hcause : startCause e = 0)
    (haux : s.power.auxBad = []) (hbad : e.badAux = []) : StartedUp s (startSteps s e) e := by
  obtain ⟨a, d, hpast⟩ := startPast_parts s e
  have hmapped := startMap_mapped (s := startPast s e) (by rw [hpast]; exact hwf) e
  have hauxes : (startMap (startFields (startPast s e) e) e).power.auxBad = [] := by
    rw [hmapped.power, hpast]
    exact haux
  have hup := startReady_startedUp hmapped
  obtain ⟨h, a', d', hread⟩ := startRead_eq (startReady (startMap (startFields (startPast s e) e) e) e) e
  rw [startSteps_up hcause]
  generalize startMap (startFields (startPast s e) e) e = u at hup hread hauxes ⊢
  have hgood : ¬ 2 ≤ (startRead (startReady u e) e).power.auxBad.length := by
    have hnone : (startReady u e).power.auxBad = [] := by simp [startReady, hauxes, hbad]
    rw [hread]
    simp [hnone]
  dsimp only
  rw [if_neg hgood, hread]
  exact { ready := hup.ready, step := hup.step, ladder := hup.ladder, bankedReady := hup.bankedReady, position := hup.position
          hold := hup.hold, floorBase := hup.floorBase, fields := hup.fields, sites := hup.sites, time := hup.time, serve := hup.serve }

/-! ## Step 1 and the contacts (R519, R552, R554) -/

/-- Without a boot set the ROM serves the first host port. -/
def romServes (s : State) (e : StartupEnv) : State :=
  { s with mgmt := { s.mgmt with step := 1, hold := 6, startup := some e, pgOut := true } }

theorem startUp_rom {s : State} {e : StartupEnv} (h : e.bootSet = none) :
    startUp s e = (romServes s e).modPort 0 fun p => { p with link := true, fecLock := true } := by
  rw [startUp, h]
  rfl

/-- The state in which a boot set is in force. -/
def booted (s : State) (bank : Bool) : State := { s with fw := bootSet s.fw bank, mgmt := { s.mgmt with step := 1, hold := 0 } }

theorem startUp_boots {s : State} {e : StartupEnv} {bank : Bool} (h : e.bootSet = some bank) :
    startUp s e = startSteps (booted s bank) e := by
  rw [startUp, h]
  rfl

/-- A module whose reset contact is released. -/
def released (s : State) : State := { s with power := { s.power with resetN := true } }

section
variable {e : StartupEnv} {s : State} (hen : s.power.pwrEn = true) (hstep : s.mgmt.step = 0)
include hen hstep

theorem modResetRelease_waits (h : s.power.busWait = true ∨ busGood s = false) : exec (.modResetRelease e) s =
    .next { s with power := { s.power with resetN := true, busWait := true }, mgmt := { s.mgmt with startup := some e } } := by
  have hwait : (s.power.busWait || !busGood s) = true := by rcases h with h | h <;> simp [h]
  exact (if_neg (by rw [hen, hstep]; decide)).trans (if_pos hwait)

theorem modResetRelease_starts (hwait : s.power.busWait = false) (hgood : busGood s = true) : exec (.modResetRelease e) s =
    .next (startUp (released s) e) := by
  have hgo : ¬ (s.power.busWait || !busGood s) = true := by simp [hwait, hgood]
  exact (if_neg (by rw [hen, hstep]; decide)).trans (if_neg hgo)

end

/-- The bus stands: within 48 to 56 V as it was, or at 52 V. -/
def busUp (s : State) : State :=
  { s with power := { s.power with busCv := if busGood s then s.power.busCv else 5200, busWait := false } }

theorem busUp_good (s : State) : busGood (busUp s) = true := by
  show decide (4800 ≤ (if busGood s then s.power.busCv else 5200).toNat ∧
    (if busGood s then s.power.busCv else 5200).toNat ≤ 5600) = true
  by_cases h : busGood s = true
  · rw [if_pos h]
    exact h
  · rw [if_neg h]
    rfl

theorem busRise_idle {s : State} (h : s.mgmt.startup = none) : exec .busRise s = .next (busUp s) := by
  change execBusRise s = _
  unfold execBusRise
  dsimp only
  rw [h]
  rfl

theorem busRise_starts {s : State} {e : StartupEnv} (h : s.mgmt.startup = some e) (hen : s.power.pwrEn = true)
    (hreset : s.power.resetN = true) (hstep : s.mgmt.step = 0) : exec .busRise s = exec (.modResetRelease e) (busUp s) := by
  have hreleased : released (busUp s) = busUp s := by
    have hpower : ({ (busUp s).power with resetN := true } : PowerState) = (busUp s).power := by
      rw [← hreset]
      rfl
    exact congrArg (fun p : PowerState => { busUp s with power := p }) hpower
  rw [modResetRelease_starts (s := busUp s) hen hstep rfl (busUp_good s), hreleased]
  change execBusRise s = _
  unfold execBusRise
  dsimp only
  rw [h]
  exact if_pos (by rw [hen, hreset, hstep]; rfl)

/-- Settles O39: the contacts by what `vaonLost` keeps, start-up by the holes that grow after step 3. -/
theorem contactsAndStartUp : Obligations.ContactsAndStartUp := by
  unfold Obligations.ContactsAndStartUp
  refine ⟨fun s => ⟨_, rfl, rfl, rfl, rfl, rfl, rfl⟩, fun s => ⟨fun hen => ?_, fun hen => ?_⟩, fun s => rfl,
    fun s => ⟨busRise_idle, fun e => busRise_starts⟩, fun e s hwf hen hstep => ⟨fun hwait => ?_, fun hwait hgood hnone => ?_,
      fun hwait hgood hsome => ?_⟩⟩
  · exact if_pos (by rw [hen]; rfl)
  · have hreset : exec .modResetAssert s = .next _ := if_neg (by rw [hen]; decide)
    exact ⟨_, hreset, rfl, hen, rfl, rfl, rfl, rfl⟩
  · exact ⟨_, modResetRelease_waits hen hstep hwait, rfl, rfl, hstep, rfl⟩
  · obtain ⟨-, -, -, -, -, hports, -⟩ := (tablesWf_iff s).mp hwf
    rw [modResetRelease_starts hen hstep hwait hgood, startUp_rom hnone]
    refine ⟨_, rfl, rfl, rfl, ?_, fun p hp => State.modPort_port_other _ hp _, rfl⟩
    exact congrArg PortState.link (State.modPort_port_same (s := romServes (released s) e) hports 0 fun p =>
      { p with link := true, fecLock := true })
  · obtain ⟨bank, hbank⟩ := Option.ne_none_iff_exists'.mp hsome
    rw [modResetRelease_starts hen hstep hwait hgood, startUp_boots hbank]
    refine ⟨fun hcause => ?_, fun hcause haux hbad => ?_⟩
    · exact ⟨_, congrArg _ (startSteps_holds hcause), rfl, rfl, rfl, rfl, rfl⟩
    · have hup := startSteps_startedUp (s := booted (released s) bank) hwf hcause haux hbad
      exact ⟨_, rfl, hup.ready, hup.step, hup.ladder, hup.bankedReady, hup.position, hup.hold, hup.floorBase, hup.fields,
        hup.sites, hup.time, hup.serve⟩

end Sys2Proof.Machine
end
